-- ==== Sys2Proof/Word.lean ====
section
/-!
DEFINITION. The bit-vector words of the part and its plainest arithmetic (R29, R56): bytes,
32-bit words, 64-bit double words, lane masks, addresses.
-/

namespace Sys2Proof

/-- One byte of any memory (R29). -/
abbrev Byte := BitVec 8

/-- One 32-bit register or instruction word (R29, R31). -/
abbrev Word := BitVec 32

/-- One 64-bit value, an even and odd register pair (R56). -/
abbrev Dword := BitVec 64

/-- A lane mask; bit n is lane n (R39). -/
abbrev Mask := BitVec 64

/-- The 16 bytes of LDW and STW, or any narrower access, little-endian (R184). -/
abbrev Wide := BitVec 128

end Sys2Proof
end

