-- ==== Sys2Proof/Syntax.lean ====
section
/-!
DEFINITION. The syntax: operands (R34) and the one inductive of instructions and events. Every row
of spec/opcode_table.json is one constructor: the 137 rows of 32-bit words first, in the table's
order, then the 86 rows of events of the part (95_what_each_step_holds).
-/

namespace Sys2Proof

/-- An operand byte (R34): class and index. Class 7 names a special operand (R39). -/
inductive Operand where
  /-- Lane register v0 to v63, classes 0 and 1. -/
  | v (i : BitVec 6)
  /-- Octet register o0 to o31, class 2. -/
  | o (i : BitVec 5)
  /-- Warp register w0 to w31, class 3. -/
  | w (i : BitVec 5)
  /-- Block register b0 to b31, class 4. -/
  | b (i : BitVec 5)
  /-- Cluster register k0 to k31, class 5. -/
  | k (i : BitVec 5)
  /-- Grid register g0 to g31, class 6. -/
  | g (i : BitVec 5)
  /-- Special operand, class 7; indices 27 to 31 are reserved (R39). -/
  | sp (i : BitVec 5)
  deriving DecidableEq, Repr

/-- One warp of one resident block: the block instance and the warp's slot in it. -/
structure WarpRef where
  /-- The block instance. -/
  blk : Nat
  /-- The warp's slot, %warp (R39). -/
  slot : Nat
  deriving DecidableEq, Repr

/-- What an access needs of its page (R292, R293). -/
inductive Access where
  | read | write | fetch
  /-- A valid translation that is not lower tier, with no permission asked (R189). -/
  | present
  deriving DecidableEq, Repr

/-- The kinds of access that another device sends to this one (R375). -/
inductive RemoteKind where
  | load | store | add | min | max | and | or | xor | exch | cas
  /-- A write of some bits (R227): the data, with the mask of its bits 64 bits up. -/
  | masked
  deriving DecidableEq, Repr

/-- A remote access from another device, as it reaches this device's fabric intake (R375). -/
structure RemoteReq where
  /-- Function of the sender, and so of the target. -/
  vf : Nat
  /-- Offset in the exported window, bits [49:0] of the address (R178). -/
  off : Nat
  /-- Width in bytes. -/
  width : Nat
  /-- What it does. -/
  kind : RemoteKind
  /-- The element type code of MODE.ty, for the atomic kinds (R185). -/
  ty : BitVec 4
  /-- Data, operand, or the pair new and cmp. -/
  data : Wide
  deriving DecidableEq, Repr

/-- The statuses of a remote acknowledgement (R376). -/
inductive AckStatus where
  | accepted | permission | targetReset | noRoute
  deriving DecidableEq, Repr

/-- Which RAISE round an event names (R120). -/
inductive RoundRef where
  /-- A round on b register `reg` of a block instance. -/
  | block (blk reg : Nat)
  /-- A round on k register `reg` of launch cluster `unit` of a grid (copy `trail`). -/
  | cluster (grid unit : Nat) (trail : Bool) (reg : Nat)
  /-- A round on g register `reg` of a grid (copy `trail`). -/
  | grid (grid : Nat) (trail : Bool) (reg : Nat)
  deriving DecidableEq, Repr

/-- Which barrier an event names (R108). -/
inductive BarRef where
  | block (blk : Nat)
  | cluster (grid unit : Nat) (trail : Bool)
  | grid (grid : Nat) (trail : Bool)
  deriving DecidableEq, Repr

/-- The domains of an error-log record (R344). -/
inductive Domain where
  | dram | sram | regFile | torus | fleton | ucie | pipe | pair | site
  deriving DecidableEq, Repr

/-- A unit of the power states (R384): one logical cluster, or the device. -/
inductive PowerUnit where
  | cluster (n : Nat)
  | device
  deriving DecidableEq, Repr

/-- How a bring-up step ended (R389), with what it found where the step reports something. -/
inductive BootResult where
  | ok
  | failed
  /-- Step 4: this cluster site failed its structural test (R356): 0 to 191 the first homes of the logical
  clusters, 192 to 199 the spares of the dies. -/
  | siteFailed (site : Nat)
  deriving DecidableEq, Repr

/-- What a sideband read asks for (R390). -/
inductive SidebandItem where
  | power | boot | health | debug
  deriving DecidableEq, Repr

/-- The register windows of the host interface (R366, R369, R372). -/
inductive Window where
  /-- The physical function's window (R372). -/
  | pf
  /-- The register window of virtual function `v` (R368, R369). -/
  | vf (v : Nat)
  /-- The debug interface to a context's address comparators (R319). -/
  | comparator (ctx : Nat)
  /-- The management configuration (R345, R358), and the fuses that running firmware may set (R379). -/
  | management
  deriving DecidableEq, Repr

/-- Every step of the part: one constructor per row of spec/opcode_table.json. -/
inductive Instr where
  /-- NOP (R98): Does nothing except honour its switch marker. -/
  | nop (sw : Bool)
  /-- BRA (R99): Unconditional branch to a word offset. -/
  | bra (sw : Bool) (u : Bool) (off : BitVec 19)
  /-- BRC (R99): Conditional branch on a predicate; pushes a path entry when the lanes diverge. -/
  | brc (sw : Bool) (u : Bool) (inv : Bool) (pr : BitVec 3) (off : BitVec 19)
  /-- MARK (R100): Pushes a rejoin entry onto the divergence stack. -/
  | mark (sw : Bool) (off : BitVec 19)
  /-- JOIN (R100): Pops the divergence stack and restores its mask and PC. -/
  | join (sw : Bool)
  /-- CALL (R101): Uniform call that saves the return offset in w31. -/
  | call (sw : Bool) (u : Bool) (inv : Bool) (pr : BitVec 3) (off : BitVec 19)
  /-- RET (R101): Returns to the image offset held in a warp register. -/
  | ret (sw : Bool) (a : Operand)
  /-- LOOP (R102): Opens a counted loop level over a body of 1 to 64 words. -/
  | loop (sw : Bool) (d : Operand) (len : BitVec 7)
  /-- EXIT (R103): Retires the warp; the block's last warp retires the block or restarts it at a successor. -/
  | exit (sw : Bool) (idx : BitVec 8)
  /-- YIELD (R104): Continues at once or parks as yielded until an engine counter falls to N. -/
  | yield (sw : Bool) (cls : BitVec 3) (n : BitVec 4) (off : BitVec 17)
  /-- WAITC (R104): Parks until an engine counter is at most N, then merges flags and reports outcomes. -/
  | waitc (sw : Bool) (cls : BitVec 3) (n : BitVec 4)
  /-- SETMODE (R42): Writes the selected fields of the MODE register. -/
  | setmode (sw : Bool) (sel : BitVec 4) (val : BitVec 12)
  /-- FUSE (R107): Joins two warps into one of twice the width. -/
  | fuse (sw : Bool) (partner : BitVec 5)
  /-- SPLIT (R106): Divides a warp into two warps of half its width. -/
  | split (sw : Bool)
  /-- BAR (R108): Marks the warp arrived at a block, cluster or grid barrier and parks it. -/
  | bar (sw : Bool) (scope : BitVec 3)
  /-- TRAP (R109): Raises the TRAP fault with a trap code. -/
  | trap (sw : Bool) (code : BitVec 16)
  /-- ADD (R136): Element-wise add. -/
  | add (sw : Bool) (d : Operand) (a : Operand) (b : Operand)
  /-- SUB (R136): Element-wise subtract. -/
  | sub (sw : Bool) (d : Operand) (a : Operand) (b : Operand)
  /-- MUL (R136): Element-wise multiply. -/
  | mul (sw : Bool) (d : Operand) (a : Operand) (b : Operand)
  /-- MULH (R138): High half of a double-width integer product. -/
  | mulh (sw : Bool) (d : Operand) (a : Operand) (b : Operand)
  /-- MAD (R137): Fused multiply-add into D. -/
  | mad (sw : Bool) (d : Operand) (a : Operand) (b : Operand)
  /-- MIN (R136): Element-wise minimum. -/
  | min (sw : Bool) (d : Operand) (a : Operand) (b : Operand)
  /-- MAX (R136): Element-wise maximum. -/
  | max (sw : Bool) (d : Operand) (a : Operand) (b : Operand)
  /-- ABS (R139): Element-wise absolute value. -/
  | abs (sw : Bool) (d : Operand) (a : Operand)
  /-- NEG (R139): Element-wise negation. -/
  | neg (sw : Bool) (d : Operand) (a : Operand)
  /-- AND (R141): Bitwise and. -/
  | and (sw : Bool) (d : Operand) (a : Operand) (b : Operand)
  /-- OR (R141): Bitwise or. -/
  | or (sw : Bool) (d : Operand) (a : Operand) (b : Operand)
  /-- XOR (R141): Bitwise exclusive or. -/
  | xor (sw : Bool) (d : Operand) (a : Operand) (b : Operand)
  /-- NOT (R141): Bitwise complement. -/
  | not (sw : Bool) (d : Operand) (a : Operand)
  /-- SHL (R142): Shift left, filling with zeros. -/
  | shl (sw : Bool) (d : Operand) (a : Operand) (b : Operand)
  /-- SHR (R142): Logical shift right. -/
  | shr (sw : Bool) (d : Operand) (a : Operand) (b : Operand)
  /-- SAR (R142): Arithmetic shift right. -/
  | sar (sw : Bool) (d : Operand) (a : Operand) (b : Operand)
  /-- ADDC (R140): 32-bit add with the carry in p7. -/
  | addc (sw : Bool) (d : Operand) (a : Operand) (b : Operand)
  /-- SUBB (R140): 32-bit subtract with the borrow in p7. -/
  | subb (sw : Bool) (d : Operand) (a : Operand) (b : Operand)
  /-- POPC (R143): Counts the 1 bits. -/
  | popc (sw : Bool) (d : Operand) (a : Operand)
  /-- CLZ (R143): Counts the leading zero bits. -/
  | clz (sw : Bool) (d : Operand) (a : Operand)
  /-- BREV (R143): Reverses the bit order. -/
  | brev (sw : Bool) (d : Operand) (a : Operand)
  /-- BFX (R144): Extracts a bit field. -/
  | bfx (sw : Bool) (d : Operand) (a : Operand) (b : Operand)
  /-- BFI (R144): Inserts a bit field. -/
  | bfi (sw : Bool) (d : Operand) (a : Operand) (b : Operand)
  /-- SEL (R146): Selects A or B by the guard. -/
  | sel (sw : Bool) (d : Operand) (a : Operand) (b : Operand)
  /-- CMP (R145): Compares two values and writes a predicate. -/
  | cmp (sw : Bool) (cond : BitVec 4) (pd : BitVec 3) (a : Operand) (b : Operand)
  /-- MOV (R147): Copies a register value. -/
  | mov (sw : Bool) (d : Operand) (a : Operand)
  /-- MOVI (R147): Writes a sign-extended 16-bit immediate. -/
  | movi (sw : Bool) (d : Operand) (imm : BitVec 16)
  /-- MOVH (R147): Writes an immediate into the high half of D. -/
  | movh (sw : Bool) (d : Operand) (imm : BitVec 16)
  /-- FRINT (R148): Rounds a floating value to an integral value. -/
  | frint (sw : Bool) (d : Operand) (a : Operand)
  /-- CVT (R149): Converts between element types. -/
  | cvt (sw : Bool) (d : Operand) (a : Operand) (dty : BitVec 5)
  /-- PACK (R150): Converts two values and shifts them into a packed register. -/
  | pack (sw : Bool) (d : Operand) (a : Operand) (b : Operand)
  /-- UNPK (R151): Extracts one packed element and widens it exactly. -/
  | unpk (sw : Bool) (d : Operand) (a : Operand) (b : Operand)
  /-- MSB (R137): Fused multiply-subtract into D. -/
  | msb (sw : Bool) (d : Operand) (a : Operand) (b : Operand)
  /-- FRCP (R154): Correctly rounded reciprocal, variable latency. -/
  | frcp (sw : Bool) (d : Operand) (a : Operand)
  /-- FRSQ (R154): Correctly rounded reciprocal square root. -/
  | frsq (sw : Bool) (d : Operand) (a : Operand)
  /-- FSQRT (R154): Correctly rounded square root. -/
  | fsqrt (sw : Bool) (d : Operand) (a : Operand)
  /-- FEXP2 (R154): Correctly rounded base-2 exponential. -/
  | fexp2 (sw : Bool) (d : Operand) (a : Operand)
  /-- FLOG2 (R154): Correctly rounded base-2 logarithm. -/
  | flog2 (sw : Bool) (d : Operand) (a : Operand)
  /-- FSINPI (R154): Correctly rounded sin(pi*a). -/
  | fsinpi (sw : Bool) (d : Operand) (a : Operand)
  /-- FCOSPI (R154): Correctly rounded cos(pi*a). -/
  | fcospi (sw : Bool) (d : Operand) (a : Operand)
  /-- CMUL (R156): Complex multiply. -/
  | cmul (sw : Bool) (d : Operand) (a : Operand) (b : Operand)
  /-- CFMA (R156): Complex multiply-accumulate. -/
  | cfma (sw : Bool) (d : Operand) (a : Operand) (b : Operand)
  /-- FCLASS (R153): Reports the class of each element as a one-hot field. -/
  | fclass (sw : Bool) (d : Operand) (a : Operand)
  /-- RND (R161): Writes a counter-based random draw into each lane. -/
  | rnd (sw : Bool) (d : Operand)
  /-- FSCALE (R152): Multiplies by a power of two. -/
  | fscale (sw : Bool) (d : Operand) (a : Operand) (b : Operand)
  /-- DOT4 (R157): Adds an element-wise dot product to D. -/
  | dot4 (sw : Bool) (d : Operand) (a : Operand) (b : Operand)
  /-- RAISE (R127): Combines lane values into an octet or warp register, or contributes to a block, cluster or grid round. -/
  | raise (sw : Bool) (d : Operand) (a : Operand) (fn : BitVec 5)
  /-- VOTE (R128): Takes a vote over the active lanes. -/
  | vote (sw : Bool) (d : Operand) (a : Operand) (fn : BitVec 5)
  /-- SHFI (R129): Moves lane values from an indexed source lane. -/
  | shfi (sw : Bool) (d : Operand) (a : Operand) (b : Operand)
  /-- SHFX (R129): Moves lane values from the lane l xor B. -/
  | shfx (sw : Bool) (d : Operand) (a : Operand) (b : Operand)
  /-- SHFU (R129): Moves lane values from the lane l minus B. -/
  | shfu (sw : Bool) (d : Operand) (a : Operand) (b : Operand)
  /-- SHFD (R129): Moves lane values from the lane l plus B. -/
  | shfd (sw : Bool) (d : Operand) (a : Operand) (b : Operand)
  /-- PLOG (R130): Combines two predicates into a third. -/
  | plog (sw : Bool) (fn : BitVec 4) (pd : BitVec 3) (ia : Bool) (pa : BitVec 3) (ib : Bool) (pb : BitVec 3)
  /-- LD (R184): Loads 4 or 8 bytes from device memory. -/
  | ld (sw : Bool) (d : Operand) (a : Operand) (off : BitVec 8)
  /-- ST (R184): Stores 4 or 8 bytes to device memory. -/
  | st (sw : Bool) (d : Operand) (a : Operand) (off : BitVec 8)
  /-- LDW (R184): Loads 16 bytes into four registers. -/
  | ldw (sw : Bool) (d : Operand) (a : Operand) (off : BitVec 8)
  /-- STW (R184): Stores 16 bytes from four registers. -/
  | stw (sw : Bool) (d : Operand) (a : Operand) (off : BitVec 8)
  /-- LDL (R175): Loads from the block's scratchpad. -/
  | ldl (sw : Bool) (d : Operand) (a : Operand) (off : BitVec 8)
  /-- STL (R175): Stores into the block's scratchpad and sets dirty bits of mapped slots. -/
  | stl (sw : Bool) (d : Operand) (a : Operand) (off : BitVec 8)
  /-- TAGL_LOOKUP (R176): Looks up a device address in a mapped region's tag table. -/
  | taglLookup (sw : Bool) (d : Operand) (a : Operand) (region : BitVec 4)
  /-- TAGL_READ (R176): Reads one slot's tag entry. -/
  | taglRead (sw : Bool) (d : Operand) (a : Operand) (region : BitVec 4)
  /-- TAGW (R177): Writes tag entries of a mapped region. -/
  | tagw (sw : Bool) (d : Operand) (a : Operand) (region : BitVec 4)
  /-- AADD (R185): Atomic add at the slice. -/
  | aadd (sw : Bool) (d : Operand) (a : Operand) (b : Operand)
  /-- AMIN (R185): Atomic minimum. -/
  | amin (sw : Bool) (d : Operand) (a : Operand) (b : Operand)
  /-- AMAX (R185): Atomic maximum. -/
  | amax (sw : Bool) (d : Operand) (a : Operand) (b : Operand)
  /-- AAND (R185): Atomic and. -/
  | aand (sw : Bool) (d : Operand) (a : Operand) (b : Operand)
  /-- AOR (R185): Atomic or. -/
  | aor (sw : Bool) (d : Operand) (a : Operand) (b : Operand)
  /-- AXOR (R185): Atomic exclusive or. -/
  | axor (sw : Bool) (d : Operand) (a : Operand) (b : Operand)
  /-- AXCH (R185): Atomic exchange. -/
  | axch (sw : Bool) (d : Operand) (a : Operand) (b : Operand)
  /-- ACAS (R185): Atomic compare-and-swap. -/
  | acas (sw : Bool) (d : Operand) (a : Operand) (b : Operand)
  /-- BIND (R189): Binds a memory range to a sync object for the block. -/
  | bind (sw : Bool) (a : Operand) (b : Operand)
  /-- UNBIND (R189): Removes every binding of the block to one object. -/
  | unbind (sw : Bool) (a : Operand)
  /-- ACQ (R191): Reads a sync object indivisibly and invalidates the bound read-cache lines. -/
  | acq (sw : Bool) (d : Operand) (a : Operand)
  /-- REL (R190): Releases a sync object, increment held until the covered writes are performed. -/
  | rel (sw : Bool) (a : Operand)
  /-- FENCE (R193): Orders the warp's memory accesses at a scope as acquire, release or full. -/
  | fence (sw : Bool) (scope : BitVec 3) (kind : BitVec 2)
  /-- DUALST (R196): Writes one value at a plain and a transposed address. -/
  | dualst (sw : Bool) (d : Operand) (a : Operand) (b : Operand)
  /-- PREF (R197): Prefetches a line into the read cache or the slice cache. -/
  | pref (sw : Bool) (fn : Bool) (a : Operand) (off : BitVec 8)
  /-- LCP_IN (R224): Adds per-lane copies from global memory to the scratchpad to the open batch. -/
  | lcpIn (sw : Bool) (d : Operand) (a : Operand) (size : BitVec 2)
  /-- LCP_OUT (R224): Adds per-lane copies from the scratchpad to global memory to the open batch. -/
  | lcpOut (sw : Bool) (d : Operand) (a : Operand) (size : BitVec 2)
  /-- TCP_IN (R230): Adds a global-to-local tile copy, optionally multicast, to the open batch. -/
  | tcpIn (sw : Bool) (a : Operand)
  /-- TCP_OUT (R230): Adds a local-to-global tile copy to the open batch. -/
  | tcpOut (sw : Bool) (a : Operand)
  /-- TCPX (R233): Writes or reduce-writes a local tile to exported windows of target devices. -/
  | tcpx (sw : Bool) (a : Operand) (b : Operand)
  /-- SEAL (R234): Closes the open batch, counts it on COPY and optionally names a ring arrival. -/
  | seal (sw : Bool) (arrive : Bool) (ring : BitVec 3) (stage : BitVec 3)
  /-- RES (R208): Makes an operand-buffer reservation and returns its handle. -/
  | res (sw : Bool) (d : Operand) (a : Operand) (b : Operand)
  /-- RLS (R208): Releases a reservation once its engine commands complete. -/
  | rls (sw : Bool) (a : Operand)
  /-- STGA (R237): Makes one arrival on a ring stage. -/
  | stga (sw : Bool) (ring : BitVec 3) (stage : BitVec 3)
  /-- STGW (R237): Waits until a ring stage shows a phase. -/
  | stgw (sw : Bool) (d : Operand) (ring : BitVec 3) (stage : BitVec 3) (inv : Bool)
  /-- MMA (R244): Queues octet matrix products accumulated into tiles. -/
  | mma (sw : Bool) (d : Operand) (a : Operand) (b : Operand)
  /-- MMAZ (R244): Queues octet matrix products that overwrite tiles. -/
  | mmaz (sw : Bool) (d : Operand) (a : Operand) (b : Operand)
  /-- MMAD (R244): Queues octet matrix products added to decayed tiles. -/
  | mmad (sw : Bool) (d : Operand) (a : Operand) (b : Operand)
  /-- TMMA (R244): Queues ternary-by-s8 octet products. -/
  | tmma (sw : Bool) (d : Operand) (a : Operand) (b : Operand)
  /-- ACCA (R211): Allocates zeroed accumulator tiles and returns a handle. -/
  | acca (sw : Bool) (d : Operand) (count : BitVec 7)
  /-- ACCF (R211): Frees an accumulator allocation once its engine commands complete. -/
  | accf (sw : Bool) (a : Operand)
  /-- ACCR (R212): Reads tile elements into lane registers. -/
  | accr (sw : Bool) (d : Operand) (a : Operand) (b : Operand)
  /-- ACCW (R212): Writes lane values into tile elements. -/
  | accw (sw : Bool) (d : Operand) (a : Operand) (b : Operand)
  /-- KSET (R257): Writes one knot set and clears its counters. -/
  | kset (sw : Bool) (a : Operand) (set : BitVec 4)
  /-- KGET_RECORD (R258): Reads a knot set's record in array order. -/
  | kgetRecord (sw : Bool) (d : Operand) (set : BitVec 4)
  /-- KGET_COUNT (R258): Reads a knot set's out-of-grid counters, optionally clearing them. -/
  | kgetCount (sw : Bool) (d : Operand) (clr : Bool) (set : BitVec 4)
  /-- CLD (R263): Loads spline coefficients from the operand buffer into cell stores. -/
  | cld (sw : Bool) (a : Operand) (nm1 : BitVec 4) (ra : BitVec 4)
  /-- CST (R263): Stores spline coefficients from cells into the operand buffer. -/
  | cst (sw : Bool) (a : Operand) (nm1 : BitVec 4) (ra : BitVec 4)
  /-- SPL (R266): Evaluates the spline layer on samples into a tile. -/
  | spl (sw : Bool) (d : Operand) (a : Operand) (half : Bool) (acc : Bool) (nm1 : BitVec 5)
  /-- SPLD (R266): Computes input gradients of the spline layer. -/
  | spld (sw : Bool) (d : Operand) (a : Operand) (half : Bool) (acc : Bool) (nm1 : BitVec 5)
  /-- SPLG (R266): Scatters coefficient gradients into a group of tiles. -/
  | splg (sw : Bool) (d : Operand) (a : Operand) (half : Bool) (zero : Bool) (nm1 : BitVec 5)
  /-- GREF (R267): Doubles the resolution of a knot set in place. -/
  | gref (sw : Bool) (set : BitVec 4)
  /-- SEND (R278): Sends one 128-byte message on a channel, taking a credit. -/
  | send (sw : Bool) (a : Operand) (half : Bool) (chan : BitVec 4)
  /-- RECV (R279): Takes the oldest unread message of a channel. -/
  | recv (sw : Bool) (d : Operand) (half : Bool) (chan : BitVec 4)
  /-- NRED (R287): Contributes a 32-element vector to a reduction tree round. -/
  | nred (sw : Bool) (d : Operand) (a : Operand) (tree : BitVec 3) (fn : BitVec 3)
  /-- SNAP_START (R334): Requests a new memory generation at the controller. -/
  | snapStart (sw : Bool) (d : Operand) (incr : Bool) (dev : Bool)
  /-- SNAP_QUERY (R334): Queries the latest image and the drain state. -/
  | snapQuery (sw : Bool) (d : Operand)
  /-- SNAP_RELEASE (R334): Ends the partition's frozen image as released. -/
  | snapRelease (sw : Bool) (d : Operand)
  /-- LAUNCH (R87): Enqueues a launch packet on the function's device queue. -/
  | launch (sw : Bool) (a : Operand)
  /-- IDEM (R311): Opens an idempotent region and records its restart state. -/
  | idem (sw : Bool)
  /-- CHKPT (R351): Takes a checkpoint of the warp, matching the redundant copy where needed. -/
  | chkpt (sw : Bool)
  /-- PDIS (R317): Opens a pre-emption-disabled region and starts its timer. -/
  | pdis (sw : Bool)
  /-- PEN (R317): Closes the pre-emption-disabled region. -/
  | pen (sw : Bool)
  /-- BKPT (R318): Raises BREAKPOINT at its own word with a code. -/
  | bkpt (sw : Bool) (code : BitVec 8)
  /-- TLBI (R302): Removes translations and, with exec, fetch state of covered pages. -/
  | tlbi (sw : Bool) (d : Operand) (a : Operand)
  /-- FHGET (R303): Claims the oldest sheaf of the cluster's intake. -/
  | fhget (sw : Bool) (d : Operand) (wait : Bool)
  /-- FHDONE (R303): Completes a sheaf with outcome retry or fail and releases its held work. -/
  | fhdone (sw : Bool) (d : Operand) (a : Operand)
  /-- SWR (R322): Writes one field of a stopped or halted warp. -/
  | swr (sw : Bool) (d : Operand) (a : Operand)
  /-- RTT (R321): Resumes a stopped or halted warp, optionally skipping its word. -/
  | rtt (sw : Bool) (a : Operand)
  /-- ILLEGAL_WORD (R51): Issue of a word that decodes to no instruction raises ILLEGAL_INSTRUCTION. -/
  | illegalWord (w : Word)
  /-- ISSUE_WINDOW (R88): Each 4-cycle pipe window packs ready warps and issues one word from each. -/
  | issueWindow (core pipe : Nat)
  /-- PROMOTION (R95): A warp ready and unissued for 4,096 cycles is promoted. -/
  | promotion (r : WarpRef)
  /-- VARIABLE_LATENCY_RESULT (R91): A variable-latency result is written, clearing pending bits and ending parks. -/
  | variableLatencyResult (r : WarpRef) (id : Nat)
  /-- INSTRUCTION_FETCH (R305): Fetch translates and reads a 64-byte fetch block. -/
  | instructionFetch (r : WarpRef)
  /-- RUN_AHEAD_ROLLBACK (R299): Run-ahead stops, the warp is restored and the sheaf is posted. -/
  | runAheadRollback (core : Nat)
  /-- SHEAF_POST (R300): A sheaf takes a fault-queue slot and is placed in its cluster's intake. -/
  | sheafPost (core : Nat)
  /-- TABLE_WALK (R295): A slice walker walks the page tables for a missing translation. -/
  | tableWalk (core ctx va : Nat) (acc : Access)
  /-- TLBI_PERFORMED (R302): A TLBI completes once every covered copy is gone and every access through it performed. -/
  | tlbiPerformed (id : Nat)
  /-- DISPATCH_QUEUE_ENTRY (R370): The dispatcher takes a queue entry and reads its packet. -/
  | dispatchQueueEntry (vf q : Nat)
  /-- DEPENDENCE_REREAD (R84): A waiting launch re-reads a dependence word after it changes. -/
  | dependenceReread (launch : Nat)
  /-- BLOCK_START (R83): Blocks of a waiting launch start once their core and register sets are free. -/
  | blockStart (launch unit : Nat)
  /-- GRID_COMPLETION (R85): After the last block retires the completion word receives the increment or a notice. -/
  | gridCompletion (grid : Nat)
  /-- SLICE_ACCESS (R180): A slice performs one access or atomic to one line. -/
  | sliceAccess (id : Nat)
  /-- REL_INCREMENT (R190): The held increment of a REL is performed once its set P is performed. -/
  | relIncrement (id : Nat)
  /-- REMOTE_ACCESS (R375): A remote access arrives at its target and is performed or refused. -/
  | remoteAccess (q : RemoteReq)
  /-- REMOTE_ACK (R195): An acknowledgement of a remote write returns to the issuing warp. -/
  | remoteAck (id : Nat) (status : AckStatus) (data : Wide)
  /-- FABRIC_FORWARD (R374): A packet for another device is forwarded by the route table. -/
  | fabricForward (dev payload : Nat)
  /-- COPY_CHUNK (R221): The engine runs one chunk of a command and writes its resume cursor. -/
  | copyChunk (cmd count : Nat)
  /-- BATCH_COMPLETE (R218): A batch or TCPX completes, its counter falls and any SEAL arrival is made. -/
  | batchComplete (r : WarpRef) (id : Nat)
  /-- MATRIX_OCTET_OPERATION (R244): The array executes one queued octet operation and updates its tile rows. -/
  | matrixOctetOperation (core : Nat)
  /-- SPLINE_EXECUTION (R268): The array executes one queued spline word. -/
  | splineExecution (core : Nat)
  /-- ROUND_COMPLETE (R121): A RAISE round completes and its folded value is written in one step. -/
  | roundComplete (q : RoundRef)
  /-- BARRIER_COMPLETE (R108): A barrier completes when every warp of its scope has arrived or exited. -/
  | barrierComplete (q : BarRef)
  /-- REGISTER_COPY_UPDATE (R112): A k or g register write ordered at its home is applied at a copy. -/
  | registerCopyUpdate (grid : Nat) (unit : Option Nat) (core : Nat)
  /-- MESSAGE_LANDING (R276): A channel message lands in its slot of the receiver's scratchpad. -/
  | messageLanding (id : Nat)
  /-- CREDIT_RETURN (R276): A freed slot returns one credit to the sending block. -/
  | creditReturn (id : Nat)
  /-- TREE_INPUT (R284): A member router receives a round input, folds it and forwards when complete. -/
  | treeInput (id : Nat)
  /-- TREE_TIMEOUT (R285): A router's round timer expires and it forwards what it holds. -/
  | treeTimeout (grid tree round pos : Nat)
  /-- TREE_RESULT (R286): A round's result or acceptance reaches a block's NRED. -/
  | treeResult (r : WarpRef)
  /-- STOP_RECORD (R308): A stop record is written to the context's stop queue and MSI-X is raised. -/
  | stopRecord (ctx : Nat)
  /-- STOP_QUEUE_CONSUMED (R308): System software writes the consumed id of a stop queue. -/
  | stopQueueConsumed (ctx : Nat) (v : Dword)
  /-- WATCHDOG_EXPIRY (R309): A whole watchdog period without progress writes a hang notice. -/
  | watchdogExpiry (ctx : Nat)
  /-- PREEMPT_OVERRUN (R317): The PDIS timer reaches 0 and the warp raises PREEMPT_OVERRUN. -/
  | preemptOverrun (r : WarpRef)
  /-- TIME_SLICE_EXPIRY (R313): A context's time slice expires while another waits for the core. -/
  | timeSliceExpiry (core ctx : Nat)
  /-- PREEMPTION (R313): The scheduler evicts warps one at a time until incoming work fits. -/
  | preemption (core : Nat) (spill : Bool)
  /-- WARP_RESTORE (R314): An evicted warp returns with its block state when resources free. -/
  | warpRestore (r : WarpRef)
  /-- DEBUG_HALT (R319): The debug interface halts every warp of a context. -/
  | debugHalt (ctx : Nat)
  /-- KILL_WRITE_TIMEOUT (R320): Remote writes of a killed context are abandoned after 100 microseconds. -/
  | killWriteTimeout (ctx : Nat)
  /-- WINDOW_MATCH (R353): A redundant window's signatures are compared and its leading entries performed or rolled back. -/
  | windowMatch (r : WarpRef) (engine : Bool)
  /-- PAIR_PERFORMED (R354): A pair-performed request is compared and performed once after its windows match. -/
  | pairPerformed (r : WarpRef)
  /-- GENERATION_GRANT (R329): The controller grants a SNAP start and broadcasts the new generation. -/
  | generationGrant (id : Nat)
  /-- CUT_COMPLETE (R329): Every unit has acknowledged and the SNAP result is written. -/
  | cutComplete (id : Nat)
  /-- GRANARY_CLAIM (R330): A new-generation write to a kept granule claims a granary granule and copies the line. -/
  | granaryClaim (id : Nat)
  /-- WAIN_START (R332): The wain begins once the frozen generation's writes are performed, fixing its drain set. -/
  | wainStart (vf : Nat)
  /-- WAIN_DRAIN_GRANULE (R332): The wain drains one granule to the lower tier and releases its claim. -/
  | wainDrainGranule (vf : Nat)
  /-- GENERATION_RESTORE (R337): System software restores a lower-tier image into the partition. -/
  | generationRestore (vf : Nat)
  /-- PARTITION_CONTROL_WRITE (R338): A write to a partition control block field. -/
  | partitionControlWrite (vf off : Nat) (v : Dword)
  /-- ERROR_LOG_RECORD (R344): A record is written to the error log ring when a slot is free. -/
  | errorLogRecord
  /-- ERROR_LOG_CONFIG_WRITE (R344): A write of the log's base or n resets head and tail. -/
  | errorLogConfigWrite (off : Nat) (v : Dword)
  /-- ERROR_LOG_HEAD_WRITE (R344): System software advances the log's head. -/
  | errorLogHeadWrite (v : Dword)
  /-- LINK_RETRY (R342): A flit failing its CRC is resent. -/
  | linkRetry (domain : Domain) (loc : Nat)
  /-- LINK_RETRAIN (R342): After 8 failed resends a link is retrained or taken down. -/
  | linkRetrain (domain : Domain) (loc : Nat) (ok : Bool)
  /-- GLEANER_READ (R345): A gleaner reads the next line of its channel. -/
  | gleanerRead (chan : Nat)
  /-- SCRUB_WRITEBACK (R346): A corrected write-back is performed or dropped at the slice. -/
  | scrubWriteback (id : Nat)
  /-- SPARE_BANK (R356): Firmware retires a DRAM bank into a spare. -/
  | spareBank (chan : Nat)
  /-- INFIELD_TEST (R358): Firmware migrates a site's blocks to the spare and tests the site. -/
  | infieldTest (cluster : Nat)
  /-- TEST_RESULT (R358): A site test ends, making the site the spare or retiring it. -/
  | testResult (die : Nat) (pass : Bool)
  /-- HOST_MEMORY_ACCESS (R364): The host reads or writes device memory through a function window. -/
  | hostMemoryAccess (vf off size : Nat) (write : Bool) (v : Dword)
  /-- FUNCTION_RECORD_WRITE (R366): The PF writes a function's configuration record. -/
  | functionRecordWrite (vf off : Nat) (v : Dword)
  /-- FUNCTION_RESET (R377): A reset of a virtual function refuses its accesses, kills its contexts and clears its queues. -/
  | functionReset (vf : Nat)
  /-- FUNCTION_LEVEL_RESET (R377): A function-level reset requested on CXL.io. -/
  | functionLevelReset (vf : Nat)
  /-- CONTEXT_CREATE (R368): A context-table write with bit 0 set reads and checks the descriptor. -/
  | contextCreate (vf n : Nat) (v : Dword)
  /-- CONTEXT_DESTROY (R368): A context-table write with bit 0 clear kills the context. -/
  | contextDestroy (vf n : Nat) (v : Dword)
  /-- QUEUE_CONFIG_WRITE (R369): A write of a queue's control word, ignored whole if illegal. -/
  | queueConfigWrite (vf q : Nat) (v : Dword)
  /-- QUEUE_DOORBELL (R369): A write of a queue's tail makes entries visible to the dispatcher. -/
  | queueDoorbell (vf q : Nat) (v : Word)
  /-- ATTESTATION_REQUEST (R380): A nonce with the go bit returns a signed attestation report. -/
  | attestationRequest (requester : Nat) (nonce : BitVec 384)
  /-- DEBUG_STATE_WRITE (R381): The PF moves the debug state between LOCKED and TENANT. -/
  | debugStateWrite (tenant : Bool)
  /-- DEBUG_UNLOCK (R381): A verified unlock token erases the part and enters VENDOR. -/
  | debugUnlock (token : BitVec 768)
  /-- POWER_CONTROL_WRITE (R383): The PF writes the power cap and latency tolerance. -/
  | powerControlWrite (v : Dword)
  /-- IDLE_ENTRY (R384): A cluster or the device enters the deepest allowed idle state. -/
  | idleEntry (unit : PowerUnit)
  /-- IDLE_EXIT (R385): A wake event brings a unit out of its idle state. -/
  | idleExit (unit : PowerUnit)
  /-- THROTTLE (R387): Excess power or 105 C lowers a die's clock by a step. -/
  | throttle (die : Nat)
  /-- THROTTLE_RELEASE (R387): After 10 ms without cause the clock is raised again. -/
  | throttleRelease (die : Nat)
  /-- THERMAL_STOP (R387): At 115 C every clock stops and the part holds in reset. -/
  | thermalStop (temp : BitVec 8)
  /-- PART_RESET (R388): Part reset returns every register and store to reset values. -/
  | partReset (powerOn : Bool)
  /-- BOOT_STEP (R389): The next bring-up step runs after the previous one succeeds. -/
  | bootStep (result : BootResult)
  /-- BOOT_STEP_TIMEOUT (R389): A bring-up step passes its limit and the sequence halts. -/
  | bootStepTimeout
  /-- SIDEBAND_READ (R390): A sideband request returns power, boot, health or debug status. -/
  | sidebandRead (what : SidebandItem)
  /-- SIDEBAND_WRITE_CAP (R390): A sideband request writes the power cap. -/
  | sidebandWriteCap (v : BitVec 16)
  /-- SIDEBAND_WRITE_TOLERANCE (R390): A sideband request writes the latency tolerance. -/
  | sidebandWriteTolerance (v : Word)
  /-- SIDEBAND_RESET (R390): A sideband request asserts part reset. -/
  | sidebandReset
  /-- SIDEBAND_CLEAR_THERMAL_STOP (R390): A sideband request clears a thermal stop. -/
  | sidebandClearThermalStop
  /-- SIDEBAND_WAKE (R390): A sideband request wakes the device from I4. -/
  | sidebandWake
  /-- REGISTER_WRITE (R372): A write to a configuration register that has no row of its own. -/
  | registerWrite (win : Window) (off : Nat) (v : Dword)
  /-- FROZEN_IMAGE_RELEASE_REQUEST (R333): A request of system software ends a partition's frozen image as released, stopping the drain and releasing its claims. -/
  | frozenImageReleaseRequest (vf : Nat)
  deriving DecidableEq, Repr

end Sys2Proof
end

