-- ==== Sys2Proof/WellFormed.lean ====
section
/-!
DEFINITION. Well-formed instructions: no function, length or scope code that an entry reserves
(R33, R48, R51), no special operand that R39 does not define, no read-only special operand as a
destination. Every word of a reserved code still decodes to its instruction, which then raises
ILLEGAL_INSTRUCTION at issue (R51, R52).
-/

namespace Sys2Proof

/-- Special operands a program may write: %zero, %mode, %pred, %status (R39). -/
def Operand.writable : Operand → Bool
  | .sp i => i == 0 || i == 12 || i == 13 || i == 20
  | _ => true

/-- Special operands that exist (R39). -/
def Operand.known : Operand → Bool
  | .sp i => i.toNat ≤ 26
  | _ => true

/-- SETMODE's own checks (R42). -/
def setmodeOk (sel : BitVec 4) (val : BitVec 12) : Bool :=
  sel != 0
    && (sel.getLsbD 0 || val.extractLsb' 0 4 == 0)
    && (sel.getLsbD 1 || val.extractLsb' 4 4 == 0)
    && (sel.getLsbD 2 || val.extractLsb' 8 3 == 0)
    && (sel.getLsbD 3 || !val.getLsbD 11)
    && val.extractLsb' 4 4 != 15
    && val.extractLsb' 8 3 != 6 && val.extractLsb' 8 3 != 7

/-- No field holds a code that the instruction's entry reserves (R48, R51). -/
def Instr.codesOk : Instr → Bool
  | .loop _ _ len => 1 ≤ len.toNat && len.toNat ≤ 64
  | .yield _ cls _ _ => cls.toNat < 4
  | .waitc _ cls _ => cls.toNat < 4
  | .setmode _ m x => setmodeOk m x
  | .bar _ scope => 2 ≤ scope.toNat && scope.toNat ≤ 4
  | .cmp _ cond _ _ _ => cond.toNat ≤ 8
  | .cvt _ _ _ dty => dty.toNat ≤ 14
  | .raise _ _ _ fn => fn.toNat ≤ 6
  | .vote _ _ _ fn => fn.toNat ≤ 4
  | .plog _ fn _ _ _ _ _ => fn.toNat ≤ 2
  | .fence _ scope kind => scope.toNat ≤ 4 && kind.toNat ≤ 2
  | .lcpIn _ _ _ size => size.toNat ≤ 2
  | .lcpOut _ _ _ size => size.toNat ≤ 2
  | .seal _ arrive ring stage => arrive || (ring == 0 && stage == 0)
  | .acca _ _ count => 1 ≤ count.toNat && count.toNat ≤ 64
  | .nred _ _ _ _ fn => fn.toNat ≤ 2
  | _ => true

/-- The destination operands of a word. -/
def Instr.dests : Instr → List Operand
  | .add _ d _ _ | .sub _ d _ _ | .mul _ d _ _ | .mulh _ d _ _ | .mad _ d _ _ | .min _ d _ _
  | .max _ d _ _ | .and _ d _ _ | .or _ d _ _ | .xor _ d _ _ | .shl _ d _ _ | .shr _ d _ _
  | .sar _ d _ _ | .addc _ d _ _ | .subb _ d _ _ | .bfx _ d _ _ | .bfi _ d _ _ | .sel _ d _ _
  | .pack _ d _ _ | .unpk _ d _ _ | .msb _ d _ _ | .cmul _ d _ _ | .cfma _ d _ _
  | .fscale _ d _ _ | .dot4 _ d _ _ | .shfi _ d _ _ | .shfx _ d _ _ | .shfu _ d _ _
  | .shfd _ d _ _ | .aadd _ d _ _ | .amin _ d _ _ | .amax _ d _ _ | .aand _ d _ _
  | .aor _ d _ _ | .axor _ d _ _ | .axch _ d _ _ | .acas _ d _ _ | .res _ d _ _
  | .accr _ d _ _ => [d]
  | .abs _ d _ | .neg _ d _ | .not _ d _ | .popc _ d _ | .clz _ d _ | .brev _ d _ | .mov _ d _
  | .frint _ d _ | .frcp _ d _ | .frsq _ d _ | .fsqrt _ d _ | .fexp2 _ d _ | .flog2 _ d _
  | .fsinpi _ d _ | .fcospi _ d _ | .fclass _ d _ | .acq _ d _ => [d]
  | .movi _ d _ | .movh _ d _ => [d]
  | .cvt _ d _ _ => [d]
  | .rnd _ d => [d]
  | .raise _ d _ _ | .vote _ d _ _ => [d]
  | .ld _ d _ _ | .ldw _ d _ _ | .ldl _ d _ _ => [d]
  | .taglLookup _ d _ _ | .taglRead _ d _ _ => [d]
  | .acca _ d _ => [d]
  | .kgetRecord _ d _ | .kgetCount _ d _ _ => [d]
  | .recv _ d _ _ => [d]
  | .nred _ d _ _ _ => [d]
  | .snapStart _ d _ _ | .snapQuery _ d | .snapRelease _ d => [d]
  | .fhget _ d _ => [d]
  | _ => []

/-- The source operands of a word. -/
def Instr.srcs : Instr → List Operand
  | .ret _ a => [a]
  | .loop _ d _ => [d]
  | .add _ _ a b | .sub _ _ a b | .mul _ _ a b | .mulh _ _ a b | .mad _ _ a b | .min _ _ a b
  | .max _ _ a b | .and _ _ a b | .or _ _ a b | .xor _ _ a b | .shl _ _ a b | .shr _ _ a b
  | .sar _ _ a b | .addc _ _ a b | .subb _ _ a b | .bfx _ _ a b | .bfi _ _ a b | .sel _ _ a b
  | .pack _ _ a b | .unpk _ _ a b | .msb _ _ a b | .cmul _ _ a b | .cfma _ _ a b
  | .fscale _ _ a b | .dot4 _ _ a b | .shfi _ _ a b | .shfx _ _ a b | .shfu _ _ a b
  | .shfd _ _ a b | .aadd _ _ a b | .amin _ _ a b | .amax _ _ a b | .aand _ _ a b
  | .aor _ _ a b | .axor _ _ a b | .axch _ _ a b | .acas _ _ a b | .res _ _ a b
  | .accr _ _ a b => [a, b]
  | .abs _ _ a | .neg _ _ a | .not _ _ a | .popc _ _ a | .clz _ _ a | .brev _ _ a | .mov _ _ a
  | .frint _ _ a | .frcp _ _ a | .frsq _ _ a | .fsqrt _ _ a | .fexp2 _ _ a | .flog2 _ _ a
  | .fsinpi _ _ a | .fcospi _ _ a | .fclass _ _ a | .acq _ _ a => [a]
  | .cmp _ _ _ a b => [a, b]
  | .cvt _ _ a _ => [a]
  | .raise _ _ a _ | .vote _ _ a _ => [a]
  | .ld _ _ a _ | .ldw _ _ a _ | .ldl _ _ a _ => [a]
  | .st _ d a _ | .stw _ d a _ | .stl _ d a _ => [d, a]
  | .taglLookup _ _ a _ | .taglRead _ _ a _ => [a]
  | .tagw _ d a _ => [d, a]
  | .bind _ a b => [a, b]
  | .unbind _ a | .rel _ a => [a]
  | .dualst _ d a b => [d, a, b]
  | .pref _ _ a _ => [a]
  | .lcpIn _ d a _ | .lcpOut _ d a _ => [d, a]
  | .tcpIn _ a | .tcpOut _ a => [a]
  | .tcpx _ a b => [a, b]
  | .rls _ a | .accf _ a => [a]
  | .stgw _ d _ _ _ => [d]
  | .mma _ d a b | .mmaz _ d a b | .mmad _ d a b | .tmma _ d a b => [d, a, b]
  | .accw _ d a b => [d, a, b]
  | .kset _ a _ => [a]
  | .cld _ a _ _ | .cst _ a _ _ => [a]
  | .spl _ d a _ _ _ | .spld _ d a _ _ _ | .splg _ d a _ _ _ => [d, a]
  | .send _ a _ _ => [a]
  | .nred _ _ a _ _ => [a]
  | .launch _ a => [a]
  | .tlbi _ d a | .fhdone _ d a | .swr _ d a => [d, a]
  | .rtt _ a => [a]
  | _ => []

/-- Every special operand named exists, and no destination is read-only (R37, R39). -/
def Instr.namesOk (i : Instr) : Bool :=
  (i.dests ++ i.srcs).all Operand.known && i.dests.all Operand.writable

/-- No predicate destination is p0 (R45). -/
def Instr.predOk : Instr → Bool
  | .cmp _ _ pd _ _ => pd != 0
  | .plog _ _ pd _ _ _ _ => pd != 0
  | _ => true

/-- A well-formed instruction. An event of the part is well-formed whatever it names: one that is
not enabled in a state has no effect there. -/
def Instr.wellFormed (i : Instr) : Bool := i.codesOk && i.namesOk && i.predOk

end Sys2Proof
end

