-- ==== Sys2Proof/Decode.lean ====
section
/-!
DEFINITION. Decoding (R29 to R51): operand bytes, the word decoder, total and rejecting by name,
and the encoder, both from the formats of R31 and the tables of R46 to R49.
-/

namespace Sys2Proof

/-- Why a word is no instruction (R51); each raises ILLEGAL_INSTRUCTION. -/
inductive Reject where
  /-- Majors 0x3E, 0x3F, 0x47 and 0x5F. -/
  | unassignedMajor
  /-- Major 0x7F. -/
  | permanentlyIllegal
  /-- A reserved field is not zero (R33). -/
  | reservedField
  /-- A function code that selects no form of the major. -/
  | reservedCode
  /-- A reserved sub-op of CTL or SYS (R49). -/
  | reservedSubop
  /-- Fewer than four bytes. -/
  | truncated
  deriving DecidableEq, Repr

/-- An operand byte read (R34). -/
def Operand.ofByte (x : Byte) : Operand :=
  let i := x.extractLsb' 0 5
  match (x.extractLsb' 5 3).toNat with
  | 0 => .v (x.extractLsb' 0 6)
  | 1 => .v (x.extractLsb' 0 6)
  | 2 => .o i
  | 3 => .w i
  | 4 => .b i
  | 5 => .k i
  | 6 => .g i
  | _ => .sp i

/-- An operand byte written (R34). -/
def Operand.byte : Operand → Byte
  | .v i => (0 : BitVec 2) ++ i
  | .o i => (2 : BitVec 3) ++ i
  | .w i => (3 : BitVec 3) ++ i
  | .b i => (4 : BitVec 3) ++ i
  | .k i => (5 : BitVec 3) ++ i
  | .g i => (6 : BitVec 3) ++ i
  | .sp i => (7 : BitVec 3) ++ i

/-- The operand byte at bit `lo` of the D, A and B bytes. -/
def opd (y : BitVec 24) (lo : Nat) : Operand := .ofByte (y.extractLsb' lo 8)

/-- The `k` bits of `hi` followed by `lo`. -/
def cat {m n : Nat} (k : Nat) (hi : BitVec m) (lo : BitVec n) : BitVec k := (hi ++ lo).setWidth k

/-- The word of a switch marker, a major and the bytes D, A and B (R31). -/
def wordOf (s : Bool) (op : BitVec 7) (y : BitVec 24) : Word :=
  cat 32 (BitVec.ofBool s) (cat 31 op y)

/-- Majors 0x00 to 0x0F: control (R46). -/
def decodeControl (op : Nat) (s : Bool) (y : BitVec 24) : Except Reject Instr :=
  match op with
  | 0 => if y.extractLsb' 16 8 = 0 ∧ y.extractLsb' 8 8 = 0 ∧ y.extractLsb' 0 8 = 0 then .ok (.nop s)
    else .error .reservedField
  | 1 => if y.extractLsb' 19 4 = 0 then .ok (.bra s (y.getLsbD 23) (y.extractLsb' 0 19))
    else .error .reservedField
  | 2 => .ok (.brc s (y.getLsbD 23) (y.getLsbD 22) (y.extractLsb' 19 3) (y.extractLsb' 0 19))
  | 3 => if y.extractLsb' 19 5 = 0 then .ok (.mark s (y.extractLsb' 0 19))
    else .error .reservedField
  | 4 => if y.extractLsb' 16 8 = 0 ∧ y.extractLsb' 8 8 = 0 ∧ y.extractLsb' 0 8 = 0 then .ok (.join s)
    else .error .reservedField
  | 5 => .ok (.call s (y.getLsbD 23) (y.getLsbD 22) (y.extractLsb' 19 3) (y.extractLsb' 0 19))
  | 6 => if y.extractLsb' 16 8 = 0 ∧ y.extractLsb' 0 8 = 0 then .ok (.ret s (opd y 8))
    else .error .reservedField
  | 7 => if y.extractLsb' 8 8 = 0 ∧ y.extractLsb' 7 1 = 0 then .ok (.loop s (opd y 16) (y.extractLsb' 0 7))
    else .error .reservedField
  | 8 => if y.extractLsb' 16 8 = 0 ∧ y.extractLsb' 8 8 = 0 then .ok (.exit s (y.extractLsb' 0 8))
    else .error .reservedField
  | 9 => .ok (.yield s (y.extractLsb' 21 3) (y.extractLsb' 17 4) (y.extractLsb' 0 17))
  | 10 => if y.extractLsb' 16 8 = 0 ∧ y.extractLsb' 8 1 = 0 ∧ y.extractLsb' 0 8 = 0 then .ok (.waitc s (y.extractLsb' 13 3) (y.extractLsb' 9 4))
    else .error .reservedField
  | 11 => if y.extractLsb' 20 4 = 0 ∧ y.extractLsb' 12 4 = 0 then .ok (.setmode s (y.extractLsb' 16 4) (y.extractLsb' 0 12))
    else .error .reservedField
  | 12 => if y.extractLsb' 16 8 = 0 ∧ y.extractLsb' 8 8 = 0 ∧ y.extractLsb' 5 3 = 0 then .ok (.fuse s (y.extractLsb' 0 5))
    else .error .reservedField
  | 13 => if y.extractLsb' 16 8 = 0 ∧ y.extractLsb' 8 8 = 0 ∧ y.extractLsb' 0 8 = 0 then .ok (.split s)
    else .error .reservedField
  | 14 => if y.extractLsb' 16 8 = 0 ∧ y.extractLsb' 8 5 = 0 ∧ y.extractLsb' 0 8 = 0 then .ok (.bar s (y.extractLsb' 13 3))
    else .error .reservedField
  | _ => if y.extractLsb' 16 8 = 0 then .ok (.trap s (y.extractLsb' 0 16))
    else .error .reservedField

/-- Majors 0x10 to 0x1F: element-wise arithmetic (R46). -/
def decodeArith (op : Nat) (s : Bool) (y : BitVec 24) : Except Reject Instr :=
  match op with
  | 0 => .ok (.add s (opd y 16) (opd y 8) (opd y 0))
  | 1 => .ok (.sub s (opd y 16) (opd y 8) (opd y 0))
  | 2 => .ok (.mul s (opd y 16) (opd y 8) (opd y 0))
  | 3 => .ok (.mulh s (opd y 16) (opd y 8) (opd y 0))
  | 4 => .ok (.mad s (opd y 16) (opd y 8) (opd y 0))
  | 5 => .ok (.min s (opd y 16) (opd y 8) (opd y 0))
  | 6 => .ok (.max s (opd y 16) (opd y 8) (opd y 0))
  | 7 => if y.extractLsb' 0 8 = 0 then .ok (.abs s (opd y 16) (opd y 8))
    else .error .reservedField
  | 8 => if y.extractLsb' 0 8 = 0 then .ok (.neg s (opd y 16) (opd y 8))
    else .error .reservedField
  | 9 => .ok (.and s (opd y 16) (opd y 8) (opd y 0))
  | 10 => .ok (.or s (opd y 16) (opd y 8) (opd y 0))
  | 11 => .ok (.xor s (opd y 16) (opd y 8) (opd y 0))
  | 12 => if y.extractLsb' 0 8 = 0 then .ok (.not s (opd y 16) (opd y 8))
    else .error .reservedField
  | 13 => .ok (.shl s (opd y 16) (opd y 8) (opd y 0))
  | 14 => .ok (.shr s (opd y 16) (opd y 8) (opd y 0))
  | _ => .ok (.sar s (opd y 16) (opd y 8) (opd y 0))

/-- Majors 0x20 to 0x2F: bits, compare, move, convert (R46). -/
def decodeBits (op : Nat) (s : Bool) (y : BitVec 24) : Except Reject Instr :=
  match op with
  | 0 => .ok (.addc s (opd y 16) (opd y 8) (opd y 0))
  | 1 => .ok (.subb s (opd y 16) (opd y 8) (opd y 0))
  | 2 => if y.extractLsb' 0 8 = 0 then .ok (.popc s (opd y 16) (opd y 8))
    else .error .reservedField
  | 3 => if y.extractLsb' 0 8 = 0 then .ok (.clz s (opd y 16) (opd y 8))
    else .error .reservedField
  | 4 => if y.extractLsb' 0 8 = 0 then .ok (.brev s (opd y 16) (opd y 8))
    else .error .reservedField
  | 5 => .ok (.bfx s (opd y 16) (opd y 8) (opd y 0))
  | 6 => .ok (.bfi s (opd y 16) (opd y 8) (opd y 0))
  | 7 => .ok (.sel s (opd y 16) (opd y 8) (opd y 0))
  | 8 => if y.extractLsb' 19 1 = 0 then .ok (.cmp s (y.extractLsb' 20 4) (y.extractLsb' 16 3) (opd y 8) (opd y 0))
    else .error .reservedField
  | 9 => if y.extractLsb' 0 8 = 0 then .ok (.mov s (opd y 16) (opd y 8))
    else .error .reservedField
  | 10 => .ok (.movi s (opd y 16) (y.extractLsb' 0 16))
  | 11 => .ok (.movh s (opd y 16) (y.extractLsb' 0 16))
  | 12 => if y.extractLsb' 0 8 = 0 then .ok (.frint s (opd y 16) (opd y 8))
    else .error .reservedField
  | 13 => if y.extractLsb' 5 3 = 0 then .ok (.cvt s (opd y 16) (opd y 8) (y.extractLsb' 0 5))
    else .error .reservedField
  | 14 => .ok (.pack s (opd y 16) (opd y 8) (opd y 0))
  | _ => .ok (.unpk s (opd y 16) (opd y 8) (opd y 0))

/-- Majors 0x30 to 0x3F: floating point (R46). -/
def decodeFloat (op : Nat) (s : Bool) (y : BitVec 24) : Except Reject Instr :=
  match op with
  | 0 => .ok (.msb s (opd y 16) (opd y 8) (opd y 0))
  | 1 => if y.extractLsb' 0 8 = 0 then .ok (.frcp s (opd y 16) (opd y 8))
    else .error .reservedField
  | 2 => if y.extractLsb' 0 8 = 0 then .ok (.frsq s (opd y 16) (opd y 8))
    else .error .reservedField
  | 3 => if y.extractLsb' 0 8 = 0 then .ok (.fsqrt s (opd y 16) (opd y 8))
    else .error .reservedField
  | 4 => if y.extractLsb' 0 8 = 0 then .ok (.fexp2 s (opd y 16) (opd y 8))
    else .error .reservedField
  | 5 => if y.extractLsb' 0 8 = 0 then .ok (.flog2 s (opd y 16) (opd y 8))
    else .error .reservedField
  | 6 => if y.extractLsb' 0 8 = 0 then .ok (.fsinpi s (opd y 16) (opd y 8))
    else .error .reservedField
  | 7 => if y.extractLsb' 0 8 = 0 then .ok (.fcospi s (opd y 16) (opd y 8))
    else .error .reservedField
  | 8 => .ok (.cmul s (opd y 16) (opd y 8) (opd y 0))
  | 9 => .ok (.cfma s (opd y 16) (opd y 8) (opd y 0))
  | 10 => if y.extractLsb' 0 8 = 0 then .ok (.fclass s (opd y 16) (opd y 8))
    else .error .reservedField
  | 11 => if y.extractLsb' 8 8 = 0 ∧ y.extractLsb' 0 8 = 0 then .ok (.rnd s (opd y 16))
    else .error .reservedField
  | 12 => .ok (.fscale s (opd y 16) (opd y 8) (opd y 0))
  | 13 => .ok (.dot4 s (opd y 16) (opd y 8) (opd y 0))
  | 14 => .error .unassignedMajor
  | _ => .error .unassignedMajor

/-- Majors 0x40 to 0x4F: scoped registers, loads and stores (R46). -/
def decodeScopedMemory (op : Nat) (s : Bool) (y : BitVec 24) : Except Reject Instr :=
  match op with
  | 0 => if y.extractLsb' 5 3 = 0 then .ok (.raise s (opd y 16) (opd y 8) (y.extractLsb' 0 5))
    else .error .reservedField
  | 1 => if y.extractLsb' 5 3 = 0 then .ok (.vote s (opd y 16) (opd y 8) (y.extractLsb' 0 5))
    else .error .reservedField
  | 2 => .ok (.shfi s (opd y 16) (opd y 8) (opd y 0))
  | 3 => .ok (.shfx s (opd y 16) (opd y 8) (opd y 0))
  | 4 => .ok (.shfu s (opd y 16) (opd y 8) (opd y 0))
  | 5 => .ok (.shfd s (opd y 16) (opd y 8) (opd y 0))
  | 6 => if y.extractLsb' 19 1 = 0 ∧ y.extractLsb' 12 4 = 0 ∧ y.extractLsb' 4 4 = 0 then .ok (.plog s (y.extractLsb' 20 4) (y.extractLsb' 16 3) (y.getLsbD 11) (y.extractLsb' 8 3) (y.getLsbD 3) (y.extractLsb' 0 3))
    else .error .reservedField
  | 7 => .error .unassignedMajor
  | 8 => .ok (.ld s (opd y 16) (opd y 8) (y.extractLsb' 0 8))
  | 9 => .ok (.st s (opd y 16) (opd y 8) (y.extractLsb' 0 8))
  | 10 => .ok (.ldw s (opd y 16) (opd y 8) (y.extractLsb' 0 8))
  | 11 => .ok (.stw s (opd y 16) (opd y 8) (y.extractLsb' 0 8))
  | 12 => .ok (.ldl s (opd y 16) (opd y 8) (y.extractLsb' 0 8))
  | 13 => .ok (.stl s (opd y 16) (opd y 8) (y.extractLsb' 0 8))
  | 14 => if y.extractLsb' 4 4 = 0 then .ok (.taglLookup s (opd y 16) (opd y 8) (y.extractLsb' 0 4))
    else if y.extractLsb' 4 4 = 1 then .ok (.taglRead s (opd y 16) (opd y 8) (y.extractLsb' 0 4))
    else .error .reservedCode
  | _ => if y.extractLsb' 4 4 = 0 then .ok (.tagw s (opd y 16) (opd y 8) (y.extractLsb' 0 4))
    else .error .reservedField

/-- Majors 0x50 to 0x5F: atomics and ordering (R46). -/
def decodeAtomicSync (op : Nat) (s : Bool) (y : BitVec 24) : Except Reject Instr :=
  match op with
  | 0 => .ok (.aadd s (opd y 16) (opd y 8) (opd y 0))
  | 1 => .ok (.amin s (opd y 16) (opd y 8) (opd y 0))
  | 2 => .ok (.amax s (opd y 16) (opd y 8) (opd y 0))
  | 3 => .ok (.aand s (opd y 16) (opd y 8) (opd y 0))
  | 4 => .ok (.aor s (opd y 16) (opd y 8) (opd y 0))
  | 5 => .ok (.axor s (opd y 16) (opd y 8) (opd y 0))
  | 6 => .ok (.axch s (opd y 16) (opd y 8) (opd y 0))
  | 7 => .ok (.acas s (opd y 16) (opd y 8) (opd y 0))
  | 8 => if y.extractLsb' 16 8 = 0 then .ok (.bind s (opd y 8) (opd y 0))
    else .error .reservedField
  | 9 => if y.extractLsb' 16 8 = 0 ∧ y.extractLsb' 0 8 = 0 then .ok (.unbind s (opd y 8))
    else .error .reservedField
  | 10 => if y.extractLsb' 0 8 = 0 then .ok (.acq s (opd y 16) (opd y 8))
    else .error .reservedField
  | 11 => if y.extractLsb' 16 8 = 0 ∧ y.extractLsb' 0 8 = 0 then .ok (.rel s (opd y 8))
    else .error .reservedField
  | 12 => if y.extractLsb' 16 8 = 0 ∧ y.extractLsb' 8 3 = 0 ∧ y.extractLsb' 0 8 = 0 then .ok (.fence s (y.extractLsb' 13 3) (y.extractLsb' 11 2))
    else .error .reservedField
  | 13 => .ok (.dualst s (opd y 16) (opd y 8) (opd y 0))
  | 14 => if y.extractLsb' 17 7 = 0 then .ok (.pref s (y.getLsbD 16) (opd y 8) (y.extractLsb' 0 8)) else .error .reservedCode
  | _ => .error .unassignedMajor

/-- Majors 0x60 to 0x6F: copies, buffers, matrix (R46). -/
def decodeCopyMatrix (op : Nat) (s : Bool) (y : BitVec 24) : Except Reject Instr :=
  match op with
  | 0 => if y.extractLsb' 2 6 = 0 then .ok (.lcpIn s (opd y 16) (opd y 8) (y.extractLsb' 0 2))
    else if y.extractLsb' 2 6 = 1 then .ok (.lcpOut s (opd y 16) (opd y 8) (y.extractLsb' 0 2))
    else .error .reservedCode
  | 1 => if y.extractLsb' 16 8 = 0 ∧ y.extractLsb' 0 8 = 0 then .ok (.tcpIn s (opd y 8))
    else if y.extractLsb' 16 8 = 0 ∧ y.extractLsb' 0 8 = 1 then .ok (.tcpOut s (opd y 8))
    else .error .reservedCode
  | 2 => if y.extractLsb' 16 8 = 0 then .ok (.tcpx s (opd y 8) (opd y 0))
    else .error .reservedField
  | 3 => if y.extractLsb' 16 8 = 0 ∧ y.extractLsb' 8 1 = 0 ∧ y.extractLsb' 0 8 = 0 then .ok (.seal s (y.getLsbD 15) (y.extractLsb' 12 3) (y.extractLsb' 9 3))
    else .error .reservedField
  | 4 => .ok (.res s (opd y 16) (opd y 8) (opd y 0))
  | 5 => if y.extractLsb' 16 8 = 0 ∧ y.extractLsb' 0 8 = 0 then .ok (.rls s (opd y 8))
    else .error .reservedField
  | 6 => if y.extractLsb' 16 8 = 0 ∧ y.extractLsb' 15 1 = 0 ∧ y.extractLsb' 8 1 = 0 ∧ y.extractLsb' 0 8 = 0 then .ok (.stga s (y.extractLsb' 12 3) (y.extractLsb' 9 3))
    else .error .reservedField
  | 7 => if y.extractLsb' 15 1 = 0 ∧ y.extractLsb' 0 8 = 0 then .ok (.stgw s (opd y 16) (y.extractLsb' 12 3) (y.extractLsb' 9 3) (y.getLsbD 8))
    else .error .reservedField
  | 8 => .ok (.mma s (opd y 16) (opd y 8) (opd y 0))
  | 9 => .ok (.mmaz s (opd y 16) (opd y 8) (opd y 0))
  | 10 => .ok (.mmad s (opd y 16) (opd y 8) (opd y 0))
  | 11 => .ok (.tmma s (opd y 16) (opd y 8) (opd y 0))
  | 12 => if y.extractLsb' 8 8 = 0 ∧ y.extractLsb' 7 1 = 0 then .ok (.acca s (opd y 16) (y.extractLsb' 0 7))
    else .error .reservedField
  | 13 => if y.extractLsb' 16 8 = 0 ∧ y.extractLsb' 0 8 = 0 then .ok (.accf s (opd y 8))
    else .error .reservedField
  | 14 => .ok (.accr s (opd y 16) (opd y 8) (opd y 0))
  | _ => .ok (.accw s (opd y 16) (opd y 8) (opd y 0))

/-- Majors 0x70 to 0x7F: spline, network, generations, CTL and SYS (R46). -/
def decodeArraySystem (op : Nat) (s : Bool) (y : BitVec 24) : Except Reject Instr :=
  match op with
  | 0 => if y.extractLsb' 16 8 = 0 ∧ y.extractLsb' 4 4 = 0 then .ok (.kset s (opd y 8) (y.extractLsb' 0 4))
    else .error .reservedField
  | 1 => if y.extractLsb' 8 8 = 0 ∧ y.extractLsb' 4 4 = 0 then .ok (.kgetRecord s (opd y 16) (y.extractLsb' 0 4))
    else if y.extractLsb' 8 8 = 0 ∧ y.extractLsb' 6 2 = 0 ∧ y.extractLsb' 4 1 = 1 then .ok (.kgetCount s (opd y 16) (y.getLsbD 5) (y.extractLsb' 0 4))
    else .error .reservedCode
  | 2 => if y.extractLsb' 16 8 = 0 then .ok (.cld s (opd y 8) (y.extractLsb' 4 4) (y.extractLsb' 0 4))
    else .error .reservedField
  | 3 => if y.extractLsb' 16 8 = 0 then .ok (.cst s (opd y 8) (y.extractLsb' 4 4) (y.extractLsb' 0 4))
    else .error .reservedField
  | 4 => if y.extractLsb' 7 1 = 0 then .ok (.spl s (opd y 16) (opd y 8) (y.getLsbD 6) (y.getLsbD 5) (y.extractLsb' 0 5))
    else .error .reservedField
  | 5 => if y.extractLsb' 7 1 = 0 then .ok (.spld s (opd y 16) (opd y 8) (y.getLsbD 6) (y.getLsbD 5) (y.extractLsb' 0 5))
    else .error .reservedField
  | 6 => if y.extractLsb' 7 1 = 0 then .ok (.splg s (opd y 16) (opd y 8) (y.getLsbD 6) (y.getLsbD 5) (y.extractLsb' 0 5))
    else .error .reservedField
  | 7 => if y.extractLsb' 16 8 = 0 ∧ y.extractLsb' 8 8 = 0 ∧ y.extractLsb' 4 4 = 0 then .ok (.gref s (y.extractLsb' 0 4))
    else .error .reservedField
  | 8 => if y.extractLsb' 16 8 = 0 ∧ y.extractLsb' 5 3 = 0 then .ok (.send s (opd y 8) (y.getLsbD 4) (y.extractLsb' 0 4))
    else .error .reservedField
  | 9 => if y.extractLsb' 8 8 = 0 ∧ y.extractLsb' 5 3 = 0 then .ok (.recv s (opd y 16) (y.getLsbD 4) (y.extractLsb' 0 4))
    else .error .reservedField
  | 10 => if y.extractLsb' 6 2 = 0 then .ok (.nred s (opd y 16) (opd y 8) (y.extractLsb' 3 3) (y.extractLsb' 0 3))
    else .error .reservedField
  | 11 => if y.extractLsb' 8 8 = 0 ∧ y.extractLsb' 4 4 = 0 ∧ y.extractLsb' 0 2 = 0 then .ok (.snapStart s (opd y 16) (y.getLsbD 3) (y.getLsbD 2))
    else if y.extractLsb' 8 8 = 0 ∧ y.extractLsb' 0 8 = 1 then .ok (.snapQuery s (opd y 16))
    else if y.extractLsb' 8 8 = 0 ∧ y.extractLsb' 0 8 = 2 then .ok (.snapRelease s (opd y 16))
    else .error .reservedCode
  | 12 => if y.extractLsb' 16 8 = 0 ∧ y.extractLsb' 0 8 = 0 then .ok (.launch s (opd y 8))
    else .error .reservedField
  | 13 => if y.extractLsb' 16 8 = 0 ∧ y.extractLsb' 8 8 = 0 ∧ y.extractLsb' 0 8 = 0 then .ok (.idem s)
    else if y.extractLsb' 16 8 = 0 ∧ y.extractLsb' 8 8 = 0 ∧ y.extractLsb' 0 8 = 1 then .ok (.chkpt s)
    else if y.extractLsb' 16 8 = 0 ∧ y.extractLsb' 8 8 = 0 ∧ y.extractLsb' 0 8 = 2 then .ok (.pdis s)
    else if y.extractLsb' 16 8 = 0 ∧ y.extractLsb' 8 8 = 0 ∧ y.extractLsb' 0 8 = 3 then .ok (.pen s)
    else if y.extractLsb' 16 8 = 0 ∧ y.extractLsb' 0 8 = 4 then .ok (.bkpt s (y.extractLsb' 8 8))
    else if (y.extractLsb' 0 8).toNat ≤ 4 then .error .reservedField
    else .error .reservedSubop
  | 14 => if y.extractLsb' 0 8 = 0 then .ok (.tlbi s (opd y 16) (opd y 8))
    else if y.extractLsb' 9 7 = 0 ∧ y.extractLsb' 0 8 = 1 then .ok (.fhget s (opd y 16) (y.getLsbD 8))
    else if y.extractLsb' 0 8 = 2 then .ok (.fhdone s (opd y 16) (opd y 8))
    else if y.extractLsb' 0 8 = 3 then .ok (.swr s (opd y 16) (opd y 8))
    else if y.extractLsb' 16 8 = 0 ∧ y.extractLsb' 0 8 = 4 then .ok (.rtt s (opd y 8))
    else if (y.extractLsb' 0 8).toNat ≤ 4 then .error .reservedField
    else .error .reservedSubop
  | _ => .error .permanentlyIllegal

/-- The word decoder (R31, R46 to R51). -/
def decode (x : Word) : Except Reject Instr :=
  let op := (x.extractLsb' 24 4).toNat
  let s := x.getLsbD 31
  let y := x.extractLsb' 0 24
  match (x.extractLsb' 28 3).toNat with
  | 0 => decodeControl op s y
  | 1 => decodeArith op s y
  | 2 => decodeBits op s y
  | 3 => decodeFloat op s y
  | 4 => decodeScopedMemory op s y
  | 5 => decodeAtomicSync op s y
  | 6 => decodeCopyMatrix op s y
  | _ => decodeArraySystem op s y

/-- Four bytes as a word, the first at the lowest address (R29). -/
def wordOfBytes (b0 b1 b2 b3 : Byte) : Word := b3 ++ b2 ++ b1 ++ b0

/-- The decoder over bytes: the instruction and the bytes behind it. -/
def decodeBytes : List Byte → Except Reject (Instr × List Byte)
  | b0 :: b1 :: b2 :: b3 :: rest =>
    match decode (wordOfBytes b0 b1 b2 b3) with
    | .ok i => .ok (i, rest)
    | .error e => .error e
  | _ => .error .truncated

/-- The four bytes of a word in memory order (R29). -/
def bytesOfWord (x : Word) : List Byte :=
  [x.extractLsb' 0 8, x.extractLsb' 8 8, x.extractLsb' 16 8, x.extractLsb' 24 8]

/-- The word of an instruction, from the encoding tables; events have none. -/
def encode : Instr → Option Word
  | .nop sw => some (wordOf sw 0x00 (cat 24 (0 : BitVec 8) (cat 16 (0 : BitVec 8) (0 : BitVec 8))))
  | .bra sw u off => some (wordOf sw 0x01 (cat 24 (BitVec.ofBool u) (cat 23 (0 : BitVec 4) off)))
  | .brc sw u inv pr off => some (wordOf sw 0x02 (cat 24 (BitVec.ofBool u) (cat 23 (BitVec.ofBool inv) (cat 22 pr off))))
  | .mark sw off => some (wordOf sw 0x03 (cat 24 (0 : BitVec 5) off))
  | .join sw => some (wordOf sw 0x04 (cat 24 (0 : BitVec 8) (cat 16 (0 : BitVec 8) (0 : BitVec 8))))
  | .call sw u inv pr off => some (wordOf sw 0x05 (cat 24 (BitVec.ofBool u) (cat 23 (BitVec.ofBool inv) (cat 22 pr off))))
  | .ret sw a => some (wordOf sw 0x06 (cat 24 (0 : BitVec 8) (cat 16 a.byte (0 : BitVec 8))))
  | .loop sw d len => some (wordOf sw 0x07 (cat 24 d.byte (cat 16 (0 : BitVec 8) (cat 8 (0 : BitVec 1) len))))
  | .exit sw idx => some (wordOf sw 0x08 (cat 24 (0 : BitVec 8) (cat 16 (0 : BitVec 8) idx)))
  | .yield sw cls n off => some (wordOf sw 0x09 (cat 24 cls (cat 21 n off)))
  | .waitc sw cls n => some (wordOf sw 0x0A (cat 24 (0 : BitVec 8) (cat 16 cls (cat 13 n (cat 9 (0 : BitVec 1) (0 : BitVec 8))))))
  | .setmode sw sel val => some (wordOf sw 0x0B (cat 24 (0 : BitVec 4) (cat 20 sel (cat 16 (0 : BitVec 4) val))))
  | .fuse sw partner => some (wordOf sw 0x0C (cat 24 (0 : BitVec 8) (cat 16 (0 : BitVec 8) (cat 8 (0 : BitVec 3) partner))))
  | .split sw => some (wordOf sw 0x0D (cat 24 (0 : BitVec 8) (cat 16 (0 : BitVec 8) (0 : BitVec 8))))
  | .bar sw scope => some (wordOf sw 0x0E (cat 24 (0 : BitVec 8) (cat 16 scope (cat 13 (0 : BitVec 5) (0 : BitVec 8)))))
  | .trap sw code => some (wordOf sw 0x0F (cat 24 (0 : BitVec 8) code))
  | .add sw d a b => some (wordOf sw 0x10 (cat 24 d.byte (cat 16 a.byte b.byte)))
  | .sub sw d a b => some (wordOf sw 0x11 (cat 24 d.byte (cat 16 a.byte b.byte)))
  | .mul sw d a b => some (wordOf sw 0x12 (cat 24 d.byte (cat 16 a.byte b.byte)))
  | .mulh sw d a b => some (wordOf sw 0x13 (cat 24 d.byte (cat 16 a.byte b.byte)))
  | .mad sw d a b => some (wordOf sw 0x14 (cat 24 d.byte (cat 16 a.byte b.byte)))
  | .min sw d a b => some (wordOf sw 0x15 (cat 24 d.byte (cat 16 a.byte b.byte)))
  | .max sw d a b => some (wordOf sw 0x16 (cat 24 d.byte (cat 16 a.byte b.byte)))
  | .abs sw d a => some (wordOf sw 0x17 (cat 24 d.byte (cat 16 a.byte (0 : BitVec 8))))
  | .neg sw d a => some (wordOf sw 0x18 (cat 24 d.byte (cat 16 a.byte (0 : BitVec 8))))
  | .and sw d a b => some (wordOf sw 0x19 (cat 24 d.byte (cat 16 a.byte b.byte)))
  | .or sw d a b => some (wordOf sw 0x1A (cat 24 d.byte (cat 16 a.byte b.byte)))
  | .xor sw d a b => some (wordOf sw 0x1B (cat 24 d.byte (cat 16 a.byte b.byte)))
  | .not sw d a => some (wordOf sw 0x1C (cat 24 d.byte (cat 16 a.byte (0 : BitVec 8))))
  | .shl sw d a b => some (wordOf sw 0x1D (cat 24 d.byte (cat 16 a.byte b.byte)))
  | .shr sw d a b => some (wordOf sw 0x1E (cat 24 d.byte (cat 16 a.byte b.byte)))
  | .sar sw d a b => some (wordOf sw 0x1F (cat 24 d.byte (cat 16 a.byte b.byte)))
  | .addc sw d a b => some (wordOf sw 0x20 (cat 24 d.byte (cat 16 a.byte b.byte)))
  | .subb sw d a b => some (wordOf sw 0x21 (cat 24 d.byte (cat 16 a.byte b.byte)))
  | .popc sw d a => some (wordOf sw 0x22 (cat 24 d.byte (cat 16 a.byte (0 : BitVec 8))))
  | .clz sw d a => some (wordOf sw 0x23 (cat 24 d.byte (cat 16 a.byte (0 : BitVec 8))))
  | .brev sw d a => some (wordOf sw 0x24 (cat 24 d.byte (cat 16 a.byte (0 : BitVec 8))))
  | .bfx sw d a b => some (wordOf sw 0x25 (cat 24 d.byte (cat 16 a.byte b.byte)))
  | .bfi sw d a b => some (wordOf sw 0x26 (cat 24 d.byte (cat 16 a.byte b.byte)))
  | .sel sw d a b => some (wordOf sw 0x27 (cat 24 d.byte (cat 16 a.byte b.byte)))
  | .cmp sw cond pd a b => some (wordOf sw 0x28 (cat 24 cond (cat 20 (0 : BitVec 1) (cat 19 pd (cat 16 a.byte b.byte)))))
  | .mov sw d a => some (wordOf sw 0x29 (cat 24 d.byte (cat 16 a.byte (0 : BitVec 8))))
  | .movi sw d imm => some (wordOf sw 0x2A (cat 24 d.byte imm))
  | .movh sw d imm => some (wordOf sw 0x2B (cat 24 d.byte imm))
  | .frint sw d a => some (wordOf sw 0x2C (cat 24 d.byte (cat 16 a.byte (0 : BitVec 8))))
  | .cvt sw d a dty => some (wordOf sw 0x2D (cat 24 d.byte (cat 16 a.byte (cat 8 (0 : BitVec 3) dty))))
  | .pack sw d a b => some (wordOf sw 0x2E (cat 24 d.byte (cat 16 a.byte b.byte)))
  | .unpk sw d a b => some (wordOf sw 0x2F (cat 24 d.byte (cat 16 a.byte b.byte)))
  | .msb sw d a b => some (wordOf sw 0x30 (cat 24 d.byte (cat 16 a.byte b.byte)))
  | .frcp sw d a => some (wordOf sw 0x31 (cat 24 d.byte (cat 16 a.byte (0 : BitVec 8))))
  | .frsq sw d a => some (wordOf sw 0x32 (cat 24 d.byte (cat 16 a.byte (0 : BitVec 8))))
  | .fsqrt sw d a => some (wordOf sw 0x33 (cat 24 d.byte (cat 16 a.byte (0 : BitVec 8))))
  | .fexp2 sw d a => some (wordOf sw 0x34 (cat 24 d.byte (cat 16 a.byte (0 : BitVec 8))))
  | .flog2 sw d a => some (wordOf sw 0x35 (cat 24 d.byte (cat 16 a.byte (0 : BitVec 8))))
  | .fsinpi sw d a => some (wordOf sw 0x36 (cat 24 d.byte (cat 16 a.byte (0 : BitVec 8))))
  | .fcospi sw d a => some (wordOf sw 0x37 (cat 24 d.byte (cat 16 a.byte (0 : BitVec 8))))
  | .cmul sw d a b => some (wordOf sw 0x38 (cat 24 d.byte (cat 16 a.byte b.byte)))
  | .cfma sw d a b => some (wordOf sw 0x39 (cat 24 d.byte (cat 16 a.byte b.byte)))
  | .fclass sw d a => some (wordOf sw 0x3A (cat 24 d.byte (cat 16 a.byte (0 : BitVec 8))))
  | .rnd sw d => some (wordOf sw 0x3B (cat 24 d.byte (cat 16 (0 : BitVec 8) (0 : BitVec 8))))
  | .fscale sw d a b => some (wordOf sw 0x3C (cat 24 d.byte (cat 16 a.byte b.byte)))
  | .dot4 sw d a b => some (wordOf sw 0x3D (cat 24 d.byte (cat 16 a.byte b.byte)))
  | .raise sw d a fn => some (wordOf sw 0x40 (cat 24 d.byte (cat 16 a.byte (cat 8 (0 : BitVec 3) fn))))
  | .vote sw d a fn => some (wordOf sw 0x41 (cat 24 d.byte (cat 16 a.byte (cat 8 (0 : BitVec 3) fn))))
  | .shfi sw d a b => some (wordOf sw 0x42 (cat 24 d.byte (cat 16 a.byte b.byte)))
  | .shfx sw d a b => some (wordOf sw 0x43 (cat 24 d.byte (cat 16 a.byte b.byte)))
  | .shfu sw d a b => some (wordOf sw 0x44 (cat 24 d.byte (cat 16 a.byte b.byte)))
  | .shfd sw d a b => some (wordOf sw 0x45 (cat 24 d.byte (cat 16 a.byte b.byte)))
  | .plog sw fn pd ia pa ib pb => some (wordOf sw 0x46 (cat 24 fn (cat 20 (0 : BitVec 1) (cat 19 pd (cat 16 (0 : BitVec 4) (cat 12 (BitVec.ofBool ia) (cat 11 pa (cat 8 (0 : BitVec 4) (cat 4 (BitVec.ofBool ib) pb)))))))))
  | .ld sw d a off => some (wordOf sw 0x48 (cat 24 d.byte (cat 16 a.byte off)))
  | .st sw d a off => some (wordOf sw 0x49 (cat 24 d.byte (cat 16 a.byte off)))
  | .ldw sw d a off => some (wordOf sw 0x4A (cat 24 d.byte (cat 16 a.byte off)))
  | .stw sw d a off => some (wordOf sw 0x4B (cat 24 d.byte (cat 16 a.byte off)))
  | .ldl sw d a off => some (wordOf sw 0x4C (cat 24 d.byte (cat 16 a.byte off)))
  | .stl sw d a off => some (wordOf sw 0x4D (cat 24 d.byte (cat 16 a.byte off)))
  | .taglLookup sw d a region => some (wordOf sw 0x4E (cat 24 d.byte (cat 16 a.byte (cat 8 (0 : BitVec 4) region))))
  | .taglRead sw d a region => some (wordOf sw 0x4E (cat 24 d.byte (cat 16 a.byte (cat 8 (1 : BitVec 4) region))))
  | .tagw sw d a region => some (wordOf sw 0x4F (cat 24 d.byte (cat 16 a.byte (cat 8 (0 : BitVec 4) region))))
  | .aadd sw d a b => some (wordOf sw 0x50 (cat 24 d.byte (cat 16 a.byte b.byte)))
  | .amin sw d a b => some (wordOf sw 0x51 (cat 24 d.byte (cat 16 a.byte b.byte)))
  | .amax sw d a b => some (wordOf sw 0x52 (cat 24 d.byte (cat 16 a.byte b.byte)))
  | .aand sw d a b => some (wordOf sw 0x53 (cat 24 d.byte (cat 16 a.byte b.byte)))
  | .aor sw d a b => some (wordOf sw 0x54 (cat 24 d.byte (cat 16 a.byte b.byte)))
  | .axor sw d a b => some (wordOf sw 0x55 (cat 24 d.byte (cat 16 a.byte b.byte)))
  | .axch sw d a b => some (wordOf sw 0x56 (cat 24 d.byte (cat 16 a.byte b.byte)))
  | .acas sw d a b => some (wordOf sw 0x57 (cat 24 d.byte (cat 16 a.byte b.byte)))
  | .bind sw a b => some (wordOf sw 0x58 (cat 24 (0 : BitVec 8) (cat 16 a.byte b.byte)))
  | .unbind sw a => some (wordOf sw 0x59 (cat 24 (0 : BitVec 8) (cat 16 a.byte (0 : BitVec 8))))
  | .acq sw d a => some (wordOf sw 0x5A (cat 24 d.byte (cat 16 a.byte (0 : BitVec 8))))
  | .rel sw a => some (wordOf sw 0x5B (cat 24 (0 : BitVec 8) (cat 16 a.byte (0 : BitVec 8))))
  | .fence sw scope kind => some (wordOf sw 0x5C (cat 24 (0 : BitVec 8) (cat 16 scope (cat 13 kind (cat 11 (0 : BitVec 3) (0 : BitVec 8))))))
  | .dualst sw d a b => some (wordOf sw 0x5D (cat 24 d.byte (cat 16 a.byte b.byte)))
  | .pref sw fn a off => some (wordOf sw 0x5E (cat 24 (0 : BitVec 7) (cat 17 (BitVec.ofBool fn) (cat 16 a.byte off))))
  | .lcpIn sw d a size => some (wordOf sw 0x60 (cat 24 d.byte (cat 16 a.byte (cat 8 (0 : BitVec 6) size))))
  | .lcpOut sw d a size => some (wordOf sw 0x60 (cat 24 d.byte (cat 16 a.byte (cat 8 (1 : BitVec 6) size))))
  | .tcpIn sw a => some (wordOf sw 0x61 (cat 24 (0 : BitVec 8) (cat 16 a.byte (0 : BitVec 8))))
  | .tcpOut sw a => some (wordOf sw 0x61 (cat 24 (0 : BitVec 8) (cat 16 a.byte (1 : BitVec 8))))
  | .tcpx sw a b => some (wordOf sw 0x62 (cat 24 (0 : BitVec 8) (cat 16 a.byte b.byte)))
  | .seal sw arrive ring stage => some (wordOf sw 0x63 (cat 24 (0 : BitVec 8) (cat 16 (BitVec.ofBool arrive) (cat 15 ring (cat 12 stage (cat 9 (0 : BitVec 1) (0 : BitVec 8)))))))
  | .res sw d a b => some (wordOf sw 0x64 (cat 24 d.byte (cat 16 a.byte b.byte)))
  | .rls sw a => some (wordOf sw 0x65 (cat 24 (0 : BitVec 8) (cat 16 a.byte (0 : BitVec 8))))
  | .stga sw ring stage => some (wordOf sw 0x66 (cat 24 (0 : BitVec 8) (cat 16 (0 : BitVec 1) (cat 15 ring (cat 12 stage (cat 9 (0 : BitVec 1) (0 : BitVec 8)))))))
  | .stgw sw d ring stage inv => some (wordOf sw 0x67 (cat 24 d.byte (cat 16 (0 : BitVec 1) (cat 15 ring (cat 12 stage (cat 9 (BitVec.ofBool inv) (0 : BitVec 8)))))))
  | .mma sw d a b => some (wordOf sw 0x68 (cat 24 d.byte (cat 16 a.byte b.byte)))
  | .mmaz sw d a b => some (wordOf sw 0x69 (cat 24 d.byte (cat 16 a.byte b.byte)))
  | .mmad sw d a b => some (wordOf sw 0x6A (cat 24 d.byte (cat 16 a.byte b.byte)))
  | .tmma sw d a b => some (wordOf sw 0x6B (cat 24 d.byte (cat 16 a.byte b.byte)))
  | .acca sw d count => some (wordOf sw 0x6C (cat 24 d.byte (cat 16 (0 : BitVec 8) (cat 8 (0 : BitVec 1) count))))
  | .accf sw a => some (wordOf sw 0x6D (cat 24 (0 : BitVec 8) (cat 16 a.byte (0 : BitVec 8))))
  | .accr sw d a b => some (wordOf sw 0x6E (cat 24 d.byte (cat 16 a.byte b.byte)))
  | .accw sw d a b => some (wordOf sw 0x6F (cat 24 d.byte (cat 16 a.byte b.byte)))
  | .kset sw a set => some (wordOf sw 0x70 (cat 24 (0 : BitVec 8) (cat 16 a.byte (cat 8 (0 : BitVec 4) set))))
  | .kgetRecord sw d set => some (wordOf sw 0x71 (cat 24 d.byte (cat 16 (0 : BitVec 8) (cat 8 (0 : BitVec 4) set))))
  | .kgetCount sw d clr set => some (wordOf sw 0x71 (cat 24 d.byte (cat 16 (0 : BitVec 8) (cat 8 (0 : BitVec 2) (cat 6 (BitVec.ofBool clr) (cat 5 (1 : BitVec 1) set))))))
  | .cld sw a nm1 ra => some (wordOf sw 0x72 (cat 24 (0 : BitVec 8) (cat 16 a.byte (cat 8 nm1 ra))))
  | .cst sw a nm1 ra => some (wordOf sw 0x73 (cat 24 (0 : BitVec 8) (cat 16 a.byte (cat 8 nm1 ra))))
  | .spl sw d a half acc nm1 => some (wordOf sw 0x74 (cat 24 d.byte (cat 16 a.byte (cat 8 (0 : BitVec 1) (cat 7 (BitVec.ofBool half) (cat 6 (BitVec.ofBool acc) nm1))))))
  | .spld sw d a half acc nm1 => some (wordOf sw 0x75 (cat 24 d.byte (cat 16 a.byte (cat 8 (0 : BitVec 1) (cat 7 (BitVec.ofBool half) (cat 6 (BitVec.ofBool acc) nm1))))))
  | .splg sw d a half zero nm1 => some (wordOf sw 0x76 (cat 24 d.byte (cat 16 a.byte (cat 8 (0 : BitVec 1) (cat 7 (BitVec.ofBool half) (cat 6 (BitVec.ofBool zero) nm1))))))
  | .gref sw set => some (wordOf sw 0x77 (cat 24 (0 : BitVec 8) (cat 16 (0 : BitVec 8) (cat 8 (0 : BitVec 4) set))))
  | .send sw a half chan => some (wordOf sw 0x78 (cat 24 (0 : BitVec 8) (cat 16 a.byte (cat 8 (0 : BitVec 3) (cat 5 (BitVec.ofBool half) chan)))))
  | .recv sw d half chan => some (wordOf sw 0x79 (cat 24 d.byte (cat 16 (0 : BitVec 8) (cat 8 (0 : BitVec 3) (cat 5 (BitVec.ofBool half) chan)))))
  | .nred sw d a tree fn => some (wordOf sw 0x7A (cat 24 d.byte (cat 16 a.byte (cat 8 (0 : BitVec 2) (cat 6 tree fn)))))
  | .snapStart sw d incr dev => some (wordOf sw 0x7B (cat 24 d.byte (cat 16 (0 : BitVec 8) (cat 8 (0 : BitVec 4) (cat 4 (BitVec.ofBool incr) (cat 3 (BitVec.ofBool dev) (0 : BitVec 2)))))))
  | .snapQuery sw d => some (wordOf sw 0x7B (cat 24 d.byte (cat 16 (0 : BitVec 8) (1 : BitVec 8))))
  | .snapRelease sw d => some (wordOf sw 0x7B (cat 24 d.byte (cat 16 (0 : BitVec 8) (2 : BitVec 8))))
  | .launch sw a => some (wordOf sw 0x7C (cat 24 (0 : BitVec 8) (cat 16 a.byte (0 : BitVec 8))))
  | .idem sw => some (wordOf sw 0x7D (cat 24 (0 : BitVec 8) (cat 16 (0 : BitVec 8) (0 : BitVec 8))))
  | .chkpt sw => some (wordOf sw 0x7D (cat 24 (0 : BitVec 8) (cat 16 (0 : BitVec 8) (1 : BitVec 8))))
  | .pdis sw => some (wordOf sw 0x7D (cat 24 (0 : BitVec 8) (cat 16 (0 : BitVec 8) (2 : BitVec 8))))
  | .pen sw => some (wordOf sw 0x7D (cat 24 (0 : BitVec 8) (cat 16 (0 : BitVec 8) (3 : BitVec 8))))
  | .bkpt sw code => some (wordOf sw 0x7D (cat 24 (0 : BitVec 8) (cat 16 code (4 : BitVec 8))))
  | .tlbi sw d a => some (wordOf sw 0x7E (cat 24 d.byte (cat 16 a.byte (0 : BitVec 8))))
  | .fhget sw d wait => some (wordOf sw 0x7E (cat 24 d.byte (cat 16 (0 : BitVec 7) (cat 9 (BitVec.ofBool wait) (1 : BitVec 8)))))
  | .fhdone sw d a => some (wordOf sw 0x7E (cat 24 d.byte (cat 16 a.byte (2 : BitVec 8))))
  | .swr sw d a => some (wordOf sw 0x7E (cat 24 d.byte (cat 16 a.byte (3 : BitVec 8))))
  | .rtt sw a => some (wordOf sw 0x7E (cat 24 (0 : BitVec 8) (cat 16 a.byte (4 : BitVec 8))))
  | .illegalWord _ => none
  | .issueWindow _ _ => none
  | .promotion _ => none
  | .variableLatencyResult _ _ => none
  | .instructionFetch _ => none
  | .runAheadRollback _ => none
  | .sheafPost _ => none
  | .tableWalk _ _ _ _ => none
  | .tlbiPerformed _ => none
  | .dispatchQueueEntry _ _ => none
  | .dependenceReread _ => none
  | .blockStart _ _ => none
  | .gridCompletion _ => none
  | .sliceAccess _ => none
  | .relIncrement _ => none
  | .remoteAccess _ => none
  | .remoteAck _ _ _ => none
  | .fabricForward _ _ => none
  | .copyChunk _ _ => none
  | .batchComplete _ _ => none
  | .matrixOctetOperation _ => none
  | .splineExecution _ => none
  | .roundComplete _ => none
  | .barrierComplete _ => none
  | .registerCopyUpdate _ _ _ => none
  | .messageLanding _ => none
  | .creditReturn _ => none
  | .treeInput _ => none
  | .treeTimeout _ _ _ _ => none
  | .treeResult _ => none
  | .stopRecord _ => none
  | .stopQueueConsumed _ _ => none
  | .watchdogExpiry _ => none
  | .preemptOverrun _ => none
  | .timeSliceExpiry _ _ => none
  | .preemption _ _ => none
  | .warpRestore _ => none
  | .debugHalt _ => none
  | .killWriteTimeout _ => none
  | .windowMatch _ _ => none
  | .pairPerformed _ => none
  | .generationGrant _ => none
  | .cutComplete _ => none
  | .granaryClaim _ => none
  | .wainStart _ => none
  | .wainDrainGranule _ => none
  | .generationRestore _ => none
  | .partitionControlWrite _ _ _ => none
  | .errorLogRecord => none
  | .errorLogConfigWrite _ _ => none
  | .errorLogHeadWrite _ => none
  | .linkRetry _ _ => none
  | .linkRetrain _ _ _ => none
  | .gleanerRead _ => none
  | .scrubWriteback _ => none
  | .spareBank _ => none
  | .infieldTest _ => none
  | .testResult _ _ => none
  | .hostMemoryAccess _ _ _ _ _ => none
  | .functionRecordWrite _ _ _ => none
  | .functionReset _ => none
  | .functionLevelReset _ => none
  | .contextCreate _ _ _ => none
  | .contextDestroy _ _ _ => none
  | .queueConfigWrite _ _ _ => none
  | .queueDoorbell _ _ _ => none
  | .attestationRequest _ _ => none
  | .debugStateWrite _ => none
  | .debugUnlock _ => none
  | .powerControlWrite _ => none
  | .idleEntry _ => none
  | .idleExit _ => none
  | .throttle _ => none
  | .throttleRelease _ => none
  | .thermalStop _ => none
  | .partReset _ => none
  | .bootStep _ => none
  | .bootStepTimeout => none
  | .sidebandRead _ => none
  | .sidebandWriteCap _ => none
  | .sidebandWriteTolerance _ => none
  | .sidebandReset => none
  | .sidebandClearThermalStop => none
  | .sidebandWake => none
  | .registerWrite _ _ _ => none
  | .frozenImageReleaseRequest _ => none

/-- The instruction that the decoder reads from a row of the opcode table, laid out in memory as
R29 stores words: the host's question. -/
def decodeTableWord (_nbits w : Nat) : Option Instr :=
  match decodeBytes (bytesOfWord (BitVec.ofNat 32 w)) with
  | .ok (i, _) => some i
  | .error _ => none

end Sys2Proof
end

