-- ==== Sys2Proof/Config.lean ====
section
/-!
DEFINITION. What is fixed for the part (R1 to R5) and the free values: opaque constants without a
body, which no proof can evaluate.
-/

namespace Sys2Proof.Config

/-- Logical cores (R2). -/
def cores : Nat := 768

/-- Logical clusters, and memory slices (R2, R4). -/
def clusters : Nat := 192

/-- Compute dies (R1). -/
def dies : Nat := 8

/-- DRAM channels (R4). -/
def channels : Nat := 768

/-- Bytes of device DRAM, 768 GiB (R2). -/
def dramBytes : Nat := 768 * 2 ^ 30

/-- Devices of the fabric grid, 16 × 18 × 16 (R2, R374). -/
def devices : Nat := 4608

/-- Virtual functions (R365). -/
def functions : Nat := 512

/-- Line size and copy-on-write granule (R2). -/
def lineBytes : Nat := 128
def granuleBytes : Nat := 4096

/-- FREE VALUE (log row 5): the bytes of a warp record that the part lays out as it likes (R316),
by their place in the record and the time of the save. -/
opaque recordByte : Nat → Nat → Byte

/-- FREE VALUE (log row 30): the bytes of a core area of a save area, which the part lays out as it likes
(R316), by the number of the save and their place in it. -/
opaque coreAreaByte : Nat → Nat → Byte

/-- FREE VALUE (log row 97): cycles after a grant at which a unit receives the new generation, modulo 8,193
(R329), by the time of the grant and the unit. -/
opaque adoptDelay : Nat → Nat → Nat

/-- FREE VALUE (log row 6): the attestation report's signature words (R380), by the bytes 0x000 to 0x07F that
they sign and the time. -/
opaque signature : List Byte → Nat → BitVec 768

/-- FREE VALUE (log row 6): the certificate of the identity key, which the attestation mailbox shows (R380). -/
opaque certificate : List Byte

/-- FREE VALUE (log row 6): Dvortar's debug key verifies an unlock token over a challenge and the serial number
(R381). -/
opaque tokenVerifies : BitVec 384 → BitVec 128 → BitVec 768 → Bool

/-- FREE VALUE (log row 6): the challenge of the unlock mailbox (R381), by time. -/
opaque challenge : Nat → BitVec 384

/-- FREE VALUE (log row 6): security version of the running image (R372, R379), by image. -/
opaque imageVersion : Nat → BitVec 8

/-- FREE VALUE (log row 6): the fused SHA-384 hash of the firmware public key; the hash of the key in an image's
header; and whether the header's signature over header and body verifies (R379), by image, 0 for A and 1 for
B. -/
opaque fuseKey : BitVec 384
opaque imageKey : Nat → BitVec 384
opaque imageVerifies : Nat → Bool

/-- FREE VALUE (log row 7): the package power, averaged over 1 ms, and the junction temperature of a die
(R383, R387), by time. -/
opaque powerReading : Nat → BitVec 16
opaque dieTemp : Nat → Nat → BitVec 8

/-- FREE VALUE (log row 6): serial number, and digest of a firmware image, 0 for A and 1 for B, of the
attestation report (R380). -/
opaque serial : BitVec 128
opaque imageDigest : Nat → BitVec 384

end Sys2Proof.Config
end

