-- ==== Sys2Proof/Machine/State.lean ====
section
/-!
DEFINITION. The state of the part as plain data: every register, store, queue and table the spec
names, the two ways a step can stop, and `State.reset`. A bracket at the end of a field's comment
says its reset value: the spec's, or DESIGN CHOICE with the row of the assumption log.
-/

namespace Sys2Proof.Machine

/-- A store of which most entries hold one default value: keys strictly rising, no entry equal to
the default. Register files, tiles, tag tables and tables are held so. -/
abbrev Sparse (α : Type) := List (Nat × α)

/-- Byte memory in the one canonical form: addresses strictly rising, no entry 0 (R389 step 5:
device DRAM is zero after a power-on boot; log row 3 for host and lower-tier memory). -/
abbrev Memory := List Host.Cell

/-- The seven sticky flags of %status[6:0]: NV, DZ, OF, UF, NX, SAT, IC from bit 0 (R65). -/
abbrev Flags := BitVec 7

/-- The roles of a warp (R76). -/
inductive Role where
  | copy | matrix | vector
  deriving DecidableEq, Repr

/-- The four engine counter classes (R93). -/
inductive EngClass where
  | copy | matrix | spline | net
  deriving DecidableEq, Repr

/-- A register that carries a pending bit, an uncorrectable mark or poison (R91, R299, R312); the
predicates have one pending bit together and are poisoned each by itself. -/
inductive Reg where
  | v (n : Nat) | o (n : Nat) | w (n : Nat) | b (n : Nat) | k (n : Nat) | g (n : Nat)
  | p (n : Nat)
  | status | mode | preds
  deriving DecidableEq, Repr

/-- An entry of the divergence stack (R96): a rejoin entry of MARK or a path entry of a branch. -/
structure StackEntry where
  /-- True for a path entry. -/
  path : Bool
  /-- Where the lanes continue, as a byte offset in the kernel image. -/
  pc : Nat
  /-- The lanes of the entry. -/
  mask : Mask
  deriving DecidableEq, Repr

/-- An open loop level (R102). -/
structure LoopLevel where
  /-- First word of the body, as a byte offset in the kernel image. -/
  start : Nat
  /-- The word after the body. -/
  stop : Nat
  /-- Iterations left. -/
  left : Nat
  deriving DecidableEq, Repr

/-- Where a warp stands between two words (R88, R307, R319). -/
inductive Run where
  /-- It may issue its next word. -/
  | ready
  /-- It waits at its word, which is tried again (WAITC, RLS, a stall and the like). -/
  | parked
  /-- It waits after a word with S = 1 until no pending bit is set (R32, R91). -/
  | switch
  /-- A parked YIELD: class, N and the continuation (R104). -/
  | yielded (cls : EngClass) (n : Nat) (cont : Nat)
  /-- Arrived at a BAR of this scope code; `released` once the barrier completed (R108). -/
  | barrier (scope : BitVec 3) (released : Bool)
  /-- Parked at FUSE naming this partner (R107). -/
  | fuse (partner : Nat)
  /-- Parked at STGW on ring, stage and phase; `released` once a flip released it (R237). -/
  | ring (ring stage : Nat) (phase released : Bool)
  /-- Parked at RECV, having taken this place in the order of RECVs of a channel (R277, R279). -/
  | recv (chan ticket : Nat)
  /-- Held at a word on these sheaves of its context (R297). -/
  | held (sheaves : List Nat)
  /-- A fault waits for the older results of the warp (R92). -/
  | faulting
  /-- Rolled back: it restarts at its checkpoint once no result is outstanding (R355). -/
  | rollback
  /-- Stopped by a fault (R307). -/
  | stopped
  /-- Retired by EXIT (R103) or by a kill (R320). -/
  | exited
  deriving DecidableEq, Repr

/-- A fault as it is raised, before it is recorded (R306). -/
structure FaultInfo where
  /-- Fault code of R44. -/
  code : BitVec 8
  /-- Stage of R306. -/
  stage : BitVec 4
  /-- Detail of R306. -/
  detail : BitVec 16
  /-- Faulting address, for %faddrhi and %faddrlo. -/
  addr : Dword
  /-- Lanes, for %lmaskhi and %lmasklo. -/
  lanes : Mask
  deriving DecidableEq, Repr

/-- An outstanding variable-latency result of a warp (R90, R91). -/
structure Result where
  /-- Its number. -/
  id : Nat
  /-- Image offset of its word, where a fault of its destination is recorded (R92, R115). -/
  pc : Nat
  /-- Loop levels and draw counter as its word found them, which that fault leaves (R102, R160). -/
  loops : List LoopLevel
  draw : Dword
  /-- Destination, if the word has one. -/
  dst : Option Operand
  /-- Registers of the destination for each lane: 1, 2 or 4. -/
  regs : Nat
  /-- The lanes C that receive a value. -/
  lanes : Mask
  /-- The word is uniform: one value, under lane `lowest lane of ACTIVE`. -/
  uni : Bool
  /-- Values by lane. -/
  vals : Sparse Wide
  /-- Memory accesses of the word not performed yet. -/
  need : Nat
  /-- Earliest time at which it is written (R90, R135, R163). -/
  due : Nat
  /-- The value no longer waits for an engine, a round, a router or the controller. -/
  ready : Bool
  /-- It is the result of a RAISE round (R122). -/
  round : Bool
  /-- How many writes of the block's k set and of its g set the warp's core must have applied (R117,
  R122). -/
  after : Nat × Nat
  /-- Flags merged with the result. -/
  flags : Flags
  /-- The flags wait for the next switch park, fault or EXIT (R134). -/
  late : Bool
  /-- Event and report written at completion (R66). -/
  event : Option (BitVec 8 × BitVec 16)
  /-- False when the word completes without writing its destination (R286). -/
  write : Bool
  /-- Pending bits that the result clears. -/
  pend : List Reg
  /-- The destination's agreement is judged when the values return (R92, R184). -/
  judged : Bool
  /-- Lanes whose data arrived with an uncorrectable error (R312). -/
  marked : Mask
  /-- The store that its data comes from: 0 device memory, 1 scratchpad (R306). -/
  store : Nat
  /-- Place in the replay log of the pair-performed word whose result it is (R354). -/
  pair : Option Nat
  /-- Its word was rolled back: it writes no register, flag or event (R355). -/
  discard : Bool
  deriving DecidableEq, Repr

/-- One engine operation of a warp, from issue to the WAITC or YIELD that reports it (R93, R94). -/
structure EngOp where
  /-- Its number. -/
  id : Nat
  /-- Counter class. -/
  cls : EngClass
  /-- It has performed all its writes. -/
  done : Bool
  /-- Flags merged at the report (R67). -/
  flags : Flags
  /-- Error code and first failing address carried (R219, R220). -/
  err : Option (BitVec 8 × Dword)
  /-- Remote writes refused with TARGET_RESET (R219). -/
  refused : Nat
  /-- Skipped multicast targets (R231). -/
  skipped : BitVec 4
  /-- Commands of the batch, or the one command of a TCPX, not ended yet (R218). -/
  cmds : List Nat
  /-- Ring and stage of a SEAL arrival (R234). -/
  arrive : Option (Nat × Nat)
  deriving DecidableEq, Repr

/-- The restart state that IDEM records (R311). -/
structure Restart where
  mode : Word
  draw : Dword
  depth : Nat
  loops : List LoopLevel
  stack : List StackEntry
  /-- Window numbers of the store and engine streams (R362). -/
  winStore : Nat
  winEngine : Nat
  /-- The first number of a result or operation issued after it (R355). -/
  first : Nat
  /-- Entries of the replay log that come before it (R354). -/
  logged : Nat
  deriving DecidableEq, Repr

/-- The registers of a warp, each sparse over 0 (R110, R111). -/
structure WarpRegs where
  /-- v registers: key 64·lane + n. -/
  v : Sparse Word
  /-- o registers: key 32·octet + n. -/
  o : Sparse Word
  /-- w registers: key n. -/
  w : Sparse Word
  /-- Predicates p1 to p7 of a lane in bits [7:1]; key lane. -/
  p : Sparse Byte
  deriving DecidableEq, Repr

/-- The checkpoint record that CHKPT writes (R351). -/
structure Checkpoint where
  regs : WarpRegs
  pc : Nat
  mode : Word
  status : Word
  draw : Dword
  active : Mask
  depth : Nat
  loops : List LoopLevel
  stack : List StackEntry
  /-- Window numbers of the store and engine streams (R362). -/
  winStore : Nat
  winEngine : Nat
  /-- The first number of a result or operation issued after it (R355). -/
  first : Nat
  /-- %fault, %faddr and %lmask, which the record holds (R316). -/
  word : Word
  addr : Dword
  lanes : Mask
  /-- Flags that wait for their merge (R134). -/
  lateFlags : Flags
  deriving DecidableEq, Repr

/-- One entry of a redundant warp's stream (R352). -/
structure StreamEntry where
  /-- Its number: what a REL or FENCE that covers it waits for (R353). -/
  id : Nat
  /-- Accesses of the warp that must be performed first (R183, R193). -/
  after : List Nat
  /-- Virtual address. -/
  addr : Dword
  /-- Physical address, none for a remote address. -/
  pa : Option Nat
  /-- The frame is lower-tier memory (R179). -/
  lower : Bool
  /-- Width in bytes. -/
  width : Nat
  data : Wide
  /-- The command whose write it is, on the engine stream. -/
  cmd : Option Nat
  /-- Image offset of its word, on the store stream (R376). -/
  pc : Nat
  deriving DecidableEq, Repr

/-- A closed window of a stream: its number and its entries in order (R352, R353). -/
structure StreamWindow where
  num : Nat
  entries : List StreamEntry
  /-- It closed and matched; the entries are being performed. -/
  matched : Bool
  deriving DecidableEq, Repr

/-- A stream of a redundant warp (R352). -/
structure Stream where
  /-- Closed windows not yet matched and performed, oldest first. -/
  closed : List StreamWindow
  /-- Number of the open window. -/
  num : Nat
  /-- Entries of the open window, oldest first. -/
  entries : List StreamEntry
  deriving DecidableEq, Repr

/-- The request of a pair-performed word (R354): operation, operands and addresses. -/
structure PairReq where
  /-- Opcode and ty. -/
  op : Nat
  /-- Per lane: lane, address, operand. -/
  args : List (Nat × Dword × Wide)
  deriving DecidableEq, Repr

/-- The result of a pair-performed word (R354). -/
structure PairOut where
  vals : Sparse Wide
  flags : Flags
  event : Option (BitVec 8 × BitVec 16)
  write : Bool
  /-- Lanes whose data is marked uncorrectable (R312). -/
  marked : Mask
  deriving DecidableEq, Repr

/-- A pair-performed word in the replay log (R354). -/
structure PairEntry where
  req : PairReq
  /-- Its result, once performed. -/
  result : Option PairOut
  deriving DecidableEq, Repr

/-- An uncorrectable mark on a register (R312). -/
structure Mark where
  reg : Reg
  lanes : Mask
  /-- 0 device memory, 1 scratchpad, 2 register file (R306). -/
  store : Nat
  deriving DecidableEq, Repr

/-- The registers of a warp that a fault, a region or the debugger uses (R39, R306, R311). -/
structure WarpFault where
  /-- %fault (R306). [0] -/
  word : Word
  /-- %faddrhi, %faddrlo (R39). [0, DESIGN CHOICE log row 1] -/
  addr : Dword
  /-- %lmaskhi, %lmasklo (R39). [0, DESIGN CHOICE log row 1] -/
  lanes : Mask
  /-- A fault that waits for the older results of the warp, and its word (R92). -/
  waiting : Option (FaultInfo × Nat)
  /-- %ckpc (R39, R310). [0] -/
  ckpc : Word
  /-- %retry (R39, R310). [0] -/
  retry : Word
  /-- Restart state of the open idempotent region (R311). -/
  restart : Option Restart
  /-- Checkpoint record of CHKPT (R351). -/
  chkpt : Option Checkpoint
  /-- Uncorrectable marks (R312). [none] -/
  marks : List Mark
  /-- The image offset of a word that a comparator has matched: resumed there, its next issue is checked
  from item 2 of R52 (R319). [none] -/
  skipComp : Option Nat
  deriving DecidableEq, Repr

/-- The control registers of a warp (R75, R96, R101, R102, R160). -/
structure WarpCtl where
  /-- Next word, as a byte offset in the kernel image (R29). [entry offset] -/
  pc : Nat
  /-- ACTIVE (R96). [all lanes] -/
  active : Mask
  /-- Divergence stack, top first, 16 entries (R96). [empty] -/
  stack : List StackEntry
  /-- Open loop levels, innermost first, two at most (R102). [none] -/
  loops : List LoopLevel
  /-- Call depth (R101). [0] -/
  depth : Nat
  /-- MODE (R41). [0] -/
  mode : Word
  /-- %status (R65). [0 at kernel entry] -/
  status : Word
  /-- Draw counter (R160). [0 at kernel entry] -/
  draw : Dword
  /-- High half latched by the last %cyclo read (R39). [0] -/
  cycHi : Word
  /-- Thread index in the block of lane 0 of each octet (R159). -/
  tOct : List Nat
  deriving DecidableEq, Repr

/-- A warp (R75). -/
structure Warp where
  /-- %warp (R39). -/
  slot : Nat
  /-- %role (R39, R76). -/
  role : Role
  /-- %width: 8, 16, 32 or 64 (R39). -/
  width : Nat
  /-- Lane-register budget: 16, 32, 48 or 64 (R77). -/
  budget : Nat
  /-- v, o, w registers and predicates (R110). [0] -/
  regs : WarpRegs
  /-- Control registers. -/
  ctl : WarpCtl
  /-- Fault, region and mark registers. -/
  flt : WarpFault
  /-- Run state (R88, R307, R316). [ready] -/
  run : Run
  /-- Halted by the debug interface (R319). [no] -/
  halted : Bool
  /-- Evicted into its saved record (R314). [no] -/
  evicted : Bool
  /-- It has changed since its record was saved; the record is written again (R314, R355). [no] -/
  stale : Bool
  /-- Number that its record's free bytes were chosen by (R316, the model's own, log row 5). [0] -/
  saved : Nat
  /-- Pending bits, one entry for each outstanding write (R91). [none] -/
  pend : List Reg
  /-- Outstanding variable-latency results, oldest first (R90). [none] -/
  results : List Result
  /-- Flags of FRCP to FCOSPI that wait for their merge (R134). [0] -/
  lateFlags : Flags
  /-- Engine operations not reported yet, in issue order; the four counters of R93 count the ones
  of a class behind its done prefix. [none] -/
  eng : List EngOp
  /-- Commands of the open batch (R218). [none] -/
  openBatch : List Nat
  /-- PDIS region: the time at which the timer reaches 0 (R317). [closed] -/
  pdis : Option Nat
  /-- Time since which the warp is ready (R95). -/
  since : Nat
  /-- Start of residency (R88). -/
  born : Nat
  /-- Promoted (R95). [no] -/
  promoted : Bool
  /-- Its wait at its word has ended, at `since` (R95). [no] -/
  awake : Bool
  /-- The fetch block it issues from: its virtual address and 16 words (R305). [none] -/
  fetch : Option (Nat × List Word)
  /-- Its loop body is refetched at the next iteration: an execute TLBI has been performed (R305).
  [no] -/
  refetch : Bool
  /-- A DUALST after which the warp has issued no word: its image offset, its plain and its transposed
  accesses (R196). [none] -/
  dual : Option (Nat × List LoopLevel × List Nat × List Nat)
  /-- Store stream of a redundant copy (R352). [empty] -/
  store : Stream
  /-- Engine stream of a redundant copy (R352). [empty] -/
  engine : Stream
  /-- Request of the pair-performed word that the warp stands at, and whether both copies agreed on
  it (R354). [none] -/
  pairReq : Option (PairReq × Bool)
  /-- Replay log (R354). [empty] -/
  replay : List PairEntry
  /-- Entries of the replay log consumed since the last restart (R354). [0] -/
  replayed : Nat
  /-- TLBIs of the warp not performed yet (R302). [none] -/
  tlbis : List Nat
  /-- Claimed, unfinished sheaves of a handler warp (R303). [none] -/
  claimed : List Nat
  deriving DecidableEq, Repr

/-- A translation that a cache holds: a leaf, or a valid non-leaf entry (R292, R294). -/
structure Tlb where
  ctx : Nat
  /-- Virtual base of what the entry covers. -/
  va : Nat
  /-- Bytes that it covers. -/
  size : Nat
  /-- Physical base of the frame, or of the next table. -/
  pa : Nat
  r : Bool
  w : Bool
  x : Bool
  lower : Bool
  /-- It is a non-leaf entry. -/
  node : Bool
  deriving DecidableEq, Repr

/-- A scratchpad region record (R165). -/
structure Region where
  offset : Nat
  size : Nat
  /-- Line of the map: 0 unmapped, else 128, 256 or 512. -/
  line : Nat
  deriving DecidableEq, Repr

/-- A stage of a ring (R236): phase F and remaining count c. -/
structure Stage where
  phase : Bool
  left : Nat
  deriving DecidableEq, Repr

/-- A stage ring (R235, R236). -/
structure Ring where
  /-- Expected arrivals E. -/
  expect : Nat
  stages : List Stage
  deriving DecidableEq, Repr

/-- A channel record (R274). -/
structure ChanDesc where
  landing : Nat
  slots : Nat
  /-- Signed block offset d. -/
  peer : Int
  deriving DecidableEq, Repr

/-- The two ends of a channel that a block holds (R276). -/
structure ChanEnd where
  desc : ChanDesc
  /-- Credits of the sending end. [0 until the receiver starts] -/
  credits : Nat
  /-- Messages landed since the block's start. [0] -/
  landed : Nat
  /-- Messages taken by RECVs. [0] -/
  taken : Nat
  /-- RECVs that took a place in the order. [0] -/
  asked : Nat
  /-- Messages sent, to number them. [0] -/
  sent : Nat
  deriving DecidableEq, Repr

/-- A tree record (R281). -/
structure TreeDesc where
  root : Nat
  fanin : Nat
  allreduce : Bool
  timeout : Nat
  deriving DecidableEq, Repr

/-- A warp group of a layout (R79). -/
structure Group where
  warps : Nat
  width : Nat
  budget : Nat
  deriving DecidableEq, Repr

/-- A layout: entry offset and the COPY, MATRIX and VECTOR groups (R79). -/
structure Layout where
  entry : Nat
  groups : List Group
  deriving DecidableEq, Repr

/-- The block descriptor and its records, read once at the launch check (R79). -/
structure Desc where
  /-- Layout 0 is the kernel's, layout i that of successor i. -/
  layouts : List Layout
  spare : Nat
  /-- `.diverge uniform` (R97). -/
  uniform : Bool
  scratch : Nat
  opbuf : Nat
  tiles : Nat
  regions : List Region
  rings : List Ring
  chans : List ChanDesc
  trees : List TreeDesc
  size : Nat
  deriving DecidableEq, Repr

/-- An operand-buffer reservation (R200, R201). -/
structure Resv where
  idx : Nat
  tag : Nat
  base : Nat
  size : Nat
  record : Word
  deriving DecidableEq, Repr

/-- An accumulator allocation (R209, R210). -/
structure Alloc where
  idx : Nat
  tag : Nat
  count : Nat
  /-- Number of its first tile in the block's tile numbering. -/
  first : Nat
  deriving DecidableEq, Repr

/-- A binding of a range to a sync object (R187). -/
structure Binding where
  obj : Dword
  base : Dword
  len : Nat
  system : Bool
  deriving DecidableEq, Repr

/-- A contribution to a RAISE round (R120, R126). -/
structure Contribution where
  blk : Nat
  block : Nat
  slot : Nat
  result : Nat
  fn : Nat
  ty : BitVec 4
  val : Option Word
  flags : Flags
  /-- Address of its RAISE word, as an image offset (R126). -/
  pc : Nat
  deriving DecidableEq, Repr

/-- An open RAISE round on one register of a set (R120). -/
structure Round where
  reg : Nat
  parts : List Contribution
  deriving DecidableEq, Repr

/-- A cluster- or grid-register set: its writes in home order, and how many of them each core's
copy has applied (R112). A copy not listed holds none. -/
structure RegSet where
  /-- Writes in home order, oldest first. -/
  log : List (Nat × Word)
  /-- Core and number of writes applied. -/
  copies : Sparse Nat
  /-- Writes whose value carries an uncorrectable mark: place in the log, and 1 more than the store
  (R312). [none] -/
  marks : Sparse Nat
  rounds : List Round
  deriving DecidableEq, Repr

/-- What passes from a warp at its EXIT to the warp of its number at a successor entry (R65, R103,
R306). -/
structure ExitState where
  slot : Nat
  status : Word
  draw : Dword
  word : Word
  addr : Dword
  lanes : Mask
  deriving DecidableEq, Repr

/-- A resident block (R75, R80, R103). -/
structure Block where
  /-- Instance number, unique on the part. -/
  id : Nat
  grid : Nat
  /-- %block (R80). -/
  index : Nat
  /-- Trailing copy of a redundant pair (R350). -/
  trail : Bool
  /-- Logical core (R80). -/
  core : Nat
  /-- Successor layout that runs, 0 for the kernel's (R103). [0] -/
  layout : Nat
  /-- Successor named by an EXIT of this block round (R103). [none] -/
  exitIdx : Option Nat
  /-- Warp slots of the block, spare slots included (R81). -/
  slots : Nat
  /-- Place in the warp file of its core of each of its %warp numbers (R81, R316). -/
  places : List Nat
  /-- Slots freed at this time by warps that exited: spare from the next window on (R81). -/
  freed : List (Nat × Nat)
  warps : List Warp
  /-- b registers (R110). [0] -/
  b : Sparse Word
  /-- Uncorrectable marks of b registers: index, and 1 more than the store (R312). [none] -/
  bMarks : Sparse Nat
  /-- Open rounds on b registers (R120). -/
  rounds : List Round
  /-- What each warp held at its EXIT, for the warp of its number in the next layout (R103). -/
  exited : List ExitState
  /-- Scratchpad bytes S (R162). -/
  scratchSize : Nat
  /-- Scratchpad window (R162, R164). [0] -/
  scratch : Memory
  /-- Scratchpad words with an uncorrectable error, by word address (R342). -/
  scratchBad : List Nat
  regions : List Region
  /-- Tag entries by 128-byte unit (R169, R170). [0] -/
  tags : Sparse Dword
  /-- Captured translations by the same key (R171). [none] -/
  captured : List (Nat × Tlb)
  /-- Limits of its core (block places, scratchpad, operand buffer, tiles, regions) of which the block's
  share is spilled to the context's save area (R168, R215). [none] -/
  spilled : List Nat
  /-- Operand-buffer window (R200). [0] -/
  opbuf : Memory
  /-- Operand-buffer words with an uncorrectable error, by word address (R342). [none] -/
  opbufBad : List Nat
  opbufSize : Nat
  resvs : List Resv
  /-- Counts u(i) of R207 for reservations. [0] -/
  resU : Sparse Nat
  /-- Tile budget d6 (R209). -/
  tileBudget : Nat
  allocs : List Alloc
  /-- Counts u(i) of R207 for allocations. [0] -/
  accU : Sparse Nat
  /-- Tile elements: key 1,024·tile + element (R209). [0] -/
  tiles : Sparse Word
  /-- Tile elements with an uncorrectable error, by the same key (R342). [none] -/
  tilesBad : List Nat
  /-- Stage rings (R236). [F = 0, c = E] -/
  rings : List Ring
  chans : List ChanEnd
  bindings : List Binding
  /-- Its NREDs counted per tree (R282). [0] -/
  nreds : Sparse Nat
  /-- Words of its stores with a correctable error: store (0 scratchpad, 1 operand buffer, 2 tiles)
  and word address or key (R342). [none] -/
  soft : List (Nat × Nat)
  deriving DecidableEq, Repr

/-- An NRED that has issued and not completed (R282, R286). -/
structure NredWait where
  blk : Nat
  slot : Nat
  result : Nat
  tree : Nat
  round : Nat
  pc : Nat
  /-- Its router has accepted (true) or discarded its contribution (R286). -/
  taken : Option Bool
  /-- Its result has been delivered; it is kept for the record of an error of its round (R284). -/
  done : Bool
  deriving DecidableEq, Repr

/-- What travels in a tree: 32 elements or nothing, its function and type, the contributions
missing beneath it, and the flags raised (R284, R285). -/
structure TreeVal where
  vals : List Word
  fn : Nat
  ty : BitVec 4
  missing : Nat
  flags : Flags
  /-- Newest generation that a contributing core had adopted (R325). -/
  gen : Dword
  deriving DecidableEq, Repr

/-- Where a tree input comes from at a member router (R284). -/
inductive TreeSrc where
  /-- A block on local core c of the cluster: core 0 to 3 and block index. -/
  | core (c block : Nat)
  /-- The child at this list position. -/
  | child (pos : Nat)
  deriving DecidableEq, Repr

/-- A tree packet in the network (R283). -/
structure TreePkt where
  id : Nat
  grid : Nat
  tree : Nat
  round : Nat
  /-- List position of the router it goes to. -/
  pos : Nat
  src : TreeSrc
  val : TreeVal
  deriving DecidableEq, Repr

/-- One round at one member router (R284, R285). -/
structure TreeRound where
  tree : Nat
  round : Nat
  pos : Nat
  inputs : List (TreeSrc × TreeVal)
  /-- Time of the first input: the timer's start (R285). -/
  start : Nat
  /-- It has forwarded, or at the root completed, the round. -/
  sent : Bool
  /-- Result and report kept by the router, once it has them (R286). -/
  result : Option (TreeVal × BitVec 16)
  /-- Its result is no longer kept (R286). -/
  gone : Bool
  deriving DecidableEq, Repr

/-- A message of a channel on its way (R276). -/
structure Message where
  id : Nat
  grid : Nat
  trail : Bool
  chan : Nat
  /-- Block index of the receiver. -/
  dest : Nat
  words : List Word
  /-- Sender's warp and its NET operation. -/
  blk : Nat
  slot : Nat
  op : Nat
  /-- Fences of the sender that come first (R193, R280). -/
  after : List Nat
  deriving DecidableEq, Repr

/-- A credit on its way back to the sending block (R276). -/
structure Credit where
  id : Nat
  grid : Nat
  trail : Bool
  chan : Nat
  dest : Nat
  deriving DecidableEq, Repr

/-- A launch packet (R78). -/
structure Packet where
  image : Dword
  nx : Nat
  ny : Nat
  nz : Nat
  priority : Nat
  /-- Blocks per cluster: 1, 2 or 4. -/
  cluster : Nat
  twin : Bool
  redundant : Bool
  coResident : Bool
  feedsEgress : Bool
  done : Dword
  increment : Word
  tag : Word
  /-- Dependences: word address and threshold (R84). -/
  deps : List (Dword × Dword)
  map : Dword
  deriving DecidableEq, Repr

/-- A launch that the dispatcher has accepted and whose blocks have not all started (R82 to R84). -/
structure Launch where
  id : Nat
  vf : Nat
  queue : Nat
  ctx : Nat
  packet : Packet
  desc : Desc
  /-- Map entries: leading and trailing core of each block (R80). -/
  map : List (Nat × Nat)
  /-- Every dependence is met (R84). -/
  met : Bool
  /-- The grid it becomes. -/
  grid : Nat
  /-- Launch clusters not started yet. -/
  waiting : List Nat
  deriving DecidableEq, Repr

/-- A grid from the start of its first block to its completion (R80, R85). -/
structure Grid where
  id : Nat
  ctx : Nat
  vf : Nat
  packet : Packet
  desc : Desc
  map : List (Nat × Nat)
  /-- Priority after the caps of R370. -/
  priority : Nat
  /-- Blocks retired, for the leading and the trailing copy (R85). -/
  retired : List (Nat × Bool)
  /-- Grid-register sets of the leading and the trailing copy (R110, R350). [0] -/
  g : RegSet
  gTrail : RegSet
  /-- Cluster-register sets: key 2·cluster + trail (R110). [0] -/
  k : Sparse RegSet
  /-- Rounds at member routers of the trees (R284). -/
  trees : List TreeRound
  /-- NREDs that wait for their router (R286). -/
  nreds : List NredWait
  /-- Retired block instances, with their index and their warps' places on their core (R376). -/
  gone : List (Nat × Nat × List Nat)
  /-- Newest generation that a core had adopted at the retirement of one of its blocks (R325, R327). -/
  gen : Dword
  deriving DecidableEq, Repr

/-- The tensor layout record of TCP and TCPX, captured at issue (R225). -/
structure TRec where
  base : Dword
  dim1 : Nat
  dim0 : Nat
  stride : Nat
  y0 : Nat
  x0 : Nat
  h : Nat
  wd : Nat
  locw : Word
  arrive : Bool
  astage : Nat
  aring : Nat
  mask : BitVec 8
  sparse : Bool
  transpose : Bool
  kind : Nat
  fmt : Nat
  deriving DecidableEq, Repr

/-- What a command does (R224, R230, R233). -/
inductive CmdKind where
  /-- LCP: out, bytes, and local and global address by lane. -/
  | lcp (out : Bool) (bytes : Nat) (lanes : List (Nat × Nat × Dword))
  /-- TCP: out, and the record; for kind 3 the line captured at issue (R171). -/
  | tcp (out : Bool) (r : TRec) (line : Dword)
  /-- TCPX: the record, the targets, rop and rtype (R232). -/
  | tcpx (r : TRec) (targets : List Nat) (rop : Nat) (s32 : Bool)
  deriving DecidableEq, Repr

/-- An engine command that has issued; it is kept, ended, until its batch or TCPX completes (R217,
R218, R221, R222). -/
structure Cmd where
  id : Nat
  blk : Nat
  slot : Nat
  core : Nat
  ctx : Nat
  kind : CmdKind
  /-- Element width and tile geometry are functions of the kind. The resume cursor (R221): -/
  state : Nat
  target : Nat
  next : Nat
  /-- Accepted multicast targets, decided at the first chunk (R231): block instances. -/
  accepted : List Nat
  skipped : BitVec 4
  /-- Sheaf that holds it (R220). -/
  sheaf : Option Nat
  err : Option (BitVec 8 × Dword)
  refused : Nat
  /-- Its writes not performed or acknowledged yet (R218). -/
  writes : Nat
  /-- Local bytes that have arrived and wait for the rest of their aligned 4 bytes (R214, R223): local
  row · 2^16 + byte in the row. [none] -/
  part : List (Nat × Byte)
  deriving DecidableEq, Repr

/-- What a memory access does when its slice performs it (R180, R184, R185, R190, R191). -/
inductive AccKind where
  | load
  | store
  /-- A write of some bits of up to 4 bytes, indivisible (R227): the bits, then their mask 64 bits up. -/
  | masked
  /-- An atomic of R185: function and ty; ACAS holds cmp in the low half of the data. -/
  | atomic (fn : RemoteKind) (ty : BitVec 4)
  /-- The read of ACQ with the invalidation of the block's bound ranges (R191). -/
  | acq
  /-- The held increment of a REL (R190). -/
  | relInc
  /-- A fence in the warp's order: release part, acquire part, system scope (R193). -/
  | fence (rel acq sys : Bool)
  deriving DecidableEq, Repr

/-- A memory access that has issued and is not performed yet (R183, R195). -/
structure Acc where
  id : Nat
  /-- Grid whose write it is (R85). -/
  grid : Nat
  /-- Issuing block instance, 0 for the dispatcher (R85). -/
  blk : Nat
  slot : Nat
  core : Nat
  ctx : Nat
  kind : AccKind
  /-- Virtual or remote-form address (R178). -/
  va : Dword
  /-- Physical address of a local access. -/
  pa : Nat
  remote : Bool
  width : Nat
  data : Wide
  lane : Nat
  /-- The warp's result that it feeds. -/
  result : Option Nat
  /-- The command that it belongs to, and the same command of the trailing copy (R352). -/
  cmd : Option Nat
  twin : Option Nat
  /-- Image offset of the issuing word (R376). -/
  pc : Nat
  /-- A write: its core has its bytes in a present line (R181). A load: it reads at its slice even
  when the line is present (R183). A fence: it invalidates the core's read cache (R193). -/
  placed : Bool
  /-- Accesses that must be performed first (R190, R193). -/
  after : List Nat
  /-- Generation it belongs to, once it has left its core (R326). -/
  gen : Option Dword
  /-- It waits at its slice for a granary granule (R331). -/
  waits : Bool
  /-- The function whose host write it is (R364). -/
  host : Option Nat
  /-- Another device's access, acknowledged once performed (R195, R375). -/
  far : Bool
  /-- The core whose warps have read the write before it is performed (R190, R193). -/
  seen : Bool
  /-- A write: the words of its data that carry an uncorrectable mark, by address (R343). -/
  bad : List Nat := []
  deriving DecidableEq, Repr

/-- A 128-byte line of a core's read cache (R181). -/
structure CacheLine where
  ctx : Nat
  /-- Virtual line address. -/
  va : Nat
  /-- Physical line address. -/
  pa : Nat
  /-- Contexts and line addresses under which it has been read since. -/
  names : List (Nat × Nat)
  bytes : List Byte
  /-- Words that arrived with an uncorrectable error, by physical word address (R343). -/
  bad : List Nat
  deriving DecidableEq, Repr

/-- A page of a sheaf (R300). -/
structure SheafPage where
  /-- Virtual address >> 16. -/
  page : Nat
  malformed : Bool
  x : Bool
  w : Bool
  r : Bool
  deriving DecidableEq, Repr

/-- A sheaf of missing pages (R300). -/
structure Sheaf where
  id : Nat
  ctx : Nat
  core : Nat
  source : Nat
  blk : Nat
  slot : Nat
  pc : Nat
  pages : List SheafPage
  /-- Fault-queue slot once posted (R300). -/
  place : Option Nat
  cancelled : Bool
  /-- Claimed by an FHGET (R303). -/
  claimed : Bool
  deriving DecidableEq, Repr

/-- Run-ahead of a core after a posted page fault (R299). -/
structure Ahead where
  blk : Nat
  slot : Nat
  /-- The checkpoint in the run-ahead buffer. -/
  saved : Warp
  /-- The sheaf that collects its pages. -/
  sheaf : Nat
  words : Nat
  /-- Poisoned registers and lanes. -/
  poison : List (Reg × Mask)
  deriving DecidableEq, Repr

/-- An octet operation of a matrix word (R240): octet and its three handles. -/
structure OctetOp where
  octet : Nat
  hd : Word
  ha : Word
  hb : Word
  deriving DecidableEq, Repr

/-- The spline words of the array queue (R257 to R267). -/
inductive SplineOp where
  | kset (k : Nat) (x0 invh : Word) (g mode : Nat) (mask : BitVec 16)
  | kget (k : Nat) (count clr : Bool) (result : Nat)
  | load (h : Word) (ra n : Nat)
  | store (h : Word) (ra n : Nat)
  | spl (hd hx : Word) (n : Nat) (half acc : Bool)
  | spld (hd hx hg : Word) (n : Nat) (half acc : Bool)
  | splg (hd hx hg : Word) (n : Nat) (half zero : Bool)
  | gref (k : Nat)
  deriving DecidableEq, Repr

/-- A word in a core's array queue (R248). -/
inductive ArrayWork where
  /-- Matrix word: 0 MMA, 1 MMAZ, 2 MMAD, 3 TMMA; λ; octet operations left. -/
  | matrix (fn : Nat) (lam : Word) (ops : List OctetOp)
  | spline (op : SplineOp)
  deriving DecidableEq, Repr

/-- An entry of the array queue (R248). -/
structure ArrayWord where
  blk : Nat
  slot : Nat
  /-- The warp's engine operation, absent for KGET. -/
  op : Option Nat
  work : ArrayWork
  flags : Flags
  /-- Its execution has begun (R251). -/
  begun : Bool
  deriving DecidableEq, Repr

/-- A knot set (R256) and its counters (R253). -/
structure KnotSet where
  x0 : Word
  invh : Word
  mode : Nat
  g : Nat
  mask : BitVec 16
  below : Word
  above : Word
  deriving DecidableEq, Repr

/-- The issue view of a knot set (R270): G, invh and mask as the issued words leave them. -/
structure IssueView where
  g : Nat
  invh : Word
  mask : BitVec 16
  deriving DecidableEq, Repr

/-- The spline state of a core and its holder (R253, R254). -/
structure Spline where
  /-- Block instance that holds it. -/
  blk : Nat
  /-- Coefficients: key 32·(16·r + c) + k (R253). [+0 at the claim] -/
  coef : Sparse Word
  /-- Knot sets 0 to 15 (R256). [R256's reset column at the claim] -/
  sets : List KnotSet
  view : List IssueView
  /-- Coefficients with an uncorrectable error, by the same key (R342). -/
  bad : List Nat
  deriving DecidableEq, Repr

/-- A fetch block in an instruction cache, with the leaf that it was fetched through (R305). -/
structure CodeBlock where
  ctx : Nat
  /-- Virtual address of the block. -/
  va : Nat
  /-- Virtual base and bytes of the leaf. -/
  base : Nat
  size : Nat
  words : List Word
  deriving DecidableEq, Repr

/-- A code page that fetch has met since the last execute TLBI that covers it: the leaf, and the bytes
that stores have replaced since, as fetch still sees them (R305). -/
structure CodePage where
  leaf : Tlb
  old : List (Nat × Byte)
  deriving DecidableEq, Repr

/-- The state of one logical core outside its blocks. -/
structure Core where
  id : Nat
  /-- Read cache (R181). [empty] -/
  cache : List CacheLine
  /-- Core data TLB and instruction TLB (R294). [empty] -/
  dtlb : List Tlb
  itlb : List Tlb
  /-- Instruction cache (R305). [empty] -/
  icache : List CodeBlock
  /-- Run-ahead (R299). [none] -/
  ahead : Option Ahead
  /-- Array queue (R248). [empty] -/
  queue : List ArrayWord
  /-- B operand in the cell latches: block instance and handle (R246). [none] -/
  latch : Option (Nat × Word)
  /-- Spline state, once claimed (R254). [none] -/
  spline : Option Spline
  /-- Spline states saved for other holders (R255). -/
  savedSplines : List Spline
  /-- Suspect (R349). [no] -/
  suspect : Bool
  /-- A pre-emption or in-field test of the core is pending (R317, R358). [no] -/
  wanted : Bool
  /-- Starts of the time slices that began at the end of another's, or that a halt has moved, by context
  (R313, R319). [none] -/
  slices : Sparse Nat
  /-- The context whose time slice has expired, until the work that waits fits (R313). [none] -/
  expiring : Option Nat
  /-- Contexts whose slices have expired here, the longest ago first: the rotation (R370). [none] -/
  turns : List Nat
  /-- Warps that the pre-emption in progress has saved (R315). [0] -/
  evictions : Nat
  deriving DecidableEq, Repr

/-- The state of one logical cluster's router and TLB. -/
structure Cluster where
  id : Nat
  /-- Cluster TLB (R294). [empty] -/
  tlb : List Tlb
  /-- Intake of posted sheaves, oldest first: context and fault-queue slot address (R300). -/
  intake : List (Nat × Nat)
  deriving DecidableEq, Repr

/-- A stop record (R308) that waits to be written. -/
structure StopRec where
  core : Nat
  record : Word
  pc : Dword
  addr : Dword
  lanes : Mask
  block : Nat
  warp : Nat
  cycles : Nat
  deriving DecidableEq, Repr

/-- A context (R367). -/
structure Context where
  /-- 64·v + n (R365). -/
  id : Nat
  root : Nat
  /-- Key K (R158). -/
  key : Dword
  save : Nat
  fqBase : Nat
  fqLog : Nat
  sqBase : Nat
  sqLog : Nat
  watchdog : Nat
  privileged : Bool
  vector : Nat
  /-- Being killed (R320). -/
  killing : Bool
  /-- Its kill is complete and it no longer exists; records of its stop queue may still wait. -/
  dead : Bool
  /-- When its kill abandons the outgoing remote writes (R320). -/
  killAt : Option Nat
  /-- Next sheaf number and sheaves in use (R300). -/
  nextSheaf : Nat
  sheaves : List Sheaf
  /-- Stop queue: records written, consumed, waiting (R308). [0] -/
  written : Dword
  consumed : Dword
  stops : List StopRec
  /-- Address comparators (R319). [0] -/
  comps : List Dword
  debugger : Bool
  halted : Bool
  /-- Time of the halt (R319). [0] -/
  haltAt : Nat
  /-- Time of the last progress, for the watchdog (R309). -/
  progress : Nat
  deriving DecidableEq, Repr

/-- Registers of a host launch queue (R369). -/
structure Queue where
  base : Dword
  /-- Control word at +0x08. [cap 7, n 2] -/
  ctl : Dword
  tail : Word
  head : Word
  deriving DecidableEq, Repr

/-- How a frozen image ended (R333), as the query codes of R334. -/
inductive FrozenEnd where
  | drained | released | aborted
  deriving DecidableEq, Repr

/-- A frozen image of a partition (R324, R330, R332). -/
structure Frozen where
  /-- Generation whose image it is. -/
  gen : Dword
  full : Bool
  /-- The wain has begun: the drain set is fixed (R332). -/
  begun : Bool
  /-- Incremental: granules that frozen writes reached, and that are not drained. -/
  drain : List Nat
  /-- Full: the next granule to drain, and the end of the partition. -/
  next : Nat
  stop : Nat
  /-- Granules with a claimed granary granule (R330). -/
  claims : List Nat
  /-- Copied lines: physical line address and its 128 bytes (R330). -/
  copies : List (Nat × List Byte)
  /-- Words of copied lines with an uncorrectable error, and copied lines in which an upset has left a
  correctable one, by address in the partition (R342, R343, R347). -/
  badCopies : List Nat
  softCopies : List Nat
  deriving DecidableEq, Repr

/-- A cut in progress (R329): the units that have adopted, and who waits for the result. -/
structure Cut where
  /-- Units that have adopted: core c is c, slice s is 768 + s. -/
  adopted : List Nat
  /-- Time of the grant. -/
  start : Nat
  deriving DecidableEq, Repr

/-- A partition's generation state and control block (R324, R338). -/
structure Partition where
  /-- Generation number g (R324). [1] -/
  gen : Dword
  cut : Option Cut
  frozen : Option Frozen
  /-- Latest image: generation, how it ended, full, granules left (R334). [none] -/
  last : Option (Dword × FrozenEnd × Bool × Nat)
  /-- Granules that writes of the current generation reached (R332). -/
  touched : List Nat
  /-- Destination of the last complete drain and its generation (R332). -/
  drained : Option (Dword × Dword)
  /-- Destination that the frozen image drains to (R338). -/
  active : Dword
  /-- Control block: dest, ctl (abort, share, granary), permit (R338). [0, share 8, granary div 8] -/
  dest : Dword
  abort : Bool
  share : BitVec 6
  granary : Option (BitVec 28)
  permit : Dword
  /-- Granary size in force since the last start (R338). -/
  granaryNow : Nat
  deriving DecidableEq, Repr

/-- A posted write of the host through a function's windows: of a register at an offset, or of bytes of device
memory at a physical address (R364). -/
inductive Posted where
  | reg (off : Nat) (v : Dword)
  | mem (pa : Nat) (bytes : List Byte)
  deriving DecidableEq, Repr

/-- A virtual function (R365, R366). -/
structure Vf where
  id : Nat
  pbase : Dword
  psize : Dword
  cores : BitVec 768
  /-- Word 0x70: handler, reset, debug, enable, cap, share (R366). [cap 7, share 1] -/
  ctl : Dword
  /-- Time slice in microseconds (R366). [2,000] -/
  slice : Word
  wbase : Dword
  /-- Word 0x88: window bytes and the W and R bits (R366). [0] -/
  wsize : Dword
  /-- Context table words (R368). [0] -/
  table : Sparse Dword
  /-- Host queues 0 to 14 (R369). -/
  queues : Sparse Queue
  /-- Control word of queue 15 (R369). [cap 7] -/
  devCap : BitVec 3
  /-- Device queue 15: packet address and context, 0xFFFF for an entry that a kill discarded (R369, R370).
  [empty] -/
  devq : List (Dword × Nat)
  /-- Head and tail of queue 15, modulo 64 (R369). [0] -/
  devHead : Nat
  devTail : Nat
  /-- Posted writes that wait for the function's earlier ones, in order (R364). [none] -/
  posted : List Posted
  /-- Refuses remote and host accesses since a reset point (R377). [no] -/
  refusing : Bool
  part : Partition
  deriving DecidableEq, Repr

/-- A SNAP request at the generation controller (R329, R334). -/
structure SnapReq where
  id : Nat
  blk : Nat
  slot : Nat
  vf : Nat
  result : Nat
  dev : Bool
  incr : Bool
  /-- Granted with this generation; the result waits for the cut. -/
  granted : Option Dword
  deriving DecidableEq, Repr

/-- A TLBI not performed yet (R302). -/
structure TlbiReq where
  id : Nat
  ctx : Nat
  va : Nat
  all : Bool
  exec : Bool
  /-- Earlier writes of its warp that are not performed. -/
  own : List Nat
  /-- Accesses translated through a covered entry that are not performed (R302). -/
  accs : List Nat
  /-- Its warp's earlier writes are performed, and every copy of the covered entries is gone. -/
  purged : Bool
  deriving DecidableEq, Repr

/-- An SRAM array of the part outside the block stores (R342). -/
inductive SramUnit where
  /-- Read cache of a core: key, word address (R181). -/
  | cache
  /-- Spline coefficients of a core: key of `Spline.coef` (R253). -/
  | spline
  /-- Data and instruction TLB of a core, TLB of a cluster: key, virtual page (R294). -/
  | dtlb
  | itlb
  | clusterTlb
  /-- Instruction cache of a core: key, virtual address of the block (R305). -/
  | icache
  /-- Array queue of a core: key, place of the word, 0 the oldest (R248). -/
  | queue
  /-- Intake of a cluster: key, place of the sheaf, 0 the oldest (R300). -/
  | intake
  deriving DecidableEq, Repr

/-- An error that a physical upset has left in an SRAM array, not read yet (R342). -/
structure SramError where
  unit : SramUnit
  /-- Logical core or cluster that holds the array. -/
  owner : Nat
  key : Nat
  /-- A double error, which SECDED does not correct. -/
  hard : Bool
  deriving DecidableEq, Repr

/-- A corrected line on its way back to its slice (R346). -/
structure Scrub where
  id : Nat
  line : Nat
  /-- A write has reached the line since the read. -/
  stale : Bool
  deriving DecidableEq, Repr

/-- A record of the error log (R344). -/
structure LogRec where
  seq : Nat
  kind : Nat
  domain : Nat
  location : Nat
  ctx : Nat
  count : Nat
  addr : Dword
  cycles : Nat
  deriving DecidableEq, Repr

/-- Error log, health, remap and power registers: the device-wide registers of the host interface. -/
structure Device where
  /-- Error-log ring (R344). [base 0, n 4, head 0, tail 0] -/
  logBase : Dword
  logN : Nat
  logHead : Word
  logTail : Word
  logSeq : Nat
  /-- Records that await a free slot (R344). -/
  logWait : List LogRec
  /-- Health: replace bit and threshold (R357). [0, 4,096] -/
  replace : Bool
  threshold : BitVec 16
  /-- Notifications of REPLACE_REQUESTED that system software has been sent (R357). [0] -/
  replaceNotes : Nat
  /-- Corrected errors of the last hour, oldest first: channel and time (R357). [none] -/
  corrected : List (Nat × Nat)
  /-- Management configuration: hours of a gleaner's pass and of the test period (R345, R358). [24, 24] -/
  gleanHours : Nat
  testHours : Nat
  /-- Dies whose spare site is used or retired (R356). -/
  nospare : List Nat
  /-- Remap table: the site that a logical cluster occupies, plus 1; 0 for its own (R6). Site s below
  192 is the first home of cluster s, site 192 + d the spare of die d. Kept through part reset. -/
  remap : Sparse Nat
  /-- The site that is a die's spare now, plus 1; 0 for site 192 + d (R358). Kept through reset. -/
  spare : Sparse Nat
  /-- Absent logical clusters (R7). -/
  absent : List Nat
  /-- Spare banks used, by DRAM layer (R356). Kept through reset. [0] -/
  banksUsed : Sparse Nat
  /-- Site under test on a die: die, logical cluster that left it, and site (R358). [none] -/
  testing : List (Nat × Nat × Nat)
  /-- Logical clusters whose test a PDIS region or a pre-emption defers (R317, R358). [none] -/
  testWanted : List Nat
  /-- Rows read by each gleaner (R345): next line by channel. -/
  gleaner : Sparse Nat
  /-- DRAM lines with a correctable error, by line address (R342, R346). -/
  softLines : List Nat
  /-- DRAM words that read back as uncorrectable, by word address (R342, R343). -/
  badWords : List Nat
  /-- Lower-tier words that read back as uncorrectable (R343). -/
  lowBad : List Nat
  /-- Resends of a link in a row: key of the link (R342). -/
  resends : Sparse Nat
  /-- Ports taken down (R374). -/
  downPorts : List Nat
  /-- Device coordinates (R372). [0] -/
  coords : Dword
  /-- Fabric route table: port or 0xFF (R374). [0xFF, DESIGN CHOICE log row 2] -/
  routes : Sparse Nat
  /-- PF error register: offset of the last ignored write (R366). [0] -/
  pfError : Dword
  /-- Debug state: 0 LOCKED, 1 TENANT, 2 VENDOR (R381). [0] -/
  debug : Nat
  /-- A verified unlock waits for its kills to end (R381). [no] -/
  unlocking : Bool
  /-- Minimum security version that the fuses hold (R379). Kept through reset. [0, DESIGN CHOICE log row 6] -/
  fuseMin : BitVec 8
  /-- Challenge in the unlock mailbox (R381). [none until the part is up] -/
  challenge : Option (BitVec 384)
  /-- Attestation mailbox: the last report, 224 bytes (R380). [empty] -/
  attest : List Byte
  /-- Power control: cap and tolerance (R383). [1,800; 0] -/
  cap : BitVec 16
  tolerance : Word
  /-- Power status (R383): 0 until the sensors are first sampled, once the part is up. [0] -/
  sampled : Bool
  temp : BitVec 8
  /-- Clock steps of 125 MHz below 2.0 GHz, by die (R387). [0] -/
  slow : Sparse Nat
  /-- Time up to which the causes to throttle are known not to have been clear, by slowed die (R387). [0] -/
  slowAt : Sparse Nat
  /-- Idle state of a cluster (R384): 0, 1 or 2. -/
  idle : Sparse Nat
  /-- Time at which a cluster was last found not idle (R384). [0] -/
  busyAt : Sparse Nat
  /-- Time of the last use of the host link (R384). [0] -/
  linkAt : Nat
  /-- Time of the last PF write of the tolerance (R390). [none] -/
  toleranceAt : Option Nat
  /-- Idle state of the device: 0, 3 or 4 (R384). -/
  deviceIdle : Nat
  /-- Held in part reset by a thermal stop (R387). -/
  thermal : Bool
  /-- Bring-up step that runs next, 1 to 6, or 7 when done (R389). [1] -/
  boot : Nat
  /-- Time at which that step started (R389). [0] -/
  bootAt : Nat
  /-- Firmware image that step 2 has loaded: 0 A, 1 B (R379). [0] -/
  image : Nat
  bootFailed : Bool
  /-- The reset was a power-on (R388, R389 step 5). -/
  powerOn : Bool
  /-- Boot status word (R372): code and security version. -/
  bootCode : BitVec 8
  secVersion : BitVec 8
  /-- Last value returned to the host or the sideband (R364, R390). -/
  reply : Dword
  /-- MSI-X vectors raised, newest first: function and vector (R308). -/
  msi : List (Nat × Nat)
  /-- Reports of the scheduler, newest first: core, and warps that the pre-emption saved (R315,
  R323). [none] -/
  saves : List (Nat × Nat)
  /-- Acknowledgements sent to other devices, newest first: status and data (R376). -/
  acks : List (AckStatus × Wide)
  /-- Packets forwarded for other devices: port, device, payload (R374). -/
  forwarded : List (Nat × Nat × Nat)
  /-- Packets of a down port that wait (R374). -/
  stuck : List (Nat × Nat)
  deriving DecidableEq, Repr

/-- The whole part (R1). -/
structure State where
  /-- Cycle counter of the cores (R39 %cyclo). [0, DESIGN CHOICE log row 1] -/
  now : Nat
  /-- Next number for a result, access, command, message, grid and the like (the model's own). -/
  nextId : Nat
  /-- Device DRAM by physical address (R1, R389). [zero] -/
  mem : Memory
  /-- Host memory (R363). [zero, DESIGN CHOICE log row 3] -/
  host : Memory
  /-- Lower tier (R179, R332). [zero, DESIGN CHOICE log row 3] -/
  low : Memory
  dev : Device
  vfs : List Vf
  ctxs : List Context
  launches : List Launch
  grids : List Grid
  blocks : List Block
  cores : List Core
  clusters : List Cluster
  /-- Memory accesses in flight, oldest first (R183). -/
  accs : List Acc
  /-- Engine commands not ended, oldest first (R222). -/
  cmds : List Cmd
  messages : List Message
  credits : List Credit
  treePkts : List TreePkt
  snaps : List SnapReq
  tlbis : List TlbiReq
  scrubs : List Scrub
  /-- Posted sheaves of killed contexts, until a handler is done with them (R304). -/
  cancelled : List Sheaf
  /-- Code pages that fetch has met (R305). -/
  code : List CodePage
  /-- Upsets in SRAM arrays that nothing has read yet (R342). [none] -/
  sram : List SramError
  /-- Physical upsets to come in twin execution: warp, and how many pairs differ (R349). -/
  upsets : List (WarpRef × Nat)
  /-- The issuing warp of the word that runs (the model's own). -/
  cur : WarpRef
  /-- Warps packed into the current window and not issued yet (R88). -/
  issue : List WarpRef
  /-- Warps packed by the windows of one core in this round of windows, until its last pipe has had its
  window (R88, R173; the model's own). -/
  packed : List WarpRef
  /-- Stalled warps whose word would go on if it were tried now (R88; the model's own). -/
  stirred : List WarpRef
  /-- The next window: core and pipe (R88). -/
  cursor : Nat × Nat
  /-- What happens next, in this order, before anything else (the model's own, log row 4). -/
  agenda : List Instr
  deriving DecidableEq, Repr

/-- A partition as system software finds it (R324, R338). -/
def Partition.reset : Partition :=
  { gen := 1, cut := none, frozen := none, last := none, touched := [], drained := none,
    active := 0, dest := 0, abort := false, share := 8, granary := none, permit := 0,
    granaryNow := 0 }

/-- A function record at reset (R366). -/
def Vf.reset (v : Nat) : Vf :=
  { id := v, pbase := 0, psize := 0, cores := 0, ctl := 0x701, slice := 2000, wbase := 0,
    wsize := 0, table := [], queues := [], devCap := 7, devq := [], devHead := 0, devTail := 0,
    posted := [],
    refusing := false,
    part := Partition.reset }

/-- Registers of a host queue at reset (R369). -/
def Queue.reset : Queue := { base := 0, ctl := 0x7002, tail := 0, head := 0 }

/-- The device-wide registers at a power-on reset (R344, R357, R383, R388, R389). -/
def Device.reset : Device :=
  { logBase := 0, logN := 4, logHead := 0, logTail := 0, logSeq := 1, logWait := [],
    replace := false, threshold := 4096, replaceNotes := 0, corrected := [], gleanHours := 24,
    testHours := 24, nospare := [], remap := [], spare := [],
    absent := [], banksUsed := [], testing := [], testWanted := [], gleaner := [], softLines := [], badWords := [],
    lowBad := [],
    resends := [], downPorts := [], coords := 0, routes := [], pfError := 0, debug := 0,
    unlocking := false, fuseMin := 0, challenge := none, attest := [], cap := 1800, tolerance := 0,
    sampled := false,
    temp := 0, slow := [], slowAt := [], idle := [], busyAt := [], linkAt := 0, toleranceAt := none,
    deviceIdle := 0, thermal := false, boot := 1, bootAt := 0, image := 0, bootFailed := false, powerOn := true,
    bootCode := 0, secVersion := 0, reply := 0, msi := [], saves := [], acks := [], forwarded := [], stuck := [] }

/-- The part right after a power-on reset, before the first bring-up step (R388, R389): every
function disabled, nothing resident, memory with nothing listed. -/
def State.reset : State :=
  { now := 0, nextId := 1, mem := [], host := [], low := [], dev := Device.reset, vfs := [],
    ctxs := [], launches := [], grids := [], blocks := [], cores := [], clusters := [], accs := [],
    cmds := [], messages := [], credits := [], treePkts := [], snaps := [], tlbis := [],
    scrubs := [], cancelled := [], code := [], sram := [], upsets := [], cur := { blk := 0, slot := 0 }, issue := [], packed := [],
    stirred := [], cursor := (0, 0),
    agenda := [] }

/-- The faults that stop the model. The part has no such stop: a fault of R44 is a next state with
its record written (R306). -/
inductive Fault where
  /-- A device physical address beyond the DRAM of R1: raised by an access whose page table entry
  names a frame that no slice holds. Safe: the spec gives no such memory. -/
  | noSuchMemory (pa : Nat)
  deriving DecidableEq, Repr

/-- The reasons for which the model gives an instruction no meaning. -/
inductive Refusal where
  /-- Not modelled yet: raised by an arm of Dispatch alone. Safe: the run ends. -/
  | notModelled (mnemonic : String)
  deriving DecidableEq, Repr

/-- The three outcomes of a step. -/
abbrev Out : Type := Host.Outcome State Fault Refusal

end Sys2Proof.Machine
end

