-- ==== Sys2Proof/Machine/Fp.lean ====
section
/-!
DEFINITION. Element formats and rounding (R54 to R64): a value is decoded exactly, an operation is
computed exactly, and one rounding narrows it, with the flags of R65.
-/

namespace Sys2Proof.Machine

/-- The sticky flags by name (R65). -/
def Flags.nv : Flags := 1
def Flags.dz : Flags := 2
def Flags.of : Flags := 4
def Flags.uf : Flags := 8
def Flags.nx : Flags := 16
def Flags.sat : Flags := 32
def Flags.ic : Flags := 64

/-- A floating element format (R54): widths of e and m, bias, and how its top codes read. -/
structure Fmt where
  ebits : Nat
  mbits : Nat
  bias : Nat
  /-- e all ones encodes infinity and NaN. -/
  ieee : Bool
  /-- The codes with e and m all ones are NaN (e4m3). -/
  topNan : Bool
  deriving DecidableEq, Repr

def Fmt.f64 : Fmt := { ebits := 11, mbits := 52, bias := 1023, ieee := true, topNan := false }
def Fmt.f32 : Fmt := { ebits := 8, mbits := 23, bias := 127, ieee := true, topNan := false }
def Fmt.h16 : Fmt := { ebits := 5, mbits := 10, bias := 15, ieee := true, topNan := false }
def Fmt.b16 : Fmt := { ebits := 8, mbits := 7, bias := 127, ieee := true, topNan := false }
def Fmt.e5m2 : Fmt := { ebits := 5, mbits := 2, bias := 15, ieee := true, topNan := false }
def Fmt.e4m3 : Fmt := { ebits := 4, mbits := 3, bias := 7, ieee := false, topNan := true }
def Fmt.e2m1 : Fmt := { ebits := 2, mbits := 1, bias := 1, ieee := false, topNan := false }

/-- Bits of one element. -/
def Fmt.width (f : Fmt) : Nat := 1 + f.ebits + f.mbits

/-- The bits of sign, exponent field and mantissa field. -/
def Fmt.join (f : Fmt) (neg : Bool) (e m : Nat) : Nat :=
  (if neg then 2 ^ (f.ebits + f.mbits) else 0) + e * 2 ^ f.mbits + m

/-- The canonical NaN (R58); e2m1 has none, and reads 0x0 there (R62). -/
def Fmt.nan (f : Fmt) : Nat :=
  if f.ieee then f.join false (2 ^ f.ebits - 1) (2 ^ (f.mbits - 1))
  else if f.topNan then f.join false (2 ^ f.ebits - 1) (2 ^ f.mbits - 1)
  else 0

/-- Infinity of the formats that have one. -/
def Fmt.inf (f : Fmt) (neg : Bool) : Nat := f.join neg (2 ^ f.ebits - 1) 0

/-- Largest finite code (R54). -/
def Fmt.maxFinite (f : Fmt) (neg : Bool) : Nat :=
  if f.ieee then f.join neg (2 ^ f.ebits - 2) (2 ^ f.mbits - 1)
  else if f.topNan then f.join neg (2 ^ f.ebits - 1) (2 ^ f.mbits - 2)
  else f.join neg (2 ^ f.ebits - 1) (2 ^ f.mbits - 1)

/-- An exact value: NaN, an infinity, or ±mag · 2^(exp − 8,192). A zero keeps its sign. -/
inductive Val where
  | nan
  | inf (neg : Bool)
  | fin (neg : Bool) (mag : Nat) (exp : Nat)
  deriving DecidableEq, Repr

/-- The offset of `Val.fin`'s exponent: large enough for every product of the part. -/
def expZero : Nat := 8192

/-- Decodes an element (R54, R57: subnormals keep their value). -/
def Fmt.decode (f : Fmt) (x : Nat) : Val :=
  let m := x % 2 ^ f.mbits
  let e := x / 2 ^ f.mbits % 2 ^ f.ebits
  let neg := x / 2 ^ (f.ebits + f.mbits) % 2 == 1
  if f.ieee && e == 2 ^ f.ebits - 1 then (if m == 0 then .inf neg else .nan)
  else if f.topNan && e == 2 ^ f.ebits - 1 && m == 2 ^ f.mbits - 1 then .nan
  else if e == 0 then .fin neg m (expZero + 1 - f.bias - f.mbits)
  else .fin neg (2 ^ f.mbits + m) (expZero + e - f.bias - f.mbits)

/-- e8m0 (R55): 2^(e − 127), NaN for 0xFF. -/
def decodeE8m0 (x : Nat) : Val :=
  if x % 256 == 255 then .nan else .fin false 1 (expZero + x % 256 - 127)

/-- The rounding modes of MODE.rd (R60). SR carries its draw and the number of bits of F it is
compared with (R61). -/
inductive Rd where
  | rne | rtz | rdn | rup | rna
  | sr (bits : Nat) (draw : Nat)
  deriving DecidableEq, Repr

/-- Whether a magnitude `q + rem/2^k` (plus a little when `sticky`) rounds away from zero. -/
def Rd.up (rd : Rd) (neg : Bool) (q rem k : Nat) (sticky : Bool) : Bool :=
  let inexact := rem != 0 || sticky
  let half := 2 ^ (k - 1)
  match rd with
  | .rne => k != 0 && (rem > half || (rem == half && (sticky || q % 2 == 1)))
  | .rtz => false
  | .rdn => neg && inexact
  | .rup => !neg && inexact
  | .rna => k != 0 && rem >= half
  | .sr n r => inexact && r < (rem <<< n) >>> k

/-- Truncates `mag·2^exp` to a multiple of 2^ulp and rounds it: the multiple, and inexact. -/
def Rd.apply (rd : Rd) (neg : Bool) (mag exp ulp : Nat) (sticky : Bool) : Nat × Bool :=
  if ulp ≤ exp then (mag <<< (exp - ulp), sticky)
  else
    let k := ulp - exp
    let q := mag >>> k
    let rem := mag % 2 ^ k
    (if rd.up neg q rem k sticky then q + 1 else q, rem != 0 || sticky)

/-- The result of an overflow (R62). -/
def Fmt.overflow (f : Fmt) (rd : Rd) (sat neg : Bool) : Nat :=
  if f.ieee then
    if sat then f.maxFinite neg
    else match rd with
      | .rne | .rna | .sr _ _ => f.inf neg
      | .rtz => f.maxFinite neg
      | .rdn => if neg then f.inf true else f.maxFinite false
      | .rup => if neg then f.maxFinite true else f.inf false
  else if f.topNan then (if sat then f.maxFinite neg else f.nan)
  else f.maxFinite neg

/-- Rounds a non-zero magnitude into the format (R60 to R62, R65): code and flags. With `sticky`
the exact magnitude lies strictly between `mag` and `mag + 1` units. -/
def Fmt.roundMag (f : Fmt) (rd : Rd) (sat neg : Bool) (mag exp : Nat) (sticky : Bool) :
    Nat × Flags :=
  let p := f.mbits + 1
  let free := exp + (Nat.log2 mag + 1) - p
  let least := expZero + 1 - f.bias - f.mbits
  let ulp := Nat.max free least
  let (q, inexact) := rd.apply neg mag exp ulp sticky
  let (q, ulp) := if q == 2 ^ p then (2 ^ f.mbits, ulp + 1) else (q, ulp)
  let nx : Flags := if inexact then Flags.nx else 0
  if q < 2 ^ f.mbits then
    let (qf, _) := rd.apply neg mag exp free sticky
    let tiny := free < least && qf < 2 ^ (f.mbits + least - free) && qf != 0
    (f.join neg 0 q, nx ||| (if tiny && inexact then Flags.uf else 0))
  else
    let e := ulp + f.mbits + f.bias - expZero
    let m := q - 2 ^ f.mbits
    let ovf := if f.ieee then e ≥ 2 ^ f.ebits - 1
      else e ≥ 2 ^ f.ebits || (f.topNan && e == 2 ^ f.ebits - 1 && m == 2 ^ f.mbits - 1)
    if ovf then (f.overflow rd sat neg, Flags.of ||| Flags.nx)
    else
      let (qf, _) := rd.apply neg mag exp free sticky
      let tiny := free < least && qf < 2 ^ (f.mbits + least - free)
      (f.join neg e m, nx ||| (if tiny && inexact then Flags.uf else 0))

/-- Rounds an exact value into a format: Round(fmt, x, rd) of R60 to R62, R58. -/
def Fmt.round (f : Fmt) (rd : Rd) (sat : Bool) (x : Val) : Nat × Flags :=
  match x with
  | .nan => (f.nan, if f.ieee || f.topNan then 0 else Flags.nv)
  | .inf neg =>
    if f.ieee then (f.inf neg, 0)
    else (f.overflow rd sat neg, Flags.nv)
  | .fin neg mag exp =>
    if mag == 0 then (f.join neg 0 0, 0) else f.roundMag rd sat neg mag exp false

/-- Negation of an exact value. -/
def Val.neg : Val → Val
  | .nan => .nan
  | .inf s => .inf (!s)
  | .fin s m e => .fin (!s) m e

def Val.isNan : Val → Bool
  | .nan => true
  | _ => false

def Val.isZero : Val → Bool
  | .fin _ 0 _ => true
  | _ => false

def Val.isNeg : Val → Bool
  | .nan => false
  | .inf s => s
  | .fin s _ _ => s

/-- A term of an exact sum (R58): a value, or a product 0·∞. -/
inductive Term where
  | val (x : Val)
  | bad
  deriving DecidableEq, Repr

/-- An exact product as a term: NaN passes, 0·∞ is invalid (R58, R59). -/
def Val.mul (a b : Val) : Term :=
  match a, b with
  | .nan, _ => .val .nan
  | _, .nan => .val .nan
  | .inf s, .inf t => .val (.inf (s != t))
  | .inf s, .fin t m _ => if m == 0 then .bad else .val (.inf (s != t))
  | .fin s m _, .inf t => if m == 0 then .bad else .val (.inf (s != t))
  | .fin s m e, .fin t n g => .val (.fin (s != t) (m * n) (e + g - expZero))

/-- Adds two finite values exactly; an exact zero of unlike signs is +0, or −0 when `down`
(R59). -/
def addFin (down : Bool) (s : Bool) (m e : Nat) (t : Bool) (n g : Nat) : Val :=
  let x := Nat.min e g
  let a := m <<< (e - x)
  let b := n <<< (g - x)
  if s == t then .fin s (a + b) x
  else if a == b then .fin down 0 x
  else if a > b then .fin s (a - b) x
  else .fin t (b - a) x

/-- One exact addition of two values that are no pair of unlike infinities. -/
def Val.addExact (down : Bool) (a b : Val) : Val :=
  match a, b with
  | .nan, _ => .nan
  | _, .nan => .nan
  | .inf s, _ => .inf s
  | _, .inf t => .inf t
  | .fin s m e, .fin t n g => addFin down s m e t n g

def Term.isNan : Term → Bool
  | .val .nan => true
  | _ => false

def Term.isInf (neg : Bool) : Term → Bool
  | .val (.inf s) => s == neg
  | _ => false

def Term.toVal : Term → Val
  | .val x => x
  | .bad => .nan

/-- A sum formed exactly and rounded once (R58): its value and whether it is invalid. -/
def sumExact (down : Bool) (ts : List Term) : Val × Flags :=
  if ts.any Term.isNan then (.nan, 0)
  else if ts.any (· == .bad) || (ts.any (Term.isInf true) && ts.any (Term.isInf false)) then
    (.nan, Flags.nv)
  else match ts with
    | [] => (.fin false 0 expZero, 0)
    | t :: rest => (rest.foldl (fun acc u => acc.addExact down u.toVal) t.toVal, 0)

/-- Whether the rounding is RDN: then an exact zero sum of unlike signs is −0 (R59). -/
def Rd.down : Rd → Bool
  | .rdn => true
  | _ => false

/-- Round(fmt, Σ terms, rd). -/
def Fmt.roundSum (f : Fmt) (rd : Rd) (sat : Bool) (ts : List Term) : Nat × Flags :=
  let (x, fl) := sumExact rd.down ts
  if fl == 0 then f.round rd sat x else (f.nan, fl)

/-- a + b with one rounding (R136). -/
def Fmt.add (f : Fmt) (rd : Rd) (sat : Bool) (a b : Nat) : Nat × Flags :=
  f.roundSum rd sat [.val (f.decode a), .val (f.decode b)]

/-- a − b with one rounding (R136). -/
def Fmt.sub (f : Fmt) (rd : Rd) (sat : Bool) (a b : Nat) : Nat × Flags :=
  f.roundSum rd sat [.val (f.decode a), .val (f.decode b).neg]

/-- a · b with one rounding (R136). -/
def Fmt.mul (f : Fmt) (rd : Rd) (sat : Bool) (a b : Nat) : Nat × Flags :=
  f.roundSum rd sat [(f.decode a).mul (f.decode b)]

/-- Signs and sizes of two values that are no NaN: whether a < b, with −0 below +0 when
`zeros`. -/
def Val.lt (zeros : Bool) (a b : Val) : Bool :=
  match a, b with
  | .nan, _ => false
  | _, .nan => false
  | .inf s, .inf t => s && !t
  | .inf s, .fin _ _ _ => s
  | .fin _ _ _, .inf t => !t
  | .fin s m e, .fin t n g =>
    if m == 0 && n == 0 then zeros && s && !t
    else
      let x := Nat.min e g
      let p := m <<< (e - x)
      let q := n <<< (g - x)
      match s, t with
      | false, false => p < q
      | true, true => q < p
      | true, false => true
      | false, true => false

/-- Equality of values, with −0 = +0 (R145). -/
def Val.eq (a b : Val) : Bool :=
  !a.isNan && !b.isNan && !(Val.lt false a b) && !(Val.lt false b a)

/-- MIN and MAX of floats (R136): a NaN gives the canonical NaN, −0 is below +0, no flag. -/
def Fmt.minMax (f : Fmt) (max : Bool) (a b : Nat) : Nat :=
  let x := f.decode a
  let y := f.decode b
  if x.isNan || y.isNan then f.nan
  else if max then (if Val.lt true x y then b else a)
  else (if Val.lt true y x then b else a)

/-- Integral value chosen from a float by rd (R148): ±0 and ±∞ unchanged. The magnitude in units
of 1 and whether it changed. -/
def roundIntegral (rd : Rd) (neg : Bool) (mag exp : Nat) : Nat × Bool :=
  rd.apply neg mag exp expZero false

/-- FRINT (R148). -/
def Fmt.frint (f : Fmt) (rd : Rd) (a : Nat) : Nat × Flags :=
  match f.decode a with
  | .nan => (f.nan, 0)
  | .inf s => (f.inf s, 0)
  | .fin s m e =>
    if m == 0 then (f.join s 0 0, 0)
    else
      let (q, ch) := roundIntegral rd s m e
      if q == 0 then (f.join s 0 0, if ch then Flags.nx else 0)
      else ((f.roundMag .rne false s q expZero false).1, if ch then Flags.nx else 0)

/-- Float to integer (R63): the destination's width and signedness; code and flags. -/
def toInt (rd : Rd) (signed : Bool) (w : Nat) (x : Val) : Nat × Flags :=
  let top := if signed then 2 ^ (w - 1) - 1 else 2 ^ w - 1
  let low := if signed then 2 ^ (w - 1) else 0
  match x with
  | .nan => (0, Flags.nv)
  | .inf s => (if s then low else top, Flags.nv)
  | .fin s m e =>
    let (q, ch) := roundIntegral rd s m e
    let fl := if ch then Flags.nx else 0
    if s then
      if q > low then (low, Flags.nv) else ((2 ^ w - q) % 2 ^ w, fl)
    else if q > top then (top, Flags.nv) else (q, fl)

/-- An integer as an exact value. -/
def ofInt (signed : Bool) (w : Nat) (x : Nat) : Val :=
  if signed && x ≥ 2 ^ (w - 1) then .fin true (2 ^ w - x) expZero else .fin false x expZero

/-- Integer square root by bits, from the top: `fuel` result bits. -/
def isqrtBits (n : Nat) : Nat → Nat → Nat
  | 0, r => r
  | k + 1, r =>
    let c := r + 2 ^ k
    isqrtBits n k (if c * c ≤ n then c else r)

/-- ⌊√n⌋. -/
def isqrt (n : Nat) : Nat := isqrtBits n (Nat.log2 n / 2 + 1) 0

/-- Quotient of magnitudes with enough bits for any rounding: value, exponent, sticky. -/
def divMag (m e n g : Nat) : Nat × Nat × Bool :=
  let k := 128 + (Nat.log2 n + 1)
  let q := (m <<< k) / n
  (q, e + expZero - g - k, (m <<< k) % n != 0)

/-- FRCP (R154, R155). -/
def Fmt.frcp (f : Fmt) (rd : Rd) (sat : Bool) (a : Nat) : Nat × Flags :=
  match f.decode a with
  | .nan => (f.nan, 0)
  | .inf s => (f.join s 0 0, 0)
  | .fin s m e =>
    if m == 0 then (f.inf s, Flags.dz)
    else
      let (q, x, st) := divMag 1 expZero m e
      f.roundMag rd sat s q x st

/-- √ of a positive magnitude with 128 bits and more: value, exponent, sticky. -/
def sqrtMag (m e : Nat) : Nat × Nat × Bool :=
  let k := 256 + (e + 256) % 2
  let n := m <<< k
  let r := isqrt n
  (r, (e + expZero - k) / 2, r * r != n)

/-- FSQRT (R154, R155). -/
def Fmt.fsqrt (f : Fmt) (rd : Rd) (sat : Bool) (a : Nat) : Nat × Flags :=
  match f.decode a with
  | .nan => (f.nan, 0)
  | .inf s => if s then (f.nan, Flags.nv) else (f.inf false, 0)
  | .fin s m e =>
    if m == 0 then (f.join s 0 0, 0)
    else if s then (f.nan, Flags.nv)
    else
      let (q, x, st) := sqrtMag m e
      f.roundMag rd sat false q x st

/-- FRSQ (R154, R155): ⌊√(2^k / m)⌋ with k even in the value's exponent. -/
def Fmt.frsq (f : Fmt) (rd : Rd) (sat : Bool) (a : Nat) : Nat × Flags :=
  match f.decode a with
  | .nan => (f.nan, 0)
  | .inf s => if s then (f.nan, Flags.nv) else (f.join false 0 0, 0)
  | .fin s m e =>
    if m == 0 then (f.inf s, Flags.dz)
    else if s then (f.nan, Flags.nv)
    else
      let k := 512 + e % 2
      let n := 2 ^ k / m
      let r := isqrt n
      f.roundMag rd sat false r ((3 * expZero - k - e) / 2) (r * r * m != 2 ^ k)

/-- FSCALE (R152): A · 2^b, one rounding. -/
def Fmt.fscale (f : Fmt) (rd : Rd) (sat : Bool) (a : Nat) (bneg : Bool) (bmag : Nat) :
    Nat × Flags :=
  match f.decode a with
  | .nan => (f.nan, 0)
  | .inf s => (f.inf s, 0)
  | .fin s m e =>
    if m == 0 then (f.join s 0 0, 0)
    else
      let b := Nat.min bmag 4096
      f.roundMag rd sat s m (if bneg then e - b else e + b) false

/-- FCLASS (R153): the one bit of nine. -/
def Fmt.classBit (f : Fmt) (a : Nat) : Nat :=
  match f.decode a with
  | .nan => 8
  | .inf s => if s then 0 else 7
  | .fin s m _ =>
    if m == 0 then (if s then 3 else 4)
    else if m < 2 ^ f.mbits then (if s then 2 else 5)
    else (if s then 1 else 6)

end Sys2Proof.Machine
end

