-- ==== Sys2Proof/Machine/Flags.lean ====
section
/-!
DEFINITION. The status word (R65, R66): sticky flags, event and report; and the MODE fields (R41).
-/

namespace Sys2Proof.Machine

/-- %status with sticky flags merged in (R66). -/
def statusOr (st : Word) (fl : Flags) : Word := st ||| fl.setWidth 32

/-- %status with event and report replaced together (R66). -/
def statusEvent (st : Word) (ev : BitVec 8) (report : BitVec 16) : Word :=
  (report ++ ev ++ st.extractLsb' 0 8).setWidth 32

/-- What a write of %status stores: bit 7 reads 0 (R65). -/
def statusMask (x : Word) : Word := x &&& 0xFFFFFF7F

/-- Event codes of R65. -/
def evBusy : BitVec 8 := 1
def evKilled : BitVec 8 := 2
def evPartial : BitVec 8 := 3
def evSkipped : BitVec 8 := 4

/-- MODE.gd (R41). -/
def modeGd (m : Word) : BitVec 4 := m.extractLsb' 0 4

/-- MODE.ty (R41). -/
def modeTy (m : Word) : BitVec 4 := m.extractLsb' 4 4

/-- MODE.rd (R41). -/
def modeRd (m : Word) : BitVec 3 := m.extractLsb' 8 3

/-- MODE.sat (R41). -/
def modeSat (m : Word) : Bool := m.getLsbD 11

/-- The values that a write to %mode accepts (R42). -/
def modeValueOk (x : Word) : Bool :=
  x.extractLsb' 12 20 == 0 && modeTy x != 15 && modeRd x != 6 && modeRd x != 7

/-- MODE after SETMODE (R42). -/
def setmodeValue (m : Word) (sel : BitVec 4) (val : BitVec 12) : Word :=
  let pick (i : Nat) (mask : Word) : Word := if sel.getLsbD i then mask else 0
  let mask := pick 0 0x00F ||| pick 1 0x0F0 ||| pick 2 0x700 ||| pick 3 0x800
  (m &&& ~~~mask) ||| (val.setWidth 32 &&& mask)

end Sys2Proof.Machine
end

