-- ==== Sys2Proof/Machine/Ops.lean ====
section
/-!
DEFINITION. The named operations that every meaning shares: sparse stores and memory, the parts of
the state by name, translation (R291 to R294), writes at a slice with their generation (R326,
R330), TAKING A FAULT (R306 to R308) and returning from one (R321), killing a context (R320), and
the delivery of variable-latency results (R90 to R92).
-/

namespace Sys2Proof.Machine

/-! ## Sparse stores and memory -/

/-- The value under a key, or the default. -/
def sparseGet {α : Type} (d : α) : Sparse α → Nat → α
  | [], _ => d
  | (a, v) :: t, k => if a = k then v else sparseGet d t k

/-- A store without a key. -/
def sparseDel {α : Type} (m : Sparse α) (k : Nat) : Sparse α := m.filter fun x => x.1 != k

/-- Puts a value under a key, keeping the keys rising and no entry at the default. -/
def sparseSet {α : Type} [DecidableEq α] (d : α) : Sparse α → Nat → α → Sparse α
  | [], k, v => if v = d then [] else [(k, v)]
  | (a, x) :: t, k, v =>
    if k < a then (if v = d then (a, x) :: sparseDel t k else (k, v) :: (a, x) :: t)
    else if k = a then (if v = d then sparseDel t k else (k, v) :: t)
    else (a, x) :: sparseSet d t k v

/-- Keys strictly rising from above `lo`, and no value at the default. -/
def sparseWfFrom {α : Type} [DecidableEq α] (d : α) : Nat → Sparse α → Bool
  | _, [] => true
  | lo, (a, v) :: t => lo ≤ a && v ≠ d && sparseWfFrom d (a + 1) t

/-- The one canonical form of a sparse store. -/
def sparseWf {α : Type} [DecidableEq α] (d : α) (m : Sparse α) : Bool := sparseWfFrom d 0 m

/-- One byte; an unlisted address reads 0 (R389 step 5; log row 3 beyond device DRAM). -/
def memGet (m : Memory) (a : Nat) : Byte := sparseGet 0 m a

/-- Writes one byte. -/
def memSet (m : Memory) (a : Nat) (x : Byte) : Memory := sparseSet 0 m a x

/-- The canonical form of a memory. -/
def Memory.wf (m : Memory) : Bool := sparseWf 0 m

/-- `n` bytes from `a`, little-endian (R29). -/
def readLE (m : Memory) : Nat → Nat → Nat
  | _, 0 => 0
  | a, n + 1 => (memGet m a).toNat + 256 * readLE m (a + 1) n

/-- Writes the low `n` bytes of `x` from `a` on, little-endian. -/
def writeLE (m : Memory) : Nat → Nat → Nat → Memory
  | _, 0, _ => m
  | a, n + 1, x => writeLE (memSet m a (BitVec.ofNat 8 x)) (a + 1) n (x / 256)

/-- `n` bytes as a list. -/
def readBytes (m : Memory) : Nat → Nat → List Byte
  | _, 0 => []
  | a, n + 1 => memGet m a :: readBytes m (a + 1) n

/-- Writes a list of bytes from `a` on. -/
def writeBytes (m : Memory) : Nat → List Byte → Memory
  | _, [] => m
  | a, x :: t => writeBytes (memSet m a x) (a + 1) t

/-- Little-endian value of a list of bytes. -/
def leOf : List Byte → Nat
  | [] => 0
  | x :: t => x.toNat + 256 * leOf t

/-- The low `n` bytes of a value, first at the lowest address. -/
def leBytes : Nat → Nat → List Byte
  | 0, _ => []
  | n + 1, x => BitVec.ofNat 8 x :: leBytes n (x / 256)

/-- Puts a number into a rising list of numbers. -/
def insertNat (k : Nat) : List Nat → List Nat
  | [] => [k]
  | a :: t => if k < a then k :: a :: t else if k = a then a :: t else a :: insertNat k t

/-! ## Parts of the state by name -/

def State.block? (s : State) (id : Nat) : Option Block := s.blocks.find? (·.id == id)
def State.grid? (s : State) (id : Nat) : Option Grid := s.grids.find? (·.id == id)
def State.ctx? (s : State) (id : Nat) : Option Context := s.ctxs.find? (·.id == id)
def Block.warp? (b : Block) (slot : Nat) : Option Warp := b.warps.find? (·.slot == slot)

/-- Place of a warp in the warp file of its core (R81, R316). -/
def Block.place (b : Block) (slot : Nat) : Nat := b.places.getD slot slot

def Block.updWarp (b : Block) (slot : Nat) (f : Warp → Warp) : Block :=
  { b with warps := b.warps.map fun w => if w.slot == slot then f w else w }

/-- A write of a b register: it clears the register's mark (R110, R312). -/
def Block.setB (b : Block) (i : Nat) (x : Word) : Block :=
  { b with b := sparseSet 0 b.b i x, bMarks := sparseSet 0 b.bMarks i 0 }

def State.updBlock (s : State) (id : Nat) (f : Block → Block) : State :=
  { s with blocks := s.blocks.map fun b => if b.id == id then f b else b }

def State.updWarp (s : State) (r : WarpRef) (f : Warp → Warp) : State :=
  s.updBlock r.blk fun b => b.updWarp r.slot f

def State.updGrid (s : State) (id : Nat) (f : Grid → Grid) : State :=
  { s with grids := s.grids.map fun g => if g.id == id then f g else g }

def State.updCtx (s : State) (id : Nat) (f : Context → Context) : State :=
  { s with ctxs := s.ctxs.map fun c => if c.id == id then f c else c }

def State.warp? (s : State) (r : WarpRef) : Option (Block × Warp) :=
  match s.block? r.blk with
  | none => none
  | some b => match b.warp? r.slot with
    | none => none
    | some w => some (b, w)

/-- A core of which the state lists nothing. -/
def Core.reset (c : Nat) : Core :=
  { id := c, cache := [], dtlb := [], itlb := [], icache := [], ahead := none, queue := [],
    latch := none, spline := none, savedSplines := [], suspect := false, wanted := false,
    slices := [], expiring := none, turns := [], evictions := 0 }

def State.core (s : State) (c : Nat) : Core := (s.cores.find? (·.id == c)).getD (Core.reset c)

/-- Replaces the item with the same key, or adds it behind. -/
def putBy {α : Type} (key : α → Nat) (x : α) : List α → List α
  | [] => [x]
  | y :: t => if key y = key x then x :: t else y :: putBy key x t

def State.updCore (s : State) (c : Nat) (f : Core → Core) : State :=
  { s with cores := putBy Core.id (f (s.core c)) s.cores }

def Cluster.reset (c : Nat) : Cluster := { id := c, tlb := [], intake := [] }

def State.cluster (s : State) (c : Nat) : Cluster :=
  (s.clusters.find? (·.id == c)).getD (Cluster.reset c)

def State.updCluster (s : State) (c : Nat) (f : Cluster → Cluster) : State :=
  { s with clusters := putBy Cluster.id (f (s.cluster c)) s.clusters }

def State.vf (s : State) (v : Nat) : Vf := (s.vfs.find? (·.id == v)).getD (Vf.reset v)

def State.updVf (s : State) (v : Nat) (f : Vf → Vf) : State :=
  { s with vfs := putBy Vf.id (f (s.vf v)) s.vfs }

def State.updDev (s : State) (f : Device → Device) : State := { s with dev := f s.dev }

/-- A fresh number. -/
def State.fresh (s : State) : State := { s with nextId := s.nextId + 1 }

/-- The context that a block belongs to. -/
def State.ctxOf (s : State) (b : Block) : Nat :=
  match s.grid? b.grid with
  | some g => g.ctx
  | none => 0

/-- A context exists while it is created and not yet destroyed (R368). -/
def State.ctxAlive (s : State) (c : Nat) : Bool :=
  match s.ctx? c with
  | some x => !x.dead
  | none => false

/-- Logical cluster of a logical core (R2). -/
def clusterOf (core : Nat) : Nat := core / 4

/-- Every warp of the part with its name. -/
def State.warps (s : State) : List (WarpRef × Block × Warp) :=
  s.blocks.flatMap fun b => b.warps.map fun w => ({ blk := b.id, slot := w.slot }, b, w)

/-- Full mask of a width. -/
def fullMask (width : Nat) : Mask := BitVec.ofNat 64 (2 ^ width - 1)

/-- The lanes of a mask, ascending. -/
def lanesOf (width : Nat) (m : Mask) : List Nat := (List.range width).filter fun l => m.getLsbD l

/-- The mask of a list of lanes. -/
def maskOf : List Nat → Mask
  | [] => 0
  | l :: t => (1 <<< l) ||| maskOf t

/-! ## The part as the host and the fabric find it (R384, R385, R389) -/

/-- Bring-up is complete: the host link answers (R389). -/
def State.up (s : State) : Bool := s.dev.boot == 7 && !s.dev.thermal

/-- The host link is used (R384). -/
def State.onLink (s : State) : State := s.updDev fun d => { d with linkAt := s.now }

/-- What the host does once the part is up, over its link; nothing before. -/
def State.host' (s : State) (f : State → State) : Out := .next (if s.up then f s.onLink else s)

/-- A wake event of the device (R385). -/
def State.wake (s : State) : State := s.updDev fun d => { d with deviceIdle := 0 }

/-- A host access that reaches the device: it wakes it (R385). -/
def State.hostIn (s : State) (f : State → State) : Out := s.host' fun s => f s.wake

/-- A wake event of a cluster (R385). -/
def Device.rouse (d : Device) (cluster : Nat) : Device :=
  { d with idle := sparseSet 0 d.idle cluster 0, deviceIdle := 0 }

/-! ## The error log (R344) -/

/-- Two records of one kind, domain and location. -/
def LogRec.like (x y : LogRec) : Bool :=
  x.kind == y.kind && x.domain == y.domain && x.location == y.location

/-- The first record that a new one is like counts it too. -/
def countLike (r : LogRec) : List LogRec → List LogRec
  | [] => []
  | x :: t => if x.like r then { x with count := Nat.min 65535 (x.count + 1) } :: t else x :: countLike r t

/-- Adds a record to those that await a slot; past 4,096 waiting, records of kinds 1 and 4 merge into one of
their domain and location. -/
def logWaiting (ws : List LogRec) (r : LogRec) : List LogRec × Bool :=
  if ws.length ≥ 4096 && (r.kind == 1 || r.kind == 4) && ws.any (·.like r) then (countLike r ws, false)
  else (ws ++ [r], true)

/-- Domain codes of R344. -/
def domainCode : Domain → Nat
  | .dram => 0 | .sram => 1 | .regFile => 2 | .torus => 3 | .fleton => 4 | .ucie => 5
  | .pipe => 6 | .pair => 7 | .site => 8

/-- Logs one event (R344). -/
def State.log (s : State) (kind : Nat) (domain : Domain) (location ctx : Nat) (addr : Dword) :
    State :=
  let r : LogRec :=
    { seq := s.dev.logSeq, kind, domain := domainCode domain, location, ctx, count := 1, addr,
      cycles := s.now }
  let (ws, new) := logWaiting s.dev.logWait r
  s.updDev fun d => { d with logWait := ws, logSeq := if new then d.logSeq + 1 else d.logSeq }

/-! ## Corrected reads (R342, R346, R347, R357) -/

/-- The slice of a physical address, in lines of 128 bytes (R180), and its DRAM channel among the four
of that slice (R4; which of the four is firmware's, log row 9). -/
def sliceOf (pa : Nat) : Nat := pa / 128 % 192
def channelOf (pa : Nat) : Nat := 4 * sliceOf pa + pa / 128 / 192 % 4

/-- Cycles of one hour at 2.0 GHz. -/
def cyclesPerHour : Nat := 7200000000000

/-- Sets REPLACE_REQUESTED, logs it and notifies system software, unless it is set (R357). -/
def State.requestReplace (s : State) (domain : Domain) (location : Nat) : State :=
  if s.dev.replace then s
  else (s.updDev fun d => { d with replace := true, replaceNotes := d.replaceNotes + 1 }).log 0x0F
    domain location 0xFFFF 0

/-- Counts a corrected error of a channel; more than the threshold in one hour asks for replacement
(R357). -/
def State.countCorrected (s : State) (chan : Nat) : State :=
  let recent := (s.dev.corrected.filter fun x => s.now < x.2 + cyclesPerHour) ++ [(chan, s.now)]
  let s := s.updDev fun d => { d with corrected := recent }
  let n := (recent.filter (·.1 == chan)).length
  if s.dev.threshold != 0 && n > s.dev.threshold.toNat then s.requestReplace .dram chan else s

/-- A read of a line with a correctable error: logged, counted, and the corrected line submitted to
its slice as a write-back (R346, R347). -/
def State.correct (s : State) (ctx line : Nat) : State :=
  let chan := channelOf line
  let t := (s.log 1 .dram chan ctx (BitVec.ofNat 64 line)).countCorrected chan
  { t.fresh with scrubs := t.scrubs ++ [{ id := t.nextId, line := line, stale := false }] }

/-- A read of `n` bytes of DRAM by any agent corrects the lines with a correctable error that it
touches (R347). -/
def State.correctSpan (s : State) (ctx pa n : Nat) : State :=
  (s.dev.softLines.filter fun l => l < pa + n && pa < l + 128).foldl (fun s l => s.correct ctx l) s

/-- Whether `n` bytes hold a word with an uncorrectable error. -/
def State.spanBad (s : State) (pa n : Nat) : Bool :=
  s.dev.badWords.any fun a => a < pa + n && pa < a + 4

/-- A read of `n` bytes of DRAM by any agent: what it corrects, and the record of an uncorrectable error
that it finds (R344, R347). -/
def State.readSpan (s : State) (ctx pa n : Nat) : State :=
  let s := s.correctSpan ctx pa n
  if s.spanBad pa n then s.log 2 .dram (channelOf pa) ctx (BitVec.ofNat 64 pa) else s

/-- A read of an SRAM array for a core, at the keys that `p` names: a correctable error is corrected, written
back and logged, a double one logged; answers the keys of those (R342, R344). -/
def State.readSram (s : State) (unit : SramUnit) (owner core ctx : Nat) (p : Nat → Bool) : List Nat × State :=
  let hits := s.sram.filter fun e => e.unit == unit && e.owner == owner && p e.key
  if hits.isEmpty then ([], s)
  else
    let t := hits.foldl (fun (s : State) e => s.log (if e.hard then 2 else 1) .sram core ctx 0) s
    ((hits.filter (·.hard)).map SramError.key, { t with sram := t.sram.filter fun e => !hits.contains e })

/-- An SRAM array is written at the keys that `p` names: no error is left there (R342). -/
def State.writeSram (s : State) (unit : SramUnit) (owner : Nat) (p : Nat → Bool) : State :=
  if s.sram.isEmpty then s
  else { s with sram := s.sram.filter fun e => !(e.unit == unit && e.owner == owner && p e.key) }

/-- The oldest entry of a queue in SRAM leaves: those behind it move up (R342). -/
def State.shiftSram (s : State) (unit : SramUnit) (owner : Nat) : State :=
  let t := s.writeSram unit owner (· == 0)
  if t.sram.isEmpty then t
  else { t with sram := t.sram.map fun e =>
    if e.unit == unit && e.owner == owner then { e with key := e.key - 1 } else e }

/-- The oldest entry of a queue in SRAM is read: whether it holds a double error, which stays with it until it
leaves (R342). `first` says that it is read for the first time. -/
def State.peekSram (s : State) (unit : SramUnit) (owner core ctx : Nat) (first : Bool) : Bool × State :=
  let bad := s.sram.filter fun e => e.unit == unit && e.owner == owner && e.key == 0 && e.hard
  if !first then (!bad.isEmpty, s)
  else
    let t := (s.readSram unit owner core ctx (· == 0)).2
    (!bad.isEmpty, if bad.isEmpty then t else { t with sram := t.sram ++ bad })

/-! ## Generations and writes at a slice (R324 to R331) -/

/-- The virtual function whose partition holds a physical address (R366). -/
def State.vfAt (s : State) (pa : Nat) : Option Nat :=
  (s.vfs.find? fun v => v.psize != 0 && v.pbase.toNat ≤ pa
    && pa < v.pbase.toNat + v.psize.toNat).map Vf.id

/-- The generation that a unit has adopted for a partition (R325, R329): the old one until it has
adopted the grant in progress. Core c is unit c, slice c is unit 768 + c. -/
def Partition.adopted (p : Partition) (unit : Nat) : Dword :=
  match p.cut with
  | some c => if c.adopted.contains unit then p.gen else p.gen - 1
  | none => p.gen

/-- A unit adopts the newest generation of a partition (R325). -/
def State.adopt (s : State) (v unit : Nat) : State :=
  match (s.vf v).part.cut with
  | none => s
  | some c =>
    let cut : Cut := { c with adopted := insertNat unit c.adopted }
    s.updVf v fun f => { f with part := { f.part with cut := some cut } }

/-- Core and slice adopt the newest generation from each other's tags (R325). -/
def State.exchangeTags (s : State) (core pa : Nat) : State :=
  match s.vfAt pa with
  | none => s
  | some v =>
    let p := (s.vf v).part
    if p.adopted core == p.gen || p.adopted (768 + sliceOf pa) == p.gen then
      (s.adopt v core).adopt v (768 + sliceOf pa)
    else s

/-- Units that exchange tags: if one has adopted the newest generation, each does (R325). -/
def State.shareTags (s : State) (v : Nat) (units : List Nat) : State :=
  let p := (s.vf v).part
  if units.any fun u => p.adopted u == p.gen then units.foldl (fun s u => s.adopt v u) s else s

/-- A packet that carries the tag of generation `gen` reaches a unit (R325). -/
def State.takeTag (s : State) (v unit : Nat) (gen : Dword) : State :=
  if gen == (s.vf v).part.gen then s.adopt v unit else s

/-- Lines that `n` bytes at `pa` lie in. -/
def linesOf (pa n : Nat) : List Nat :=
  if n == 0 then [] else (List.range ((pa % 128 + n + 127) / 128)).map fun i => pa / 128 * 128 + 128 * i

/-- A core and the slices of `n` bytes exchange tags. -/
def State.exchangeSpan (s : State) (core pa n : Nat) : State :=
  (linesOf pa n).foldl (fun s a => s.exchangeTags core a) s

/-- A granule is kept while the frozen image may still need it (R330). -/
def Frozen.kept (f : Frozen) (granule : Nat) : Bool :=
  !f.begun || (if f.full then f.next ≤ granule else f.drain.contains granule)

/-- Granules left to drain (R332, R334); until the wain begins, those that frozen writes have reached
(R341). -/
def Frozen.left (f : Frozen) : Nat :=
  if f.full && f.begun then (f.stop - f.next) / 4096 else f.drain.length

/-- Ends the frozen image of a partition, released or aborted: the lower-tier copy is no base (R333). -/
def Partition.endFrozen (p : Partition) (how : FrozenEnd) : Partition :=
  match p.frozen with
  | none => p
  | some f => { p with frozen := none, drained := none, last := some (f.gen, how, f.full, f.left) }

/-- What a write does to a partition before it is performed, by the table of R330: the partition
with the claim and copy made, or none when the write must wait for a granary granule (R331). -/
def Partition.onWrite (p : Partition) (mem : Memory) (bad : List Nat) (pa : Nat) (gen : Dword) :
    Option Partition :=
  let line := pa / 128 * 128
  let granule := pa / 4096 * 4096
  match p.frozen with
  | none => some { p with touched := insertNat granule p.touched }
  | some f =>
    if gen != p.gen then
      -- of the frozen generation
      let drain := if f.begun then f.drain else insertNat granule f.drain
      some { p with frozen := some { f with drain := drain } }
    else
      let q := { p with touched := insertNat granule p.touched }
      if !f.kept granule || f.copies.any (·.1 == line) then some q
      else
        let copied := { f with
          copies := f.copies ++ [(line, readBytes mem line 128)],
          badCopies := f.badCopies ++ bad.filter fun a => a / 128 * 128 == line }
        if f.claims.contains granule then some { q with frozen := some copied }
        else if f.claims.length < p.granaryNow then
          some { q with frozen := some { copied with claims := insertNat granule f.claims } }
        else if p.abort then some (q.endFrozen .aborted)
        else none

/-- Copied lines of a partition's frozen image. -/
def Partition.copied (p : Partition) : Nat := match p.frozen with
  | some f => f.copies.length
  | none => 0

/-- What a write does at its slice before it is performed (R330): its claim and copy, the slice reading the
line that it copies (R347); none when it must wait (R331). -/
def State.prepare (s : State) (v pa : Nat) (gen : Dword) : Option State :=
  let p := (s.vf v).part
  (p.onWrite s.mem s.dev.badWords pa gen).map fun q =>
    (if p.copied < q.copied then s.readSpan 0xFFFF (pa / 128 * 128) 128 else s).updVf v fun f =>
      { f with part := q }

/-- Words that keep an uncorrectable mark when `n` bytes at `pa` are overwritten: a mark goes once its
whole word is (R343). -/
def keepMarks (bad : List Nat) (pa n : Nat) : List Nat := bad.filter fun a => !(pa ≤ a && a + 4 ≤ pa + n)

/-- The copy of a line after a write of the frozen generation (R330): the write, whose bytes `g` gives from
the old ones, is performed on the copy too. -/
def Frozen.onFrozenWrite (f : Frozen) (pa n : Nat) (g : List Byte → List Byte) (fresh : Bool) : Frozen :=
  let line := pa / 128 * 128
  { f with
    copies := f.copies.map fun c =>
      if c.1 == line then
        (line, c.2.take (pa - line) ++ g ((c.2.drop (pa - line)).take n) ++ c.2.drop (pa - line + n))
      else c
    badCopies := if fresh then keepMarks f.badCopies pa n else f.badCopies }

/-- Word addresses of the 4-byte words that `n` bytes from `pa` cover whole or in part. -/
def wordsOf (pa n : Nat) : List Nat :=
  (List.range ((pa % 4 + n + 3) / 4)).map fun i => pa / 4 * 4 + 4 * i

/-- The bytes that fetch still sees of a code page once those at some addresses are overwritten (R305). -/
def CodePage.keepAt (c : CodePage) (mem : Memory) (at' : List Nat) : CodePage :=
  { c with old := c.old ++ (at'.filter fun a => !c.old.any (·.1 == a)).map fun a => (a, memGet mem a) }

/-- The bytes that fetch still sees of a code page once `n` bytes at `pa` are overwritten (R305). -/
def CodePage.keep (c : CodePage) (mem : Memory) (pa n : Nat) : CodePage :=
  if !c.leaf.lower && pa < c.leaf.pa + c.leaf.size && c.leaf.pa < pa + n then
    c.keepAt mem ((List.range n).map (pa + ·))
  else c

/-- Performs a write of `n` bytes within one 128-byte line, at its slice, belonging to generation `gen`
(none: that of the slice). `g` gives the bytes from those that it finds; `fresh` when they do not depend on
them. None when it must wait for the granary (R331). -/
def State.modifyLine (s : State) (pa n : Nat) (g : List Byte → List Byte) (fresh : Bool) (gen : Option Dword) :
    Option State :=
  let bytes := g (readBytes s.mem pa n)
  let done (t : State) : State :=
    let t : State := { t with
      mem := writeBytes t.mem pa bytes
      scrubs := t.scrubs.map fun (c : Scrub) =>
        if c.line == pa / 128 * 128 then { c with stale := true } else c
      code := t.code.map fun c => c.keep t.mem pa n }
    t.updDev fun d => { d with badWords := keepMarks d.badWords pa n }
  match s.vfAt pa with
  | none => some (done s)
  | some v =>
    let p := (s.vf v).part
    let own := gen.getD (p.adopted (768 + sliceOf pa))
    (s.prepare v pa own).map fun t =>
      done (if own != p.gen then t.updVf v fun f => { f with
          part := { f.part with frozen := f.part.frozen.map fun x => x.onFrozenWrite pa n g fresh } }
        else t)

/-- Performs a write of bytes within one 128-byte line. -/
def State.writeLine (s : State) (pa : Nat) (bytes : List Byte) (gen : Option Dword) : Option State :=
  s.modifyLine pa bytes.length (fun _ => bytes) true gen

/-- Cuts bytes at `pa` into pieces of one line each. -/
def linePieces : Nat → Nat → List Byte → List (Nat × List Byte)
  | 0, _, _ => []
  | _, _, [] => []
  | n + 1, pa, bs =>
    let k := 128 - pa % 128
    (pa, bs.take k) :: linePieces n (pa + k) (bs.drop k)

/-- Performs a write of any length; none when some line of it must wait, and then nothing is
written. -/
def State.writePhys (s : State) (pa : Nat) (bytes : List Byte) (gen : Option Dword) :
    Option State :=
  (linePieces (bytes.length / 128 + 2) pa bytes).foldl
    (fun acc x => acc.bind fun t => t.writeLine x.1 x.2 gen) (some s)

/-- A write of the part, the fabric or the host (`host`: its function) that waits at its slice for the
granary (R331). -/
def waitingWrite (id ctx pa : Nat) (bytes : List Byte) (gen : Option Dword) (host : Option Nat)
    (bad : List Nat) : Acc :=
  { id, grid := 0, blk := 0, slot := 0, core := 0, ctx, kind := .store, va := BitVec.ofNat 64 pa,
    pa, remote := false, width := bytes.length, data := BitVec.ofNat 128 (leOf bytes), lane := 0,
    result := none, cmd := none, twin := none, pc := 0, placed := false, after := [], gen,
    waits := true, host, far := false, seen := false, bad := bad.filter fun w => pa ≤ w && w < pa + bytes.length }

/-- Words of a write's data that carry an uncorrectable mark read back as such (R343). -/
def State.markWords (s : State) (bad : List Nat) : State :=
  if bad.isEmpty then s
  else s.updDev fun d => { d with badWords := bad.foldl (fun l w => insertNat w l) d.badWords }

/-- Whether a write of the line at its slice already waits for the granary (R331). -/
def State.lineBusy (s : State) (pa n : Nat) : Bool :=
  s.accs.any fun a => a.waits && a.pa / 128 ≤ (pa + n - 1) / 128
    && pa / 128 ≤ (a.pa + a.width - 1) / 128

/-- A write of at most 16 bytes that no warp waits for: performed at its slice, or left there behind the
claim or the earlier write of its line that it waits for (R326, R330, R331). `bad` are the marked words of
its data (R343). -/
def State.partPiece (s : State) (ctx pa : Nat) (bytes : List Byte) (gen : Option Dword)
    (host : Option Nat) (bad : List Nat) : State :=
  let a := waitingWrite s.nextId ctx pa bytes gen host bad
  let wait : State := { s.fresh with accs := s.accs ++ [a] }
  if s.lineBusy pa bytes.length then wait
  else match s.writePhys pa bytes gen with
    | some t => t.markWords a.bad
    | none => wait

/-- Pieces of 16 bytes, each within one line. -/
def partPieces : Nat → Nat → List Byte → List (Nat × List Byte)
  | 0, _, _ => []
  | _, _, [] => []
  | n + 1, pa, bs =>
    let k := 16 - pa % 16
    (pa, bs.take k) :: partPieces n (pa + k) (bs.drop k)

/-- A write of any length that no warp waits for; `bad` are the marked words of its data (R343). -/
def State.partWrite (s : State) (ctx pa : Nat) (bytes : List Byte) (gen : Option Dword)
    (host : Option Nat) (bad : List Nat) : State :=
  match if s.lineBusy pa bytes.length then none else s.writePhys pa bytes gen with
  | some t => t.markWords bad
  | none => (partPieces (bytes.length / 16 + 2) pa bytes).foldl
      (fun s x => s.partPiece ctx x.1 x.2 gen host bad) s

/-- The generation that a write of a core to a physical address belongs to (R326). -/
def State.coreGen (s : State) (core pa : Nat) : Option Dword :=
  (s.vfAt pa).map fun v => (s.vf v).part.adopted core

/-- A write of the part by a core: it carries the core's tag to each slice that it reaches (R325, R326). -/
def State.coreWrite (s : State) (core ctx pa : Nat) (bytes : List Byte) (bad : List Nat) : State :=
  let s := s.exchangeSpan core pa bytes.length
  s.partWrite ctx pa bytes (s.coreGen core pa) none bad

/-! ## Translation (R178, R291 to R294) -/

/-- The end of a table walk (R293). -/
inductive Walk where
  | missing
  | malformed
  | leaf (t : Tlb)
  deriving DecidableEq, Repr

/-- The levels of R291: lowest index bit, index bits, and bytes of alignment of the next table. -/
def walkLevels : List (Nat × Nat × Nat) :=
  [(48, 9, 4096), (39, 9, 4096), (30, 9, 4096), (21, 9, 256), (16, 5, 1)]

/-- A table entry's fields against R292 at a level: `may` and `must` say whether it may and must be
a leaf. -/
def entryMalformed (e : Dword) (low align : Nat) (may must : Bool) : Bool :=
  let leaf := e.getLsbD 1
  let addr := (e.extractLsb' 8 44).toNat * 256
  e.extractLsb' 52 12 != 0 || e.extractLsb' 6 2 != 0
    || (leaf && !may) || (!leaf && must)
    || (if leaf then addr % 2 ^ low != 0 else e.getLsbD 5 || addr % align != 0)

/-- The walk (R291 to R293), from a table on. -/
def walkFrom (m : Memory) (ctx va : Nat) : List (Nat × Nat × Nat) → Nat → Walk
  | [], _ => .malformed
  | (low, bits, align) :: rest, table =>
    let e : Dword := BitVec.ofNat 64 (readLE m (table + 8 * (va / 2 ^ low % 2 ^ bits)) 8)
    let addr := (e.extractLsb' 8 44).toNat * 256
    if !e.getLsbD 0 then .missing
    else if entryMalformed e low align (low ≤ 30) rest.isEmpty then .malformed
    else if e.getLsbD 1 then
      .leaf { ctx, va := va / 2 ^ low * 2 ^ low, size := 2 ^ low, pa := addr,
              r := e.getLsbD 2, w := e.getLsbD 3, x := e.getLsbD 4, lower := e.getLsbD 5, node := false }
    else walkFrom m ctx va rest addr

/-- The valid non-leaf entries that a walk passes, as the cluster TLB holds them (R294). -/
def walkNodes (m : Memory) (ctx va : Nat) : List (Nat × Nat × Nat) → Nat → List Tlb
  | [], _ => []
  | (low, bits, _) :: rest, table =>
    let e : Dword := BitVec.ofNat 64 (readLE m (table + 8 * (va / 2 ^ low % 2 ^ bits)) 8)
    let addr := (e.extractLsb' 8 44).toNat * 256
    if !e.getLsbD 0 || e.getLsbD 1 then []
    else { ctx, va := va / 2 ^ low * 2 ^ low, size := 2 ^ low, pa := addr, r := false, w := false,
           x := false, lower := false, node := true } :: walkNodes m ctx va rest addr

/-- Addresses of the entries that a walk reads. -/
def walkReads (m : Memory) (va : Nat) : List (Nat × Nat × Nat) → Nat → List Nat
  | [], _ => []
  | (low, bits, _) :: rest, table =>
    let at' := table + 8 * (va / 2 ^ low % 2 ^ bits)
    let e : Dword := BitVec.ofNat 64 (readLE m at' 8)
    if !e.getLsbD 0 || e.getLsbD 1 then [at']
    else at' :: walkReads m va rest ((e.extractLsb' 8 44).toNat * 256)

/-- A walker's reads for a core exchange tags, correct the lines they touch and log what they cannot (R325,
R344, R347). -/
def State.walked (s : State) (core ctx va : Nat) (levels : List (Nat × Nat × Nat)) (table : Nat) : State :=
  (walkReads s.mem va levels table).foldl (fun s a => (s.exchangeTags core a).readSpan ctx a 8) s

/-- The walk of a virtual address of a context. -/
def State.walk (s : State) (ctx va : Nat) : Walk :=
  match s.ctx? ctx with
  | some c => walkFrom s.mem ctx va walkLevels c.root
  | none => .missing

/-- How an address translates. -/
inductive Trans where
  /-- A frame of device memory. -/
  | phys (pa : Nat)
  /-- A frame of the lower tier (R179). -/
  | lower (pa : Nat)
  /-- A remote-form address: device and offset (R178). -/
  | remote (dev off : Nat)
  /-- Device index of 4,608 or more. -/
  | range
  /-- Bits [62:57] are not 0. -/
  | nonCanonical
  | permission
  | missing
  | malformed
  deriving DecidableEq, Repr

/-- Whether a leaf allows an access (R292). -/
def Tlb.allows (t : Tlb) : Access → Bool
  | .read => t.r
  | .write => t.w
  | .fetch => t.x
  | .present => true

def Tlb.covers (t : Tlb) (ctx va : Nat) : Bool :=
  t.ctx == ctx && t.va ≤ va && va < t.va + t.size

/-- Entries of the three caches of R294. -/
def dtlbEntries : Nat := 128
def itlbEntries : Nat := 32
def clusterTlbEntries : Nat := 4096

/-- Adds an entry behind, dropping the oldest past the capacity (log row 10). -/
def pushBounded {α : Type} (cap : Nat) (x : α) (l : List α) : List α :=
  let l := l ++ [x]
  if l.length > cap then l.drop 1 else l

/-- Where the walk of an address starts: below the deepest non-leaf entry that the cluster TLB holds for
it, else at the root (R294). -/
def State.walkStart (s : State) (cluster ctx va : Nat) : List (Nat × Nat × Nat) × Nat :=
  let root := match s.ctx? ctx with
    | some c => (walkLevels, c.root)
    | none => ([], 0)
  let deepest := ((s.cluster cluster).tlb.filter fun t => t.node && t.covers ctx va).foldl
    (fun acc t => match acc with
      | some (u : Tlb) => if t.size < u.size then some t else acc
      | none => some t) none
  match deepest with
  | some t => (walkLevels.filter fun l => 2 ^ l.1 < t.size, t.pa)
  | none => root

/-- The entries that answer a lookup are read: one with a double error is dropped, and found anew (R342;
DESIGN CHOICE, log row 111). -/
def State.readTlbs (s : State) (core ctx va : Nat) (fetch : Bool) : State :=
  if s.sram.isEmpty then s
  else
    let hit (ts : List Tlb) (a : Nat) : Bool :=
      ts.any fun t => t.covers ctx va && t.va ≤ a && a < t.va + t.size
    let keep (bad : List Nat) (t : Tlb) : Bool :=
      !(t.covers ctx va && bad.any fun a => t.va ≤ a && a < t.va + t.size)
    let own (c : Core) : List Tlb := if fetch then c.itlb else c.dtlb
    let (bad, s) := s.readSram (if fetch then .itlb else .dtlb) core core ctx (hit (own (s.core core)))
    let s := if bad.isEmpty then s
      else if fetch then s.updCore core fun c => { c with itlb := c.itlb.filter (keep bad) }
      else s.updCore core fun c => { c with dtlb := c.dtlb.filter (keep bad) }
    if (own (s.core core)).any fun t => t.covers ctx va then s
    else
      let k := clusterOf core
      let (bad, s) := s.readSram .clusterTlb k core ctx (hit (s.cluster k).tlb)
      if bad.isEmpty then s else s.updCluster k fun c => { c with tlb := c.tlb.filter (keep bad) }

/-- The leaf of a local address: from the core's TLB, the cluster's, or a walk whose leaf is then
installed in both (R294). -/
def State.leafOf (s : State) (core ctx va : Nat) (fetch : Bool) : Walk × State :=
  let s := s.readTlbs core ctx va fetch
  let c := s.core core
  let k := clusterOf core
  let own := if fetch then c.itlb else c.dtlb
  match own.find? fun t => t.covers ctx va with
  | some t => (.leaf t, s)
  | none =>
    let install (t : Tlb) (s : State) : State :=
      if fetch then
        if t.x then s.updCore core fun c => { c with itlb := pushBounded itlbEntries t c.itlb }
        else s
      else s.updCore core fun c => { c with dtlb := pushBounded dtlbEntries t c.dtlb }
    match (s.cluster k).tlb.find? fun t => !t.node && t.covers ctx va with
    | some t => (.leaf t, install t s)
    | none =>
      let (levels, table) := s.walkStart k ctx va
      let found := if (s.ctx? ctx).isSome then walkFrom s.mem ctx va levels table else .missing
      let nodes := walkNodes s.mem ctx va levels table
      let s := s.walked core ctx va levels table
      match found with
      | .leaf t => (.leaf t, install t (s.updCluster k fun x =>
          { x with tlb := (nodes ++ [t]).foldl (fun l t => pushBounded clusterTlbEntries t l) x.tlb }))
      | w => (w, s)

/-- What an access at an address meets (R178, R179, R293), and the state with the TLBs as they
then are. A context with the privileged flag sees device physical address a at 2^56 + a (R301), for every
kind of access (log row 19). -/
def State.translate (s : State) (core ctx : Nat) (va : Dword) (acc : Access) : Trans × State :=
  if va.getLsbD 63 then
    let dev := (va.extractLsb' 50 13).toNat
    if dev ≥ Config.devices then (.range, s) else (.remote dev (va.extractLsb' 0 50).toNat, s)
  else if va.extractLsb' 57 6 != 0 then (.nonCanonical, s)
  else
    let a := va.toNat
    let priv := match s.ctx? ctx with
      | some c => c.privileged
      | none => false
    if priv && va.getLsbD 56 then (.phys (a - 2 ^ 56), s)
    else
      let (w, s) := s.leafOf core ctx a (acc == .fetch)
      match w with
      | .missing => (.missing, s)
      | .malformed => (.malformed, s)
      | .leaf t =>
        if !t.allows acc then (.permission, s)
        else if t.lower then (.lower (t.pa + (a - t.va)), s)
        else (.phys (t.pa + (a - t.va)), s)

/-- A context has the privileged flag (R301, R367). -/
def State.privileged (s : State) (ctx : Nat) : Bool :=
  match s.ctx? ctx with
  | some c => c.privileged
  | none => false

/-- Translation by the dispatcher, which keeps no TLB and posts nothing (R84, R371): a readable or
writable frame of device memory, or none. -/
def State.dispatcherAddr (s : State) (ctx : Nat) (va : Dword) (acc : Access) : Option Nat :=
  if va.getLsbD 63 || va.extractLsb' 57 6 != 0 then none
  else if s.privileged ctx && va.getLsbD 56 then some (va.toNat - 2 ^ 56)
  else match s.walk ctx va.toNat with
    | .leaf t => if t.allows acc && !t.lower then some (t.pa + (va.toNat - t.va)) else none
    | _ => none

/-- `n` bytes read by the dispatcher through a context, or the first address it cannot read. -/
def State.dispatcherRead (s : State) (ctx : Nat) (va : Nat) : Nat → Except Nat (List Byte)
  | 0 => .ok []
  | n + 1 =>
    match s.dispatcherAddr ctx (BitVec.ofNat 64 va) .read with
    | none => .error va
    | some pa => match s.dispatcherRead ctx (va + 1) n with
      | .ok bs => .ok (memGet s.mem pa :: bs)
      | .error a => .error a

/-! ## Accesses that end (R183, R193, R302, R326) -/

/-- Whether an access changes memory. -/
def AccKind.writes : AccKind → Bool
  | .store | .masked | .atomic _ _ | .relInc => true
  | _ => false

/-- The generation that a local write belongs to as it leaves its core; one into the partition of another
function, by a handler block, belongs to that of the slice it reaches (R326). -/
def State.leaveGen (s : State) (a : Acc) : Option Dword :=
  if a.blk == 0 || a.remote || !a.kind.writes then none
  else ((s.vfAt a.pa).filter (· == a.ctx / 64)).map fun v => (s.vf v).part.adopted a.core

/-- An access is gone: those behind it wait for it no longer, and a write that nothing holds any
more leaves its core (R326). -/
def State.dropAcc (s : State) (id : Nat) : State :=
  let rest := (s.accs.filter (·.id != id)).map fun x =>
    if x.after.contains id then
      let x := { x with after := x.after.filter (· != id) }
      if x.after.isEmpty && x.cmd.isNone then { x with gen := s.leaveGen x } else x
    else x
  { s with
    accs := rest,
    messages := s.messages.map fun (m : Message) => { m with after := m.after.filter (· != id) },
    tlbis := s.tlbis.map fun t => { t with own := t.own.filter (· != id), accs := t.accs.filter (· != id) } }

/-- Accesses that are dropped. -/
def State.dropAccs (s : State) (p : Acc → Bool) : State :=
  ((s.accs.filter p).map Acc.id).foldl (fun s id => s.dropAcc id) s

/-! ## Stop records and kills (R307, R308, R320) -/

/-- Hands a stop record to its context; the event STOP_RECORD writes it (R308). -/
def State.pushStop (s : State) (ctx : Nat) (r : StopRec) : State :=
  s.updCtx ctx fun c => { c with stops := c.stops ++ [r] }

/-- A record that names no warp: core 0xFFFF, everything else 0 but what is given (R85, R371; log
row 11 for KILLED and hang notices). -/
def State.notice (s : State) (record : Word) (pc addr : Dword) : StopRec :=
  { core := 0xFFFF, record, pc, addr, lanes := 0, block := 0, warp := 0, cycles := s.now }

/-- Progress of a context, for its watchdog (R309). -/
def State.progress (s : State) (ctx : Nat) : State :=
  s.updCtx ctx fun c => { c with progress := s.now }

/-- A kernel image's base address for a block. -/
def State.imageOf (s : State) (b : Block) : Dword :=
  match s.grid? b.grid with
  | some g => g.packet.image
  | none => 0

/-- The update of a completion word (R85): an atomic add of the increment or OR of a failure code,
made like any other write (it may wait for the granary); a completion notice instead when the word
cannot be written. A done address that is no multiple of 8 (its launch is refused with PACKET) names the
8-byte word that holds it (DESIGN CHOICE, log row 83). Its slice first adopts the newest generation that a
core of the grid had at a block's retirement, since the update follows what the blocks wrote (R325, R327). -/
def State.completionUpdate (s : State) (grid ctx : Nat) (done : Dword) (fn : RemoteKind)
    (x : Dword) : State :=
  match s.dispatcherAddr ctx done .write with
  | some pa =>
    let a : Acc :=
      { id := s.nextId, grid, blk := 0, slot := 0, core := 0, ctx, kind := .atomic fn 3, va := done,
        pa := pa / 8 * 8, remote := false, width := 8, data := x.setWidth 128, lane := 0,
        result := none, cmd := none, twin := none, pc := 0, placed := false, after := [], gen := none,
        waits := false, host := none, far := false, seen := false }
    let s := match s.vfAt pa, s.grid? grid with
      | some v, some g => if v == g.vf then s.takeTag v (768 + sliceOf pa) g.gen else s
      | _, _ => s
    { s.fresh with accs := s.accs ++ [a] }
  | none => s.pushStop ctx { s.notice 0x00030000 done done with cycles := 0 }

/-- The failure value (0x80 | code) << 56 (R85). -/
def failureWord (code : Nat) : Dword := BitVec.ofNat 64 ((0x80 + code) * 2 ^ 56)

/-- A change to an evicted warp, whose saved record is to follow (R314). -/
def Warp.touch (w : Warp) : Warp := { w with stale := w.evicted }

/-- Entries of a warp's streams that are not performed, oldest first. -/
def Warp.heldEntries (w : Warp) : List StreamEntry :=
  (w.store.closed.flatMap StreamWindow.entries) ++ w.store.entries
    ++ (w.engine.closed.flatMap StreamWindow.entries) ++ w.engine.entries

/-- A warp whose held entries are dropped (R355). -/
def Warp.dropEntries (w : Warp) : Warp :=
  { w with
    store := { w.store with closed := [], entries := [] }
    engine := { w.engine with closed := [], entries := [] } }

/-- Run states from which a kill releases a warp with event KILLED (R320). -/
def Run.parks : Run → Bool
  | .ready | .stopped | .exited | .faulting => false
  | _ => true

/-- Every block of a grid, in both copies, has retired. -/
def Grid.finished (g : Grid) : Bool :=
  (List.range g.map.length).all fun i =>
    g.retired.contains (i, false) && (!g.packet.redundant || g.retired.contains (i, true))

/-- The last steps of a kill (R320 steps 5 and 6): every resource is released and each launch taken
and not completed gets KILLED in its completion word. -/
def State.finishKill (s : State) (ctx : Nat) : State :=
  let grids := s.grids.filter fun g => g.ctx == ctx && !g.finished
  let gids := (s.grids.filter (·.ctx == ctx)).map Grid.id
  let bids := (s.blocks.filter fun b => gids.contains b.grid).map Block.id
  let waiting := s.launches.filter fun l => l.ctx == ctx && !gids.contains l.grid
  let s := grids.foldl (fun s g =>
    s.completionUpdate g.id ctx g.packet.done .or (failureWord 9)) s
  let s := waiting.foldl (fun s l =>
    s.completionUpdate 0 ctx l.packet.done .or (failureWord 9)) s
  let s := s.dropAccs fun a => a.ctx == ctx && a.remote
  { s with
    grids := s.grids.filter fun g => g.ctx != ctx || g.finished,
    blocks := s.blocks.filter fun b => !bids.contains b.id,
    launches := s.launches.filter (·.ctx != ctx),
    vfs := s.vfs.map fun v => if v.id == ctx / 64 then
      { v with table := sparseSet 0 v.table (ctx % 64) 0 } else v,
    cores := s.cores.map fun c => { c with
      spline := match c.spline with
        | some x => if bids.contains x.blk then none else some x
        | none => none,
      savedSplines := c.savedSplines.filter fun x => !bids.contains x.blk,
      latch := match c.latch with
        | some x => if bids.contains x.1 then none else some x
        | none => none },
    ctxs := s.ctxs.map fun c => if c.id == ctx then
      { c with dead := true, killAt := none, key := 0, halted := false } else c }

/-- Whether remote writes of a context are still unacknowledged (R320 step 5). -/
def State.remoteOut (s : State) (ctx : Nat) : Bool := s.accs.any fun a => a.ctx == ctx && a.remote

/-- A warp after the injected EXIT of a kill (R320 step 2): released from a park with event KILLED. -/
def Warp.killed (w : Warp) : Warp :=
  let st := if w.run.parks then statusEvent w.ctl.status evKilled 0 else w.ctl.status
  { w with
    run := .exited, evicted := false, stale := false, halted := false, results := [], pend := [], eng := [],
    store := { w.store with closed := [], entries := [] },
    engine := { w.engine with closed := [], entries := [] }, pairReq := none,
    openBatch := [], claimed := [], pdis := none, dual := none, flt := { w.flt with waiting := none },
    ctl := { w.ctl with status := st } }

/-- Entries of the device queue (R369). -/
def deviceQueue : Nat := 64

/-- The context of an entry of queue 15 that a kill has discarded: none (R370). -/
def discarded : Nat := 0xFFFF

/-- A grid whose rounds and trees are abandoned (R320 step 4). -/
def Grid.abandoned (g : Grid) : Grid :=
  { g with
    g := { g.g with rounds := [] }, gTrail := { g.gTrail with rounds := [] },
    k := g.k.map fun x => (x.1, { x.2 with rounds := [] }),
    trees := [], nreds := [] }

/-- Kills a context (R320). Steps 1 to 4 happen at once; the rest when its remote writes are
acknowledged, or after 100 µs. -/
def State.kill (s : State) (ctx : Nat) (detail : BitVec 16) : State :=
  match s.ctx? ctx with
  | none => s
  | some c =>
    if c.killing || c.dead then s
    else
      let s := s.pushStop ctx (s.notice (detail ++ (0x3023 : BitVec 16)) 0 0)
      let gids := (s.grids.filter (·.ctx == ctx)).map Grid.id
      let bids := (s.blocks.filter fun b => gids.contains b.grid).map Block.id
      let held := (s.blocks.filter fun b => bids.contains b.id).flatMap fun b =>
        b.warps.flatMap Warp.heldEntries
      let s := held.foldl (fun (s : State) (e : StreamEntry) => s.dropAcc e.id) s
      let s : State := { s with
        blocks := s.blocks.map fun b => if bids.contains b.id then
          { b with rounds := [], warps := b.warps.map Warp.killed } else b
        grids := s.grids.map fun g => if gids.contains g.id then g.abandoned else g
        messages := s.messages.filter fun m => !gids.contains m.grid,
        credits := s.credits.filter fun m => !gids.contains m.grid,
        treePkts := s.treePkts.filter fun m => !gids.contains m.grid,
        vfs := s.vfs.map fun v => { v with
          devq := v.devq.map fun x => if x.2 == ctx then (x.1, discarded) else x },
        cmds := s.cmds.filter (·.ctx != ctx),
        issue := s.issue.filter fun r => !bids.contains r.blk,
        packed := s.packed.filter fun r => !bids.contains r.blk,
        upsets := s.upsets.filter fun u => !bids.contains u.1.blk,
        cores := s.cores.map fun k => { k with
          queue := k.queue.filter fun q => q.begun || !bids.contains q.blk,
          ahead := match k.ahead with
            | some a => if bids.contains a.blk then none else some a
            | none => none } }
      let s := s.dropAccs fun a => bids.contains a.blk && (a.kind == .load || a.kind == .acq)
      -- posted sheaves get their cancelled bit, bit 41 of the second word; the others are dropped
      let s := c.sheaves.foldl (fun (s : State) (x : Sheaf) => match x.place with
        | some p => s.partWrite ctx (p + 13) [memGet s.mem (p + 13) ||| 2]
            (some ((s.vf (ctx / 64)).part.adopted x.core)) none []
        | none => s) s
      let s : State := { s with cancelled := s.cancelled ++
        (c.sheaves.filter fun x => x.place.isSome).map fun x => { x with cancelled := true } }
      let s := s.updCtx ctx fun c => { c with
        killing := true, killAt := some (s.now + 200000), sheaves := [] }
      if s.remoteOut ctx then s else s.finishKill ctx

/-- Where a context's save area lies in device memory, if it does whole. -/
def State.saveArea (s : State) (ctx : Nat) : Option Nat :=
  match s.ctx? ctx with
  | some c => if c.save + 4227858432 ≤ Config.dramBytes then some c.save else none
  | none => none

/-- The core area of a core in a context's save area (R316). -/
def State.coreArea (s : State) (ctx core : Nat) : Option Nat :=
  (s.saveArea ctx).map fun area => area + 603979776 + 4718592 * core

/-- The part writes `n` bytes of its own layout into a core area of a context's save area (R316, log row
30), belonging to the generation of that core (R326). -/
def State.saveToArea (s : State) (ctx core n : Nat) : State :=
  match s.coreArea ctx core with
  | none => s
  | some pa => s.fresh.coreWrite core ctx pa ((List.range n).map (Config.coreAreaByte s.nextId)) []

/-! ## TAKING A FAULT, and the return from one (R306, R307, R321) -/

/-- The fault record (R306). -/
def FaultInfo.word (f : FaultInfo) : Word := (f.detail ++ f.stage ++ (0 : BitVec 4) ++ f.code).setWidth 32

/-- A fault without lanes or address. -/
def faultAt (code : BitVec 8) (stage : BitVec 4) : FaultInfo :=
  { code, stage, detail := 0, addr := 0, lanes := 0 }

/-- The stop record of a warp whose block has retired: its word, block and place as they were (R284, R307, R308,
R376). -/
def State.goneStop (s : State) (r : WarpRef) (grid core pc : Nat) (f : FaultInfo) : StopRec :=
  let (image, index, place) := match s.grid? grid with
    | none => ((0 : Dword), 0, r.slot)
    | some g => match g.gone.find? (·.1 == r.blk) with
      | some (_, index, places) => (g.packet.image, index, places.getD r.slot r.slot)
      | none => (g.packet.image, 0, r.slot)
  { core, record := f.word, pc := image + BitVec.ofNat 64 pc, addr := f.addr, lanes := f.lanes,
    block := index, warp := place, cycles := s.now }

/-- The codes of R44. -/
def fcIllegalInstruction : BitVec 8 := 0x01
def fcIllegalOperand : BitVec 8 := 0x02
def fcPendingRead : BitVec 8 := 0x03
def fcScopeDisagree : BitVec 8 := 0x04
def fcScopeRound : BitVec 8 := 0x05
def fcUniformity : BitVec 8 := 0x06
def fcDivergencePolicy : BitVec 8 := 0x07
def fcRole : BitVec 8 := 0x08
def fcBudget : BitVec 8 := 0x09
def fcStack : BitVec 8 := 0x0A
def fcPage : BitVec 8 := 0x10
def fcPermission : BitVec 8 := 0x11
def fcAlignment : BitVec 8 := 0x12
def fcRange : BitVec 8 := 0x13
def fcHandle : BitVec 8 := 0x14
def fcUncorrectable : BitVec 8 := 0x18
def fcRedundantMismatch : BitVec 8 := 0x19
def fcTwinMismatch : BitVec 8 := 0x1A
def fcTrap : BitVec 8 := 0x20
def fcBreakpoint : BitVec 8 := 0x21
def fcPreemptOverrun : BitVec 8 := 0x22
def fcKilled : BitVec 8 := 0x23

/-- The fatal class of R307. -/
def FaultInfo.fatal (f : FaultInfo) : Bool :=
  f.code == fcRedundantMismatch || f.code == fcTwinMismatch || f.code == fcPreemptOverrun
    || (f.stage == 2 && (f.code == fcScopeRound || f.code == fcScopeDisagree))
    || (f.stage != 2 && (f.code == fcPage || f.code == fcPermission || f.code == fcUncorrectable))

/-- Closes the open region or checkpoint: %ckpc = 0 names none (R310). -/
def WarpFault.close (f : WarpFault) : WarpFault :=
  { f with ckpc := 0, restart := none, chkpt := none }

/-- The warp as a fault leaves it at its word (R306, R307): record, address and lanes replaced
whole, region and PDIS closed, waiting flags merged (R134), stopped. -/
def Warp.faulted (w : Warp) (f : FaultInfo) (pc : Nat) : Warp :=
  { w with
    run := .stopped, pdis := none, lateFlags := 0, dual := none,
    ctl := { w.ctl with pc := pc, status := statusOr w.ctl.status w.lateFlags },
    flt := { w.flt.close with
      word := f.word, addr := f.addr, lanes := f.lanes, waiting := none,
      skipComp := if f.code == fcBreakpoint && f.detail.extractLsb' 8 4 != 0 then some pc else none } }

/-- A warp that stops or is evicted at `pc` as it restarts: at its DUALST, when that word has performed a
plain write and not yet all transposed ones and no later word of the warp has issued (R196, R340). -/
def State.restarting (s : State) (w : Warp) (pc : Nat) : Warp :=
  let pending (id : Nat) : Bool := s.accs.any (·.id == id)
  let (pc, loops) := match w.dual with
    | some (at', loops, plain, transposed) =>
      if plain.any (fun id => !pending id) && transposed.any pending then (at', loops) else (pc, w.ctl.loops)
    | none => (pc, w.ctl.loops)
  { w with ctl := { w.ctl with pc := pc, loops := loops } }

/-- TAKES A FAULT, once no older result is outstanding: the warp stops at its word with the fault
recorded, and its stop record goes to the context's stop queue (to the debugger instead for
BREAKPOINT with one attached, R319) (R306, R307, R308). Its restart address is that of R196 where a
DUALST is half performed. -/
def State.noteFault (s : State) (r : WarpRef) (f : FaultInfo) (pc : Nat) : State :=
  match s.warp? r with
  | none => s
  | some (b, w) =>
    let ctx := s.ctxOf b
    let va := s.imageOf b + BitVec.ofNat 64 pc
    let rec' : StopRec := { core := b.core, record := f.word, pc := va, addr := f.addr,
                            lanes := f.lanes, block := b.index, warp := b.place r.slot, cycles := s.now }
    let dbg := f.code == fcBreakpoint && (match s.ctx? ctx with
      | some c => c.debugger
      | none => false)
    let w' := s.restarting w pc
    let s := s.updWarp r fun _ => w'.faulted f w'.ctl.pc
    if dbg then s else s.pushStop ctx rec'

/-- A fault as it is taken; a fatal one kills the context (R307). -/
def State.recordFault (s : State) (r : WarpRef) (f : FaultInfo) (pc : Nat) : State :=
  match s.warp? r with
  | none => s
  | some (b, _) =>
    let t := s.noteFault r f pc
    if f.fatal then t.kill (s.ctxOf b) (f.code.setWidth 16) else t

/-- A fault of the current word: recorded once every older result of the warp is written (R92). -/
def State.takeFault (s : State) (r : WarpRef) (f : FaultInfo) (pc : Nat) : State :=
  match s.warp? r with
  | none => s
  | some (_, w) =>
    if w.results.isEmpty then s.recordFault r f pc
    else s.updWarp r fun w =>
      { w with run := .faulting, flt := { w.flt with waiting := some (f, pc) } }

/-- A run state that RTT makes ready (R321). A warp whose fault or rollback waits for older results goes on
waiting, and one that a barrier or ring has released goes on from its word, which has arrived (log row 80). -/
def Run.resumes : Run → Bool
  | .faulting | .rollback | .exited => false
  | .barrier _ released | .ring _ _ _ released => !released
  | _ => true

/-- THE RETURN FROM A FAULT (R321): a stopped or halted warp becomes ready, one word on with
`skip`; %fault is kept. A warp resumed at the word of a comparator match is checked from item 2 of R52 at
the next issue of that word; elsewhere every item is checked (R319). -/
def Warp.resumed (w : Warp) (skip : Bool) : Warp :=
  let pc := if skip then w.ctl.pc + 4 else w.ctl.pc
  { w with
    run := if w.run.resumes then .ready else w.run, halted := false,
    ctl := { w.ctl with pc := pc },
    flt := { w.flt with skipComp := w.flt.skipComp.filter (· == pc) } }

/-! ## Cache lines of a core (R181) -/

/-- The 128-byte line of an address. -/
def lineOf (a : Nat) : Nat := a / 128 * 128

/-- Removes the lines that a test names. -/
def State.invalidate (s : State) (core : Nat) (p : CacheLine → Bool) : State :=
  s.updCore core fun c => { c with cache := c.cache.filter fun l => !p l }

/-- Lines of the read cache: 64 KiB. -/
def cacheLines : Nat := 512

/-- Allocates a line with the bytes its slice holds. -/
def State.allocate (s : State) (core ctx va pa : Nat) : State :=
  let l : CacheLine :=
    { ctx, va := lineOf va, pa := lineOf pa, names := [], bytes := readBytes s.mem (lineOf pa) 128,
      bad := s.dev.badWords.filter fun a => lineOf a == lineOf pa }
  (s.writeSram .cache core fun a => lineOf a == lineOf pa).updCore core fun c =>
    { c with cache := pushBounded cacheLines l (c.cache.filter (·.pa != l.pa)) }

/-- A context and address under which a line has been read. -/
def CacheLine.named (l : CacheLine) (ctx va : Nat) : Bool :=
  (l.ctx == ctx && l.va == lineOf va) || l.names.contains (ctx, lineOf va)

/-- A present line is read, under whatever address and context (R181). -/
def State.noteLine (s : State) (core ctx va pa : Nat) : State :=
  if (s.core core).cache.any fun l => l.pa == lineOf pa && !l.named ctx va then
    s.updCore core fun c => { c with
      cache := c.cache.map fun l => if l.pa == lineOf pa && !l.named ctx va then
        { l with names := l.names ++ [(ctx, lineOf va)] } else l }
  else s

/-- Updates the bytes of a present line at the issue of a store (R181). -/
def CacheLine.patch (l : CacheLine) (pa : Nat) (bytes : List Byte) : CacheLine :=
  if l.pa == lineOf pa then
    { l with
      bytes := l.bytes.take (pa - l.pa) ++ bytes ++ l.bytes.drop (pa - l.pa + bytes.length)
      bad := keepMarks l.bad pa bytes.length }
  else l

end Sys2Proof.Machine
end

