-- ==== Sys2Proof/Machine/Operands.lean ====
section
/-!
DEFINITION. Operands: what each register and special operand reads (R34, R39, R110 to R114), and
what a write to each does (R40, R42, R112, R115, R312).
-/

namespace Sys2Proof

open Machine (Reg)

/-- The k-th register from an operand's on: the odd register of a pair, and so on (R56). -/
def Operand.nth (o : Operand) (k : Nat) : Operand :=
  match o with
  | .v i => .v (i + BitVec.ofNat 6 k)
  | .o i => .o (i + BitVec.ofNat 5 k)
  | .w i => .w (i + BitVec.ofNat 5 k)
  | .b i => .b (i + BitVec.ofNat 5 k)
  | .k i => .k (i + BitVec.ofNat 5 k)
  | .g i => .g (i + BitVec.ofNat 5 k)
  | .sp i => .sp i

/-- The register that carries pending bits and marks, if the operand has one (R91, R312). -/
def Operand.reg? : Operand → Option Reg
  | .v i => some (.v i.toNat)
  | .o i => some (.o i.toNat)
  | .w i => some (.w i.toNat)
  | .b i => some (.b i.toNat)
  | .k i => some (.k i.toNat)
  | .g i => some (.g i.toNat)
  | .sp i => if i == 12 then some .mode else if i == 13 then some .preds
    else if i == 20 then some .status else none

/-- Class 0 to 6 register index, for alignment checks. -/
def Operand.index : Operand → Nat
  | .v i => i.toNat
  | .o i | .w i | .b i | .k i | .g i | .sp i => i.toNat

def Operand.isV : Operand → Bool
  | .v _ => true
  | _ => false

def Operand.isSp : Operand → Bool
  | .sp _ => true
  | _ => false

/-- Classes 0 to 6. -/
def Operand.isReg (o : Operand) : Bool := !o.isSp

/-- Aligned start of `n` consecutive registers of classes 0 to 6. -/
def Operand.group (o : Operand) (n : Nat) : Bool := o.isReg && o.index % n == 0

/-- Classes 2 to 6. -/
def Operand.isScoped (o : Operand) : Bool := !o.isSp && !o.isV

/-- Classes 3 to 6. -/
def Operand.isWide : Operand → Bool
  | .w _ | .b _ | .k _ | .g _ => true
  | _ => false

/-- Class 3. -/
def Operand.isW : Operand → Bool
  | .w _ => true
  | _ => false

/-- %zero. -/
def Operand.isZero (o : Operand) : Bool := o == .sp 0

/-- Lane-class operands (R34). -/
def Operand.isLane : Operand → Bool
  | .v _ => true
  | .sp i => i == 1 || i == 2 || i == 13
  | _ => false

/-- %lane, %octet or %pred, or a lane register (R127). -/
def Operand.isLaneSource (o : Operand) : Bool := o.isLane

end Sys2Proof

namespace Sys2Proof.Machine

/-! ## Register sets (R112) -/

/-- Value of a register among the first `n` writes of a set's log. -/
def RegSet.at (m : RegSet) (n reg : Nat) : Word :=
  ((m.log.take n).reverse.find? (·.1 == reg)).elim 0 (·.2)

/-- Writes that a core's copy has applied. -/
def RegSet.applied (m : RegSet) (core : Nat) : Nat := sparseGet 0 m.copies core

/-- What a core's copy holds (R114). -/
def RegSet.read (m : RegSet) (core reg : Nat) : Word := m.at (m.applied core) reg

/-- A write ordered at the home; the writer's own core applies it, and every older one, at once
(R112, R114). -/
def RegSet.write (m : RegSet) (core reg : Nat) (x : Word) : RegSet :=
  { m with log := m.log ++ [(reg, x)], copies := sparseSet 0 m.copies core (m.log.length + 1) }

/-- One more write is applied at a core's copy (R112). -/
def RegSet.advance (m : RegSet) (core : Nat) : RegSet :=
  { m with copies := sparseSet 0 m.copies core (Nat.min m.log.length (m.applied core + 1)) }

/-- A set allotted to a unit: every register 0 (R111). -/
def RegSet.reset : RegSet := { log := [], copies := [], marks := [], rounds := [] }

/-- Place in the log of the newest of the first `n` writes of a register. -/
def RegSet.newest (m : RegSet) (n reg : Nat) : Option Nat :=
  (List.range (Nat.min n m.log.length)).reverse.find? fun i => (m.log.getD i (0, 0)).1 == reg

/-- The newest write of a register carries an uncorrectable mark from this store (R312). -/
def RegSet.mark (m : RegSet) (reg store : Nat) : RegSet :=
  match m.newest m.log.length reg with
  | some i => { m with marks := sparseSet 0 m.marks i (store + 1) }
  | none => m

/-- The marked registers of a core's copy with the store of each mark (R312). -/
def RegSet.marked (m : RegSet) (core : Nat) : List (Nat × Nat) :=
  m.marks.filterMap fun x =>
    let reg := (m.log.getD x.1 (0, 0)).1
    if m.newest (m.applied core) reg == some x.1 then some (reg, x.2 - 1) else none

/-- A core's copy has every write of the set (R108, R111). -/
def RegSet.sync (m : RegSet) (core : Nat) : RegSet :=
  { m with copies := sparseSet 0 m.copies core m.log.length }

/-- Launch cluster of a block (R80). -/
def Grid.clusterIndex (g : Grid) (block : Nat) : Nat := block / Nat.max 1 g.packet.cluster

/-- The cluster-register set of a block's copy. -/
def Grid.kSet (g : Grid) (b : Block) : RegSet :=
  sparseGet RegSet.reset g.k (2 * g.clusterIndex b.index + b.trail.toNat)

def Grid.setK (g : Grid) (b : Block) (m : RegSet) : Grid :=
  { g with k := sparseSet RegSet.reset g.k (2 * g.clusterIndex b.index + b.trail.toNat) m }

/-- The grid-register set of a block's copy. -/
def Grid.gSet (g : Grid) (b : Block) : RegSet := if b.trail then g.gTrail else g.g

def Grid.setG (g : Grid) (b : Block) (m : RegSet) : Grid :=
  if b.trail then { g with gTrail := m } else { g with g := m }

/-! ## Reading (R39, R114) -/

/-- p0 to p7 of a lane, bit 0 always 1 (R39). -/
def Warp.preds (w : Warp) (lane : Nat) : Byte := sparseGet 0 w.regs.p lane ||| 1

/-- One predicate of a lane. -/
def Warp.pred (w : Warp) (lane p : Nat) : Bool := (w.preds lane).getLsbD p

/-- Code of %role (R39). -/
def Role.code : Role → Nat
  | .copy => 0
  | .matrix => 1
  | .vector => 2

/-- The core that %core reports: that of the leading copy (R350). -/
def Block.leadCore (b : Block) (g : Grid) : Nat :=
  if b.trail then ((g.map[b.index]?).map Prod.fst).getD b.core else b.core

/-- A special operand's value (R39). -/
def readSpecial (s : State) (b : Block) (g : Grid) (w : Warp) (lane : Nat) (i : Nat) : Word :=
  match i with
  | 1 => BitVec.ofNat 32 lane
  | 2 => BitVec.ofNat 32 (lane / 8)
  | 3 => BitVec.ofNat 32 w.slot
  | 4 => BitVec.ofNat 32 b.index
  | 5 => BitVec.ofNat 32 (b.leadCore g)
  | 6 => BitVec.ofNat 32 (clusterOf (b.leadCore g))
  | 7 => BitVec.ofNat 32 w.width
  | 8 => w.ctl.active.extractLsb' 0 32
  | 9 => w.ctl.active.extractLsb' 32 32
  | 10 => w.flt.lanes.extractLsb' 0 32
  | 11 => w.flt.lanes.extractLsb' 32 32
  | 12 => w.ctl.mode
  | 13 => (w.preds lane).setWidth 32
  | 14 => BitVec.ofNat 32 s.now
  | 15 => w.ctl.cycHi
  | 16 => ((s.vf g.vf).part.adopted b.core).extractLsb' 0 32
  | 17 => w.flt.word
  | 18 => w.flt.addr.extractLsb' 0 32
  | 19 => w.flt.addr.extractLsb' 32 32
  | 20 => w.ctl.status
  | 21 => BitVec.ofNat 32 g.vf
  | 22 => g.packet.tag
  | 23 => w.flt.retry
  | 24 => w.ctl.draw.extractLsb' 0 32
  | 25 => w.flt.ckpc
  | 26 => BitVec.ofNat 32 w.role.code
  | _ => 0

/-- One 32-bit operand for a lane (R114, R39). -/
def readOperand (s : State) (b : Block) (g : Grid) (w : Warp) (lane : Nat) : Operand → Word
  | .v i => sparseGet 0 w.regs.v (64 * lane + i.toNat)
  | .o i => sparseGet 0 w.regs.o (32 * (lane / 8) + i.toNat)
  | .w i => sparseGet 0 w.regs.w i.toNat
  | .b i => sparseGet 0 b.b i.toNat
  | .k i => (g.kSet b).read b.core i.toNat
  | .g i => (g.gSet b).read b.core i.toNat
  | .sp i => readSpecial s b g w lane i.toNat

/-- `n` consecutive registers as one value, the first in the low bits (R56). -/
def readRegs (s : State) (b : Block) (g : Grid) (w : Warp) (lane : Nat) (o : Operand) :
    Nat → Nat
  | 0 => 0
  | n + 1 => (readOperand s b g w lane o).toNat
      + 2 ^ 32 * readRegs s b g w lane (Operand.nth o 1) n

/-! ## Writing (R40, R115) -/

def Warp.setV (w : Warp) (lane n : Nat) (x : Word) : Warp :=
  { w with regs := { w.regs with v := sparseSet 0 w.regs.v (64 * lane + n) x } }

def Warp.setO (w : Warp) (octet n : Nat) (x : Word) : Warp :=
  { w with regs := { w.regs with o := sparseSet 0 w.regs.o (32 * octet + n) x } }

def Warp.setW (w : Warp) (n : Nat) (x : Word) : Warp :=
  { w with regs := { w.regs with w := sparseSet 0 w.regs.w n x } }

/-- p1 to p7 of a lane; bit 0 is not stored (R39, R110). -/
def Warp.setPreds (w : Warp) (lane : Nat) (x : Byte) : Warp :=
  { w with regs := { w.regs with p := sparseSet 0 w.regs.p lane (x &&& 0xFE) } }

/-- One predicate of a lane. -/
def Warp.setPred (w : Warp) (lane p : Nat) (x : Bool) : Warp :=
  let bit : Byte := BitVec.ofNat 8 (2 ^ p)
  w.setPreds lane (if x then w.preds lane ||| bit else w.preds lane &&& ~~~bit)

def Warp.setMode (w : Warp) (x : Word) : Warp := { w with ctl := { w.ctl with mode := x } }
def Warp.setStatus (w : Warp) (x : Word) : Warp := { w with ctl := { w.ctl with status := x } }
def Warp.orFlags (w : Warp) (fl : Flags) : Warp := w.setStatus (statusOr w.ctl.status fl)

/-- Writes one register or special operand for a lane; a write of %zero is discarded. -/
def State.writeOne (s : State) (r : WarpRef) (lane : Nat) (o : Operand) (x : Word) : State :=
  match o with
  | .v i => s.updWarp r fun w => w.setV lane i.toNat x
  | .o i => s.updWarp r fun w => w.setO (lane / 8) i.toNat x
  | .w i => s.updWarp r fun w => w.setW i.toNat x
  | .b i => s.updBlock r.blk fun b => b.setB i.toNat x
  | .k i => match s.block? r.blk with
    | some b => s.updGrid b.grid fun g => g.setK b ((g.kSet b).write b.core i.toNat x)
    | none => s
  | .g i => match s.block? r.blk with
    | some b => s.updGrid b.grid fun g => g.setG b ((g.gSet b).write b.core i.toNat x)
    | none => s
  | .sp i =>
    if i == 12 then s.updWarp r fun w => w.setMode x
    else if i == 13 then s.updWarp r fun w => w.setPreds lane (x.extractLsb' 0 8)
    else if i == 20 then s.updWarp r fun w => w.setStatus (statusMask x)
    else s

/-- Writes `n` consecutive registers from a value for a lane. -/
def State.writeRegs (s : State) (r : WarpRef) (lane : Nat) (o : Operand) : Nat → Nat → State
  | 0, _ => s
  | n + 1, x =>
    (s.writeOne r lane o (BitVec.ofNat 32 x)).writeRegs r lane (Operand.nth o 1) n (x / 2 ^ 32)

/-- Lanes to write: all for a lane register, an octet register or %pred, the lowest for the rest,
whose values agree (R115). -/
def destVals (d : Operand) (vals : List (Nat × Nat)) : List (Nat × Nat) :=
  match d with
  | .v _ | .o _ => vals
  | .sp i => if i == 13 then vals else vals.take 1
  | _ => vals.take 1

/-- Lanes that share a register's storage with the given ones: themselves, their octets, or all. -/
def Reg.cover (x : Reg) (lanes : Mask) : Mask :=
  match x with
  | .v _ | .preds | .p _ => lanes
  | .o _ => maskOf ((List.range 64).filter fun l => (List.range 8).any fun i =>
      lanes.getLsbD (l / 8 * 8 + i))
  | _ => if lanes == 0 then 0 else BitVec.allOnes 64

/-- The registers that carry marks and poison under a name: each predicate by itself (R299, R312). -/
def Reg.each (x : Reg) : List Reg :=
  match x with
  | .preds => [.p 1, .p 2, .p 3, .p 4, .p 5, .p 6, .p 7]
  | x => [x]

/-- Removes the marks of registers where a write of these lanes reaches them (R312). -/
def clearMarksOf (rs : List Reg) (lanes : Mask) (ms : List Mark) : List Mark :=
  (ms.map fun m => if rs.contains m.reg then { m with lanes := m.lanes &&& ~~~m.reg.cover lanes }
    else m).filter (·.lanes != 0)

/-- The same for a destination of `regs` registers. -/
def clearMarks (d : Operand) (regs : Nat) (lanes : Mask) (ms : List Mark) : List Mark :=
  clearMarksOf ((List.range regs).flatMap fun k => ((d.nth k).reg?).toList.flatMap Reg.each) lanes ms

/-- The uncorrectable marks that a warp meets: its own, and those of the scoped registers wider than w as
its core holds them (R312). -/
def Warp.marksOf (w : Warp) (b : Block) (g : Grid) : List Mark :=
  let far (mk : Nat → Reg) (l : List (Nat × Nat)) : List Mark :=
    l.map fun x => { reg := mk x.1, lanes := BitVec.allOnes 64, store := x.2 }
  w.flt.marks ++ far .b (b.bMarks.map fun x => (x.1, x.2 - 1))
    ++ far .k ((g.kSet b).marked b.core) ++ far .g ((g.gSet b).marked b.core)

/-- Marks registers that have just been written with uncorrectable data (R312). -/
def State.addMarks (s : State) (r : WarpRef) (ms : List Mark) : State :=
  ms.foldl (fun s m => match m.reg, s.block? r.blk with
    | .b n, _ => s.updBlock r.blk fun b => { b with bMarks := sparseSet 0 b.bMarks n (m.store + 1) }
    | .k n, some b => s.updGrid b.grid fun g => g.setK b ((g.kSet b).mark n m.store)
    | .g n, some b => s.updGrid b.grid fun g => g.setG b ((g.gSet b).mark n m.store)
    | _, _ => s.updWarp r fun w => { w with flt := { w.flt with marks := w.flt.marks ++ [m] } }) s

/-- Tags that a write of a k or g register passes: its home orders it behind those of the grid's other cores,
which the writer's core takes with it (R112, R325). -/
def State.passTags (s : State) (r : WarpRef) (d : Operand) : State :=
  match d with
  | .k _ | .g _ => match s.warp? r with
    | some (b, _) => match s.grid? b.grid with
      | some g => s.shareTags g.vf (b.core :: (s.blocks.filter fun x => x.grid == b.grid).map Block.core)
      | none => s
    | none => s
  | _ => s

/-- Writes a destination of `regs` registers with a value for each lane, checks made (R115). -/
def State.writeDest (s : State) (r : WarpRef) (d : Operand) (regs : Nat)
    (vals : List (Nat × Nat)) : State :=
  let s := (destVals d vals).foldl (fun s x => s.writeRegs r x.1 d regs x.2) s
  (s.updWarp r fun w =>
    { w with flt := { w.flt with marks := clearMarks d regs (maskOf (vals.map Prod.fst)) w.flt.marks } }).passTags r
    (if vals.isEmpty then .sp 0 else d)

/-- Lanes that disagree under R115 or R40: with the lowest lane of their octet for an octet
register, with the lowest lane for a wider one, %mode, %status and %zero. -/
def disagreeing (d : Operand) (vals : List (Nat × Nat)) : List Nat :=
  let against (same : Nat → Nat → Bool) : List Nat :=
    (vals.filter fun x => match vals.find? fun y => same x.1 y.1 with
      | some y => y.2 != x.2
      | none => false).map Prod.fst
  match d with
  | .v _ => []
  | .o _ => against fun a b => a / 8 == b / 8
  | .sp i => if i == 13 then [] else against fun _ _ => true
  | _ => against fun _ _ => true

/-- SCOPE_DISAGREE with its lanes (R115). -/
def scopeDisagree (stage : BitVec 4) (lanes : List Nat) : FaultInfo :=
  { faultAt fcScopeDisagree stage with lanes := maskOf lanes }

/-- Checks of a write whose values are known: agreement, and the value for %mode (R42, R115). -/
def destFault (d : Operand) (vals : List (Nat × Nat)) : Option FaultInfo :=
  let bad := disagreeing d vals
  if !bad.isEmpty then some (scopeDisagree 1 bad)
  else if d == .sp 12 && vals.any fun x => !modeValueOk (BitVec.ofNat 32 x.2) then
    some (faultAt fcIllegalOperand 1)
  else none

end Sys2Proof.Machine
end

