-- ==== Sys2Proof/Machine/Mem.lean ====
section
/-!
DEFINITION. Memory accesses in flight (R180 to R196): how one is issued in its warp's order, how a
slice performs it, and how the values of a variable-latency word reach its destination (R90 to
R92).
-/

namespace Sys2Proof.Machine

/-! ## Atomic operations (R185) -/

/-- Access width of a type code: 8 bytes under s64, n64 and f64, else 4 (R184). -/
def tyBytes (ty : BitVec 4) : Nat := if ty == 2 || ty == 3 || ty == 5 then 8 else 4

/-- Two's complement value of `n` bits. -/
def toSigned (n x : Nat) : Int := if x < 2 ^ (n - 1) then x else (x : Int) - 2 ^ n

/-- The lower of two integers by the signedness of a type. -/
def intLess (signed : Bool) (n a b : Nat) : Bool :=
  if signed then toSigned n a < toSigned n b else a < b

/-- Element-wise float add of packed 16-bit types. -/
def addHalves (f : Fmt) (a b : Nat) : Nat :=
  (f.add .rne false (a % 2 ^ 16) (b % 2 ^ 16)).1
    + 2 ^ 16 * (f.add .rne false (a / 2 ^ 16 % 2 ^ 16) (b / 2 ^ 16 % 2 ^ 16)).1

/-- AADD (R185). -/
def atomicAdd (ty : BitVec 4) (w a b : Nat) : Nat :=
  match ty.toNat with
  | 4 => (Fmt.f32.add .rne false a b).1
  | 5 => (Fmt.f64.add .rne false a b).1
  | 6 => addHalves .h16 a b
  | 7 => addHalves .b16 a b
  | _ => (a + b) % 2 ^ (8 * w)

/-- AMIN and AMAX, under the rules of MIN and MAX (R136, R185). -/
def atomicMinMax (ty : BitVec 4) (w : Nat) (max : Bool) (a b : Nat) : Nat :=
  match ty.toNat with
  | 4 => Fmt.f32.minMax max a b
  | 5 => Fmt.f64.minMax max a b
  | t =>
    let less := intLess (t % 2 == 0) (8 * w) a b
    if max then (if less then b else a) else (if less then a else b)

/-- A value with the bits of a mask replaced; the mask stands 64 bits up in the data (R227). -/
def maskedNew (w old data : Nat) : Nat :=
  let all := 2 ^ (8 * w) - 1
  let m := Nat.land (data / 2 ^ 64) all
  Nat.lor (Nat.land old (all - m)) (Nat.land data m)

/-- The new value at the address (R185). For ACAS the data is cmp, then new. -/
def atomicNew (fn : RemoteKind) (ty : BitVec 4) (w old data : Nat) : Nat :=
  let b := data % 2 ^ (8 * w)
  match fn with
  | .add => atomicAdd ty w old b
  | .min => atomicMinMax ty w false old b
  | .max => atomicMinMax ty w true old b
  | .and => Nat.land old b
  | .or => Nat.lor old b
  | .xor => Nat.xor old b
  | .exch => b
  | .cas => if old == b then data / 2 ^ (8 * w) % 2 ^ (8 * w) else old
  | .masked => maskedNew w old data
  | .load | .store => old

/-! ## The order of a warp's accesses (R183, R190, R191, R193) -/

/-- Whether an access of a warp returns or reads a value: loads, atomics and ACQ (R193). -/
def AccKind.reads : AccKind → Bool
  | .load | .atomic _ _ | .acq => true
  | _ => false

/-- Both accesses reach one byte. -/
def Acc.overlaps (x y : Acc) : Bool :=
  x.remote == y.remote
    && (if x.remote then x.va.toNat < y.va.toNat + y.width && y.va.toNat < x.va.toNat + x.width
      else x.pa < y.pa + y.width && y.pa < x.pa + x.width)

/-- Both accesses reach one line (R183). -/
def Acc.sameLine (x y : Acc) : Bool :=
  x.remote == y.remote
    && (if x.remote then lineOf x.va.toNat == lineOf y.va.toNat else lineOf x.pa == lineOf y.pa)

def Acc.isFence (x : Acc) : Bool := match x.kind with
  | .fence _ _ _ => true
  | _ => false

/-- Program order of a warp's accesses (R183): a remote write waits for every earlier access of its line, a
local load for every earlier write of its line, and any other access for those that share a byte with it;
accesses of different addresses are not ordered. -/
def Acc.ordered (x a : Acc) : Bool :=
  if (a.remote && a.kind.writes) || (!a.remote && a.kind == .load && x.kind.writes) then x.sameLine a
  else x.overlaps a

/-- Whether the outstanding access `x` of a warp holds its new access `a`: program order (R183), a
fence (R193), or an ACQ, which holds LD, LDW, atomics, DUALST and ACQ (R191). -/
def Acc.holds (x a : Acc) (dual : Bool) : Bool :=
  match x.kind with
  | .fence rel acq _ => acq || (rel && a.kind.writes)
  | .acq => x.ordered a || a.kind.reads || dual
  | _ => !a.isFence && x.ordered a

/-- An engine write of a TCPX, whose writes alone among those of the engine count toward the release of R195
before they are reported (R194, R233). -/
def State.collective (s : State) (a : Acc) : Bool :=
  match a.cmd.bind fun id => s.cmds.find? (·.id == id) with
  | some c => (match c.kind with
    | .tcpx _ _ _ _ => true
    | _ => false)
  | none => false

/-- Remote writes of a warp that are not acknowledged: those that its words have made, a REL's increment among
them (DESIGN CHOICE, log row 105), and those of its TCPX (R195, R233). Those of an LCP or TCP count through
their counter alone (R190, R194). -/
def State.remoteWrites (s : State) (r : WarpRef) : List Acc :=
  s.accs.filter fun x => x.blk == r.blk && x.slot == r.slot && x.remote && x.kind.writes
    && (x.cmd.isNone || s.collective x)

/-- Outstanding accesses of a warp. -/
def State.accsOf (s : State) (r : WarpRef) : List Acc :=
  s.accs.filter fun x => x.blk == r.blk && x.slot == r.slot && x.cmd.isNone

/-- Writes of other warps of the core that the warp can see, or may have seen, in the core's read cache
before they are performed. -/
def State.visibleWrites (s : State) (r : WarpRef) (core : Nat) : List Acc :=
  s.accs.filter fun x => x.core == core && (x.placed || x.seen) && x.kind.writes
    && !(x.blk == r.blk && x.slot == r.slot)

/-- Issues an access that waits for `extra` and for what its warp's order asks. -/
def State.issueAcc (s : State) (a : Acc) (dual : Bool) (extra : List Nat) : State :=
  let before := ((s.accsOf { blk := a.blk, slot := a.slot }).filter fun x => x.holds a dual).map Acc.id
  let after := before ++ extra.filter fun x => !before.contains x
  let a := { a with id := s.nextId, after }
  let a := if after.isEmpty then { a with gen := s.leaveGen a } else a
  { s.fresh with accs := s.accs ++ [a] }

/-- Issues an engine write, behind the earlier ones of its command on its line; it belongs to the
generation that the core has adopted now (R223, R326). -/
def State.issueEngine (s : State) (a : Acc) : State :=
  let after := (s.accs.filter fun x => x.cmd == a.cmd && x.sameLine a).map Acc.id
  { s.fresh with accs := s.accs ++ [{ a with id := s.nextId, after, gen := s.leaveGen a }] }

/-! ## Redundant copies: a copy's loads see its own unmatched writes (R353) -/

/-- An engine entry of which only some bits are written (R227). -/
def StreamEntry.masked (e : StreamEntry) : Bool :=
  e.cmd.isSome && e.width ≤ 4 && e.data.toNat / 2 ^ 64 != 0

/-- The bits of an entry that are written. -/
def StreamEntry.mask (e : StreamEntry) : Nat :=
  if e.masked then e.data.toNat / 2 ^ 64 else 2 ^ (8 * e.width) - 1

/-- Bytes at a virtual address with an entry's bytes laid over them. -/
def StreamEntry.overlay (e : StreamEntry) (va : Nat) (bytes : List Byte) : List Byte :=
  let a := e.addr.toNat
  bytes.mapIdx fun i x =>
    if a ≤ va + i && va + i < a + e.width then
      let m : Byte := BitVec.ofNat 8 (e.mask / 2 ^ (8 * (va + i - a)))
      (x &&& ~~~m) ||| (BitVec.ofNat 8 (e.data.toNat / 2 ^ (8 * (va + i - a))) &&& m)
    else x

/-- A load's bytes as a warp of a redundant copy sees them, its own writes last. -/
def Block.forward (b : Block) (slot va : Nat) (bytes : List Byte) : List Byte :=
  let others := (b.warps.filter (·.slot != slot)).flatMap Warp.heldEntries
  let own := (b.warps.filter (·.slot == slot)).flatMap Warp.heldEntries
  (others ++ own).foldl (fun bs e => e.overlay va bs) bytes

/-! ## Delivery of results (R90 to R92) -/

/-- Adds an access's value to the result it feeds. -/
def Result.feed (x : Result) (lane : Nat) (v : Wide) (bad : Bool) : Result :=
  { x with
    vals := sparseSet 0 x.vals lane v, need := x.need - 1,
    marked := if bad then x.marked ||| maskOf [lane] else x.marked }

def State.feed (s : State) (r : WarpRef) (id lane : Nat) (v : Wide) (bad : Bool) : State :=
  s.updWarp r fun w => { w with
    results := w.results.map fun (x : Result) => if x.id == id then x.feed lane v bad else x }

/-- Every value of a result is there, its time has come, and its core's copies have applied the writes
it waits for. -/
def State.resultReady (s : State) (b : Block) (x : Result) : Bool :=
  x.need == 0 && x.due ≤ s.now && x.ready && (x.after == (0, 0) || match s.grid? b.grid with
    | some g => x.after.1 ≤ (g.kSet b).applied b.core && x.after.2 ≤ (g.gSet b).applied b.core
    | none => true)

/-- Values by lane of a complete result; a uniform word's one value goes to every lane. -/
def Result.values (x : Result) : List (Nat × Nat) :=
  (lanesOf 64 x.lanes).map fun l =>
    (l, (if x.uni then (x.vals.head?.map Prod.snd).getD 0 else sparseGet 0 x.vals l).toNat)

/-- Removes one occurrence of each pending bit (R91). -/
def clearPend (ps : List Reg) (cleared : List Reg) : List Reg := cleared.foldl List.erase ps

/-- A warp with no pending bit and no outstanding result ends its switch park, where the waiting
flags of FRCP to FCOSPI are merged (R32, R91, R134). -/
def Warp.endSwitch (w : Warp) (now : Nat) : Warp :=
  if w.run == .switch && w.pend.isEmpty && w.results.isEmpty then
    { (w.orFlags w.lateFlags) with run := .ready, lateFlags := 0, since := now }
  else w

/-- A restart at %ckpc (R312): the whole checkpoint record of a CHKPT (R351), or the restart state
of an IDEM (R311) with every lane active; %retry rises and every mark is cleared. -/
def Warp.restarted (w : Warp) (now : Nat) : Warp :=
  let flt : WarpFault := { w.flt with retry := w.flt.retry + 1, marks := [] }
  let w : Warp := { w with run := .ready, since := now, flt := flt }
  match w.flt.chkpt, w.flt.restart with
  | some c, _ =>
    { w with
      regs := c.regs,
      ctl := { w.ctl with
        pc := c.pc, mode := c.mode, status := c.status, draw := c.draw, active := c.active,
        depth := c.depth, loops := c.loops, stack := c.stack }
      flt := { w.flt with word := c.word, addr := c.addr, lanes := c.lanes }
      lateFlags := c.lateFlags }
  | none, some x =>
    { w with
      ctl := { w.ctl with
        pc := w.flt.ckpc.toNat, mode := x.mode, draw := x.draw, active := fullMask w.width,
        depth := x.depth, loops := x.loops, stack := x.stack } }
  | none, none => { w with ctl := { w.ctl with pc := w.flt.ckpc.toNat } }

/-- What the delivery of a result may end: a switch park, the wait of a fault (R92), or that of a
rolled-back warp (R355). -/
def State.settle (s : State) (r : WarpRef) : State :=
  match s.warp? r with
  | none => s
  | some (_, w) =>
    if w.run == .faulting && w.results.isEmpty then
      match w.flt.waiting with
      | some (f, pc) => s.recordFault r f pc
      | none => s
    else if w.run == .rollback && w.results.isEmpty then s.updWarp r fun w => w.restarted s.now
    else s.updWarp r fun w => w.endSwitch s.now

/-- A result leaves the warp's list: pending bits, flags, event and report (R66, R91, R134). -/
def Warp.retireResult (w : Warp) (x : Result) : Warp :=
  let fl : Flags := if x.discard then 0 else x.flags
  let st := if x.late then w.ctl.status else statusOr w.ctl.status fl
  let st := match x.event with
    | some (ev, rep) => if x.discard then st else statusEvent st ev rep
    | none => st
  { (w.setStatus st) with
    results := w.results.filter (·.id != x.id), pend := clearPend w.pend x.pend,
    lateFlags := if x.late then w.lateFlags ||| fl else w.lateFlags }

/-- Marks of the lanes whose data was uncorrectable (R312). -/
def Result.marks (x : Result) : List Mark :=
  if x.marked == 0 then []
  else match x.dst with
    | none => []
    | some d => (List.range x.regs).flatMap fun k =>
      ((d.nth k).reg?).toList.flatMap fun r => r.each.map fun r =>
        { reg := r, lanes := x.marked, store := x.store }

/-- The other copy of a block of a redundant pair (R350). -/
def State.twin? (s : State) (b : Block) : Option Block :=
  s.blocks.find? fun x => x.grid == b.grid && x.index == b.index && x.trail != b.trail

/-- The n-th entry of a replay log receives its result (R354). -/
def Warp.logResult (w : Warp) (n : Nat) (o : PairOut) : Warp :=
  { w with
    replay := w.replay.mapIdx fun i (e : PairEntry) =>
      if i == n then { e with result := some o } else e }

/-- A result as the replay log holds it. -/
def Result.out (x : Result) : PairOut :=
  { vals := x.vals, flags := x.flags, event := x.event, write := x.write, marked := x.marked }

/-- A result that takes what another copy or the replay log has. -/
def Result.takeOut (y : Result) (o : PairOut) : Result :=
  { y with vals := o.vals, flags := o.flags, event := o.event, write := o.write, marked := o.marked,
           ready := true, need := 0 }

/-- The result of a pair-performed word of the leading copy goes to both replay logs and to the
trailing copy's result (R354). -/
def State.mirror (s : State) (r : WarpRef) (b : Block) (x : Result) : State :=
  match x.pair, s.twin? b with
  | some n, some t =>
    if b.trail then s
    else
      let o := x.out
      let s := s.updWarp r fun w => w.logResult n o
      s.updWarp { blk := t.id, slot := r.slot } fun w =>
        let w := w.logResult n o
        { w with
          results := w.results.map fun (y : Result) => if y.pair == some n then y.takeOut o else y }
  | _, _ => s

/-- The fault of a result's destination, judged with its values (R115, R184). -/
def Result.fault (x : Result) : Option FaultInfo :=
  match x.dst with
  | some d => if x.write && !x.discard && x.judged then destFault d x.values else none
  | none => none

/-- A word whose destination faults wrote nothing: no flag, no event, no draw, no loop step (R92, R132,
R160). -/
def Warp.unissued (w : Warp) (x : Result) : Warp :=
  let w := w.retireResult { x with discard := true }
  { w with ctl := { w.ctl with loops := x.loops, draw := x.draw } }

/-- VARIABLE_LATENCY_RESULT: writes a complete result (R90, R91). A disagreement of a scoped
destination is a fault of the word itself (R115, R184). -/
def State.deliver (s : State) (r : WarpRef) (id : Nat) : State :=
  match s.warp? r with
  | none => s
  | some (b, w) =>
    match w.results.find? (·.id == id) with
    | none => s
    | some x =>
      if !s.resultReady b x then s
      else
        match x.fault, x.dst with
        | some f, _ =>
          (((s.updWarp r fun w => w.unissued x).mirror r b x).takeFault r f x.pc).settle r
        | none, some d =>
          let s := (s.updWarp r fun w => w.retireResult x).mirror r b x
          if x.write && !x.discard then
            ((s.writeDest r d x.regs x.values).addMarks r x.marks).settle r
          else s.settle r
        | none, none => ((s.updWarp r fun w => w.retireResult x).mirror r b x).settle r

/-! ## What a slice does with an access (R180, R184, R185, R190, R191) -/

/-- How an attempt to perform an access ends. -/
inductive Performed where
  | done (s : State)
  /-- It waits: for an earlier access, for the granary, or behind a waiting write of its line. -/
  | waits (s : State)
  /-- No slice holds its address. -/
  | noMemory (pa : Nat)
  deriving DecidableEq, Repr

/-- An earlier write than access `id` waits for the granary at a line (R331). -/
def State.behind (s : State) (pa id : Nat) : Bool :=
  s.accs.any fun x => x.waits && x.id < id && lineOf x.pa == lineOf pa

/-- Some write waits for the granary at a line: reads of it wait behind (R331). -/
def State.lineWaits (s : State) (pa : Nat) : Bool := s.behind pa s.nextId

/-- Another device's access is performed, and acknowledged (R195, R375). -/
def State.sendAck (s : State) (st : AckStatus) (data : Wide) : State :=
  s.updDev fun d => { d with acks := (st, data) :: d.acks }

/-- The physical spans that a virtual range of a context covers, in pieces of one page of 64 KiB at most
(R191, R291). -/
def State.rangeSpans (s : State) (ctx base len : Nat) : List (Nat × Nat) :=
  (List.range (len / 65536 + 2)).filterMap fun i =>
    let lo := Nat.max base ((base / 65536 + i) * 65536)
    let hi := Nat.min (base + len) ((base / 65536 + i + 1) * 65536)
    if hi ≤ lo then none
    else if s.privileged ctx && lo / 2 ^ 56 % 2 == 1 then some (lo - 2 ^ 56, hi - lo)
    else match s.walk ctx lo with
      | .leaf t => if t.lower then none else some (t.pa + (lo - t.va), hi - lo)
      | _ => none

/-- Invalidates the lines of every range that a block binds to an object (R191): those that its addresses
translate to, under whatever address and context a line was fetched, and those fetched under them. -/
def State.invalidateBound (s : State) (b : Block) (obj : Dword) : State :=
  let ctx := s.ctxOf b
  let ranges := (b.bindings.filter (·.obj == obj)).map fun x => (x.base.toNat, x.len)
  let spans := ranges.flatMap fun x => s.rangeSpans ctx x.1 x.2
  let meets (a : Nat) (x : Nat × Nat) : Bool := x.1 < a + 128 && a < x.1 + x.2
  s.invalidate b.core fun l => (l.ctx == ctx && ranges.any (meets l.va)) || spans.any (meets l.pa)

/-- Brings a line into a core's read cache; the new line holds none of the core's writes that are still
on their way, which its warps may have seen in the line before (R181, R190). -/
def State.fetchLine (s : State) (core ctx va pa : Nat) : State :=
  { (s.allocate core ctx va pa) with
    accs := s.accs.map fun (x : Acc) =>
      if x.core == core && !x.remote && lineOf x.pa == lineOf pa && x.kind.writes then
        { x with placed := false, seen := x.seen || x.placed } else x }

/-- A store or atomic that its core's line does not hold yet is put into it when performed, below the
later stores of the core that the line holds already (R181, R183). -/
def State.placeLate (s : State) (a : Acc) (bytes : List Byte) : State :=
  let later := s.accs.filter fun x =>
    x.core == a.core && x.placed && x.kind == .store && x.sameLine a && a.id < x.id
  s.updCore a.core fun c => { c with
    cache := c.cache.map fun l => later.foldl
      (fun (l : CacheLine) x => l.patch x.pa (leBytes x.width x.data.toNat)) (l.patch a.pa bytes) }

/-- A load's value at its slice or from a present line (R181, R183). A load that was held reads at its slice
and leaves a line that another warp has brought in meanwhile as it is. A line in which it meets a double error
of the cache gives marked data and is dropped (R312, R342). -/
def State.performLoad (s : State) (a : Acc) : State :=
  let r : WarpRef := { blk := a.blk, slot := a.slot }
  let line := (s.core a.core).cache.find? (·.pa == lineOf a.pa)
  let present := line.filter fun _ => !a.placed
  let (upset, s) := if present.isSome then
      s.readSram .cache a.core a.core a.ctx fun k => k < a.pa + a.width && a.pa < k + 8
    else ([], s)
  let s := if upset.isEmpty then s else s.invalidate a.core fun l => l.pa == lineOf a.pa
  let bad := match present with
    | some l => !upset.isEmpty || l.bad.any fun x => x < a.pa + a.width && a.pa < x + 4
    | none => s.spanBad a.pa a.width
  let bytes := match present with
    | some l => (l.bytes.drop (a.pa - l.pa)).take a.width
    | none => readBytes s.mem a.pa a.width
  let bytes := match s.block? a.blk with
    | some b => b.forward a.slot a.va.toNat bytes
    | none => bytes
  let s := if line.isSome then
      (if present.isSome then s else s.readSpan a.ctx a.pa a.width).noteLine a.core a.ctx a.va.toNat a.pa
    else if bad then s.readSpan a.ctx a.pa a.width
    else (s.readSpan a.ctx (lineOf a.pa) 128).fetchLine a.core a.ctx a.va.toNat a.pa
  match a.result with
  | some id => s.feed r id a.lane (BitVec.ofNat 128 (leOf bytes)) bad
  | none => s

/-- The bytes that a write leaves, from the old value. -/
def Acc.newValue (a : Acc) (old : Nat) : Nat :=
  match a.kind with
  | .atomic fn ty => atomicNew fn ty a.width old a.data.toNat
  | .masked => maskedNew a.width old a.data.toNat
  | .relInc => (old + 1) % 2 ^ 64
  | _ => a.data.toNat % 2 ^ (8 * a.width)

/-- A write that depends on the old value has read it: it corrects and logs what it met in `s`, and what
it computes from marked data is marked (R343, R344, R347). -/
def State.keepBad (t s : State) (a : Acc) : State :=
  let t := t.correctSpan a.ctx a.pa a.width
  if !s.spanBad a.pa a.width then t
  else
    let words := (wordsOf a.pa a.width).filter fun w => s.dev.badWords.contains w
    let fresh := match a.kind with
      | .atomic .exch _ => true
      | _ => false
    let t := t.log 2 .dram (channelOf a.pa) a.ctx (BitVec.ofNat 64 a.pa)
    if fresh then t
    else t.updDev fun d => { d with badWords := words.foldl (fun l w => insertNat w l) d.badWords }

/-- Performs a local access that nothing holds. -/
def State.performLocal (s : State) (a : Acc) : Performed :=
  if a.pa + a.width > Config.dramBytes then .noMemory a.pa
  else
    let behind := s.behind a.pa a.id
    let s := if a.blk == 0 then s else s.exchangeTags a.core a.pa
    match a.kind with
    | .fence _ _ _ =>
      .done ((if a.placed then s.invalidate a.core fun _ => true else s).dropAcc a.id)
    | .load =>
      if behind then .waits s
      else if a.far then
        .done (((s.readSpan a.ctx a.pa a.width).sendAck .accepted
          (BitVec.ofNat 128 (readLE s.mem a.pa a.width))).dropAcc a.id)
      else .done ((s.performLoad a).dropAcc a.id)
    | .acq =>
      if behind then .waits s
      else
        let bad := s.spanBad a.pa 8
        let s := s.readSpan a.ctx a.pa 8
        let v := BitVec.ofNat 128 (readLE s.mem a.pa 8)
        let s := match s.block? a.blk with
          | some b => s.invalidateBound b a.va
          | none => s
        let r : WarpRef := { blk := a.blk, slot := a.slot }
        let s := match a.result with
          | some id => s.feed r id a.lane v bad
          | none => s
        .done (s.dropAcc a.id)
    | _ =>
      let old := readLE s.mem a.pa a.width
      let bytes := leBytes a.width (a.newValue old)
      let frozen := match s.vfAt a.pa with
        | some v => a.gen.isSome && a.gen != some (s.vf v).part.gen
        | none => false
      if behind && !frozen then .waits s
      else match s.modifyLine a.pa a.width (fun x => leBytes a.width (a.newValue (leOf x)))
          (a.kind == .store) a.gen with
        | none => .waits { s with accs := s.accs.map fun x =>
            if x.id == a.id then { x with waits := true } else x }
        | some t =>
          let bad := a.kind != .store && s.spanBad a.pa a.width
          let t := if a.kind == .store then t.markWords a.bad else t.keepBad s a
          let t := if a.cmd.isSome then t.invalidate a.core fun l => l.pa == lineOf a.pa
            else if !a.placed && a.blk != 0 then t.placeLate a bytes
            else t
          let r : WarpRef := { blk := a.blk, slot := a.slot }
          let t := match a.result with
            | some id => t.feed r id a.lane (BitVec.ofNat 128 old) bad
            | none => t
          let t := match a.cmd with
            | some id => { t with
                cmds := t.cmds.map fun (c : Cmd) =>
                  if c.id == id then { c with writes := c.writes - 1 } else c }
            | none => t
          let t := if a.far then t.sendAck .accepted (BitVec.ofNat 128 old) else t
          .done (t.dropAcc a.id)

/-- SLICE_ACCESS: performs an access that may be performed now. -/
def State.performAcc (s : State) (id : Nat) : Performed :=
  match s.accs.find? (·.id == id) with
  | none => .waits s
  | some a => if !a.after.isEmpty || a.remote then .waits s else s.performLocal a

/-- Words that a warp may issue ahead after the faulting one, which counts as the first (R299). -/
def aheadWords : Nat := 513

/-! ## Everything a warp has outstanding, at once (R299: loads of a run-ahead) -/

/-- Delivers a result of a warp that runs ahead; one whose destination faults ends the run-ahead (R299
step 5). -/
def State.deliverAhead (s : State) (r : WarpRef) (id : Nat) : State :=
  match s.warp? r with
  | none => s
  | some (b, w) =>
    match (w.results.find? (·.id == id)).filter fun x => x.fault.isSome with
    | some x => (s.updWarp r fun w => w.unissued x).updCore b.core fun c =>
        { c with ahead := c.ahead.map fun (a : Ahead) => { a with words := aheadWords } }
    | none => s.deliver r id

/-- Performs and delivers what a warp running ahead has outstanding. -/
def State.settleAhead (s : State) (r : WarpRef) : State :=
  let ids := (s.accsOf r).map Acc.id
  let s := s.updWarp r fun w => { w with
    results := w.results.map fun (x : Result) => { x with due := 0 } }
  let s := ids.foldl (fun s id => match s.performAcc id with
    | .done t => t
    | _ => s) s
  let rs := match s.warp? r with
    | some (_, w) => w.results.map Result.id
    | none => []
  rs.foldl (fun s id => s.deliverAhead r id) s

/-! ## The addresses of a word (R178, R184, R297) -/

/-- What an address meets in the order of R184, 0 for nothing: 1 ALIGNMENT, 2 RANGE, 3 PAGE that is
never posted, 4 PERMISSION, 5 PAGE that may be posted. -/
def addrRank (w : Nat) (a : Dword) (t : Trans) : Nat :=
  if a.toNat % w != 0 then 1
  else match t with
    | .phys _ | .remote _ _ => 0
    | .range => 2
    | .nonCanonical => 3
    | .permission | .lower _ => 4
    | .missing | .malformed => 5

/-- Fault code of a rank. -/
def rankCode (rank : Nat) : BitVec 8 :=
  if rank == 1 then fcAlignment else if rank == 2 then fcRange
  else if rank == 4 then fcPermission else fcPage

/-- One address of a word: its lane, the address and what it translates to. -/
structure LaneAddr where
  lane : Nat
  va : Dword
  t : Trans
  deriving DecidableEq, Repr

/-- How the addresses of a word are found. -/
inductive AddrCheck where
  | good
  | bad (f : FaultInfo)
  /-- Only missing or malformed translations: PAGE is posted (R297). -/
  | page (pages : List SheafPage) (f : FaultInfo)
  deriving DecidableEq, Repr

/-- Translates addresses in order, TLBs following. -/
def State.translateAll (s : State) (core ctx : Nat) (acc : Access) :
    List (Nat × Dword) → List LaneAddr × State
  | [] => ([], s)
  | (l, a) :: rest =>
    let (t, s) := s.translate core ctx a acc
    let (ts, s) := s.translateAll core ctx acc rest
    ({ lane := l, va := a, t := t } :: ts, s)

/-- Adds a missing page to a list, unless it is there (R298). -/
def addPage (ps : List SheafPage) (p : SheafPage) : List SheafPage :=
  if ps.any (·.page == p.page) then
    ps.map fun q => if q.page == p.page then
      { q with x := q.x || p.x, w := q.w || p.w, r := q.r || p.r } else q
  else ps ++ [p]

/-- The 64 KiB unit of an address as a sheaf entry (R300). -/
def sheafPage (a : Dword) (acc : Access) (malformed : Bool) : SheafPage :=
  { page := a.toNat / 65536, malformed, x := acc == .fetch, w := acc == .write,
    r := acc == .read || acc == .present }

/-- The check of a word's addresses of width `w` (R184, R297). `all` names the lanes of a uniform
word, whose one address is that of each of them. -/
def checkAddrs (w : Nat) (acc : Access) (all : Option Mask) (ts : List LaneAddr) : AddrCheck :=
  let bad := ts.filter fun x => addrRank w x.va x.t != 0
  match bad with
  | [] => .good
  | _ =>
    let rank := bad.foldl (fun m x => Nat.min m (addrRank w x.va x.t)) 5
    let first := ((bad.filter fun x => addrRank w x.va x.t == rank).head?).elim 0 LaneAddr.va
    let lanes := all.getD (maskOf (bad.map LaneAddr.lane))
    let f : FaultInfo := { code := rankCode rank, stage := 1, detail := 0, addr := first, lanes }
    if rank == 5 then
      .page (bad.foldl (fun ps x => addPage ps (sheafPage x.va acc (x.t == .malformed))) []) f
    else .bad f

end Sys2Proof.Machine
end

