-- ==== Sys2Proof/Machine/Issue.lean ====
section
/-!
DEFINITION. How one word issues: the checks of R52 in their order, consumption of marked registers
(R312), twin execution (R349), the completion of a word (R32, R99, R102, R160, R310), a posted page
fault (R297, R298) and run-ahead (R299). A meaning gives what its entry says (`Entry`) and its
effect (`Eff`); `runWord` does the rest.
-/

namespace Sys2Proof.Machine

/-! ## What an entry says of a word -/

/-- An operand byte of a word, as its entry uses it (R31, R37). -/
structure Use where
  o : Operand
  /-- Registers that the position spans: 1, 2 or 4. -/
  regs : Nat
  /-- Its class, index and alignment are allowed there (R37 steps 1 to 4). -/
  ok : Bool
  read : Bool
  write : Bool
  deriving DecidableEq, Repr

/-- A source of R131: any class for one register, an even register or %zero for a pair. -/
def Use.src (o : Operand) (n : Nat) : Use :=
  { o, regs := n, read := true, write := false,
    ok := if n == 1 then o.known else o.group n || o.isZero }

/-- A destination of R131. -/
def Use.dst (o : Operand) (n : Nat) : Use :=
  { o, regs := n, read := false, write := true,
    ok := if n == 1 then o.writable else o.group n }

/-- A destination that is also a source. -/
def Use.both (o : Operand) (n : Nat) : Use := { Use.dst o n with read := true }

/-- A base pair of classes 0 to 6 (R184). -/
def Use.base (o : Operand) : Use :=
  { o, regs := 2, read := true, write := false, ok := o.group 2 }

/-- A source of `n` registers of classes 3 to 6. -/
def Use.wide (o : Operand) (n : Nat) : Use :=
  { o, regs := n, read := true, write := false, ok := o.isWide && o.index % n == 0 }

/-- A destination of `n` registers of classes 3 to 6. -/
def Use.wideDst (o : Operand) (n : Nat) : Use :=
  { o, regs := n, read := false, write := true, ok := o.isWide && o.index % n == 0 }

/-- Which words close an idempotent region or checkpoint (R310, R351). -/
inductive Closes where
  | no
  | region
  /-- Not a checkpoint of CHKPT under `redundant` (R351). -/
  | unlessPaired
  deriving DecidableEq, Repr

/-- What a word does during run-ahead (R299). -/
inductive AheadClass where
  /-- Executed; poison passes from sources to destinations. -/
  | run
  /-- Executed, but ends run-ahead when it reads poison. -/
  | control
  /-- Discarded. -/
  | skip
  /-- Discarded, its destination poisoned. -/
  | poison
  /-- Discarded, but as the faulting word its lanes are performed as loads. -/
  | atomic
  /-- A store: discarded, but as the faulting word its lanes are performed as loads into no register. -/
  | store
  /-- Ends run-ahead: the words that R299 names, and the SYS words (DEDUCED, log row 22). -/
  | stop
  deriving DecidableEq, Repr

/-- What a word's entry says of it beyond its effect. -/
structure Entry where
  sw : Bool
  uses : List Use := []
  /-- No reserved function, length or scope code (R51). -/
  codes : Bool := true
  /-- Every MODE field it lists is accepted (R43). -/
  modeOk : Bool := true
  /-- It honours MODE.gd. -/
  gd : Bool := false
  /-- MODE.gd selects and does not mask (R146). -/
  selector : Bool := false
  /-- It honours another MODE field, or is SETMODE (R91). -/
  modeRead : Bool := false
  /-- Lane-class whatever its operands (R36). -/
  lane : Bool := false
  /-- Predicates that it reads and writes outside guard and operands (R91, R299). -/
  predRead : List Nat := []
  predWrite : List Nat := []
  /-- It names p0 as a destination (R45). -/
  p0 : Bool := false
  roles : List Role := [.copy, .matrix, .vector]
  /-- A SYS word (R50). -/
  priv : Bool := false
  /-- Not allowed under `.diverge uniform` (R97). -/
  policy : Bool := false
  closes : Closes := .no
  /-- It draws (R160). -/
  draws : Bool := false
  ahead : AheadClass := .run
  /-- A word of majors 0x10 to 0x46 (R348). -/
  twin : Bool := false
  deriving DecidableEq, Repr

/-- What a meaning works on: the issuing warp with its block and grid, whether the word is uniform,
ACTIVE, and the lanes C; a uniform word computes once, in the lowest active lane (R36). -/
structure Ctx where
  s : State
  r : WarpRef
  b : Block
  w : Warp
  g : Grid
  uni : Bool
  act : List Nat
  lanes : List Nat
  /-- Place in the replay log of a pair-performed word (R354). -/
  pair : Option Nat
  /-- The trailing copy's side of a pair-performed word: nothing is performed (R354). -/
  shadow : Bool
  /-- Run-ahead (R299). -/
  ahead : Bool
  deriving DecidableEq, Repr

/-- The effect of a word. -/
inductive Eff where
  /-- It completes. -/
  | done (s : State)
  /-- It completes with a transfer; `taken` when that counts for the loop levels (R102). -/
  | jump (s : State) (pc : Nat) (taken : Bool)
  | fault (f : FaultInfo)
  /-- It waits at its word. -/
  | wait (s : State) (run : Run)
  /-- It completes and leaves the warp as the state has it. -/
  | leave (s : State)
  /-- A posted PAGE (R297). -/
  | page (pages : List SheafPage) (f : FaultInfo) (s : State)
  deriving DecidableEq, Repr

/-- The warp's context number. -/
def Ctx.ctx (c : Ctx) : Nat := c.g.ctx

/-- One 32-bit operand for a lane. -/
def Ctx.opd (c : Ctx) (lane : Nat) (o : Operand) : Word := readOperand c.s c.b c.g c.w lane o

/-- `n` registers for a lane as one number. -/
def Ctx.val (c : Ctx) (lane : Nat) (o : Operand) (n : Nat) : Nat := readRegs c.s c.b c.g c.w lane o n

/-- The lane in which a uniform word computes. -/
def Ctx.lane0 (c : Ctx) : Nat := c.act.headD 0

/-- A scoped operand of a uniform word. -/
def Ctx.one (c : Ctx) (o : Operand) : Word := c.opd c.lane0 o

/-- A scoped operand pair of a uniform word as n64. -/
def Ctx.pair64 (c : Ctx) (o : Operand) : Dword := BitVec.ofNat 64 (c.val c.lane0 o 2)

/-- MODE. -/
def Ctx.mode (c : Ctx) : Word := c.w.ctl.mode

/-- Lanes that receive a value: C, or every lane of ACTIVE for a uniform word. -/
def Ctx.outLanes (c : Ctx) : List Nat := if c.uni then (if c.lanes.isEmpty then [] else c.act) else c.lanes

/-- The computed values, a uniform word's one value spread over ACTIVE. -/
def Ctx.spread (c : Ctx) (vals : List (Nat × Nat)) : List (Nat × Nat) :=
  if c.uni then match vals with
    | [] => []
    | x :: _ => c.act.map fun l => (l, x.2)
  else vals

/-- Lanes named by a fault of the word's addresses: those given, or ACTIVE for a uniform word. -/
def Ctx.allLanes (c : Ctx) : Option Mask := if c.uni then some c.w.ctl.active else none


/-- Writes a fixed-latency result: agreement and %mode are checked, then the destination is written
and the flags are set (R66, R115, R132). -/
def Ctx.put (c : Ctx) (s : State) (d : Operand) (regs : Nat) (vals : List (Nat × Nat))
    (flags : Flags) : Eff :=
  let vals := c.spread vals
  match destFault d vals with
  | some f => .fault f
  | none => .done ((s.writeDest c.r d regs vals).updWarp c.r fun w => w.orFlags flags)

/-- A fault in execution with no lanes. -/
def execFault (code : BitVec 8) : Eff := .fault (faultAt code 1)

/-- A fault in execution that names lanes. -/
def laneFault (code : BitVec 8) (lanes : Mask) : Eff := .fault { faultAt code 1 with lanes := lanes }

/-- ACTIVE holds every lane and the stack holds no path entry (R103, R108, R127, R311). -/
def Ctx.converged (c : Ctx) : Bool :=
  c.w.ctl.active == fullMask c.w.width && c.w.ctl.stack.all fun e => !e.path

/-- Values whose agreement is judged when they return (R115, R40, R42). -/
def judgedDest (d : Operand) (uni : Bool) : Bool :=
  match d with
  | .v _ => false
  | .sp i => i == 12 || (!uni && i != 13)
  | _ => !uni

/-- Cycles before which no variable-latency result is written: it is not there at its warp's next window,
as fixed-latency ones are (DEDUCED from R90, log row 15). -/
def lateCycles : Nat := 8

/-- A variable-latency result of the word, not started (R90, R91). -/
def Ctx.result (c : Ctx) (s : State) (d : Option Operand) (regs : Nat) : Result :=
  { id := s.nextId, pc := c.w.ctl.pc, loops := c.w.ctl.loops, draw := c.w.ctl.draw, dst := d, regs, lanes := maskOf c.outLanes, uni := c.uni,
    vals := [], need := 0, due := c.s.now + lateCycles, ready := true, round := false, after := (0, 0), flags := 0, late := false,
    event := none, write := true,
    pend := match d with
      | some o => (List.range regs).filterMap fun k => (o.nth k).reg?
      | none => [],
    judged := match d with
      | some o => judgedDest o c.uni
      | none => false,
    marked := 0, store := 0, pair := c.pair, discard := false }

/-- Adds a result to the warp and sets its pending bits (R91). -/
def State.pushResult (s : State) (r : WarpRef) (x : Result) : State :=
  s.fresh.updWarp r fun w => { w with results := w.results ++ [x], pend := w.pend ++ x.pend }

/-! ## Engine counters (R93, R94) -/

/-- Operations of a class that are not reported yet, oldest first. -/
def Warp.opsOf (w : Warp) (cls : EngClass) : List EngOp := w.eng.filter (·.cls == cls)

/-- The counter of a class: operations behind the completed prefix. -/
def Warp.counter (w : Warp) (cls : EngClass) : Nat := ((w.opsOf cls).dropWhile EngOp.done).length

/-- Every counter is 0. -/
def Warp.idle (w : Warp) : Bool :=
  w.counter .copy == 0 && w.counter .matrix == 0 && w.counter .spline == 0 && w.counter .net == 0

/-- A word would make the counter 64 (R93). -/
def Warp.counterFull (w : Warp) (cls : EngClass) : Bool := w.counter cls ≥ 63

/-- Adds an engine operation at issue. -/
def State.pushOp (s : State) (r : WarpRef) (cls : EngClass) (id : Nat) (cmds : List Nat)
    (arrive : Option (Nat × Nat)) (skipped : BitVec 4) : State :=
  s.updWarp r fun w => { w with
    eng := w.eng ++ [{ id, cls, done := false, flags := 0, err := none, refused := 0, skipped,
                       cmds, arrive }] }

/-- Updates the engine operation with a number, in whichever warps hold it. -/
def State.updOp (s : State) (r : WarpRef) (id : Nat) (f : EngOp → EngOp) : State :=
  s.updWarp r fun w => { w with eng := w.eng.map fun (x : EngOp) => if x.id == id then f x else x }

/-! ## The checks of R52 -/

/-- A lane register at or above the budget (R37 step 5). -/
def Use.overBudget (u : Use) (budget : Nat) : Bool :=
  match u.o with
  | .v i => budget < i.toNat + u.regs
  | _ => false

/-- The registers that a use names (R91, R312). -/
def Use.named (u : Use) : List Reg := (List.range u.regs).filterMap fun k => (u.o.nth k).reg?

/-- A word is lane-class (R36). -/
def Entry.laneClass (e : Entry) (m : Word) : Bool :=
  e.lane || e.uses.any (·.o.isLane) || (e.gd && modeGd m != 0)

/-- The guard holds in a lane (R41). -/
def guardHolds (w : Warp) (lane : Nat) : Bool :=
  w.pred lane (w.ctl.mode.extractLsb' 0 3).toNat != w.ctl.mode.getLsbD 3

/-- Items 3 to 8 of R52. -/
def Entry.staticFault (e : Entry) (w : Warp) (g : Grid) (priv : Bool) : Option FaultInfo :=
  if !e.codes || !e.modeOk then some (faultAt fcIllegalInstruction 0)
  else if e.p0 || e.uses.any (fun u => !u.ok) then some (faultAt fcIllegalOperand 0)
  else if e.uses.any (·.overBudget w.budget) then some (faultAt fcBudget 0)
  else if e.priv && !priv then some (faultAt fcPermission 0)
  else if !e.roles.contains w.role then some (faultAt fcRole 0)
  else if e.policy && g.desc.uniform then some (faultAt fcDivergencePolicy 0)
  else none

/-- Registers that a word reads, guard and MODE included (R91). -/
def Entry.reads (e : Entry) (m : Word) : List Reg :=
  ((e.uses.filter Use.read).flatMap Use.named)
    ++ (if !e.predRead.isEmpty || (e.gd && m.extractLsb' 0 3 != 0) then [.preds] else [])
    ++ (if e.gd || e.modeRead then [.mode] else [])

/-- Registers that a word names as a destination (R91). -/
def Entry.writes (e : Entry) : List Reg :=
  ((e.uses.filter Use.write).flatMap Use.named) ++ (if !e.predWrite.isEmpty then [.preds] else [])

/-- Predicates that a word reads, of its operands, its guard and its own (R91). -/
def Entry.predsRead (e : Entry) (m : Word) : List Nat :=
  (if e.uses.any fun u => u.read && u.o == .sp 13 then [1, 2, 3, 4, 5, 6, 7] else [])
    ++ e.predRead ++ (if e.gd then [(m.extractLsb' 0 3).toNat] else [])

/-- Registers that a mark or poison reaches a word through, each predicate by itself (R299, R312). -/
def Entry.regsRead (e : Entry) (m : Word) : List Reg :=
  (e.reads m).filter (· != .preds) ++ (e.predsRead m).map .p

/-- Registers that a word leaves clean or poisoned, each predicate by itself (R299). -/
def Entry.regsWritten (e : Entry) : List Reg :=
  let all := if e.uses.any fun u => u.write && u.o == .sp 13 then [1, 2, 3, 4, 5, 6, 7] else []
  e.writes.filter (· != .preds) ++ (all ++ e.predWrite).map .p

/-- A mark lies in a lane that a word works on (R312). -/
def Mark.hits (x : Mark) (lanes : List Nat) : Bool :=
  match x.reg with
  | .v _ | .preds | .p _ => lanes.any fun l => x.lanes.getLsbD l
  | .o _ => lanes.any fun l => (List.range 8).any fun i => x.lanes.getLsbD (l / 8 * 8 + i)
  | _ => !lanes.isEmpty

/-- What the checks that follow R52 item 8 answer. -/
inductive Check where
  | go
  | fault (f : FaultInfo)
  /-- The word has no effect and the warp restarts (R312, R349): a marked register is consumed, whose data
  came from the store given, or twin execution differs. -/
  | restart (store : Option Nat)
  | stall
  deriving DecidableEq, Repr

/-- A restart is possible (R312, R349, R355). -/
def WarpFault.mayRestart (f : WarpFault) : Bool := f.ckpc != 0 && f.retry.toNat < 3

/-- Item 9 of R52: consumption of marked registers (R312), then the pending bits with the cases of
RAISE rounds (R91, R122), then the wait for a destination whose agreement is still to be judged. `marks`
are those that the warp meets. -/
def step9 (w : Warp) (marks : List Mark) (e : Entry) (lanes : List Nat) : Check :=
  let reads := e.reads w.ctl.mode
  let writes := e.writes
  let rounds := (w.results.filter Result.round).filterMap fun x => x.dst.bind Operand.reg?
  match marks.find? fun x => (e.regsRead w.ctl.mode).contains x.reg && x.hits lanes with
  | some m =>
    if w.flt.mayRestart then .restart (some m.store)
    else .fault { faultAt fcUncorrectable 0 with detail := BitVec.ofNat 16 m.store }
  | none =>
    if writes.any rounds.contains then .fault (faultAt fcScopeRound 0)
    else if (reads ++ writes).any fun x => w.pend.contains x && !rounds.contains x then
      .fault (faultAt fcPendingRead 0)
    else if reads.any rounds.contains || w.results.any Result.judged then .stall
    else .go

/-- Comparators of a context that match a word's address, as a mask (R319). -/
def State.comparators (s : State) (ctx : Nat) (va : Dword) : Nat :=
  match s.ctx? ctx with
  | none => 0
  | some c => (c.comps.mapIdx fun i (x : Dword) =>
      if x.getLsbD 0 && x.extractLsb' 2 55 == va.extractLsb' 2 55 then 2 ^ i else 0).foldl (· + ·) 0

/-- BREAKPOINT of a comparator match (R306, R319). -/
def comparatorFault (mask : Nat) : FaultInfo :=
  { faultAt fcBreakpoint 0 with detail := BitVec.ofNat 16 (mask * 256) }

/-! ## Completion of a word -/

/-- PC and levels after a word that completes without a taken transfer (R102). -/
def stepLoops (next : Nat) : List LoopLevel → Nat × List LoopLevel
  | [] => (next, [])
  | l :: t =>
    if next == l.stop then
      if l.left > 1 then (l.start, { l with left := l.left - 1 } :: t) else stepLoops next t
    else (next, l :: t)

/-- A taken transfer closes each level whose range it leaves, with the levels inside it (R102). -/
def closeLevels (pc : Nat) : List LoopLevel → List LoopLevel
  | [] => []
  | l :: t =>
    let u := closeLevels pc t
    if u.length == t.length && l.start ≤ pc && pc < l.stop then l :: u else u

/-- Whether a word closes the open region or checkpoint (R310, R351). -/
def Closes.now (c : Closes) (redundant : Bool) (f : WarpFault) : Bool :=
  match c with
  | .no => false
  | .region => true
  | .unlessPaired => !(redundant && f.chkpt.isSome)

/-- The warp once its word has completed. A new iteration of a loop fetches its body again after an
execute TLBI (R305). A word that names %cyclo as a source latches %cychi when it completes, also where no lane
is in C (R39; DESIGN CHOICE, log row 101). -/
def Warp.complete (w : Warp) (e : Entry) (pc : Nat) (jump : Option (Nat × Bool)) (redundant : Bool)
    (now : Nat) : Warp :=
  let (next, loops) := match jump with
    | none => stepLoops (pc + 4) w.ctl.loops
    | some (t, taken) => (t, if taken then closeLevels t w.ctl.loops else w.ctl.loops)
  let flt := if e.closes.now redundant w.flt then w.flt.close else w.flt
  let park := e.sw && !(w.results.isEmpty && w.pend.isEmpty)
  let merge := e.sw && !park
  { w with
    run := if park then .switch else .ready, since := now, promoted := false, awake := false,
    fetch := if w.refetch && jump.isNone && next != pc + 4 then none else w.fetch,
    refetch := w.refetch && !(jump.isNone && next != pc + 4),
    lateFlags := if merge then 0 else w.lateFlags,
    flt := { flt with skipComp := none },
    dual := w.dual.filter fun x => x.1 == pc,
    ctl := { w.ctl with
      pc := next, loops := loops,
      status := if merge then statusOr w.ctl.status w.lateFlags else w.ctl.status,
      draw := if e.draws then w.ctl.draw + 1 else w.ctl.draw,
      cycHi := if e.uses.any (fun u => u.o == .sp 14) then BitVec.ofNat 32 (now / 2 ^ 32)
        else w.ctl.cycHi } }

def State.complete (s : State) (r : WarpRef) (g : Grid) (e : Entry) (pc : Nat)
    (jump : Option (Nat × Bool)) : State :=
  (s.updWarp r fun w => w.complete e pc jump g.packet.redundant s.now).progress g.ctx

/-- The warp waits at its word. One that has begun its wait there has issued a word behind a DUALST (R196). -/
def State.park (s : State) (r : WarpRef) (run : Run) : State :=
  s.updWarp r fun w => { w with
    run := run, awake := false, dual := if run == .parked then w.dual else none
    flt := { w.flt with skipComp := none } }

/-- Restarts a warp at %ckpc, once no result is outstanding (R312), and logs it (R344). -/
def State.restart (s : State) (r : WarpRef) (core ctx : Nat) (va : Dword) : State :=
  ((s.log 8 .pipe core ctx va).updWarp r fun w => { w with run := .rollback }).settle r

/-! ## Posted page faults (R297, R298, R300) -/

/-- Puts missing pages into a new sheaf of a core and context, unless an outstanding one of them
lists each; answers the sheaves that hold the word, and the new one. -/
def State.addSheaf (s : State) (core ctx source : Nat) (r : WarpRef) (pc : Dword)
    (pages : List SheafPage) : State × List Nat × Option Nat :=
  match s.ctx? ctx with
  | none => (s, [], none)
  | some c =>
    let mine := c.sheaves.filter fun x => x.core == core && !x.cancelled
    let lists (x : Sheaf) (p : SheafPage) : Bool := x.pages.any (·.page == p.page)
    let old := (mine.filter fun x => pages.any (lists x)).map Sheaf.id
    let new := (pages.filter fun p => !mine.any fun x => lists x p).take 16
    if new.isEmpty then (s, old, none)
    else
      let x : Sheaf :=
        { id := c.nextSheaf, ctx, core, source, blk := r.blk, slot := r.slot, pc := pc.toNat,
          pages := new, place := none, cancelled := false, claimed := false }
      (s.updCtx ctx fun c => { c with nextSheaf := c.nextSheaf + 1, sheaves := c.sheaves ++ [x] },
        old ++ [x.id], some x.id)

/-- The warp held at its word: the fault registers are replaced, waiting flags merged, no stop
record (R297, R306, R307). -/
def Warp.hold (w : Warp) (f : FaultInfo) (ids : List Nat) : Warp :=
  { w with
    run := .held ids, lateFlags := 0,
    ctl := { w.ctl with status := statusOr w.ctl.status w.lateFlags },
    flt := { w.flt with word := f.word, addr := f.addr, lanes := f.lanes, skipComp := none } }

/-! ## Run-ahead (R299) -/

/-- Whether a core runs this warp ahead. -/
def State.aheadOf (s : State) (core : Nat) (r : WarpRef) : Option Ahead :=
  (s.core core).ahead.filter fun a => a.blk == r.blk && a.slot == r.slot

/-- A register's poisoned lanes. -/
def Ahead.poisoned (a : Ahead) (x : Reg) : Mask :=
  (a.poison.filter (·.1 == x)).foldl (fun m p => m ||| p.2) 0

/-- Lanes of ACTIVE in which the guard of a word is poisoned: its value there is not known (R299). -/
def Ahead.unsure (a : Ahead) (e : Entry) (c : Ctx) : List Nat :=
  if e.gd then c.act.filter fun l => (a.poisoned (.p (c.mode.extractLsb' 0 3).toNat)).getLsbD l else []

/-- Destinations after a word: clean in the lanes it wrote, poisoned in others. -/
def Ahead.taint (a : Ahead) (regs : List Reg) (clean bad : Mask) : Ahead :=
  regs.foldl (fun (a : Ahead) (x : Reg) => { a with
    poison := (a.poison.filter (·.1 != x))
      ++ [(x, (a.poisoned x &&& ~~~x.cover clean) ||| x.cover bad)] }) a

/-- Ends run-ahead: the event RUN_AHEAD_ROLLBACK comes next. -/
def State.aheadStop (s : State) (core : Nat) : State :=
  s.updCore core fun c => { c with ahead := c.ahead.map fun (a : Ahead) => { a with words := aheadWords } }

/-- Adds pages to the sheaf of a run-ahead, 16 at most; a full sheaf ends it. -/
def State.aheadPages (s : State) (core ctx : Nat) (a : Ahead) (pages : List SheafPage) : State :=
  match s.ctx? ctx with
  | none => s
  | some c =>
    let mine := c.sheaves.filter fun x => x.core == core && !x.cancelled
    let new := pages.filter fun p => !mine.any fun x => x.pages.any (·.page == p.page)
    let s := s.updCtx ctx fun c => { c with
      sheaves := c.sheaves.map fun (x : Sheaf) =>
        if x.id == a.sheaf then { x with pages := (x.pages ++ new).take 16 } else x }
    let full := c.sheaves.any fun x => x.id == a.sheaf && x.pages.length + new.length ≥ 16
    if full then s.aheadStop core else s

/-- One word more: the count rises and the warp moves on. -/
def State.aheadNext (s : State) (c : Ctx) (e : Entry) (regs : List Reg) (clean bad : Mask)
    (jump : Option (Nat × Bool)) : State :=
  let s := (s.settleAhead c.r).updCore c.b.core fun k => { k with
    ahead := k.ahead.map fun (a : Ahead) =>
      { a.taint regs clean bad with words := a.words + 1 } }
  s.updWarp c.r fun w => w.complete e c.w.ctl.pc jump c.g.packet.redundant s.now

/-- A word writes a scoped register wider than w, which run-ahead discards (R119). -/
def Entry.writesFar (e : Entry) : Bool := e.uses.any fun u => u.write && (match u.o with
  | .b _ | .k _ | .g _ => true
  | _ => false)

/-- A word of a warp that runs ahead. A word that is held where it stands, as an ACCR behind the array
queue (R213, R216), is tried again. -/
def State.aheadWord (s : State) (c : Ctx) (e : Entry) (a : Ahead) (body : Ctx → Eff) : State :=
  let core := c.b.core
  let regs := e.regsWritten
  let bad := (e.regsRead c.mode).foldl (fun m x => m ||| a.poisoned x) 0
  let unsure := a.unsure e c
  let lanes := c.outLanes ++ unsure.filter fun l => !c.outLanes.contains l
  let poisonIn := lanes.filter fun l => bad.getLsbD l
  match e.ahead with
  | .stop => s.aheadStop core
  | .skip | .atomic | .store => s.aheadNext c e [] 0 0 none
  | .poison => s.aheadNext c e regs 0 (maskOf lanes) none
  | k =>
    if e.writesFar then s.aheadNext c e [] 0 0 none
    else if k == .control && !poisonIn.isEmpty then s.aheadStop core
    else if !lanes.isEmpty && poisonIn.length == lanes.length then
      s.aheadNext c e regs 0 (maskOf lanes) none
    else
      let good := if c.uni && !poisonIn.isEmpty then [] else c.lanes.filter fun l => !bad.getLsbD l
      let finish (c' : Ctx) (extra : Mask) (s0 : State) : State :=
        match body { c' with s := s0, lanes := c'.lanes.filter fun l => !extra.getLsbD l } with
        | .done t => t.aheadNext c e regs (maskOf lanes) (maskOf poisonIn ||| extra) none
        | .jump t pc taken => t.aheadNext c e regs 0 0 (some (pc, taken))
        | .wait _ _ => s0
        | _ => s0.aheadStop core
      let c' : Ctx := { c with lanes := good, ahead := true }
      match body c' with
      | .page pages f t => finish c' f.lanes (t.aheadPages core c.ctx a pages)
      | _ => finish c' 0 s

/-- PAGE at a word, once its older results are written: the sheaf, the hold, and run-ahead where the
buffer is free (R92, R297 to R299). A word whose missing pages are all listed already makes no sheaf, and
its warp does not run ahead (DEDUCED, log row 22). -/
def State.pageFault (s : State) (c : Ctx) (e : Entry) (pages : List SheafPage) (f : FaultInfo)
    (body : Ctx → Eff) : State :=
  if !c.w.results.isEmpty then s.park c.r .parked
  else
    let va := c.g.packet.image + BitVec.ofNat 64 c.w.ctl.pc
    let (s, ids, new) := s.addSheaf c.b.core c.ctx 0 c.r va pages
    let held := c.w.hold f ids
    match new, (s.core c.b.core).ahead with
    | some id, none =>
      let a : Ahead := { blk := c.r.blk, slot := c.r.slot, saved := held, sheaf := id, words := 0,
                         poison := [] }
      let s := s.updCore c.b.core fun k => { k with ahead := some a }
      let s := s.updWarp c.r fun _ => { held with run := .ready }
      let listed := (s.ctx? c.ctx).elim 0 fun x => (x.sheaves.find? (·.id == id)).elim 0 fun y => y.pages.length
      if listed ≥ 16 then s.aheadStop c.b.core
      else if e.writesFar then s.aheadNext c e [] 0 0 none
      else
        match e.ahead with
        | .run | .atomic =>
          let rest := c.lanes.filter fun l => !f.lanes.getLsbD l
          match body { c with s := s, lanes := rest, ahead := true } with
          | .done t => t.aheadNext c e e.regsWritten (maskOf rest) f.lanes none
          | _ => s.aheadStop c.b.core
        | .store =>
          match body { c with s := s, lanes := c.lanes.filter fun l => !f.lanes.getLsbD l, ahead := true } with
          | .done t => t.aheadNext c e [] 0 0 none
          | _ => s.aheadStop c.b.core
        | .poison => s.aheadNext c e e.regsWritten 0 (maskOf c.outLanes) none
        | .skip => s.aheadNext c e [] 0 0 none
        | _ => s.aheadStop c.b.core
    | _, _ => s.updWarp c.r fun _ => held

/-! ## Twin execution (R348, R349) -/

/-- Differing executions of the word to come: none, one pair, or two (R349). -/
def State.upsetOf (s : State) (r : WarpRef) : Nat := ((s.upsets.find? (·.1 == r)).map Prod.snd).getD 0

/-- What twin execution makes of a word before its effect: the state to go on with, or the fault or
restart. -/
def State.twinCheck (s : State) (c : Ctx) (e : Entry) : Check × State :=
  let n := if c.g.packet.twin && e.twin then s.upsetOf c.r else 0
  if n == 0 then (.go, s)
  else
    let s : State := { s with upsets := s.upsets.filter (·.1 != c.r) }
    if n == 1 then (.go, s.log 6 .pipe c.b.core c.ctx 0)
    else if (s.core c.b.core).suspect then (.fault (faultAt fcTwinMismatch 1), s)
    else
      let s := (s.log 7 .pipe c.b.core c.ctx 0).updCore c.b.core fun k => { k with suspect := true }
      if c.w.flt.mayRestart then (.restart none, s) else (.fault (faultAt fcTwinMismatch 1), s)

/-! ## The issue of a word -/

/-- A warp whose word may be issued or tried again. -/
def Warp.mayIssue (w : Warp) : Bool :=
  !w.halted && !w.evicted && match w.run with
    | .ready | .parked | .yielded _ _ _ | .fuse _ | .recv _ _ => true
    | .ring _ _ _ released => released
    | .barrier _ released => released
    | _ => false

/-- The context of a word (R36). -/
def mkCtx (s : State) (r : WarpRef) (b : Block) (w : Warp) (g : Grid) (e : Entry) : Ctx :=
  let act := lanesOf w.width w.ctl.active
  let inC := if e.selector then (if modeGd w.ctl.mode == 8 then [] else act)
    else if e.gd then act.filter (guardHolds w) else act
  let uni := !e.laneClass w.ctl.mode
  { s, r, b, w, g, uni, act, lanes := if uni then inC.take 1 else inC, pair := none, shadow := false,
    ahead := false }

/-- The records of a marked register that a word reads: uncorrectable data consumed, and where it is the
register's own parity, found (R312, R344). -/
def State.logConsumed (s : State) (core ctx : Nat) (va : Dword) (store : Nat) : State :=
  let s := s.log 3 .pipe core ctx va
  if store == 2 then s.log 2 .regFile core ctx 0 else s

/-- Lanes in which a word reads marked registers: a uniform word reads the predicates of every lane of ACTIVE
(R130, R312). -/
def Ctx.markLanes (c : Ctx) (e : Entry) : List Nat :=
  if c.uni && !e.predRead.isEmpty then c.act else c.lanes

/-- The end of a word's effect. -/
def State.finish (s : State) (c : Ctx) (e : Entry) (body : Ctx → Eff) : State :=
  match body { c with s := s } with
  | .done t => t.complete c.r c.g e c.w.ctl.pc none
  | .jump t pc taken => t.complete c.r c.g e c.w.ctl.pc (some (pc, taken))
  | .fault f => s.takeFault c.r f c.w.ctl.pc
  | .wait t run => t.park c.r run
  | .leave t => t.progress c.ctx
  | .page pages f t => t.pageFault c e pages f body

/-- Items 3 to 9 of R52 and the effect of a word whose address matches no comparator. -/
def State.issueWord (s : State) (c : Ctx) (e : Entry) (body : Ctx → Eff) : State :=
  let pc := c.w.ctl.pc
  let va := c.g.packet.image + BitVec.ofNat 64 pc
  match e.staticFault c.w c.g (s.privileged c.ctx) with
  | some f => s.takeFault c.r f pc
  | none =>
    match step9 c.w (c.w.marksOf c.b c.g) e (c.markLanes e) with
    | .fault f =>
      (if f.code == fcUncorrectable then s.logConsumed c.b.core c.ctx va f.detail.toNat else s).takeFault c.r f pc
    | .restart m =>
      (m.elim s fun x => s.logConsumed c.b.core c.ctx va x).restart c.r c.b.core c.ctx va
    | .stall => s.park c.r .parked
    | .go =>
      match s.twinCheck c e with
      | (.fault f, s) => s.takeFault c.r f pc
      | (.restart _, s) => s.restart c.r c.b.core c.ctx va
      | (_, s) => s.finish c e body

/-- ISSUES A WORD of the issuing warp: the checks of R52 in order, then its effect. -/
def runWord (s : State) (mk : Word → Entry) (body : Ctx → Eff) : State :=
  match s.warp? s.cur with
  | none => s
  | some (b, w) =>
    match s.grid? b.grid with
    | none => s
    | some g =>
      if !w.mayIssue then s
      else
        let e := mk w.ctl.mode
        let c := mkCtx s s.cur b w g e
        let va := g.packet.image + BitVec.ofNat 64 w.ctl.pc
        let hit := if w.run == .ready && w.flt.skipComp != some w.ctl.pc then s.comparators g.ctx va else 0
        match s.aheadOf b.core s.cur with
        | some a =>
          if a.words ≥ aheadWords then s
          else if hit != 0 || (e.staticFault w g (s.privileged g.ctx)).isSome then s.aheadStop b.core
          else match step9 w (w.marksOf b g) e (c.markLanes e) with
            | .go => s.aheadWord c e a body
            | _ => s.aheadStop b.core
        | none =>
          if hit != 0 then s.takeFault s.cur (comparatorFault hit) w.ctl.pc
          else s.issueWord c e body

end Sys2Proof.Machine
end

