-- ==== Sys2Proof/Machine/Redundant.lean ====
section
/-!
DEFINITION. Redundant pairs (R350 to R362): streams and their windows, rollback, and pair-performed
words.
-/

namespace Sys2Proof.Machine

/-! ## Streams (R352, R353) -/

/-- Closes the open window of a stream, unless it is empty. -/
def Stream.close (t : Stream) : Stream :=
  if t.entries.isEmpty then t
  else
    { closed := t.closed ++ [{ num := t.num, entries := t.entries, matched := false }],
      num := t.num + 1, entries := [] }

/-- Adds an entry; a window closes after its 64th. -/
def Stream.push (t : Stream) (e : StreamEntry) : Stream :=
  let t := { t with entries := t.entries ++ [e] }
  if t.entries.length ≥ 64 then t.close else t

/-- Both streams hold nothing unmatched or unperformed. -/
def Warp.streamsEmpty (w : Warp) : Bool :=
  w.store.closed.isEmpty && w.store.entries.isEmpty && w.engine.closed.isEmpty
    && w.engine.entries.isEmpty

/-- Both streams' open windows close (R353). -/
def Warp.closeWindows (w : Warp) : Warp :=
  { w with store := w.store.close, engine := w.engine.close }

/-- Entries of a stream that are held or unmatched; those of the trailing copy's matched windows are dropped
(R353). -/
def Stream.held (t : Stream) (trail : Bool) : Nat :=
  (t.closed.filter fun x => !(trail && x.matched)).foldl (fun n x => n + x.entries.length) t.entries.length

/-- `k` more entries stay within the slack of a copy (R353, R360). -/
def Warp.slackFor (w : Warp) (trail : Bool) (k : Nat) : Bool :=
  w.store.held trail + w.engine.held trail + k ≤ 256

/-- Entries that are not performed of the warps of the block whose writes its warp sees: of the other warps,
and of its own with `own` (R353). -/
def Ctx.heldIds (c : Ctx) (own : Bool) : List Nat :=
  (c.b.warps.filter fun w => own || w.slot != c.r.slot).flatMap fun w => w.heldEntries.map StreamEntry.id

/-- Commands of a warp whose engine entries are not all produced (R353). -/
def State.producing (s : State) (r : WarpRef) : Bool :=
  s.cmds.any fun c => c.blk == r.blk && c.slot == r.slot && c.state != 3

/-- One byte of a CRC-64 with the ECMA-182 polynomial, most significant bit first. -/
def crcByte (crc : BitVec 64) (x : Byte) : BitVec 64 :=
  (List.range 8).foldl (fun c _ => if c.getLsbD 63 then (c <<< 1) ^^^ 0x42F0E1EBA9EA3693 else c <<< 1)
    (crc ^^^ (x.setWidth 64 <<< 56))

/-- The signature of a window: over the 8-byte address, the width byte and the data of its entries in
order, from all ones (R352). -/
def signature (es : List StreamEntry) : BitVec 64 :=
  (es.flatMap fun e => leBytes 8 e.addr.toNat ++ [BitVec.ofNat 8 e.width] ++ leBytes e.width e.data.toNat).foldl
    crcByte (BitVec.allOnes 64)

/-! ## Rollback (R355, R362) -/

/-- First number issued after a warp's checkpoint. -/
def WarpFault.first (f : WarpFault) : Nat :=
  match f.chkpt, f.restart with
  | some c, _ => c.first
  | none, some x => x.first
  | none, none => 0

/-- Place of an entry in the order of its copy's words: that of its store or of its command. -/
def StreamEntry.order (e : StreamEntry) : Nat := e.cmd.getD e.id

/-- Place of a window's first entry. -/
def StreamWindow.order (x : StreamWindow) : Nat := (x.entries.head?).elim 0 StreamEntry.order

/-- A stream as a rollback leaves it. The mismatching window and every later entry, from `cut` on, are
dropped (R355); the number is that of the checkpoint (R362). A closed window before it stays where the
restarted warp does not make it again or where the other copy has closed it too (`both`); entries that
were open and come before the checkpoint stay open (log row 84). -/
def Stream.cutBack (t : Stream) (num first cut : Nat) (both : List Nat) : Stream :=
  let stays (x : StreamWindow) : Bool :=
    x.matched || x.entries.all fun e => e.order < cut && (e.order < first || both.contains x.num)
  let loose := (t.closed.filter fun x => !stays x).flatMap StreamWindow.entries ++ t.entries
  { closed := t.closed.filter stays, num, entries := loose.filter fun e => e.order < cut && e.order < first }

/-- Numbers of a stream's closed windows that a cut leaves. -/
def Stream.nums (t : Stream) (cut : Nat) : List Nat :=
  (t.closed.filter fun x => x.matched || x.entries.all fun e => e.order < cut).map StreamWindow.num

/-- A copy's warp as a rollback leaves it: the streams cut back, the pending request dropped, COPY and NET
operations issued after the checkpoint cleared, later results discarded; it restarts once no result is
outstanding. `twin` is the other copy's warp, cut at `twinCut`. -/
def Warp.rolledBack (w twin : Warp) (cut twinCut : Nat) : Warp :=
  let (ws, we, logged) := match w.flt.chkpt, w.flt.restart with
    | some c, _ => (c.winStore, c.winEngine, 0)
    | none, some x => (x.winStore, x.winEngine, x.logged)
    | none, none => (0, 0, 0)
  let first := w.flt.first
  Warp.touch { w with
    store := w.store.cutBack ws first cut (twin.store.nums twinCut),
    engine := w.engine.cutBack we first cut (twin.engine.nums twinCut),
    pairReq := none, replayed := logged, run := .rollback, dual := none,
    results := w.results.map fun (x : Result) => if first ≤ x.id then { x with discard := true } else x,
    eng := w.eng.filter fun x => x.id < first || x.cls == .matrix || x.cls == .spline,
    openBatch := w.openBatch.filter (· < first) }

/-- Ends the commands that a rollback cancels; nothing waits for entries that are gone. -/
def State.cancelCmds (s : State) (r : WarpRef) (first : Nat) : State :=
  let gone := (s.cmds.filter fun c => c.blk == r.blk && c.slot == r.slot && first ≤ c.id).map Cmd.id
  let s := s.dropAccs fun a => match a.cmd with
    | some id => gone.contains id
    | none => false
  { s with cmds := s.cmds.filter fun c => !gone.contains c.id }

/-- One copy's warp rolls back from place `cut` of its order on, the other copy's from `twinCut` on. -/
def State.rollWarp (s : State) (r : WarpRef) (twin : Warp) (cut twinCut : Nat) : State :=
  match s.warp? r with
  | some (_, w) =>
    let w' := w.rolledBack twin cut twinCut
    let left := w'.heldEntries.map StreamEntry.id
    let gone := (w.heldEntries.map StreamEntry.id).filter fun id => !left.contains id
    let s := gone.foldl (fun (s : State) id => s.dropAcc id) (s.cancelCmds r w.flt.first)
    s.updWarp r fun _ => w'
  | none => s

/-- REDUNDANT_ROLLBACK: a mismatch of warp `slot` of the leading block `lead` and the trailing block
`trail` (R355). `addr` is the address that the record reports (R362); `cut` says from which place on each
copy's entries go. A mismatch that becomes a fault waits for the older results of both warps (R92). -/
def State.rollback (s : State) (lead trail slot : Nat) (addr : Dword) (cut : Nat × Nat) : State :=
  let l : WarpRef := { blk := lead, slot }
  let t : WarpRef := { blk := trail, slot }
  match s.warp? l, s.warp? t with
  | some (b, w), some (_, x) =>
    let ctx := s.ctxOf b
    if w.flt.mayRestart then
      (((s.log 9 .pair b.core ctx addr).rollWarp l x cut.1 cut.2).rollWarp t w cut.2 cut.1).settle l |>.settle t
    else if !w.results.isEmpty || !x.results.isEmpty then s
    else
      -- recorded by both copies, then the kill
      ([l, t].foldl (fun (s : State) r => match s.warp? r with
        | some (_, x) =>
          (s.updWarp r fun x => { x.dropEntries with pairReq := none }).noteFault r
            (faultAt fcRedundantMismatch 1) x.ctl.pc
        | none => s) (s.log 10 .pair b.core ctx addr)).kill ctx (fcRedundantMismatch.setWidth 16)
  | _, _ => s

/-- A mismatch seen by one copy's warp at a word, behind whose windows nothing is left to match. -/
def State.mismatch (s : State) (b : Block) (slot : Nat) (addr : Dword) : State :=
  match s.twin? b with
  | some t => if b.trail then s.rollback t.id b.id slot addr (0, 0)
      else s.rollback b.id t.id slot addr (0, 0)
  | none => s

/-! ## Checkpoints (R351) -/

/-- The checkpoint record of a warp with a resume PC; the replay log is cleared. -/
def Warp.checkpoint (w : Warp) (pc first : Nat) : Warp :=
  let c : Checkpoint :=
    { regs := w.regs, pc, mode := w.ctl.mode, status := w.ctl.status, draw := w.ctl.draw,
      active := w.ctl.active, depth := w.ctl.depth, loops := w.ctl.loops, stack := w.ctl.stack,
      winStore := w.store.num, winEngine := w.engine.num, first,
      word := w.flt.word, addr := w.flt.addr, lanes := w.flt.lanes, lateFlags := w.lateFlags }
  { w with
    replay := [], replayed := 0,
    flt := { w.flt with
      ckpc := BitVec.ofNat 32 pc, retry := 0, restart := none, chkpt := some c } }

/-- Takes a checkpoint of a warp: the record goes into the core area of its core, 0x5000 bytes there (R351). -/
def State.takeCheckpoint (s : State) (b : Block) (r : WarpRef) (pc first : Nat) : State :=
  (s.updWarp r fun w => w.checkpoint pc first).saveToArea (s.ctxOf b) b.core 0x5000

/-! ## Pair-performed words (R354) -/

/-- The address that a record of a mismatching request holds: that of an atomic, of a REL or of a LAUNCH;
the other words have none (R344, R362). -/
def PairReq.addr (q : PairReq) : Dword :=
  if (16 * 0x50 ≤ q.op && q.op < 16 * 0x58) || q.op == 0x5B || q.op == 0x7C then
    ((q.args.head?).map fun x => x.2.1).getD 0
  else 0

/-- The request of a warp that stands at a checkpoint: CHKPT, or an implicit one; its image offset and the
window numbers of its streams (R351, R354). -/
def Warp.checkReq (w : Warp) (implicit : Bool) : PairReq :=
  { op := if implicit then 0x17D else 0x7D,
    args := [(w.ctl.pc, BitVec.ofNat 64 w.store.num, BitVec.ofNat 128 w.engine.num)] }

/-- A request is that of a checkpoint, which the two copies take together. -/
def PairReq.isCheck (q : PairReq) : Bool := q.op == 0x7D || q.op == 0x17D

/-- TAKES A CHECKPOINT TOGETHER (R351, R354): the windows close and are performed, then both copies stand
at it, and `take` goes on in each. A copy that stands at another word, or with other window numbers, is a
mismatch. -/
def Ctx.meet (c : Ctx) (implicit : Bool) (take : State → Eff) : Eff :=
  if c.s.producing c.r then .wait c.s .parked
  else if !c.w.streamsEmpty then .wait (c.s.updWarp c.r Warp.closeWindows) .parked
  else
    match c.w.pairReq with
    | some (_, true) => take (c.s.updWarp c.r fun w => { w with pairReq := none })
    | _ =>
      let mine := c.w.checkReq implicit
      let s := c.s.updWarp c.r fun w => { w with pairReq := some (mine, false) }
      match c.s.twin? c.b with
      | none => .wait s .parked
      | some t =>
        match (t.warp? c.r.slot).bind Warp.pairReq with
        | none => .wait s .parked
        | some (q, _) =>
          if q == mine then
            take ((s.updWarp c.r fun w => { w with pairReq := none }).updWarp
              { blk := t.id, slot := c.r.slot } fun w => { w with pairReq := some (q, true) })
          else .leave (s.mismatch c.b c.r.slot (if c.b.trail then q.addr else 0))

/-- The logged result of a re-executed pair-performed word, written as its own would be. -/
def Ctx.replayed (c : Ctx) (o : PairOut) (d : Option Operand) (regs : Nat) : Eff :=
  let s := c.s.updWarp c.r fun w => { w with replayed := w.replayed + 1 }
  let x := c.result s d regs
  let x : Result := { x.takeOut o with
    pair := none,
    pend := if o.event.isSome then x.pend ++ [.status] else x.pend }
  match d with
  | some _ => .done (s.pushResult c.r x)
  | none => .done s

/-- The leading copy's warp has passed place `n` of its replay log. -/
def Ctx.leadPassed (c : Ctx) (n : Nat) : Bool :=
  match (c.s.twin? c.b).bind fun t => t.warp? c.r.slot with
  | some w => n < w.replayed
  | none => true

/-- A re-executed word at place `n` of the replay log: its logged result, or a mismatch where its request
is another one; the record holds the leading copy's address (R354, R362). -/
def Ctx.replay (c : Ctx) (req : PairReq) (e : PairEntry) (n : Nat) (d : Option Operand) (regs : Nat) : Eff :=
  if e.req == req then
    match e.result with
    | none => .wait c.s .parked
    | some o => c.replayed o d regs
  else if !c.b.trail then .leave (c.s.mismatch c.b c.r.slot req.addr)
  else if c.leadPassed n then .leave (c.s.mismatch c.b c.r.slot e.req.addr)
  else .wait c.s .parked

/-- Performs a pair-performed word that both copies agreed on: the leading copy for both, and the trailing
copy takes the result, in its place `n` of the replay log. -/
def Ctx.agreed (c : Ctx) (req : PairReq) (n : Nat) (perform : Ctx → Eff) : Eff :=
  let lead := (c.s.twin? c.b).bind fun t => t.warp? c.r.slot
  let known := if c.b.trail then (lead.bind fun w => w.replay[n]?).bind PairEntry.result else none
  let s := c.s.updWarp c.r fun w => { w with
    pairReq := none, replayed := n + 1, replay := w.replay ++ [{ req, result := known }] }
  match perform { c with s := s, pair := some n, shadow := c.b.trail } with
  | .done t =>
    let own := match t.warp? c.r with
      | some (_, w) => w.results.any fun x => x.pair == some n
      | none => false
    if own then
      match known with
      | some o => .done (t.updWarp c.r fun w => { w with
          results := w.results.map fun (x : Result) => if x.pair == some n then
            x.takeOut o else x })
      | none => .done t
    else .done (t.updWarp c.r fun w =>
      w.logResult n { vals := [], flags := 0, event := none, write := true, marked := 0 })
  | .wait _ run => .wait c.s run
  | e => e

/-- A pair-performed word (R354): outside `redundant` it is simply performed. Under it, the windows
close, the request waits for them and for the other copy's, and then the leading copy performs it
and the trailing copy takes the result (`shadow`); after a rollback the replay log answers. A 65th word
takes an implicit checkpoint first. -/
def Ctx.paired (c : Ctx) (req : PairReq) (d : Option Operand) (regs : Nat) (perform : Ctx → Eff) : Eff :=
  if !c.g.packet.redundant then perform c
  else if c.s.producing c.r then .wait c.s .parked
  else if !c.w.streamsEmpty then .wait (c.s.updWarp c.r Warp.closeWindows) .parked
  else
    match c.w.replay[c.w.replayed]? with
    | some e => c.replay req e c.w.replayed d regs
    | none =>
      if c.w.replay.length ≥ 64 then
        if c.w.pend.isEmpty && c.w.results.isEmpty && c.w.idle then
          c.meet true fun s => .wait (s.takeCheckpoint c.b c.r c.w.ctl.pc c.s.nextId) .parked
        else .wait c.s .parked
      else
        match c.w.pairReq with
        | some (_, false) => .wait c.s .parked
        | some (_, true) => c.agreed req c.w.replay.length perform
        | none => .wait (c.s.updWarp c.r fun w => { w with pairReq := some (req, false) }) .parked

end Sys2Proof.Machine
end

