-- ==== Sys2Proof/Machine/Blocks.lean ====
section
/-!
DEFINITION. Blocks: the start of a block's warps at a layout (R80, R81, R103, R111), a warp's
retirement, a block's retirement and its restart at a successor (R103), and the close of a batch
(R218, R234).
-/

namespace Sys2Proof.Machine

/-- The word at a warp's PC in the fetch block it issues from (R29, R305). -/
def Warp.fetched (w : Warp) (image : Dword) : Option Word :=
  let va := (image + BitVec.ofNat 64 w.ctl.pc).toNat
  match w.fetch with
  | none => none
  | some (block, words) => if block ≤ va && va < block + 64 then words[(va - block) / 4]? else none

/-- A warp at its kernel entry (R41, R65, R96, R111, R160, R306). -/
def Warp.start (slot : Nat) (role : Role) (width budget entry : Nat) (tOct : List Nat) (now : Nat) :
    Warp :=
  { slot, role, width, budget, regs := { v := [], o := [], w := [], p := [] },
    ctl := { pc := entry, active := fullMask width, stack := [], loops := [], depth := 0, mode := 0,
             status := 0, draw := 0, cycHi := 0, tOct },
    flt := { word := 0, addr := 0, lanes := 0, waiting := none, ckpc := 0, retry := 0, restart := none,
             chkpt := none, marks := [], skipComp := none },
    run := .ready, halted := false, evicted := false, stale := false, saved := 0, pend := [], results := [], lateFlags := 0,
    eng := [], openBatch := [], pdis := none, since := now, born := now, promoted := false, awake := false,
    fetch := none, refetch := false, dual := none,
    store := { closed := [], num := 0, entries := [] },
    engine := { closed := [], num := 0, entries := [] }, pairReq := none, replay := [], replayed := 0,
    tlbis := [], claimed := [] }

/-- A block that holds nothing yet. -/
def Block.start (id grid index core : Nat) (trail : Bool) : Block :=
  { id, grid, index, trail, core, layout := 0, exitIdx := none, slots := 0, places := [], freed := [],
    warps := [], b := [], bMarks := [], rounds := [], exited := [], scratchSize := 0, scratch := [], scratchBad := [], regions := [],
    tags := [], captured := [], spilled := [], opbuf := [], opbufBad := [], opbufSize := 0, resvs := [],
    resU := [], tileBudget := 0, allocs := [], accU := [], tiles := [], tilesBad := [], rings := [],
    chans := [], bindings := [], nreds := [], soft := [] }

/-- A grid whose blocks have not started. -/
def Grid.start (id ctx vf : Nat) (packet : Packet) (desc : Desc) (map : List (Nat × Nat))
    (priority : Nat) : Grid :=
  { id, ctx, vf, packet, desc, map, priority, retired := [], g := RegSet.reset,
    gTrail := RegSet.reset, k := [], trees := [], nreds := [], gone := [], gen := 0 }

/-- The warps of a layout, COPY group first, from slot and thread index on (R80, R159). -/
def groupWarps (entry now : Nat) : List (Role × Group) → Nat → Nat → List Warp
  | [], _, _ => []
  | (role, g) :: rest, slot, t =>
    ((List.range g.warps).map fun i =>
      Warp.start (slot + i) role g.width g.budget entry
        ((List.range (g.width / 8)).map fun o => t + i * g.width + 8 * o) now)
      ++ groupWarps entry now rest (slot + g.warps) (t + g.warps * g.width)

def Layout.warps (l : Layout) (now : Nat) : List Warp :=
  groupWarps l.entry now ([Role.copy, .matrix, .vector].zip l.groups) 0 0

/-- What a warp at a successor entry takes from the warp of its number (R65, R103, R306). -/
def Warp.inherit (w : Warp) (xs : List ExitState) : Warp :=
  match xs.find? (·.slot == w.slot) with
  | none => w
  | some x =>
    { w with
      ctl := { w.ctl with status := x.status, draw := x.draw },
      flt := { w.flt with word := x.word, addr := x.addr, lanes := x.lanes } }

/-- A ring at its declared initial state (R236). -/
def Ring.initial (r : Ring) : Ring :=
  { r with stages := r.stages.map fun _ => { phase := false, left := r.expect } }

/-- SUCCESSOR_RESTART (R103): regions, reservations, allocations, b registers and channels are kept;
stage rings return to their initial state. -/
def Block.restart (b : Block) (desc : Desc) (i now : Nat) : Block :=
  match desc.layouts[i]? with
  | none => b
  | some l =>
    { b with
      layout := i, exitIdx := none, exited := [], freed := [], rings := b.rings.map Ring.initial,
      warps := (l.warps now).map fun w => { w.inherit b.exited with born := now } }

/-- Index of the block that a channel of a block receives from (R274). -/
def Grid.sender (g : Grid) (x : ChanDesc) (index : Nat) : Nat :=
  (((index : Int) - x.peer) % (g.map.length : Int)).toNat

/-- Credits of the messages that a retiring block has not read (R276). -/
def State.dropUnread (s : State) (b : Block) : State :=
  match s.grid? b.grid, b.trail with
  | some g, false =>
    b.chans.zipIdx.foldl (fun (s : State) e =>
      (List.range (e.1.landed - e.1.taken)).foldl (fun (s : State) _ =>
        { s.fresh with credits := s.credits ++
          [{ id := s.nextId, grid := g.id, trail := false, chan := e.2,
             dest := g.sender e.1.desc b.index }] }) s) s
  | _, _ => s

/-- The block retires (R103): every resource of it is released. -/
def State.retireBlock (s : State) (b : Block) : State :=
  let s := s.dropUnread b
  let s := s.updCore b.core fun c => { c with
    spline := c.spline.filter (·.blk != b.id), latch := c.latch.filter (·.1 != b.id),
    savedSplines := c.savedSplines.filter (·.blk != b.id) }
  let s := s.updGrid b.grid fun g =>
    let now := (s.vf g.vf).part.adopted b.core
    let g := { g with
      retired := g.retired ++ [(b.index, b.trail)], gone := g.gone ++ [(b.id, b.index, b.places)],
      gen := if g.gen.toNat < now.toNat then now else g.gen }
    let unit := (List.range g.map.length).filter fun i => g.clusterIndex i == g.clusterIndex b.index
    if unit.all fun i => g.retired.contains (i, b.trail) then g.setK b RegSet.reset else g
  { s with blocks := s.blocks.filter (·.id != b.id) }

/-- A warp retires (R103): the flags of FRCP to FCOSPI are merged, those of results that are still out too
(R134), flags of unreported operations are discarded (R67), the PDIS region closes (R317). -/
def Warp.retire (w : Warp) : Warp :=
  let out := (w.results.filter fun x => x.late && !x.discard).foldl (fun (fl : Flags) x => fl ||| x.flags) 0
  { w with
    run := .exited, pdis := none, dual := none, lateFlags := 0, eng := [], results := [],
    ctl := { w.ctl with status := statusOr w.ctl.status (w.lateFlags ||| out) } }

/-- Retires a warp, and with the block's last warp the block, or restarts it at the successor. -/
def State.retireWarp (s : State) (r : WarpRef) (idx : Nat) (desc : Desc) : State :=
  let s := s.updBlock r.blk fun b =>
    let b := b.updWarp r.slot Warp.retire
    match b.warp? r.slot with
    | none => b
    | some w =>
      let x : ExitState := { slot := r.slot, status := w.ctl.status, draw := w.ctl.draw,
                             word := w.flt.word, addr := w.flt.addr, lanes := w.flt.lanes }
      { b with exited := putBy ExitState.slot x b.exited, freed := b.freed ++ [(r.slot, s.now)] }
  match s.block? r.blk with
  | none => s
  | some b =>
    if b.warps.all (·.run == .exited) then
      if idx == 0 then s.retireBlock b else s.updBlock b.id fun b => b.restart desc idx s.now
    else s

/-- The warps of the blocks of given indices in one copy of a grid, retired blocks having none; none
while one of the blocks has not started (R108, R120). -/
def State.unitWarps (s : State) (g : Grid) (trail : Bool) : List Nat → Option (List (WarpRef × Warp))
  | [] => some []
  | i :: rest =>
    match s.unitWarps g trail rest with
    | none => none
    | some ws =>
      if g.retired.contains (i, trail) then some ws
      else match s.blocks.find? fun b => b.grid == g.id && b.index == i && b.trail == trail with
        | some b => some ((b.warps.map fun w => ({ blk := b.id, slot := w.slot }, w)) ++ ws)
        | none => none

/-- Block indices of a launch cluster of a grid (R80). -/
def Grid.clusterBlocks (g : Grid) (unit : Nat) : List Nat :=
  (List.range g.map.length).filter fun i => g.clusterIndex i == unit

/-- Closes the open batch as one COPY operation (R218, R234); under `redundant` the engine window
closes behind its last entry, if that is made and behind no later one (R353). -/
def State.sealBatch (s : State) (r : WarpRef) (arrive : Option (Nat × Nat)) (redundant : Bool) :
    State :=
  match s.warp? r with
  | none => s
  | some (_, w) =>
    let made := w.openBatch.all fun id => !s.cmds.any fun c => c.id == id && c.state != 3
    let last := (w.engine.entries.getLast?.bind StreamEntry.cmd).any w.openBatch.contains
    let s := s.fresh.pushOp r .copy s.nextId w.openBatch arrive 0
    s.updWarp r fun w => { w with
      openBatch := [], engine := if redundant && made && last then w.engine.close else w.engine }

/-! ## Rings (R236) -/

/-- One arrival on a stage. -/
def Stage.arrive (t : Stage) (expect : Nat) : Stage :=
  if t.left ≤ 1 then { phase := !t.phase, left := expect } else { t with left := t.left - 1 }

/-- STAGE_FLIP: an arrival on a stage of a block; a flip releases the STGWs that wait for the new
phase (R236, R237). -/
def Block.arrive (b : Block) (ring stage : Nat) : Block :=
  match b.rings[ring]? with
  | none => b
  | some r =>
    match r.stages[stage]? with
    | none => b
    | some t =>
      let t' := t.arrive r.expect
      let b := { b with rings := b.rings.set ring { r with stages := r.stages.set stage t' } }
      if t'.phase == t.phase then b
      else
        { b with
          warps := b.warps.map fun (w : Warp) => match w.run with
            | .ring ri st ph _ =>
              if ri == ring && st == stage && ph == t'.phase then { w with run := .ring ri st ph true }
              else w
            | _ => w }

end Sys2Proof.Machine
end

