-- ==== Sys2Proof/Machine/Trans.lean ====
section
/-!
DEFINITION. The correctly rounded functions FEXP2, FLOG2, FSINPI and FCOSPI (R154, R155): the exact
value is enclosed between two fixed-point bounds of 448 fraction bits, and rounded where both
bounds round alike. No result but those the table of R155 names is representable exactly.
-/

namespace Sys2Proof.Machine

/-- Fraction bits of the enclosures. -/
def fixBits : Nat := 448

/-- ⌊ln 2 · 2^448⌋. -/
def ln2Fix : Nat :=
  0xb17217f7d1cf79abc9e3b39803f2f6af40f343267298b62d8a0d175b8baafa2be7b876206debac98559552fb4afa1b10ed2eae35c1382144

/-- ⌊π · 2^448⌋. -/
def piFix : Nat :=
  0x3243f6a8885a308d313198a2e03707344a4093822299f31d0082efa98ec4e6c89452821e638d01377be5466cf34e90c6cc0ac29b7c97c50dd

/-- Rounds a value that lies above `lo` units of 2^(exp − expZero), and below `lo` plus about 2^−430
of itself. UNVERIFIED (log row 8): no argument of a format of R54 has a rounding boundary between
the two. -/
def Fmt.enclose (f : Fmt) (rd : Rd) (sat neg : Bool) (lo exp : Nat) : Nat × Flags :=
  f.roundMag rd sat neg lo exp true

/-- Σ x^k / k! in fixed point, every term rounded down: `fuel` terms from term k on. -/
def expSeries (x : Nat) : Nat → Nat → Nat → Nat → Nat
  | 0, _, _, acc => acc
  | n + 1, k, term, acc =>
    let t := (term * x) >>> fixBits
    expSeries x n (k + 1) (t / k) (acc + t / k)

/-- FEXP2 (R154, R155). -/
def Fmt.fexp2 (f : Fmt) (rd : Rd) (sat : Bool) (a : Nat) : Nat × Flags :=
  match f.decode a with
  | .nan => (f.nan, 0)
  | .inf s => if s then (f.join false 0 0, 0) else (f.inf false, 0)
  | .fin s m e =>
    if m == 0 then (f.join false f.bias 0, 0)
    else if e + Nat.log2 m ≥ expZero + 12 then
      f.roundMag rd sat false 1 (if s then expZero - 4096 else expZero + 4096) false
    else
      let q := expZero - e
      let whole := if e ≥ expZero then m <<< (e - expZero) else m >>> q
      let frac := if e ≥ expZero then 0 else m % 2 ^ q
      if frac == 0 then
        f.roundMag rd sat false 1 (if s then expZero - whole else expZero + whole) false
      else
        let num := if s then 2 ^ q - frac else frac
        let base := if s then expZero - whole - 1 else expZero + whole
        let y := ((num <<< fixBits >>> q) * ln2Fix) >>> fixBits
        let lo := expSeries y 110 1 (2 ^ fixBits) (2 ^ fixBits)
        f.enclose rd sat false (Nat.max lo (2 ^ fixBits)) (base - fixBits)

/-- Σ z^(2k+1) / (2k+1) in fixed point: `fuel` terms. -/
def atanhSeries (z2 : Nat) : Nat → Nat → Nat → Nat → Nat
  | 0, _, _, acc => acc
  | n + 1, k, term, acc => atanhSeries z2 n (k + 2) ((term * z2) >>> fixBits) (acc + term / k)

/-- log₂ of M/2^448 for M between 2^448 and 2^449, from below by less than 2,048 units. -/
def log2Fix (m : Nat) : Nat :=
  let one := 2 ^ fixBits
  let z := ((m - one) <<< fixBits) / (m + one)
  let s := 2 * atanhSeries ((z * z) >>> fixBits) 150 1 z 0
  (s <<< fixBits) / (ln2Fix + 1)

/-- FLOG2 (R154, R155). -/
def Fmt.flog2 (f : Fmt) (rd : Rd) (sat : Bool) (a : Nat) : Nat × Flags :=
  match f.decode a with
  | .nan => (f.nan, 0)
  | .inf s => if s then (f.nan, Flags.nv) else (f.inf false, 0)
  | .fin s m e =>
    if m == 0 then (f.inf true, Flags.dz)
    else if s then (f.nan, Flags.nv)
    else
      let len := Nat.log2 m
      let x := e + len
      let big := m <<< (fixBits - len)
      let neg := x < expZero
      let n := if neg then expZero - x else x - expZero
      if big == 2 ^ fixBits then f.round rd sat (.fin neg n expZero)
      else
        let l := log2Fix big
        if neg then
          f.enclose rd sat true (n <<< fixBits - (l + 2048)) (expZero - fixBits)
        else
          f.enclose rd sat false (n <<< fixBits + l) (expZero - fixBits)

/-- Σ x^(2k) / (2k)! or x^(2k) / (2k+1)! in fixed point: the sums of the even and of the odd terms.
The two sums change places at each term, so the number of terms is even. -/
def trigSeries (x2 : Nat) : Nat → Nat → Nat → Nat → Nat → Nat × Nat
  | 0, _, _, even, odd => (even, odd)
  | n + 1, k, term, even, odd =>
    let t := ((term * x2) >>> fixBits) / (k * (k + 1))
    trigSeries x2 n (k + 2) t (odd + t) even

/-- cos(π·num/2^q) from below, num/2^q up to 1/4, in units of 2^−448. -/
def cosFix (num q : Nat) : Nat :=
  let x := (piFix * num) >>> q
  let (p, n) := trigSeries ((x * x) >>> fixBits) 60 1 (2 ^ fixBits) (2 ^ fixBits) 0
  p - n - 1024

/-- sin(x)/x from below at x = π·num/2^q, num/2^q up to 1/4, in units of 2^−448. -/
def sincFix (num q : Nat) : Nat :=
  let x := (piFix * num) >>> q
  let (p, n) := trigSeries ((x * x) >>> fixBits) 60 2 (2 ^ fixBits) (2 ^ fixBits) 0
  p - n - 1024

/-- sin(π·num/2^q) rounded, for 0 < num/2^q < 1/2. -/
def Fmt.sinQuarter (f : Fmt) (rd : Rd) (sat neg : Bool) (num q : Nat) : Nat × Flags :=
  if 4 * num ≤ 2 ^ q then
    f.enclose rd sat neg (piFix * num * sincFix num q) (expZero - q - 2 * fixBits)
  else f.enclose rd sat neg (cosFix (2 ^ q - 2 * num) (q + 1)) (expZero - fixBits)

/-- cos(π·num/2^q) rounded, for 0 < num/2^q < 1/2. -/
def Fmt.cosQuarter (f : Fmt) (rd : Rd) (sat neg : Bool) (num q : Nat) : Nat × Flags :=
  if 4 * num ≤ 2 ^ q then f.enclose rd sat neg (cosFix num q) (expZero - fixBits)
  else f.sinQuarter rd sat neg (2 ^ q - 2 * num) (q + 1)

/-- ±1. -/
def Fmt.one (f : Fmt) (neg : Bool) : Nat := f.join neg f.bias 0

/-- FSINPI (R154, R155). -/
def Fmt.fsinpi (f : Fmt) (rd : Rd) (sat : Bool) (a : Nat) : Nat × Flags :=
  match f.decode a with
  | .nan => (f.nan, 0)
  | .inf _ => (f.nan, Flags.nv)
  | .fin s m e =>
    if m == 0 || e ≥ expZero then (f.join s 0 0, 0)
    else
      let q := expZero - e
      let r := m % 2 ^ (q + 1)
      let frac := r % 2 ^ q
      let neg := s != (r ≥ 2 ^ q)
      if frac == 0 then (f.join s 0 0, 0)
      else if 2 * frac == 2 ^ q then (f.one neg, 0)
      else f.sinQuarter rd sat neg (if 2 * frac > 2 ^ q then 2 ^ q - frac else frac) q

/-- FCOSPI (R154, R155). -/
def Fmt.fcospi (f : Fmt) (rd : Rd) (sat : Bool) (a : Nat) : Nat × Flags :=
  match f.decode a with
  | .nan => (f.nan, 0)
  | .inf _ => (f.nan, Flags.nv)
  | .fin _ m e =>
    if m == 0 then (f.one false, 0)
    else if e ≥ expZero then (f.one (e == expZero && m % 2 == 1), 0)
    else
      let q := expZero - e
      let r := m % 2 ^ (q + 1)
      let t := if r > 2 ^ q then 2 ^ (q + 1) - r else r
      if t == 0 then (f.one false, 0)
      else if t == 2 ^ q then (f.one true, 0)
      else if 2 * t == 2 ^ q then (f.join false 0 0, 0)
      else if 2 * t > 2 ^ q then f.cosQuarter rd sat true (2 ^ q - t) q
      else f.cosQuarter rd sat false t q

end Sys2Proof.Machine
end

