-- ==== Sys2Proof/Machine/Lanes.lean ====
section
/-!
DEFINITION. What lane-arithmetic words share (R56, R64, R131 to R135, R158 to R160): element types,
element-wise computation, the rounding of a lane with its draw, and the two ways a result is
written.
-/

namespace Sys2Proof.Machine

/-! ## Element types (R41, R54 to R56, R133) -/

def tyInt : List Nat := [0, 1, 2, 3, 8, 9]
def tyFlt : List Nat := [4, 5, 6, 7]
def tyNum : List Nat := [0, 1, 2, 3, 4, 5, 6, 7, 8, 9]
def tyAny : List Nat := [0, 1, 2, 3, 4, 5, 6, 7, 8, 9, 10, 11, 12, 13, 14]

/-- The type code of MODE. -/
def tyOf (m : Word) : Nat := (modeTy m).toNat

/-- Registers of an operand of a type: a pair for s64, n64 and f64 (R131). -/
def tyRegs (ty : Nat) : Nat := if ty == 2 || ty == 3 || ty == 5 then 2 else 1

/-- Elements of a type. -/
def tyCount (ty : Nat) : Nat := if ty < 6 then 1 else if ty < 10 then 2 else if ty < 14 then 4 else 8

/-- Element width in bits. -/
def tyWidth (ty : Nat) : Nat :=
  if ty < 6 then 32 * tyRegs ty else if ty < 10 then 16 else if ty < 14 then 8 else 4

/-- The format of a floating type. -/
def tyFmt (ty : Nat) : Option Fmt :=
  match ty with
  | 4 => some .f32
  | 5 => some .f64
  | 6 => some .h16
  | 7 => some .b16
  | 12 => some .e4m3
  | 13 => some .e5m2
  | 14 => some .e2m1
  | _ => none

/-- A floating type. -/
def tyFloat (ty : Nat) : Bool := (tyFmt ty).isSome

/-- The s types. -/
def tySigned (ty : Nat) : Bool := ty == 0 || ty == 2 || ty == 8 || ty == 10

/-- Element `n` of a value. -/
def elem (x n w : Nat) : Nat := x / 2 ^ (w * n) % 2 ^ w

/-- An integer element's value. -/
def intVal (ty x : Nat) : Int := if tySigned ty then toSigned (tyWidth ty) x else x

/-- An integer result brought into `w` bits: wrapped, or saturated under sat (R64). -/
def intFit (sat signed : Bool) (w : Nat) (e : Int) : Nat × Flags :=
  let lo : Int := if signed then -(2 ^ (w - 1) : Nat) else 0
  let hi : Int := if signed then (2 ^ (w - 1) : Nat) - 1 else (2 ^ w : Nat) - 1
  if sat && e < lo then ((lo % (2 ^ w : Nat)).toNat, Flags.sat)
  else if sat && hi < e then ((hi % (2 ^ w : Nat)).toNat, Flags.sat)
  else ((e % (2 ^ w : Nat)).toNat, 0)

/-- Computes each element and ORs the flags (R132). -/
def mapElems (count w : Nat) (f : Nat → Nat × Flags) : Nat × Flags :=
  (List.range count).foldl (fun acc n =>
    let r := f n
    (acc.1 + r.1 * 2 ^ (w * n), acc.2 ||| r.2)) (0, 0)

/-! ## Draws (R158 to R161) -/

/-- The counter-based function of R158. -/
def mix (k g c : Dword) : Dword :=
  let x := k ^^^ (g * 0x9E3779B97F4A7C15) ^^^ (c * 0xD1B54A32D192ED03)
  let x := (x ^^^ (x >>> 30)) * 0xBF58476D1CE4E5B9
  let x := (x ^^^ (x >>> 27)) * 0x94D049BB133111EB
  x ^^^ (x >>> 31)

/-- The global index of a thread (R159). -/
def Ctx.globalIndex (c : Ctx) (lane : Nat) : Nat :=
  c.b.index * 2048 + (c.w.ctl.tOct[lane / 8]?).getD 0 + lane % 8

/-- The key of the context (R158). -/
def Ctx.key (c : Ctx) : Dword :=
  match c.s.ctx? c.ctx with
  | some x => x.key
  | none => 0

/-- A lane's draw (R158). -/
def Ctx.draw (c : Ctx) (lane : Nat) : Word :=
  (mix c.key (BitVec.ofNat 64 (c.globalIndex lane)) c.w.ctl.draw).extractLsb' 32 32

/-- The rounding of element `n` of `k` in a lane (R60, R61). -/
def Ctx.rd (c : Ctx) (lane n k : Nat) : Rd :=
  match (modeRd c.mode).toNat with
  | 0 => .rne
  | 1 => .rtz
  | 2 => .rdn
  | 3 => .rup
  | 4 => .rna
  | _ =>
    let q := 32 / k
    .sr q ((c.draw lane).toNat / 2 ^ (q * n) % 2 ^ q)

/-- MODE.sat. -/
def Ctx.sat (c : Ctx) : Bool := modeSat c.mode

/-! ## The words -/

/-- MODE.rd is SR. -/
def srMode (m : Word) : Bool := modeRd m == 5

/-- What the entry of a lane-arithmetic word says under MODE `m` (R131, R133, R160): the types it
accepts, whether it rounds under rd, and its operands. -/
def laneEntry (sw : Bool) (m : Word) (tys : List Nat) (rounds : Bool) (uses : List Use) : Entry :=
  { sw, uses, modeOk := tys.contains (tyOf m), gd := true, modeRead := true,
    draws := rounds && srMode m, twin := true }

/-- Computes a value in each lane of C and ORs the flags (R66, R132). -/
def Ctx.lanewise (c : Ctx) (f : Nat → Nat × Flags) : List (Nat × Nat) × Flags :=
  c.lanes.foldr (fun l acc =>
    let r := f l
    ((l, r.1) :: acc.1, r.2 ||| acc.2)) ([], 0)

/-- A fixed-latency lane-arithmetic word (R132). -/
def laneEff (d : Operand) (regs : Nat) (f : Ctx → Nat → Nat × Flags) (c : Ctx) : Eff :=
  let (vals, fl) := c.lanewise (f c)
  c.put c.s d regs vals fl

/-- Values by lane as a sparse store. -/
def sparseVals (vals : List (Nat × Nat)) : Sparse Wide :=
  vals.foldl (fun m x => sparseSet 0 m x.1 (BitVec.ofNat 128 x.2)) []

/-- A variable-latency lane-arithmetic word: FRCP to FCOSPI (R134, R154), its result after 12 cycles, or
40 under f64, at the least (R135). With no lane in C it writes nothing, so no result is outstanding. -/
def lateEff (d : Operand) (regs : Nat) (f : Ctx → Nat → Nat × Flags) (c : Ctx) : Eff :=
  let (vals, fl) := c.lanewise (f c)
  if vals.isEmpty then .done c.s
  else .done (c.s.pushResult c.r
    { c.result c.s (some d) regs with
      vals := sparseVals vals, flags := fl, late := true
      due := c.s.now + if regs == 2 then 40 else 12 })

/-- Element-wise computation over one source. -/
def each1 (ty : Nat) (f : Nat → Nat → Nat × Flags) (a : Nat) : Nat × Flags :=
  mapElems (tyCount ty) (tyWidth ty) fun n => f n (elem a n (tyWidth ty))

/-- Element-wise computation over two sources. -/
def each2 (ty : Nat) (f : Nat → Nat → Nat → Nat × Flags) (a b : Nat) : Nat × Flags :=
  mapElems (tyCount ty) (tyWidth ty) fun n => f n (elem a n (tyWidth ty)) (elem b n (tyWidth ty))

/-- The rounding of element `n` of the word's type. -/
def Ctx.rdTy (c : Ctx) (lane n : Nat) : Rd := c.rd lane n (tyCount (tyOf c.mode))

end Sys2Proof.Machine
end

