-- ==== Sys2Proof/Machine/Scratchpad.lean ====
section
/-!
DEFINITION. The scratchpad: LDL, STL, and the tag tables with TAGL and TAGW (R162 to R177).
-/

namespace Sys2Proof.Machine

/-! ## LDL, STL (R175) -/

/-- Local addresses of a base register and a scaled offset. -/
def Ctx.localAddrs (c : Ctx) (a : Operand) (off : BitVec 8) (w : Nat) : List (Nat × Nat) :=
  c.lanes.map fun l => (l, (c.opd l a + BitVec.ofInt 32 (off.toInt * w)).toNat)

/-- A fault of the lanes that a test names, with the first one's address. -/
def Ctx.localFault (c : Ctx) (code : BitVec 8) (bad : List (Nat × Nat)) : Eff :=
  .fault { faultAt code 1 with
    addr := ((bad.head?).elim 0 fun x => BitVec.ofNat 64 x.2),
    lanes := c.allLanes.getD (maskOf (bad.map Prod.fst)) }

/-- ALIGNMENT, then RANGE, before any lane reads or writes. -/
def Ctx.localCheck (c : Ctx) (w : Nat) (as : List (Nat × Nat)) (k : Eff) : Eff :=
  let odd := as.filter fun x => x.2 % w != 0
  let far := as.filter fun x => c.b.scratchSize < x.2 + w
  if !odd.isEmpty then c.localFault fcAlignment odd
  else if !far.isEmpty then c.localFault fcRange far
  else k

/-- A base register of LDL and STL. -/
def Use.localBase (a : Operand) : Use := { Use.src a 1 with ok := a.isReg || a.isZero }

/-- Words of the window with an uncorrectable error that a span reads (R342). -/
def Block.localBad (b : Block) (a w : Nat) : Bool := (wordsOf a w).any b.scratchBad.contains

/-- The part reads what a test names in a block's stores: what has a correctable error is corrected, written
back and logged (R342, R344). -/
def State.readSoft (s : State) (b : Block) (ctx : Nat) (reads : Nat × Nat → Bool) : State :=
  let hit := b.soft.filter reads
  if hit.isEmpty then s
  else hit.foldl (fun (s : State) (_ : Nat × Nat) => s.log 1 .sram b.core ctx 0)
    (s.updBlock b.id fun b => { b with soft := b.soft.filter fun x => !hit.contains x })

/-- Words of a store that are overwritten whole have no correctable error left (R343). -/
def Block.cleanSoft (b : Block) (store a n : Nat) : Block :=
  { b with soft := b.soft.filter fun x => !(x.1 == store && a ≤ x.2 && x.2 + 4 ≤ a + n) }

/-- Passes of an access of width `w` at the given addresses (R163). -/
def bankPasses (w : Nat) (as : List Nat) : Nat :=
  let words := (as.flatMap fun a => (List.range (w / 4)).map fun i => a / 4 + i).eraseDups
  (List.range 32).foldl (fun m b => Nat.max m (words.filter fun x => x % 32 == b).length) 1

/-- The values are read at issue, in program order (R172); the result is written 6 cycles and the passes
later (R90, R163). -/
def ldlEff (d a : Operand) (off : BitVec 8) (c : Ctx) : Eff :=
  let n := tyRegs (tyOf c.mode)
  let w := 4 * n
  let as := c.localAddrs a off w
  c.localCheck w as <|
    if as.isEmpty then .done c.s
    else
      let bad := as.filter fun x => c.b.localBad x.2 w
      let s := c.s.readSoft c.b c.ctx fun y => y.1 == 0 && as.any fun x => y.2 < x.2 + w && x.2 < y.2 + 4
      let s := bad.foldl (fun s _ => s.log 2 .sram c.b.core c.ctx 0) s
      .done (s.pushResult c.r { c.result s (some d) n with
        vals := sparseVals (as.map fun x => (x.1, readLE c.b.scratch x.2 w)),
        due := s.now + 6 + bankPasses w (as.map Prod.snd),
        marked := if c.uni && !bad.isEmpty then maskOf c.act else maskOf (bad.map Prod.fst),
        store := 1 })

/-- LDL (R175). -/
def execLdl (sw : Bool) (d a : Operand) (off : BitVec 8) (s : State) : Out :=
  .next (runWord s (fun m =>
    { sw, uses := [Use.dst d (tyRegs (tyOf m)), Use.localBase a], modeOk := tyAny.contains (tyOf m),
      gd := true, modeRead := true }) (ldlEff d a off))

/-- The tag key of a local address: its 128-byte unit's slot (R169), where a mapped region holds
it. -/
def Block.slotAt (b : Block) (a : Nat) : Option Nat :=
  (b.regions.find? fun r => r.line != 0 && r.offset ≤ a && a < r.offset + r.size).map fun r =>
    (r.offset + (a - r.offset) / r.line * r.line) / 128

/-- One lane's STL: the bytes, then the dirty bit of a valid slot (R170, R175). -/
def Block.storeLocal (b : Block) (a w x : Nat) : Block :=
  let b : Block := { b.cleanSoft 0 a w with
    scratch := writeLE b.scratch a w x,
    scratchBad := keepMarks b.scratchBad a w }
  match b.slotAt a with
  | none => b
  | some k =>
    let e := sparseGet 0 b.tags k
    if e.getLsbD 0 then { b with tags := sparseSet 0 b.tags k (e ||| 2) } else b

def stlEff (d a : Operand) (off : BitVec 8) (c : Ctx) : Eff :=
  let n := tyRegs (tyOf c.mode)
  let w := 4 * n
  let as := c.localAddrs a off w
  c.localCheck w as <|
    .done (c.s.updBlock c.b.id fun b =>
      as.foldl (fun b x => b.storeLocal x.2 w (c.val x.1 d n)) b)

/-- STL (R175). -/
def execStl (sw : Bool) (d a : Operand) (off : BitVec 8) (s : State) : Out :=
  .next (runWord s (fun m =>
    let n := tyRegs (tyOf m)
    { sw, uses := [{ Use.src d n with ok := if n == 1 then d.isReg || d.isZero else d.group n },
        Use.localBase a],
      modeOk := tyAny.contains (tyOf m), gd := true, modeRead := true, ahead := .skip })
    (stlEff d a off))

/-! ## Tag tables (R169, R170) -/

def Region.slots (r : Region) : Nat := r.size / r.line
def Region.ways (r : Region) : Nat := Nat.min 8 r.slots

/-- The set of a virtual address. -/
def Region.setOf (r : Region) (va : Nat) : Nat := va / r.line % (r.slots / r.ways)

/-- The key of a slot's entry. -/
def Region.key (r : Region) (slot : Nat) : Nat := (r.offset + slot * r.line) / 128

/-- Bits [56:7] of an entry, as an address. -/
def tagLine (e : Dword) : Nat := (e.extractLsb' 7 50).toNat * 128

/-- The valid slot of a region that holds a line. -/
def Block.findSlot (b : Block) (r : Region) (line : Nat) : Option Nat :=
  (List.range r.ways).findSome? fun i =>
    let slot := r.setOf line * r.ways + i
    let e := sparseGet 0 b.tags (r.key slot)
    if e.getLsbD 0 && tagLine e == line then some slot else none

/-- The mapped region that a word names. -/
def Block.mapped (b : Block) (region : BitVec 4) : Option Region :=
  (b.regions[region.toNat]?).filter (·.line != 0)

/-- Under gd = ~p0 a word raises no fault in execution (R36). -/
def Ctx.off (c : Ctx) : Bool := modeGd c.mode == 8

/-- A variable-latency result whose values are known at issue. -/
def Ctx.later (c : Ctx) (d : Operand) (regs : Nat) (vals : List (Nat × Nat)) : Eff :=
  if vals.isEmpty then .done c.s
  else .done (c.s.pushResult c.r { c.result c.s (some d) regs with vals := sparseVals vals })

def taglLookupEff (d a : Operand) (region : BitVec 4) (c : Ctx) : Eff :=
  if c.off then .done c.s
  else match c.b.mapped region with
    | none => execFault fcRange
    | some r =>
      c.later d 1 (c.lanes.map fun l =>
        let x := c.val l a 2
        (l, if 2 ^ 57 ≤ x then 0xFFFFFFFF
          else match c.b.findSlot r (x / r.line * r.line) with
            | some slot => r.offset + slot * r.line + x % r.line
            | none => 0xFFFFFFFF))

/-- TAGL_LOOKUP (R176). -/
def execTaglLookup (sw : Bool) (d a : Operand) (region : BitVec 4) (s : State) : Out :=
  .next (runWord s (fun _ =>
    { sw, uses := [{ Use.dst d 1 with ok := d.isReg }, Use.base a], gd := true })
    (taglLookupEff d a region))

def taglReadEff (d a : Operand) (region : BitVec 4) (c : Ctx) : Eff :=
  if c.off then .done c.s
  else match c.b.mapped region with
    | none => execFault fcRange
    | some r =>
      let bad := c.lanes.filter fun l => r.slots ≤ (c.opd l a).toNat
      if !bad.isEmpty then laneFault fcRange (c.allLanes.getD (maskOf bad))
      else c.later d 2 (c.lanes.map fun l =>
        (l, (sparseGet 0 c.b.tags (r.key (c.opd l a).toNat)).toNat))

/-- TAGL_READ (R176). -/
def execTaglRead (sw : Bool) (d a : Operand) (region : BitVec 4) (s : State) : Out :=
  .next (runWord s (fun _ =>
    { sw, uses := [Use.dst d 2, Use.localBase a], gd := true }) (taglReadEff d a region))

/-- An entry value that a slot may hold (R170, R177). -/
def Region.entryOk (r : Region) (slot : Nat) (e : Dword) : Bool :=
  slot < r.slots && e.extractLsb' 57 7 == 0 && e.extractLsb' 2 5 == 0 && tagLine e % r.line == 0
    && (!e.getLsbD 0 || r.setOf (tagLine e) == slot / r.ways)

/-- Writes an entry; a change of its line or valid bit drops its captured translation (R171). -/
def Block.setTag (b : Block) (r : Region) (slot : Nat) (e : Dword) : Block :=
  let k := r.key slot
  let old := sparseGet 0 b.tags k
  { b with
    tags := sparseSet 0 b.tags k e,
    captured := if old ||| 2 == e ||| 2 then b.captured else b.captured.filter (·.1 != k) }

/-- The checks of R177, then the entries. Where two lanes give one slot different entries both are at
fault; which of the two stands in T for the test of other lanes the rule leaves open: the last lane's
(DESIGN CHOICE, log row 88). -/
def tagwEff (d a : Operand) (region : BitVec 4) (c : Ctx) : Eff :=
  if c.off then .done c.s
  else match c.b.mapped region with
    | none => execFault fcRange
    | some r =>
      let ws := c.lanes.map fun l => (l, (c.opd l d).toNat, BitVec.ofNat 64 (c.val l a 2))
      let wrong (x : Nat × Nat × Dword) : Bool :=
        !r.entryOk x.2.1 x.2.2 || ws.any fun y => y.2.1 == x.2.1 && y.2.2 != x.2.2
      let after := ws.foldl (fun b x => b.setTag r x.2.1 x.2.2) c.b
      let twice (x : Nat × Nat × Dword) : Bool :=
        x.2.2.getLsbD 0 && (List.range r.ways).any fun i =>
          let slot := r.setOf (tagLine x.2.2) * r.ways + i
          let e := sparseGet 0 after.tags (r.key slot)
          slot != x.2.1 && e.getLsbD 0 && tagLine e == tagLine x.2.2
      let bad := (ws.filter fun x => wrong x || twice x).map Prod.fst
      if !bad.isEmpty then laneFault fcRange (c.allLanes.getD (maskOf bad))
      else .done (c.s.updBlock c.b.id fun b =>
        ws.foldl (fun b x => b.setTag r x.2.1 x.2.2) b)

/-- TAGW (R177). -/
def execTagw (sw : Bool) (d a : Operand) (region : BitVec 4) (s : State) : Out :=
  .next (runWord s (fun _ =>
    { sw, uses := [Use.localBase d, Use.src a 2], gd := true, ahead := .skip })
    (tagwEff d a region))

end Sys2Proof.Machine
end

