-- ==== Sys2Proof/Machine/Engines.lean ====
section
/-!
DEFINITION. What engine words share: handles of the operand buffer and of the accumulator store
(R201, R204, R206, R210), what a command or a queued array word names (R213), and the tensor layout
record with the places of its elements (R225 to R229).
-/

namespace Sys2Proof.Machine

/-! ## Reservations and allocations -/

def Resv.etype (r : Resv) : Nat := (r.record.extractLsb' 0 4).toNat
def Resv.blen (r : Resv) : Nat := (r.record.extractLsb' 4 2).toNat
def Resv.sfmt (r : Resv) : Nat := (r.record.extractLsb' 6 2).toNat
def Resv.inline (r : Resv) : Bool := r.record.getLsbD 8
def Resv.col (r : Resv) : Bool := r.record.getLsbD 9
def Resv.sparse (r : Resv) : Bool := r.record.getLsbD 10
/-- Row pitch in bytes. -/
def Resv.pitch (r : Resv) : Nat := 16 * (r.record.extractLsb' 12 12).toNat

/-- Byte offset that a handle names in its reservation (R204). -/
def handleOffset (h : Word) : Nat := 16 * (h.extractLsb' 0 16).toNat
def handleIndex (h : Word) : Nat := (h.extractLsb' 16 8).toNat
def handleTag (h : Word) : Nat := (h.extractLsb' 24 7).toNat
/-- The tile and the row that an accumulator handle names (R210). -/
def handleTile (h : Word) : Nat := (h.extractLsb' 8 8).toNat
def handleRow (h : Word) : Nat := (h.extractLsb' 0 5).toNat

/-- The live reservation of a handle, its tag agreeing (R206); none is HANDLE. -/
def Block.resv? (b : Block) (h : Word) : Option Resv :=
  if 32 ≤ handleIndex h then none
  else b.resvs.find? fun r => r.idx == handleIndex h && r.tag == handleTag h

/-- The live allocation of a handle, its tag agreeing (R210); none is HANDLE. -/
def Block.alloc? (b : Block) (h : Word) : Option Alloc :=
  if h.getLsbD 31 || 64 ≤ handleIndex h then none
  else b.allocs.find? fun a => a.idx == handleIndex h && a.tag == handleTag h

/-- The handle's tile lies in its allocation (R210); else RANGE. -/
def Alloc.holds (a : Alloc) (h : Word) : Bool := h.extractLsb' 5 3 == 0 && handleTile h < a.count

/-- Key of a tile element. -/
def tileKey (tile row col : Nat) : Nat := 1024 * tile + 32 * row + col

/-! ## What is named (R213, R247) -/

/-- Reservations and tiles of a block that a word or command names. -/
structure Names where
  resvs : List Nat
  tiles : List Nat
  deriving DecidableEq, Repr

/-- The two name one reservation or tile. -/
def Names.meet (x y : Names) : Bool := x.resvs.any y.resvs.contains || x.tiles.any y.tiles.contains

/-- Numbers of the tiles that an accumulator handle names, `n` from its tile on. -/
def Block.tilesOf (b : Block) (h : Word) (n : Nat) : List Nat :=
  match b.alloc? h with
  | some a => (List.range n).map fun i => a.first + handleTile h + i
  | none => []

/-- The command has ended and has no write outstanding (R218). -/
def Cmd.over (c : Cmd) : Bool := c.state == 3 && c.writes == 0

/-- Names of a tensor record's local endpoint. -/
def TRec.names (r : TRec) (b : Block) : Names :=
  match r.kind with
  | 1 => { resvs := [handleIndex r.locw], tiles := [] }
  | 2 => { resvs := [], tiles := b.tilesOf r.locw 1 }
  | _ => { resvs := [], tiles := [] }

def Cmd.names (c : Cmd) (b : Block) : Names :=
  match c.kind with
  | .lcp _ _ _ => { resvs := [], tiles := [] }
  | .tcp _ r _ => r.names b
  | .tcpx r _ _ _ => r.names b

def OctetOp.names (o : OctetOp) (b : Block) : Names :=
  { resvs := [handleIndex o.ha, handleIndex o.hb], tiles := b.tilesOf o.hd 1 }

def SplineOp.names (o : SplineOp) (b : Block) : Names :=
  match o with
  | .load h _ _ | .store h _ _ => { resvs := [handleIndex h], tiles := [] }
  | .spl hd hx _ _ _ => { resvs := [handleIndex hx], tiles := b.tilesOf hd 1 }
  | .spld hd hx hg _ _ _ =>
    { resvs := [handleIndex hx], tiles := b.tilesOf hd 1 ++ b.tilesOf hg 1 }
  | .splg hd hx hg _ _ _ =>
    { resvs := [handleIndex hx], tiles := b.tilesOf hd 8 ++ b.tilesOf hg 1 }
  | .kset _ _ _ _ _ _ | .kget _ _ _ _ | .gref _ => { resvs := [], tiles := [] }

def ArrayWord.names (x : ArrayWord) (b : Block) : Names :=
  match x.work with
  | .matrix _ _ ops =>
    { resvs := ops.flatMap fun o => (o.names b).resvs, tiles := ops.flatMap fun o => (o.names b).tiles }
  | .spline o => o.names b

/-- Outstanding commands of a warp. -/
def State.cmdsOf (s : State) (r : WarpRef) : List Cmd :=
  s.cmds.filter fun c => c.blk == r.blk && c.slot == r.slot && !c.over

/-- Queued array words of a warp. -/
def State.arrayOf (s : State) (core : Nat) (r : WarpRef) : List ArrayWord :=
  (s.core core).queue.filter fun x => x.blk == r.blk && x.slot == r.slot

/-- An earlier engine word of the warp holds a word with these names (R213). -/
def Ctx.heldBy (c : Ctx) (n : Names) : Bool :=
  (c.s.cmdsOf c.r).any (fun x => (x.names c.b).meet n)
    || (c.s.arrayOf c.b.core c.r).any fun x => (x.names c.b).meet n

/-- An engine command or array word of the block names it (R208, R211). -/
def State.inUse (s : State) (b : Block) (n : Names) : Bool :=
  (s.cmds.any fun c => c.blk == b.id && !c.over && (c.names b).meet n)
    || (s.core b.core).queue.any fun x => x.blk == b.id && (x.names b).meet n

/-! ## The tensor layout record (R225) -/

/-- Element width in bits. -/
def fmtBits (fmt : Nat) : Nat :=
  match fmt with
  | 0 | 1 => 16
  | 4 => 4
  | 7 => 2
  | 8 => 32
  | _ => 8

def TRec.e (r : TRec) : Nat := fmtBits r.fmt

/-- Reads the record from eight registers. -/
def TRec.parse (x : Nat → Word) : TRec :=
  { base := BitVec.ofNat 64 ((x 0).toNat + 2 ^ 32 * (x 1).toNat),
    dim1 := ((x 2).extractLsb' 16 16).toNat, dim0 := ((x 2).extractLsb' 0 16).toNat,
    stride := (x 3).toNat,
    y0 := ((x 4).extractLsb' 16 16).toNat, x0 := ((x 4).extractLsb' 0 16).toNat,
    h := ((x 5).extractLsb' 16 11).toNat, wd := ((x 5).extractLsb' 0 11).toNat, locw := x 6,
    arrive := (x 7).getLsbD 22, astage := ((x 7).extractLsb' 19 3).toNat,
    aring := ((x 7).extractLsb' 16 3).toNat, mask := (x 7).extractLsb' 8 8,
    sparse := (x 7).getLsbD 7, transpose := (x 7).getLsbD 6,
    kind := ((x 7).extractLsb' 4 2).toNat, fmt := ((x 7).extractLsb' 0 4).toNat }

/-- Rows of the local tile, and elements of each (R226). -/
def TRec.rows (r : TRec) : Nat := if r.transpose then r.wd else r.h
def TRec.per (r : TRec) : Nat := if r.transpose then r.h else r.wd

/-- The rows are copied compressed (R228). -/
def TRec.packed (r : TRec) (b : Block) : Bool :=
  r.kind == 1 && r.sparse && !r.transpose && (match b.resv? r.locw with
    | some x => x.sparse
    | none => false)

/-- Bytes of one local row. -/
def TRec.rowBytes (r : TRec) (b : Block) : Nat :=
  if r.packed b then r.wd / 2 * (r.e / 8) + r.wd / 8 else (r.per * r.e + 7) / 8

/-- First local byte and pitch of a scratchpad endpoint. -/
def TRec.scratchBase (r : TRec) : Nat := (r.locw.extractLsb' 0 20).toNat
def TRec.scratchPitch (r : TRec) (b : Block) : Nat :=
  let p := (r.locw.extractLsb' 20 12).toNat
  if p == 0 then (r.rowBytes b + 15) / 16 * 16 else 16 * p

/-- The mapped region and the slot of a map-slot endpoint (R226, R229). -/
def TRec.region (r : TRec) (b : Block) : Option Region := b.mapped (r.locw.extractLsb' 0 4)
def TRec.slot (r : TRec) : Nat := (r.locw.extractLsb' 4 13).toNat

/-- Where a byte of a local row lies. -/
inductive Place where
  | scratch (a : Nat)
  | opbuf (a : Nat)
  /-- A tile element. -/
  | tile (key : Nat)
  deriving DecidableEq, Repr

/-- The place of byte `k` of local row `j` (R227). -/
def TRec.place (r : TRec) (b : Block) (j k : Nat) : Place :=
  match r.kind with
  | 0 => .scratch (r.scratchBase + j * r.scratchPitch b + k)
  | 1 => match b.resv? r.locw with
    | some x => .opbuf (x.base + handleOffset r.locw + j * x.pitch + k)
    | none => .opbuf 0
  | 2 => .tile (tileKey ((b.tilesOf r.locw 1).headD 0) (handleRow r.locw + j) (k / 4))
  | _ => match r.region b with
    | some g => .scratch (g.offset + r.slot * g.line + k)
    | none => .scratch 0

/-- The place of an element of the global tile. -/
def TRec.elemPlace (r : TRec) (b : Block) (row col : Nat) : Place :=
  if r.transpose then r.place b col (row * r.e / 8) else r.place b row (col * r.e / 8)

/-- Writes elements of the tiles: an overwritten element keeps no mark (R343). -/
def Block.setTiles (b : Block) (es : List (Nat × Word)) : Block :=
  { b with
    tiles := es.foldl (fun m x => sparseSet 0 m x.1 x.2) b.tiles
    tilesBad := b.tilesBad.filter fun k => !es.any (·.1 == k)
    soft := b.soft.filter fun x => x.1 != 2 || !es.any (·.1 == x.2) }

/-- Writes `n` bytes at a place; a marked word keeps its mark until it is overwritten whole (R343). -/
def Block.put (b : Block) (p : Place) (n x : Nat) : Block :=
  match p with
  | .scratch a => { b.cleanSoft 0 a n with
      scratch := writeLE b.scratch a n x,
      scratchBad := keepMarks b.scratchBad a n }
  | .opbuf a => { b.cleanSoft 1 a n with
      opbuf := writeLE b.opbuf a n x,
      opbufBad := keepMarks b.opbufBad a n }
  | .tile key => b.setTiles [(key, BitVec.ofNat 32 x)]

/-- `n` bytes at a place take in a word or element: store (0 scratchpad, 1 operand buffer, 2 tiles) and
address or key (R342). -/
def Place.covers (p : Place) (n : Nat) (x : Nat × Nat) : Bool :=
  match p with
  | .scratch a => x.1 == 0 && x.2 < a + n && a < x.2 + 4
  | .opbuf a => x.1 == 1 && x.2 < a + n && a < x.2 + 4
  | .tile key => x.1 == 2 && x.2 == key

/-- A place reads back with an uncorrectable error (R342). -/
def Place.bad (p : Place) (n : Nat) (b : Block) : Bool :=
  b.scratchBad.any (fun k => p.covers n (0, k)) || b.opbufBad.any (fun k => p.covers n (1, k))
    || b.tilesBad.any fun k => p.covers n (2, k)

/-- The part reads places of a block: what is correctable is corrected, what is not is logged (R342,
R344); whether some place was not. -/
def State.readPlaces (s : State) (b : Block) (ctx : Nat) (ps : List (Place × Nat)) : Bool × State :=
  let s := s.readSoft b ctx fun x => ps.any fun p => p.1.covers p.2 x
  let bad := ps.any fun p => p.1.bad p.2 b
  (bad, if bad then s.log 2 .sram b.core ctx 0 else s)

/-- Reads `n` bytes at a place. -/
def Block.get (b : Block) (p : Place) (n : Nat) : Nat :=
  match p with
  | .scratch a => readLE b.scratch a n
  | .opbuf a => readLE b.opbuf a n
  | .tile key => (sparseGet 0 b.tiles key).toNat

/-- The span of the scratchpad that a command's local side takes, and whether it writes it (R223). -/
def Cmd.spans (c : Cmd) (b : Block) : List (Nat × Nat) × Bool :=
  match c.kind with
  | .lcp out n ls => (ls.map fun x => (x.2.1, x.2.1 + n), !out)
  | .tcp out r _ =>
    (if r.kind == 0 then
      [(r.scratchBase, r.scratchBase + (r.rows - 1) * r.scratchPitch b + r.rowBytes b)]
    else if r.kind == 3 then match r.region b with
      | some g => [(g.offset + r.slot * g.line, g.offset + (r.slot + 1) * g.line)]
      | none => []
    else [], !out)
  | .tcpx r _ _ _ =>
    (if r.kind == 0 then
      [(r.scratchBase, r.scratchBase + (r.rows - 1) * r.scratchPitch b + r.rowBytes b)]
    else [], false)

/-- Two lists of spans overlap. -/
def spansMeet (xs ys : List (Nat × Nat)) : Bool := xs.any fun x => ys.any fun y => x.1 < y.2 && y.1 < x.2

end Sys2Proof.Machine
end

