-- ==== Sys2Proof/Machine/Buffers.lean ====
section
/-!
DEFINITION. The operand buffer and the accumulator store: RES, RLS, ACCA, ACCF, ACCR, ACCW (R200 to
R216).
-/

namespace Sys2Proof.Machine

/-- An operand of classes 2 to 6 (R208, R211). -/
def Use.scoped (o : Operand) : Use := { Use.src o 1 with ok := o.isScoped }
def Use.scopedDst (o : Operand) : Use := { Use.dst o 1 with ok := o.isScoped }

/-! ## RES, RLS (R208) -/

/-- The conditions of R202 on a record and a size. -/
def recordOk (record : Word) (z : Nat) : Bool :=
  let r : Resv := { idx := 0, tag := 0, base := 0, size := z, record }
  let t := r.etype
  record.extractLsb' 24 8 == 0 && !record.getLsbD 11 && t ≤ 8
    && (r.blen == 0 || ([2, 3, 4].contains t && r.inline))
    && (r.blen != 0 || !r.inline || r.sfmt == 0 || r.sfmt == 3)
    && (r.blen != 0 || r.inline || r.sfmt == 0)
    && (!r.col || ([0, 1, 2, 3, 5, 6, 8].contains t && !r.inline && !r.sparse))
    && (!r.sparse || ([0, 1, 2, 3, 5, 6].contains t && r.blen == 0))
    && r.pitch != 0 && r.pitch ≤ z && z % r.pitch == 0

/-- The lowest free multiple of 256 for `z` bytes in the first `size` bytes of a window. -/
def freeBase (resvs : List Resv) (size z : Nat) : Option Nat :=
  ((List.range (size / 256 + 1)).map (256 * ·)).find? fun g =>
    g + z ≤ size && resvs.all fun r => g + z ≤ r.base || r.base + r.size ≤ g

/-- The lowest index below `n` that is not among those in use. -/
def freeIndex (n : Nat) (used : List Nat) : Option Nat := (List.range n).find? fun i => !used.contains i

/-- Reservations of a core; those of a spilled block count too (the spec is silent: DESIGN CHOICE, log row
89). -/
def State.resvsOn (s : State) (core : Nat) : Nat :=
  (s.blocks.filter (·.core == core)).foldl (fun n b => n + b.resvs.length) 0

/-- The tag after a count rises (R207). -/
def Block.tagFor (b : Block) (u : Nat) : Nat := (u + b.index) % 128

/-- A handle value. -/
def handleWord (tag idx : Nat) : Nat := tag * 2 ^ 24 + idx * 2 ^ 16

def resEff (d a sz : Operand) (c : Ctx) : Eff :=
  let record := c.one a
  let z := (c.one sz).toNat
  if z == 0 || z % 16 != 0 || !recordOk record z then execFault fcRange
  else match freeIndex 32 (c.b.resvs.map Resv.idx), freeBase c.b.resvs c.b.opbufSize z with
    | some i, some g =>
      if 32 ≤ c.s.resvsOn c.b.core then .wait c.s .parked
      else
        let u := sparseGet 0 c.b.resU i + 1
        let tag := c.b.tagFor u
        let x : Resv := { idx := i, tag, base := g, size := z, record }
        c.put (c.s.updBlock c.b.id fun b => { b with
          resvs := b.resvs ++ [x], resU := sparseSet 0 b.resU i u })
          d 1 [(c.lane0, handleWord tag i)] 0
    | _, _ => execFault fcRange

/-- RES (R208). -/
def execRes (sw : Bool) (d a b : Operand) (s : State) : Out :=
  .next (runWord s (fun _ =>
    { sw, uses := [Use.scopedDst d, Use.scoped a, Use.scoped b], ahead := .poison }) (resEff d a b))

def rlsEff (a : Operand) (c : Ctx) : Eff :=
  match c.b.resv? (c.one a) with
  | none => execFault fcHandle
  | some r =>
    if c.s.inUse c.b { resvs := [r.idx], tiles := [] } then .wait c.s .parked
    else .done (c.s.updBlock c.b.id fun b => { b with resvs := b.resvs.filter (·.idx != r.idx) })

/-- RLS (R208). -/
def execRls (sw : Bool) (a : Operand) (s : State) : Out :=
  .next (runWord s (fun _ => { sw, uses := [Use.scoped a], ahead := .skip }) (rlsEff a))

/-! ## ACCA, ACCF (R211) -/

/-- The lowest `n` free tile numbers in a row, in the block's own numbering. -/
def freeTiles (allocs : List Alloc) (n : Nat) : Nat :=
  let starts := 0 :: allocs.map fun a => a.first + a.count
  (starts.filter fun g => allocs.all fun a => g + n ≤ a.first || a.first + a.count ≤ g).foldl
    Nat.min (allocs.foldl (fun m a => Nat.max m (a.first + a.count)) 0)

def accaEff (d : Operand) (n : Nat) (c : Ctx) : Eff :=
  let used := c.b.allocs.foldl (fun k a => k + a.count) 0
  match freeIndex 64 (c.b.allocs.map Alloc.idx) with
  | none => execFault fcRange
  | some i =>
    if c.b.tileBudget < used + n then execFault fcRange
    else
      let u := sparseGet 0 c.b.accU i + 1
      let tag := c.b.tagFor u
      let first := freeTiles c.b.allocs n
      let x : Alloc := { idx := i, tag, count := n, first }
      c.put (c.s.updBlock c.b.id fun b => { b with
        allocs := b.allocs ++ [x], accU := sparseSet 0 b.accU i u,
        tilesBad := b.tilesBad.filter fun k => k < 1024 * first || 1024 * (first + n) ≤ k,
        soft := b.soft.filter fun x => x.1 != 2 || x.2 < 1024 * first || 1024 * (first + n) ≤ x.2,
        tiles := b.tiles.filter fun e => e.1 < 1024 * first || 1024 * (first + n) ≤ e.1 })
        d 1 [(c.lane0, handleWord tag i)] 0

/-- ACCA (R211). -/
def execAcca (sw : Bool) (d : Operand) (count : BitVec 7) (s : State) : Out :=
  .next (runWord s (fun _ =>
    { sw, codes := Instr.codesOk (.acca sw d count), uses := [Use.scopedDst d], ahead := .poison })
    (accaEff d count.toNat))

def accfEff (a : Operand) (c : Ctx) : Eff :=
  match c.b.alloc? (c.one a) with
  | none => execFault fcHandle
  | some x =>
    if c.s.inUse c.b { resvs := [], tiles := (List.range x.count).map (x.first + ·) } then
      .wait c.s .parked
    else .done (c.s.updBlock c.b.id fun b => { b with allocs := b.allocs.filter (·.idx != x.idx) })

/-- ACCF (R211). -/
def execAccf (sw : Bool) (a : Operand) (s : State) : Out :=
  .next (runWord s (fun _ => { sw, uses := [Use.scoped a], ahead := .skip }) (accfEff a))

/-! ## ACCR, ACCW (R212) -/

/-- The handle, which agrees over C, its tile, and the element of each lane; then `k`. -/
def Ctx.accElems (c : Ctx) (a b : Operand) (k : List (Nat × Nat) → Eff) : Eff :=
  let lanes := c.outLanes
  let h := c.opd (lanes.headD c.lane0) a
  let differ := lanes.filter fun l => c.opd l a != h
  if c.off then .done c.s
  else if !differ.isEmpty then .fault (scopeDisagree 1 differ)
  else match c.b.alloc? h with
    | none => execFault fcHandle
    | some x =>
      let at' (l : Nat) := 32 * handleRow h + (c.opd l b).toNat + l
      let bad := lanes.filter fun l => 1024 ≤ at' l
      if !x.holds h then execFault fcRange
      else if !bad.isEmpty then laneFault fcRange (maskOf bad)
      else if c.heldBy { resvs := [], tiles := [x.first + handleTile h] } then .wait c.s .parked
      else k (lanes.map fun l => (l, 1024 * (x.first + handleTile h) + at' l))

/-- An element with an uncorrectable error marks its lane (R312); the store of its record is 1, as that of
the scratchpad (R306 names no other SRAM: DESIGN CHOICE, log row 95). -/
def accrEff (d a b : Operand) (c : Ctx) : Eff :=
  c.accElems a b fun es =>
    if es.isEmpty then .done c.s
    else
      let (_, s) := c.s.readPlaces c.b c.ctx (es.map fun x => (.tile x.2, 4))
      .done (s.pushResult c.r { c.result s (some d) 1 with
        vals := sparseVals (es.map fun x => (x.1, (sparseGet 0 c.b.tiles x.2).toNat)),
        marked := maskOf ((es.filter fun x => c.b.tilesBad.contains x.2).map Prod.fst),
        store := 1 })

/-- ACCR (R212). -/
def execAccr (sw : Bool) (d a b : Operand) (s : State) : Out :=
  .next (runWord s (fun _ =>
    { sw, uses := [{ Use.dst d 1 with ok := d.isV }, Use.scoped a, Use.src b 1], gd := true })
    (accrEff d a b))

def accwEff (d a b : Operand) (c : Ctx) : Eff :=
  c.accElems a b fun es =>
    .done (c.s.updBlock c.b.id fun blk => blk.setTiles (es.map fun x => (x.2, c.opd x.1 d)))

/-- ACCW (R212). -/
def execAccw (sw : Bool) (d a b : Operand) (s : State) : Out :=
  .next (runWord s (fun _ =>
    { sw, uses := [{ Use.src d 1 with ok := d.isV || d.isZero }, Use.scoped a, Use.src b 1], gd := true,
      ahead := .skip }) (accwEff d a b))

end Sys2Proof.Machine
end

