-- ==== Sys2Proof/Machine/Control.lean ====
section
/-!
DEFINITION. Control words: NOP to TRAP and LAUNCH (R87, R98 to R109), SETMODE (R42), and the CTL
words IDEM, CHKPT, PDIS, PEN and BKPT (R311, R317, R318, R351).
-/

namespace Sys2Proof.Machine

/-! ## Branches (R30, R96 to R101) -/

/-- The target of a word offset, or none when it lies outside the kernel image (R30, R99). -/
def Ctx.target {n : Nat} (c : Ctx) (off : BitVec n) : Option Nat :=
  let t : Int := c.w.ctl.pc + 4 * off.toInt
  if 0 ≤ t && t < c.g.desc.size then some t.toNat else none

/-- The lanes of ACTIVE in which a condition field holds. -/
def Ctx.condLanes (c : Ctx) (inv : Bool) (pr : BitVec 3) : List Nat :=
  c.act.filter fun l => c.w.pred l pr.toNat != inv

/-- Lanes whose condition differs from that of the lowest lane of ACTIVE. -/
def Ctx.differing (c : Ctx) (inv : Bool) (pr : BitVec 3) : Mask :=
  let first := c.w.pred c.lane0 pr.toNat != inv
  maskOf (c.act.filter fun l => (c.w.pred l pr.toNat != inv) != first)

/-- ACTIVE holds every lane, the stack is empty and no loop level is open (R106, R107). -/
def Ctx.plain (c : Ctx) : Bool :=
  c.w.ctl.active == fullMask c.w.width && c.w.ctl.stack.isEmpty && c.w.ctl.loops.isEmpty

def execNop (sw : Bool) (s : State) : Out :=
  .next (runWord s (fun _ => { sw, ahead := .run }) fun c => .done c.s)

def braEff (off : BitVec 19) (c : Ctx) : Eff :=
  match c.target off with
  | none => execFault fcRange
  | some t => .jump c.s t true

/-- BRA (R99). -/
def execBra (sw u : Bool) (off : BitVec 19) (s : State) : Out :=
  .next (runWord s (fun _ => { sw, policy := !u, ahead := .control }) (braEff off))

/-- A path entry for the lanes that take a branch (R99); none when the stack is full. -/
def pushPath (stack : List StackEntry) (target : Nat) (lanes : Mask) : Option (List StackEntry) :=
  let fresh : Option (List StackEntry) :=
    if stack.length ≥ 16 then none else some ({ path := true, pc := target, mask := lanes } :: stack)
  match stack with
  | [] => fresh
  | e :: t =>
    if e.path && e.pc == target then some ({ e with mask := e.mask ||| lanes } :: t) else fresh

def brcEff (u inv : Bool) (pr : BitVec 3) (off : BitVec 19) (c : Ctx) : Eff :=
  match c.target off with
  | none => execFault fcRange
  | some target =>
    let t := maskOf (c.condLanes inv pr)
    let f := c.w.ctl.active &&& ~~~t
    if u && t != 0 && f != 0 then laneFault fcUniformity (c.differing inv pr)
    else if t == 0 then .done c.s
    else if f == 0 then .jump c.s target true
    else match pushPath c.w.ctl.stack target t with
      | none => laneFault fcStack c.w.ctl.active
      | some stack => .done (c.s.updWarp c.r fun w => { w with
          ctl := { w.ctl with stack := stack, active := f } })

/-- BRC (R99). -/
def execBrc (sw u inv : Bool) (pr : BitVec 3) (off : BitVec 19) (s : State) : Out :=
  .next (runWord s (fun _ => { sw, policy := !u, lane := pr != 0 || inv, predRead := if pr != 0 then [pr.toNat] else [],
                               ahead := .control }) (brcEff u inv pr off))

def markEff (off : BitVec 19) (c : Ctx) : Eff :=
  match c.target off with
  | none => execFault fcRange
  | some target =>
    if c.w.ctl.stack.length ≥ 16 then laneFault fcStack c.w.ctl.active
    else .done (c.s.updWarp c.r fun w => { w with
      ctl := { w.ctl with
        stack := { path := false, pc := target, mask := w.ctl.active } :: w.ctl.stack } })

/-- MARK (R100). -/
def execMark (sw : Bool) (off : BitVec 19) (s : State) : Out :=
  .next (runWord s (fun _ => { sw, policy := true }) (markEff off))

def joinEff (c : Ctx) : Eff :=
  match c.w.ctl.stack with
  | [] => laneFault fcStack c.w.ctl.active
  | e :: rest => .jump (c.s.updWarp c.r fun w => { w with
      ctl := { w.ctl with stack := rest, active := e.mask } }) e.pc true

/-- JOIN (R100). -/
def execJoin (sw : Bool) (s : State) : Out :=
  .next (runWord s (fun _ => { sw, policy := true, ahead := .control }) joinEff)

def callEff (inv : Bool) (pr : BitVec 3) (off : BitVec 19) (c : Ctx) : Eff :=
  match c.target off with
  | none => execFault fcRange
  | some target =>
    let t := maskOf (c.condLanes inv pr)
    let f := c.w.ctl.active &&& ~~~t
    if t != 0 && f != 0 then laneFault fcUniformity (c.differing inv pr)
    else if t == 0 then .done c.s
    else if c.w.ctl.depth ≥ 64 then execFault fcStack
    else
      let s := c.s.writeDest c.r (.w 31) 1 [(c.lane0, c.w.ctl.pc + 4)]
      .jump (s.updWarp c.r fun w => { w with ctl := { w.ctl with depth := w.ctl.depth + 1 } })
        target false

/-- CALL (R101). -/
def execCall (sw u inv : Bool) (pr : BitVec 3) (off : BitVec 19) (s : State) : Out :=
  .next (runWord s (fun _ => { sw, policy := !u, lane := pr != 0 || inv, predRead := if pr != 0 then [pr.toNat] else [],
                               ahead := .control, uses := [Use.dst (.w 31) 1] })
    (callEff inv pr off))

def retEff (a : Operand) (c : Ctx) : Eff :=
  let x := (c.one a).toNat
  if c.w.ctl.depth == 0 then execFault fcStack
  else if x % 4 != 0 || c.g.desc.size ≤ x then execFault fcRange
  else .jump (c.s.updWarp c.r fun w => { w with ctl := { w.ctl with depth := w.ctl.depth - 1 } })
    x true

/-- RET (R101). -/
def execRet (sw : Bool) (a : Operand) (s : State) : Out :=
  .next (runWord s (fun _ => { sw, ahead := .control, uses := [{ Use.src a 1 with ok := a.isW }] })
    (retEff a))

/-! ## Loops (R102) -/

/-- A LOOP of count 0 at the last word of an open level transfers to its own e, and that level does not step:
the LOOP's PC := e is taken before the level's step (DESIGN CHOICE, log row 103). -/
def loopEff (d : Operand) (len : BitVec 7) (c : Ctx) : Eff :=
  let n := (c.one d).toNat
  let start := c.w.ctl.pc + 4
  let stop := start + 4 * len.toNat
  if n == 0 then .jump c.s stop false
  else if c.w.ctl.loops.length ≥ 2 then execFault fcStack
  else if c.w.ctl.loops.any fun l => l.stop < stop then execFault fcRange
  else .jump (c.s.updWarp c.r fun w => { w with
      ctl := { w.ctl with loops := { start, stop, left := n } :: w.ctl.loops } }) start false

/-- LOOP (R102). -/
def execLoop (sw : Bool) (d : Operand) (len : BitVec 7) (s : State) : Out :=
  .next (runWord s (fun _ => { sw, codes := Instr.codesOk (.loop sw d len), ahead := .control,
                               uses := [Use.wide d 1] }) (loopEff d len))

/-! ## EXIT (R103) -/

/-- The leading copy's results that the trailing copy has still to take (R354). -/
def Ctx.twinBehind (c : Ctx) : Bool :=
  match (c.s.twin? c.b).bind fun t => t.warp? c.r.slot with
  | some w => (match w.pairReq with
    | some (_, true) => true
    | _ => false)
  | none => false

/-- The last warp of the block retires while a multicast tile is still to land in it (R231). -/
def Ctx.landing (c : Ctx) : Bool :=
  (c.b.warps.all fun w => w.slot == c.r.slot || w.run == .exited)
    && c.s.cmds.any fun x => x.accepted.contains c.b.id && !(x.state == 3 && x.writes == 0)

def exitEff (idx : BitVec 8) (c : Ctx) : Eff :=
  let red := c.g.packet.redundant
  if !c.converged then laneFault fcScopeRound c.w.ctl.active
  else if c.g.desc.layouts.length ≤ idx.toNat then execFault fcRange
  else if c.b.exitIdx.any (· != idx.toNat) then execFault fcScopeRound
  else if !c.w.openBatch.isEmpty && c.w.counterFull .copy then .wait c.s .parked
  else
    let s := c.s.updBlock c.b.id fun b => { b with exitIdx := some idx.toNat }
    let s := if c.w.openBatch.isEmpty then s else s.sealBatch c.r none red
    match s.warp? c.r with
    | none => .leave s
    | some (_, w) =>
      if !(w.pend.isEmpty && w.idle) then .wait s .parked
      else if red && !w.streamsEmpty then .wait (s.updWarp c.r Warp.closeWindows) .parked
      else if red && c.twinBehind then .wait s .parked
      else if idx == 0 && c.landing then .wait s .parked
      else .leave (s.retireWarp c.r idx.toNat c.g.desc)

/-- EXIT (R103). -/
def execExit (sw : Bool) (idx : BitVec 8) (s : State) : Out :=
  .next (runWord s (fun _ => { sw, ahead := .stop }) (exitEff idx))

/-! ## WAITC and YIELD (R94, R104, R219) -/

/-- The class of a class code. -/
def engClass (x : BitVec 3) : EngClass :=
  if x == 0 then .copy else if x == 1 then .matrix else if x == 2 then .spline else .net

/-- What a warp's operations of a class that are newly reported complete leave: the state with their
flags merged and, for COPY and NET, event and report written; or the oldest error (R67, R94, R219). -/
def Ctx.report (c : Ctx) (cls : EngClass) (n : Nat) : State × Option FaultInfo :=
  let ops := c.w.opsOf cls
  let done := ops.take (ops.length - n)
  let ids := done.map EngOp.id
  let flags := done.foldl (fun fl x => fl ||| x.flags) (0 : Flags)
  let s := c.s.updWarp c.r fun w =>
    { (w.orFlags flags) with eng := w.eng.filter fun x => !(x.cls == cls && ids.contains x.id) }
  if cls == .matrix || cls == .spline then (s, none)
  else
    match done.findSome? EngOp.err with
    | some (code, addr) => (s, some { faultAt code 2 with addr := addr })
    | none =>
      let refused := Nat.min 4095 (done.foldl (fun k x => k + x.refused) 0)
      let skipped := done.foldl (fun m x => m ||| x.skipped) (0 : BitVec 4)
      let ev : BitVec 8 := if refused != 0 then evPartial else if skipped != 0 then evSkipped else 0
      (s.updWarp c.r fun w => w.setStatus (statusEvent w.ctl.status ev
        (BitVec.ofNat 12 refused ++ skipped)), none)

def waitcEff (cls : BitVec 3) (n : BitVec 4) (c : Ctx) : Eff :=
  if n.toNat < c.w.counter (engClass cls) then .wait c.s .parked
  else match c.report (engClass cls) n.toNat with
    | (s, some f) => .leave (s.takeFault c.r f c.w.ctl.pc)
    | (s, none) => .done s

/-- WAITC (R104). -/
def execWaitc (sw : Bool) (cls : BitVec 3) (n : BitVec 4) (s : State) : Out :=
  .next (runWord s (fun _ => { sw, codes := Instr.codesOk (.waitc sw cls n), ahead := .stop })
    (waitcEff cls n))

def yieldEff (cls : BitVec 3) (n : BitVec 4) (off : BitVec 17) (c : Ctx) : Eff :=
  match c.target off with
  | none => execFault fcRange
  | some t =>
    if n.toNat < c.w.counter (engClass cls) then .wait c.s (.yielded (engClass cls) n.toNat t)
    else match c.report (engClass cls) n.toNat with
      | (s, some f) => .leave (s.takeFault c.r f c.w.ctl.pc)
      | (s, none) => if t == c.w.ctl.pc + 4 then .done s else .jump s t true

/-- YIELD (R104). -/
def execYield (sw : Bool) (cls : BitVec 3) (n : BitVec 4) (off : BitVec 17) (s : State) : Out :=
  .next (runWord s (fun _ => { sw, codes := Instr.codesOk (.yield sw cls n off), ahead := .stop })
    (yieldEff cls n off))

/-! ## SETMODE (R42, R105) -/

/-- SETMODE (R42). -/
def execSetmode (sw : Bool) (m : BitVec 4) (x : BitVec 12) (s : State) : Out :=
  .next (runWord s (fun _ => { sw, codes := setmodeOk m x, modeRead := true }) fun c =>
    .done (c.s.updWarp c.r fun w => w.setMode (setmodeValue w.ctl.mode m x)))

/-! ## SPLIT and FUSE (R81, R106, R107, R124) -/

/-- Slots of a block that no unretired warp holds; that of a warp that exits is spare from the next
window on, 4 cycles later (R81, R88). -/
def Block.freeSlots (b : Block) (now : Nat) : List Nat :=
  (List.range b.slots).filter fun i => (!b.warps.any fun w => w.slot == i && w.run != .exited)
    && !b.freed.any fun x => x.1 == i && now < x.2 + 4

/-- The waiting flags of FRCP to FCOSPI are merged by a word with S = 1 that does not park (R134). -/
def Warp.mergeLate (w : Warp) (sw : Bool) : Warp :=
  if sw then { (w.orFlags w.lateFlags) with lateFlags := 0 } else w

/-- Lanes that a mark of an octet or lane register names (R312). -/
def Reg.perLane : Reg → Bool
  | .v _ | .o _ | .p _ | .preds => true
  | _ => false

/-- Marks of the registers that half `i` of a warp takes with it, `h` lanes wide (R106, R312). -/
def halfMarks (ms : List Mark) (h i : Nat) : List Mark :=
  (ms.map fun (m : Mark) => if m.reg.perLane then { m with lanes := (m.lanes >>> (h * i)) &&& fullMask h } else m).filter
    fun m => m.lanes != 0

/-- Marks of the registers that a joined warp takes from its two halves, the lower one `h` lanes wide; of the
upper one's other registers only %status goes into the warp (R107, R312). -/
def joinMarks (lo hi : List Mark) (h : Nat) : List Mark :=
  lo ++ (hi.filter fun m => m.reg.perLane || m.reg == .status).map fun (m : Mark) =>
    if m.reg.perLane then { m with lanes := m.lanes <<< h } else m

/-- The part of a sparse store whose keys lie in `[lo, hi)`, renumbered by `add` and `sub`. -/
def sliceKeys {α : Type} (lo hi add sub : Nat) (m : Sparse α) : Sparse α :=
  (m.filter fun x => lo ≤ x.1 && x.1 < hi).map fun x => (x.1 + add - sub, x.2)

/-- Half `i` of a warp that splits, in its new slot (R106). -/
def Warp.half (w : Warp) (slot i : Nat) (now : Nat) : Warp :=
  let h := w.width / 2
  let cut (per : Nat) (m : Sparse Word) : Sparse Word :=
    sliceKeys (per * i) (per * (i + 1)) 0 (per * i) m
  { w with
    slot := slot, width := h, run := .ready, since := now, promoted := false, awake := false, fetch := none, dual := none,
    store := if i == 0 then w.store else { closed := [], num := 0, entries := [] },
    engine := if i == 0 then w.engine else { closed := [], num := 0, entries := [] },
    replay := if i == 0 then w.replay else [], replayed := if i == 0 then w.replayed else 0,
    regs := { w.regs with
      v := cut (64 * h) w.regs.v, o := cut (32 * (h / 8)) w.regs.o,
      p := sliceKeys (h * i) (h * (i + 1)) 0 (h * i) w.regs.p },
    flt := { w.flt.close with skipComp := none, marks := halfMarks w.flt.marks h i },
    ctl := { w.ctl with
      pc := w.ctl.pc + 4, active := fullMask h,
      tOct := if i == 0 then w.ctl.tOct.take (h / 8) else w.ctl.tOct.drop (h / 8) },
    eng := if i == 0 then w.eng else [], openBatch := if i == 0 then w.openBatch else [],
    pdis := if i == 0 then w.pdis else none, tlbis := if i == 0 then w.tlbis else [],
    claimed := if i == 0 then w.claimed else [] }

/-- What a warp has under way goes on under another number. -/
def State.renumber (s : State) (blk old new : Nat) : State :=
  { s with
    cmds := s.cmds.map fun (x : Cmd) => if x.blk == blk && x.slot == old then { x with slot := new } else x
    accs := s.accs.map fun (x : Acc) => if x.blk == blk && x.slot == old then { x with slot := new } else x
    messages := s.messages.map fun (x : Message) =>
      if x.blk == blk && x.slot == old then { x with slot := new } else x
    grids := s.grids.map fun (g : Grid) => if g.nreds.isEmpty then g else
      { g with nreds := g.nreds.map fun (x : NredWait) =>
          if x.blk == blk && x.slot == old then { x with slot := new } else x } }

/-- Lower half 0 keeps the warp's streams, open batch and whatever else is one for the warp. A SPLIT that found
a free slot and parked looks again when its park ends: where another SPLIT has taken the slot meanwhile it
raises RANGE (DESIGN CHOICE, log row 104). -/
def splitEff (sw : Bool) (c : Ctx) : Eff :=
  let free := c.b.freeSlots c.s.now
  if c.w.width == 8 then execFault fcRange
  else if !c.plain then laneFault fcScopeRound c.w.ctl.active
  else if free.isEmpty then execFault fcRange
  else if !(c.w.pend.isEmpty && c.w.results.isEmpty && c.w.idle && (c.s.accsOf c.r).isEmpty) then
    .wait c.s .parked
  else match insertNat c.r.slot free with
    | lo :: hi :: _ =>
      let w := c.w.mergeLate sw
      .leave ((c.s.updBlock c.b.id fun b => { b with
        warps := (b.warps.filter fun x => x.slot != c.r.slot && x.slot != lo && x.slot != hi)
          ++ [w.half lo 0 c.s.now, w.half hi 1 c.s.now] }).renumber c.b.id c.r.slot lo)
    | _ => execFault fcRange

/-- SPLIT (R106). -/
def execSplit (sw : Bool) (s : State) : Out :=
  .next (runWord s (fun _ => { sw, ahead := .stop, closes := .region }) (splitEff sw))

/-- The warp that two join into (R107). -/
def Warp.fused (lo hi : Warp) (now : Nat) : Warp :=
  let w := lo.width
  let put (per : Nat) (a b : Sparse Word) : Sparse Word :=
    sliceKeys 0 per 0 0 a ++ (b.map fun x => (x.1 + per, x.2))
  { lo with
    width := 2 * w, run := .ready, since := now, promoted := false, awake := false, fetch := none, dual := none,
    store := hi.store.entries.foldl Stream.push lo.store,
    engine := hi.engine.entries.foldl Stream.push lo.engine,
    regs := { lo.regs with
      v := put (64 * w) lo.regs.v hi.regs.v, o := put (32 * (w / 8)) lo.regs.o hi.regs.o,
      p := sliceKeys 0 w 0 0 lo.regs.p ++ hi.regs.p.map fun x => (x.1 + w, x.2) },
    lateFlags := lo.lateFlags ||| hi.lateFlags,
    flt := { lo.flt.close with skipComp := none, marks := joinMarks lo.flt.marks hi.flt.marks w },
    ctl := { lo.ctl with
      pc := lo.ctl.pc + 4, active := fullMask (2 * w),
      status := statusOr lo.ctl.status (hi.ctl.status.extractLsb' 0 7),
      tOct := lo.ctl.tOct ++ hi.ctl.tOct },
    eng := lo.eng ++ hi.eng, openBatch := lo.openBatch ++ hi.openBatch,
    tlbis := lo.tlbis ++ hi.tlbis, claimed := lo.claimed ++ hi.claimed }

/-- Slots of a block's warps that have contributed to an open round. -/
def Round.slots (x : Round) (blk : Nat) : List Nat :=
  (x.parts.filter (·.blk == blk)).map Contribution.slot

/-- An open round to which exactly one of two warps has contributed (R124). -/
def Ctx.unevenRound (c : Ctx) (i j : Nat) : Bool :=
  (c.b.rounds ++ (c.g.kSet c.b).rounds ++ (c.g.gSet c.b).rounds).any fun x =>
    (x.slots c.b.id).contains i != (x.slots c.b.id).contains j

/-- A warp of the block is at rest for a FUSE, and resident. Under `redundant` its closed windows are performed; the
entries of its open ones pass to the joined warp (R353, log row 84). -/
def Ctx.atRest (c : Ctx) (w : Warp) : Bool :=
  !w.evicted && w.pend.isEmpty && w.results.isEmpty && w.idle && w.store.closed.isEmpty && w.engine.closed.isEmpty
    && (c.s.accsOf { blk := c.b.id, slot := w.slot }).isEmpty

/-- The partner's FUSE has its own S bit. A partner slot that never held a warp is like one whose warp has
exited: RANGE (DESIGN CHOICE, log row 85). -/
def fuseEff (sw : Bool) (partner : BitVec 5) (c : Ctx) : Eff :=
  let me := c.r.slot
  let p := partner.toNat
  let first := !(match c.w.run with
    | .fuse _ => true
    | _ => false)
  let found := (c.b.warp? p).filter fun w => w.run != .exited
  if first && (p == me || found.isNone) then execFault fcRange
  else if first && !c.plain then laneFault fcScopeRound c.w.ctl.active
  else match found with
    | none => .wait c.s (.fuse p)
    | some w =>
      match w.run with
      | .fuse q =>
        if first && (q != me || w.role != c.w.role || w.width != c.w.width || c.w.width == 64
            || c.unevenRound me p) then execFault fcScopeRound
        else if q != me || !(c.atRest c.w && c.atRest w) then .wait c.s (.fuse p)
        else
          let mine := c.w.mergeLate sw
          let other := w.mergeLate ((w.fetched (c.s.imageOf c.b)).any fun x => x.getLsbD 31)
          let lo := if me < p then mine else other
          let hi := if me < p then other else mine
          let s := c.s.updBlock c.b.id fun b => { b with
            warps := (b.warps.filter fun x => x.slot != me && x.slot != p)
              ++ [lo.fused hi c.s.now] }
          .leave (s.renumber c.b.id hi.slot lo.slot)
      | _ => .wait c.s (.fuse p)

/-- FUSE (R107). -/
def execFuse (sw : Bool) (partner : BitVec 5) (s : State) : Out :=
  .next (runWord s (fun _ => { sw, ahead := .stop, closes := .region }) (fuseEff sw partner))

/-! ## BAR and TRAP (R108, R109) -/

def barEff (scope : BitVec 3) (c : Ctx) : Eff :=
  match c.w.run with
  | .barrier _ true => .done c.s
  | _ =>
    if !c.converged then laneFault fcScopeRound c.w.ctl.active
    else if scope == 4 && !c.g.packet.coResident then execFault fcRange
    else .wait c.s (.barrier scope false)

/-- BAR (R108). -/
def execBar (sw : Bool) (scope : BitVec 3) (s : State) : Out :=
  .next (runWord s (fun _ => { sw, codes := Instr.codesOk (.bar sw scope), ahead := .stop,
                               closes := .region }) (barEff scope))

/-- TRAP (R109). -/
def execTrap (sw : Bool) (code : BitVec 16) (s : State) : Out :=
  .next (runWord s (fun _ => { sw }) fun c =>
    .fault { faultAt fcTrap 1 with detail := code, lanes := c.w.ctl.active })

/-! ## LAUNCH (R87) -/

/-- Every earlier access of the warp is performed, and every write that it can see (R87, R193,
R280). -/
def Ctx.released (c : Ctx) : Bool :=
  (c.s.accsOf c.r).isEmpty && (c.s.visibleWrites c.r c.b.core).isEmpty && (c.heldIds false).isEmpty
    && !c.s.messages.any fun m => m.blk == c.b.id && m.slot == c.r.slot

def launchEff (a : Operand) (c : Ctx) : Eff :=
  let va := c.pair64 a
  if va.toNat % 64 != 0 then execFault fcAlignment
  else
    let (t, s) := c.s.translate c.b.core c.ctx va .read
    let t := match t with
      | .remote _ _ => .permission
      | t => t
    match checkAddrs 64 .read (some 0) [{ lane := c.lane0, va, t }] with
    | .bad f => .fault f
    | .page ps f => .page ps f s
    | .good =>
      let c := { c with s := s }
      if (c.s.vf c.g.vf).devq.length ≥ deviceQueue || !c.released then .wait c.s .parked
      else c.paired { op := 0x7C, args := [(0, va, 0)] } none 0 fun c =>
        if c.shadow then .done c.s
        else .done (c.s.updVf c.g.vf fun f => { f with
            devq := f.devq ++ [(va, c.ctx)], devTail := (f.devTail + 1) % deviceQueue })

/-- LAUNCH (R87). -/
def execLaunch (sw : Bool) (a : Operand) (s : State) : Out :=
  .next (runWord s (fun _ => { sw, uses := [Use.wide a 2], ahead := .skip, closes := .unlessPaired })
    (launchEff a))

/-! ## IDEM, CHKPT, PDIS, PEN, BKPT -/

def idemEff (c : Ctx) : Eff :=
  if !c.converged then laneFault fcScopeRound c.w.ctl.active
  else
    let x : Restart :=
      { mode := c.w.ctl.mode, draw := c.w.ctl.draw, depth := c.w.ctl.depth, loops := c.w.ctl.loops,
        stack := c.w.ctl.stack, winStore := c.w.store.num, winEngine := c.w.engine.num,
        first := c.s.nextId, logged := c.w.replayed }
    .done (c.s.updWarp c.r fun w => { w with
      flt := { w.flt with
        ckpc := BitVec.ofNat 32 (w.ctl.pc + 4), retry := 0, restart := some x, chkpt := none } })

/-- IDEM (R311). -/
def execIdem (sw : Bool) (s : State) : Out :=
  .next (runWord s (fun _ => { sw, ahead := .skip }) idemEff)

/-- CHKPT: outside `redundant` the record is written at once; under it both copies take it together. -/
def chkptEff (c : Ctx) : Eff :=
  let take (s : State) : Eff :=
    .done (s.takeCheckpoint c.b c.r (c.w.ctl.pc + 4) c.s.nextId)
  if !c.converged then laneFault fcScopeRound c.w.ctl.active
  else if !(c.w.pend.isEmpty && c.w.results.isEmpty && c.w.idle) then .wait c.s .parked
  else if !c.g.packet.redundant then take c.s
  else c.meet false take

/-- CHKPT (R351). -/
def execChkpt (sw : Bool) (s : State) : Out :=
  .next (runWord s (fun _ => { sw, ahead := .stop }) chkptEff)

/-- Cycles of a pre-emption-disabled region (R317). -/
def pdisCycles : Nat := 2 ^ 20

/-- It parks while a pre-emption of the core, or an in-field test of its cluster, is pending. -/
def pdisEff (c : Ctx) : Eff :=
  if c.w.pdis.isSome then execFault fcRange
  else if (c.s.core c.b.core).wanted || c.s.dev.testWanted.contains (clusterOf c.b.core) then
    .wait c.s .parked
  else .done (c.s.updWarp c.r fun w => { w with pdis := some (c.s.now + pdisCycles) })

/-- PDIS (R317). -/
def execPdis (sw : Bool) (s : State) : Out :=
  .next (runWord s (fun _ => { sw, ahead := .skip, closes := .region }) pdisEff)

def penEff (c : Ctx) : Eff :=
  if c.w.pdis.isNone then execFault fcRange
  else .done (c.s.updWarp c.r fun w => { w with pdis := none })

/-- PEN (R317). -/
def execPen (sw : Bool) (s : State) : Out :=
  .next (runWord s (fun _ => { sw, ahead := .skip, closes := .region }) penEff)

/-- BKPT (R318). -/
def execBkpt (sw : Bool) (code : BitVec 8) (s : State) : Out :=
  .next (runWord s (fun _ => { sw }) fun c =>
    .fault { faultAt fcBreakpoint 1 with detail := code.setWidth 16, lanes := c.w.ctl.active })

/-! ## ILLEGAL_WORD (R51) -/

/-- ILLEGAL_WORD (R51): a word that decodes to no instruction. -/
def execIllegalWord (_w : Word) (s : State) : Out :=
  .next (runWord s (fun _ => { sw := false, codes := false }) fun c => .done c.s)

end Sys2Proof.Machine
end

