-- ==== Sys2Proof/Machine/DeviceMemory.lean ====
section
/-!
DEFINITION. Device memory: LD, ST, LDW, STW, the atomics, BIND, UNBIND, ACQ, REL, FENCE, DUALST and
PREF (R178 to R198).
-/

namespace Sys2Proof.Machine

/-! ## Addresses and accesses -/

/-- Translates and checks the addresses of a word, before any of them is used (R184). `all` names the
lanes that a fault reports where it is not those of the addresses. -/
def Ctx.reach (c : Ctx) (w : Nat) (acc : Access) (all : Option Mask) (as : List (Nat × Dword))
    (k : Ctx → List LaneAddr → Eff) : Eff :=
  let (ts, s) := c.s.translateAll c.b.core c.ctx acc as
  match checkAddrs w acc all ts with
  | .bad f => .fault f
  | .page ps f => .page ps f s
  | .good => k { c with s := s } ts

/-- Lane addresses of a base pair and a scaled offset (R31, R184). -/
def Ctx.addrs (c : Ctx) (a : Operand) (off : Int) : List (Nat × Dword) :=
  c.lanes.map fun l => (l, BitVec.ofNat 64 (c.val l a 2) + BitVec.ofInt 64 off)

/-- An access of the word at a translated address. -/
def Ctx.acc (c : Ctx) (kind : AccKind) (x : LaneAddr) (width data : Nat) (result : Option Nat) : Acc :=
  { id := 0, grid := c.g.id, blk := c.b.id, slot := c.r.slot, core := c.b.core, ctx := c.ctx, kind,
    va := x.va,
    pa := match x.t with
      | .phys pa => pa
      | _ => 0,
    remote := match x.t with
      | .remote _ _ => true
      | _ => false,
    width, data := BitVec.ofNat 128 data, lane := x.lane, result, cmd := none, twin := none,
    pc := c.w.ctl.pc, placed := false, after := [], gen := none, waits := false, host := none,
    far := false, seen := false }

/-- The warp's count of outstanding acknowledgements: of its stores, DUALST halves and non-returning atomics,
and of its REL increments and TCPX writes (R195, R233; which others count is DESIGN CHOICE, log row 105). -/
def State.unacked (s : State) (r : WarpRef) : Nat :=
  ((s.remoteWrites r).filter fun a => a.result.isNone).length

/-- The new remote writes keep the count of acknowledgements within 255 (R195). -/
def Ctx.ackRoom (c : Ctx) (ts : List LaneAddr) : Bool :=
  let n := (ts.filter fun x => (c.acc .store x 0 0 none).remote).length
  n == 0 || c.s.unacked c.r + n ≤ 255

/-- Whether a line of a core's read cache holds an address (R181). -/
def State.lineIn (s : State) (core pa : Nat) : Bool := (s.core core).cache.any (·.pa == lineOf pa)

/-- A load may read a present line at once: no earlier access of its warp holds it but stores that
the line holds (R181, R183). -/
def State.hits (s : State) (a : Acc) : Bool :=
  !a.remote && s.lineIn a.core a.pa
    && (s.accsOf { blk := a.blk, slot := a.slot }).all fun x =>
      !x.holds a false || (x.placed && x.kind == .store)

/-- Issues one lane's load. -/
def State.issueLoad (s : State) (a : Acc) : State :=
  if s.hits a then s.performLoad a
  else
    let own := (s.accsOf { blk := a.blk, slot := a.slot }).any fun x =>
      x.kind.writes && x.sameLine a && !a.remote
    s.issueAcc { a with placed := own } false []

/-- Earlier loads of a store's warp that are still out and share a byte with it read at their slice, where the
store is behind them, and not in the line that holds it already (R183). -/
def State.readBehind (s : State) (a : Acc) : State :=
  { s with accs := s.accs.map fun (x : Acc) =>
      if x.blk == a.blk && x.slot == a.slot && x.cmd.isNone && x.kind == .load && x.overlaps a then
        { x with placed := true } else x }

/-- Issues one lane's store; a present line takes its bytes at once (R181). -/
def State.issueStore (s : State) (a : Acc) (dual : Bool) (extra : List Nat) : State :=
  if !a.remote && s.lineIn a.core a.pa then
    let s := (s.readBehind a).updCore a.core fun c => { c with
      cache := c.cache.map fun l => l.patch a.pa (leBytes a.width a.data.toNat) }
    s.issueAcc { a with placed := true } dual extra
  else s.issueAcc a dual extra

/-! ## LD, LDW (R184) -/

/-- A load into `d`, of addresses that allow `acc`. -/
def loadBy (acc : Access) (d a : Operand) (off : BitVec 8) (w regs : Nat) (c : Ctx) : Eff :=
  c.reach w acc c.allLanes (c.addrs a (off.toInt * w)) fun c ts =>
    let id := c.s.nextId
    let s := if ts.isEmpty then c.s
      else c.s.pushResult c.r { c.result c.s (some d) regs with need := ts.length }
    .done (ts.foldl (fun s x => s.issueLoad (c.acc .load x w 0 (some id))) s)

def loadEff (d a : Operand) (off : BitVec 8) (w regs : Nat) (c : Ctx) : Eff := loadBy .read d a off w regs c

/-- The lanes of a store or atomic that run-ahead discards are performed as loads into no register: what they
leave are cache lines and TLB entries (R198, R299). -/
def Ctx.touch (c : Ctx) (w : Nat) (as : List (Nat × Dword)) : Eff :=
  c.reach w .write c.allLanes as fun c ts =>
    .done (ts.foldl (fun s x => s.issueLoad (c.acc .load x w 0 none)) c.s)

/-- LD (R184). -/
def execLd (sw : Bool) (d a : Operand) (off : BitVec 8) (s : State) : Out :=
  .next (runWord s (fun m =>
    { sw, uses := [Use.dst d (tyRegs (tyOf m)), Use.base a], modeOk := tyAny.contains (tyOf m),
      gd := true, modeRead := true, roles := [.copy, .vector] }) fun c =>
    let n := tyRegs (tyOf c.mode)
    loadEff d a off (4 * n) n c)

/-- LDW (R184). -/
def execLdw (sw : Bool) (d a : Operand) (off : BitVec 8) (s : State) : Out :=
  .next (runWord s (fun _ => { sw, uses := [Use.dst d 4, Use.base a], gd := true, roles := [.copy, .vector] })
    (loadEff d a off 16 4))

/-! ## ST, STW (R184) -/

/-- A write of the word goes into the store stream (R352), behind the accesses of its warp that hold it
(R183, R193). -/
def Ctx.pushEntry (c : Ctx) (w : Nat) (s : State) (x : LaneAddr × Nat) : State :=
  let a := c.acc .store x.1 w x.2 none
  let e : StreamEntry :=
    { id := s.nextId, after := ((s.accsOf c.r).filter fun y => y.holds a false).map Acc.id, addr := x.1.va,
      lower := false, width := w, data := BitVec.ofNat 128 x.2, cmd := none, pc := c.w.ctl.pc,
      pa := if a.remote then none else some a.pa }
  s.fresh.updWarp c.r fun w' => { w' with store := w'.store.push e }

/-- Makes the writes of a word, in order: into the store stream under `redundant` (R352), else as
accesses; those of `second` leave the core after those of `first` (R196, R340). A DUALST is remembered until the warp
issues its next word: it may have to be issued again (R196). -/
def Ctx.store (c : Ctx) (first second : List (LaneAddr × Nat)) (w : Nat) : Eff :=
  let writes := first ++ second
  let dual := !second.isEmpty
  if c.g.packet.redundant then
    .done (writes.foldl (c.pushEntry w) c.s)
  else if !c.ackRoom (writes.map Prod.fst) then .wait c.s .parked
  else
    let put (extra : List Nat) (s : State) (x : LaneAddr × Nat) : State :=
      s.issueStore (c.acc .store x.1 w x.2 none) dual extra
    let s := first.foldl (put []) c.s
    let ids := (List.range first.length).map fun i => c.s.nextId + i
    let transposed := (List.range second.length).map fun i => c.s.nextId + first.length + i
    let s := second.foldl (put ids) s
    .done (if dual then s.updWarp c.r fun w' => { w' with dual := some (c.w.ctl.pc, c.w.ctl.loops, ids, transposed) }
      else s)

/-- The data source of a store of `n` registers (R184). -/
def Use.data (d : Operand) (n : Nat) : Use :=
  { Use.src d n with ok := if n == 1 then d.isReg || d.isZero else d.group n }

/-- The word adds `k` entries to its warp's streams under `redundant`, and lacks the slack for them: it
stalls before anything else of it (R360). -/
def Ctx.noSlack (c : Ctx) (k : Nat) : Bool := c.g.packet.redundant && !c.w.slackFor c.b.trail k

def storeEff (d a : Operand) (off : BitVec 8) (w regs : Nat) (c : Ctx) : Eff :=
  if c.ahead then c.touch w (c.addrs a (off.toInt * w))
  else if c.noSlack c.lanes.length then .wait c.s .parked
  else c.reach w .write c.allLanes (c.addrs a (off.toInt * w)) fun c ts =>
    c.store (ts.map fun x => (x, c.val x.lane d regs)) [] w

/-- ST (R184). -/
def execSt (sw : Bool) (d a : Operand) (off : BitVec 8) (s : State) : Out :=
  .next (runWord s (fun m =>
    { sw, uses := [Use.data d (tyRegs (tyOf m)), Use.base a], modeOk := tyAny.contains (tyOf m),
      gd := true, modeRead := true, roles := [.copy, .vector], ahead := .store }) fun c =>
    let n := tyRegs (tyOf c.mode)
    storeEff d a off (4 * n) n c)

/-- STW (R184). -/
def execStw (sw : Bool) (d a : Operand) (off : BitVec 8) (s : State) : Out :=
  .next (runWord s (fun _ =>
    { sw, uses := [Use.data d 4, Use.base a], gd := true, roles := [.copy, .vector],
      ahead := .store })
    (storeEff d a off 16 4))

def dualstEff (d a b : Operand) (c : Ctx) : Eff :=
  let n := tyRegs (tyOf c.mode)
  let both := ((c.addrs a 0).zip (c.addrs b 0)).flatMap fun x => [x.1, x.2]
  if c.ahead then c.touch (4 * n) both
  else if c.noSlack (2 * c.lanes.length) then .wait c.s .parked
  else c.reach (4 * n) .write c.allLanes both fun c ts =>
    let half (k : Nat) := (ts.zipIdx.filter fun x => x.2 % 2 == k).map fun x =>
      (x.1, c.val x.1.lane d n)
    c.store (half 0) (half 1) (4 * n)

/-- DUALST (R196). -/
def execDualst (sw : Bool) (d a b : Operand) (s : State) : Out :=
  .next (runWord s (fun m =>
    { sw, uses := [Use.data d (tyRegs (tyOf m)), Use.base a, Use.base b],
      modeOk := tyAny.contains (tyOf m), gd := true, modeRead := true, roles := [.copy, .vector],
      closes := .unlessPaired, ahead := .store }) (dualstEff d a b))

/-! ## The atomics (R185) -/

/-- The operand of an atomic: two values for ACAS. -/
def atomicRegs (fn : RemoteKind) (n : Nat) : Nat := if fn == .cas then 2 * n else n

/-- Opcode of an atomic, for its pair-performed request (R354). -/
def atomicOp (fn : RemoteKind) : Nat :=
  match fn with
  | .add => 0x50
  | .min => 0x51
  | .max => 0x52
  | .and => 0x53
  | .or => 0x54
  | .xor => 0x55
  | .exch => 0x56
  | _ => 0x57

/-- Performs the atomic of each lane in ascending order; a present line is invalidated at issue, of the core
of the trailing copy too. -/
def Ctx.atomics (c : Ctx) (fn : RemoteKind) (d b : Operand) (ts : List LaneAddr) : Eff :=
  let n := tyRegs (tyOf c.mode)
  let ret := !d.isZero
  let id := c.s.nextId
  let s := if ret then
      c.s.pushResult c.r { c.result c.s (some d) n with
        need := if c.shadow then 0 else ts.length, ready := !c.shadow }
    else c.s
  .done (ts.foldl (fun s x =>
    let a := c.acc (.atomic fn (modeTy c.mode)) x (4 * n) (c.val x.lane b (atomicRegs fn n))
      (if ret then some id else none)
    let s := if a.remote then s else s.invalidate a.core fun l => l.pa == lineOf a.pa
    if c.shadow then s else s.issueAcc a false []) s)

/-- As the faulting word of a run-ahead, its lanes that translate are performed as loads (R299). -/
def atomicEff (fn : RemoteKind) (d a b : Operand) (c : Ctx) : Eff :=
  let n := tyRegs (tyOf c.mode)
  if c.ahead then (if d.isZero then c.touch (4 * n) (c.addrs a 0) else loadBy .write d a 0 (4 * n) n c)
  else c.reach (4 * n) .write c.allLanes (c.addrs a 0) fun c ts =>
    if ts.isEmpty then .done c.s
    else if d.isZero && !c.ackRoom ts then .wait c.s .parked
    else
      let req : PairReq :=
        { op := 16 * atomicOp fn + tyOf c.mode,
          args := ts.map fun x =>
            (x.lane, x.va, BitVec.ofNat 128 (c.val x.lane b (atomicRegs fn n))) }
      c.paired req (if d.isZero then none else some d) n fun c => c.atomics fn d b ts

def atomicEntry (sw : Bool) (m : Word) (fn : RemoteKind) (tys : List Nat) (d a b : Operand) : Entry :=
  let n := tyRegs (tyOf m)
  let k := atomicRegs fn n
  { sw, uses := [{ Use.dst d n with ok := d.isZero || (Use.dst d n).ok }, Use.base a,
      { Use.src b k with ok := if k == 1 then b.known else b.group k }],
    modeOk := tys.contains (tyOf m), gd := true, modeRead := true, roles := [.copy, .vector],
    closes := .unlessPaired, ahead := .atomic }

/-- AADD (R185). -/
def execAadd (sw : Bool) (d a b : Operand) (s : State) : Out :=
  .next (runWord s (fun m => atomicEntry sw m .add [0, 1, 2, 3, 4, 5, 6, 7] d a b)
    (atomicEff .add d a b))

/-- AMIN (R185). -/
def execAmin (sw : Bool) (d a b : Operand) (s : State) : Out :=
  .next (runWord s (fun m => atomicEntry sw m .min [0, 1, 2, 3, 4, 5] d a b) (atomicEff .min d a b))

/-- AMAX (R185). -/
def execAmax (sw : Bool) (d a b : Operand) (s : State) : Out :=
  .next (runWord s (fun m => atomicEntry sw m .max [0, 1, 2, 3, 4, 5] d a b) (atomicEff .max d a b))

/-- AAND (R185). -/
def execAand (sw : Bool) (d a b : Operand) (s : State) : Out :=
  .next (runWord s (fun m => atomicEntry sw m .and tyAny d a b) (atomicEff .and d a b))

/-- AOR (R185). -/
def execAor (sw : Bool) (d a b : Operand) (s : State) : Out :=
  .next (runWord s (fun m => atomicEntry sw m .or tyAny d a b) (atomicEff .or d a b))

/-- AXOR (R185). -/
def execAxor (sw : Bool) (d a b : Operand) (s : State) : Out :=
  .next (runWord s (fun m => atomicEntry sw m .xor tyAny d a b) (atomicEff .xor d a b))

/-- AXCH (R185). -/
def execAxch (sw : Bool) (d a b : Operand) (s : State) : Out :=
  .next (runWord s (fun m => atomicEntry sw m .exch tyAny d a b) (atomicEff .exch d a b))

/-- ACAS (R185). -/
def execAcas (sw : Bool) (d a b : Operand) (s : State) : Out :=
  .next (runWord s (fun m => atomicEntry sw m .cas tyAny d a b) (atomicEff .cas d a b))

/-! ## BIND, UNBIND (R187 to R189) -/

/-- ALIGNMENT of a sync object or a range, with its address and no lanes. -/
def misaligned (a : Dword) : Eff := .fault { faultAt fcAlignment 1 with addr := a }

/-- The binding record at four warp registers (R187): base, length, and the last register. -/
def Ctx.bindRecord (c : Ctx) (b : Operand) : Dword × Nat × Word :=
  (c.pair64 b, (c.one (b.nth 2)).toNat, c.one (b.nth 3))

/-- Bindings that a context holds. -/
def State.bindingsOf (s : State) (ctx : Nat) : Nat :=
  (s.blocks.filter fun b => s.ctxOf b == ctx).foldl (fun n b => n + b.bindings.length) 0

def bindEff (a b : Operand) (c : Ctx) : Eff :=
  let o := c.pair64 a
  let (base, len, last) := c.bindRecord b
  let x : Binding := { obj := o, base, len, system := last.getLsbD 0 }
  if o.toNat % 8 != 0 then misaligned o
  else if base.toNat % 128 != 0 then misaligned base
  else if last.extractLsb' 1 31 != 0 || len % 128 != 0 || len < 128 || 2 ^ 31 < len
      || ((o.getLsbD 63 || base.getLsbD 63) && !x.system)
      || c.b.bindings.any (fun y => y.obj == o && y.system != x.system)
      || (!c.b.bindings.contains x
          && (64 ≤ c.b.bindings.length || 4096 ≤ c.s.bindingsOf c.ctx)) then execFault fcRange
  else
    c.reach 8 .write (some 0) [(c.lane0, o)] fun c _ =>
      c.reach 1 .present (some 0)
        [(c.lane0, base), (c.lane0, base + BitVec.ofNat 64 (len - 1))] fun c _ =>
        .done (if c.b.bindings.contains x then c.s
          else c.s.updBlock c.b.id fun b => { b with bindings := b.bindings ++ [x] })

/-- BIND (R189). -/
def execBind (sw : Bool) (a b : Operand) (s : State) : Out :=
  .next (runWord s (fun _ =>
    { sw, uses := [Use.wide a 2, { Use.wide b 4 with ok := b.isW && b.index % 4 == 0 }],
      ahead := .skip }) (bindEff a b))

def unbindEff (a : Operand) (c : Ctx) : Eff :=
  let o := c.pair64 a
  if o.toNat % 8 != 0 then misaligned o
  else .done (c.s.updBlock c.b.id fun b => { b with bindings := b.bindings.filter (·.obj != o) })

/-- UNBIND (R189). -/
def execUnbind (sw : Bool) (a : Operand) (s : State) : Out :=
  .next (runWord s (fun _ => { sw, uses := [Use.wide a 2], ahead := .skip }) (unbindEff a))

/-! ## REL, ACQ (R190, R191) -/

/-- A write reaches a range. -/
def Acc.within (a : Acc) (x : Binding) : Bool :=
  a.va.toNat < x.base.toNat + x.len && x.base.toNat < a.va.toNat + a.width

/-- P of a REL on `o` (R190). -/
def Ctx.relSet (c : Ctx) (o : Dword) : List Nat :=
  let bound := c.b.bindings.filter (·.obj == o)
  let sys := bound.any Binding.system
  let own := (c.s.accsOf c.r).filter fun a => a.kind.writes && !(a.remote && sys) && bound.any a.within
  let far := if sys then c.s.remoteWrites c.r else []
  (own ++ far ++ c.s.visibleWrites c.r c.b.core).map Acc.id ++ c.heldIds true

/-- A REL on a remote object adds to the count of acknowledgements, and parks while that is 255 (DESIGN CHOICE,
log row 105). -/
def relEff (a : Operand) (c : Ctx) : Eff :=
  let o := c.pair64 a
  if o.toNat % 8 != 0 then misaligned o
  else c.reach 8 .write (some 0) [(c.lane0, o)] fun c ts =>
    if !c.ackRoom ts then .wait c.s .parked
    else c.paired { op := 0x5B, args := [(0, o, 0)] } none 0 fun c =>
      if c.shadow then .done c.s
      else .done (ts.foldl (fun s x =>
        s.issueAcc (c.acc .relInc x 8 0 none) false (c.relSet o)) c.s)

/-- REL (R190). -/
def execRel (sw : Bool) (a : Operand) (s : State) : Out :=
  .next (runWord s (fun _ =>
    { sw, uses := [Use.wide a 2], closes := .unlessPaired, ahead := .skip }) (relEff a))

/-- The value goes to every lane of ACTIVE, so it always agrees. -/
def acqEff (d a : Operand) (c : Ctx) : Eff :=
  let o := c.pair64 a
  if o.toNat % 8 != 0 then misaligned o
  else c.reach 8 .read (some 0) [(c.lane0, o)] fun c ts =>
    let id := c.s.nextId
    let s := c.s.pushResult c.r { c.result c.s (some d) 2 with
      need := ts.length, uni := true, judged := false, lanes := maskOf c.act }
    .done (ts.foldl (fun s x => s.issueAcc (c.acc .acq x 8 0 (some id)) false []) s)

/-- ACQ (R191). -/
def execAcq (sw : Bool) (d a : Operand) (s : State) : Out :=
  .next (runWord s (fun _ =>
    { sw, uses := [Use.dst d 2, Use.wide a 2], closes := .region, ahead := .poison }) (acqEff d a))

/-! ## FENCE (R193) -/

/-- The accesses that a fence waits for, messages of the warp among its writes (R280). -/
def Ctx.fenceSet (c : Ctx) (rel acq sys : Bool) : List Nat :=
  let own := (c.s.accsOf c.r).filter fun a =>
    (acq && a.kind.reads) || (rel && !a.isFence && !(a.remote && a.kind.writes))
  let far := if rel && sys then (c.s.remoteWrites c.r).filter fun a => !own.contains a else []
  let seen := if rel then c.s.visibleWrites c.r c.b.core else []
  let sent := if rel then c.s.messages.filter fun m => m.blk == c.b.id && m.slot == c.r.slot else []
  (own ++ far ++ seen).map Acc.id ++ sent.map Message.id ++ if rel then c.heldIds true else []

/-- A release at device or system scope waits for the warp's TLBIs (R302); under `redundant` the
windows close once the engine has made the entries of earlier commands (R353). -/
def fenceEff (scope : BitVec 3) (kind : BitVec 2) (c : Ctx) : Eff :=
  let rel := kind != 0
  let acq := kind != 1
  let sys := scope == 4
  let wide := acq && 2 ≤ scope.toNat
  let s := if rel && c.g.packet.redundant then c.s.updWarp c.r Warp.closeWindows else c.s
  let set := c.fenceSet rel acq sys
  if rel && ((3 ≤ scope.toNat && !c.w.tlbis.isEmpty) || (c.g.packet.redundant && c.s.producing c.r))
  then .wait c.s .parked
  else if set.isEmpty then .done (if wide then s.invalidate c.b.core fun _ => true else s)
  else
    let x : LaneAddr := { lane := 0, va := 0, t := .phys 0 }
    .done (s.issueAcc { c.acc (.fence rel acq sys) x 0 0 none with placed := wide } false set)

/-- FENCE (R193). -/
def execFence (sw : Bool) (scope : BitVec 3) (kind : BitVec 2) (s : State) : Out :=
  .next (runWord s (fun _ =>
    { sw, codes := Instr.codesOk (.fence sw scope kind), ahead := .skip }) (fenceEff scope kind))

/-! ## PREF (R197) -/

/-- One lane's prefetch into the read cache; nothing faults. -/
def State.prefetch (s : State) (core ctx : Nat) (rc : Bool) (a : Dword) : State :=
  if a.getLsbD 63 then s
  else match s.translate core ctx a .read with
    | (.phys pa, t) =>
      if Config.dramBytes < lineOf pa + 128 then t
      else
        -- the slice reads the line: tags are exchanged, and it corrects or logs what it meets (R325, R344, R347)
        let t := t.noteLine core ctx a.toNat pa
        let u := (t.exchangeTags core pa).readSpan ctx (lineOf pa) 128
        if !rc || t.lineIn core pa || t.spanBad (lineOf pa) 128 then u
        else u.fetchLine core ctx a.toNat pa
    | (_, t) => t

def prefEff (slice : Bool) (a : Operand) (off : BitVec 8) (c : Ctx) : Eff :=
  .done ((c.addrs a (off.toInt * 128)).foldl (fun s x =>
    s.prefetch c.b.core c.ctx (!slice) (x.2 &&& ~~~127#64)) c.s)

/-- PREF (R197). -/
def execPref (sw : Bool) (fn : Bool) (a : Operand) (off : BitVec 8) (s : State) : Out :=
  .next (runWord s (fun _ => { sw, uses := [Use.base a], gd := true, roles := [.copy, .vector] })
    (prefEff fn a off))

end Sys2Proof.Machine
end

