-- ==== Sys2Proof/Machine/Copies.lean ====
section
/-!
DEFINITION. The words of the copy engine and of the stage rings: LCP, TCP, TCPX, SEAL, STGA and STGW
(R217 to R239).
-/

namespace Sys2Proof.Machine

/-! ## Commands (R217, R218, R222) -/

/-- A command as it issues. -/
def Ctx.cmd (c : Ctx) (id : Nat) (kind : CmdKind) : Cmd :=
  { id, blk := c.b.id, slot := c.r.slot, core := c.b.core, ctx := c.ctx, kind, state := 0, target := 0,
    next := 0, accepted := [], skipped := 0, sheaf := none, err := none, refused := 0, writes := 0, part := [] }

/-- A command more would be the warp's 65th that has issued and not ended (R222). -/
def Ctx.storeFull (c : Ctx) : Bool :=
  64 ≤ (c.s.cmds.filter fun x => x.blk == c.b.id && x.slot == c.r.slot && x.state != 3).length

/-- Adds a command to the open batch (R218); under gd = ~p0 a full one raises nothing (R36). -/
def Ctx.join (c : Ctx) (off : Bool) (kind : CmdKind) : Eff :=
  if 255 ≤ c.w.openBatch.length then (if off then .done c.s else execFault fcRange)
  else if c.storeFull then .wait c.s .parked
  else
    let id := c.s.nextId
    .done (({ c.s.fresh with cmds := c.s.cmds ++ [c.cmd id kind] }).updWarp c.r fun w =>
      { w with openBatch := w.openBatch ++ [id] })

/-! ## LCP (R224) -/

/-- An address fails R178, which asks no translation. -/
def badForm (a : Dword) : Option (BitVec 8) :=
  if a.getLsbD 63 then
    if Config.devices ≤ (a.extractLsb' 50 13).toNat then some fcRange else none
  else if a.extractLsb' 57 6 != 0 then some fcPage else none

def lcpEff (out : Bool) (d a : Operand) (size : BitVec 2) (c : Ctx) : Eff :=
  let n := 4 * 2 ^ size.toNat
  let ls := c.lanes.map fun l => (l, (c.opd l d).toNat, BitVec.ofNat 64 (c.val l a 2))
  let fail (code : BitVec 8) (bad : List (Nat × Nat × Dword)) (f : Nat × Nat × Dword → Dword) : Eff :=
    .fault { faultAt code 1 with
      addr := ((bad.head?).map f).getD 0, lanes := c.allLanes.getD (maskOf (bad.map Prod.fst)) }
  let odd := ls.filter fun x => x.2.1 % n != 0 || x.2.2.toNat % n != 0
  let far := ls.filter fun x => c.b.scratchSize < x.2.1 + n
  let wild := ls.filter fun x => (badForm x.2.2).isSome
  let worst := if wild.any fun x => badForm x.2.2 == some fcRange then fcRange else fcPage
  if !odd.isEmpty then
    fail fcAlignment odd fun x => if x.2.1 % n != 0 then BitVec.ofNat 64 x.2.1 else x.2.2
  else if !far.isEmpty then fail fcRange far fun x => BitVec.ofNat 64 x.2.1
  else if !wild.isEmpty then
    -- RANGE before PAGE, at the first lane of the code; every lane that fails R178 is named (R184)
    fail worst wild fun _ => (((wild.find? fun x => badForm x.2.2 == some worst).map fun x => x.2.2).getD 0)
  else c.join c.off (.lcp out n ls)

def lcpEntry (sw : Bool) (d a : Operand) (size : BitVec 2) : Entry :=
  { sw, codes := size.toNat ≤ 2, uses := [Use.localBase d, Use.base a], gd := true, roles := [.copy],
    closes := .unlessPaired, ahead := .skip }

/-- LCP_IN (R224). -/
def execLcpIn (sw : Bool) (d a : Operand) (size : BitVec 2) (s : State) : Out :=
  .next (runWord s (fun _ => lcpEntry sw d a size) (lcpEff false d a size))

/-- LCP_OUT (R224). -/
def execLcpOut (sw : Bool) (d a : Operand) (size : BitVec 2) (s : State) : Out :=
  .next (runWord s (fun _ => lcpEntry sw d a size) (lcpEff true d a size))

/-! ## TCP (R225 to R231) -/

/-- Item 1 of R226: reserved bits, codes, zero sizes, alignment and the form of the base. A tile of more
than 1,024 rows or elements (R225 allows none, R226 names no check) is refused here too (DESIGN CHOICE, log
row 90). -/
def recordPlain (x : Nat → Word) (r : TRec) : Bool :=
  (x 5).extractLsb' 27 5 == 0 && (x 5).extractLsb' 11 5 == 0 && (x 7).extractLsb' 23 9 == 0
    && r.fmt ≤ 9 && r.dim1 != 0 && r.dim0 != 0 && 1 ≤ r.h && r.h ≤ 1024 && 1 ≤ r.wd && r.wd ≤ 1024
    && r.base.toNat % 16 == 0 && r.stride % 16 == 0 && (badForm r.base).isNone

/-- Item 2 of R226. -/
def TRec.grain (r : TRec) : Bool :=
  (r.fmt != 4 || (r.x0 % 2 == 0 && r.wd % 2 == 0)) && (r.fmt != 7 || (r.x0 % 4 == 0 && r.wd % 4 == 0))
    && (!r.transpose || 8 ≤ r.e)

/-- The conditions of R228 on a sparse record. -/
def TRec.sparseOk (r : TRec) (out : Bool) : Bool :=
  [0, 1, 2, 3, 5, 6].contains r.fmt && !out && r.dim0 % 8 == 0 && r.x0 % 8 == 0 && r.wd % 8 == 0
    && r.mask == 0

/-- Item 3 of R226: the local side, by kind. -/
def TRec.localFault (r : TRec) (b : Block) : Option (BitVec 8) :=
  let range (ok : Bool) : Option (BitVec 8) := if ok then none else some fcRange
  match r.kind with
  | 0 =>
    range (r.scratchBase % 16 == 0 && r.rowBytes b ≤ r.scratchPitch b
      && r.scratchBase + (r.rows - 1) * r.scratchPitch b + r.rowBytes b ≤ b.scratchSize)
  | 1 => match b.resv? r.locw with
    | none => some fcHandle
    | some x =>
      range (!r.locw.getLsbD 31 && (r.fmt == x.etype || r.fmt == 9)
        && handleOffset r.locw + (r.rows - 1) * x.pitch + r.rowBytes b ≤ x.size)
  | 2 => match b.alloc? r.locw with
    | none => some fcHandle
    | some x =>
      range (x.holds r.locw && r.fmt == 8 && r.per ≤ 32 && handleRow r.locw + r.rows ≤ 32)
  | _ => match r.region b with
    | none => some fcRange
    | some g =>
      range (r.locw.extractLsb' 17 15 == 0 && r.slot < g.slots && r.mask == 0
        && (sparseGet 0 b.tags (g.key r.slot)).getLsbD 0)

/-- The mask of a multicast (R231): the scratchpad kind, and cores of the cluster that are there. -/
def TRec.maskOk (r : TRec) (absent : Bool) : Bool :=
  r.mask == 0 || (r.kind == 0 && r.mask.extractLsb' 4 4 == 0 && !absent)

/-- The checks of R226, then those of R228, or R229: the code of the first that fails. A map-slot record
ignores w(n) to w(n+5), fmt, transpose and sparse (R229). -/
def TRec.fault (r : TRec) (x : Nat → Word) (b : Block) (out absent : Bool) : Option (BitVec 8) :=
  if r.kind == 3 then
    if (x 7).extractLsb' 23 9 != 0 then some fcRange else r.localFault b
  else if !recordPlain x r || !r.grain then some fcRange
  else match r.localFault b with
    | some code => some code
    | none => if r.maskOk absent && (!r.sparse || r.sparseOk out) then none else some fcRange

/-- The record words of a tensor copy. -/
def Ctx.record (c : Ctx) (a : Operand) (k : Nat) : Word := c.one (a.nth k)

/-- The issuing core's cluster is absent (R7). -/
def Ctx.absent (c : Ctx) : Bool := c.s.dev.absent.contains (clusterOf c.b.core)

/-- The line that the entry of a map slot names, read at issue (R171). -/
def TRec.line (r : TRec) (b : Block) : Dword :=
  match r.kind, r.region b with
  | 3, some g => BitVec.ofNat 64 (tagLine (sparseGet 0 b.tags (g.key r.slot)))
  | _, _ => 0

/-- A map-slot `out` with sparse = 1 is no RANGE: R229 ignores the bit, though the pseudocode of R230 names
it (DESIGN CHOICE between the two, log row 91). -/
def tcpEff (out : Bool) (a : Operand) (c : Ctx) : Eff :=
  let r := TRec.parse (c.record a)
  match r.fault (c.record a) c.b out c.absent with
  | some code => execFault code
  | none =>
    if out && (r.mask != 0 || (r.sparse && r.kind != 3)) then execFault fcRange
    else c.join false (.tcp out r (r.line c.b))

/-- The eight record registers, and the four of TCPX. -/
def Use.record (a : Operand) (n : Nat) : Use :=
  { o := a, regs := n, read := true, write := false, ok := a.isW && a.index % n == 0 }

def tcpEntry (sw : Bool) (a : Operand) : Entry :=
  { sw, uses := [Use.record a 8], roles := [.copy], closes := .unlessPaired, ahead := .skip }

/-- TCP_IN (R230). -/
def execTcpIn (sw : Bool) (a : Operand) (s : State) : Out :=
  .next (runWord s (fun _ => tcpEntry sw a) (tcpEff false a))

/-- TCP_OUT (R230). -/
def execTcpOut (sw : Bool) (a : Operand) (s : State) : Out :=
  .next (runWord s (fun _ => tcpEntry sw a) (tcpEff true a))

/-! ## TCPX (R232, R233) -/

/-- Linear index of a device (R232). -/
def deviceIndex (x y z : Nat) : Nat := x + 16 * y + 288 * z

/-- Fields of the extension words x0 and x1. -/
structure Targets where
  x : Nat
  y : Nat
  z : Nat
  axis : Nat
  rep : BitVec 18
  deriving DecidableEq, Repr

def Targets.parse (x0 x1 : Word) : Targets :=
  { x := (x0.extractLsb' 0 4).toNat, y := (x0.extractLsb' 8 5).toNat, z := (x0.extractLsb' 16 4).toNat,
    axis := (x1.extractLsb' 18 2).toNat, rep := x1.extractLsb' 0 18 }

/-- The targets, in ascending linear index. -/
def Targets.list (t : Targets) : List Nat :=
  let on := (List.range 18).filter fun i => t.rep.getLsbD i
  match t.axis with
  | 0 => [deviceIndex t.x t.y t.z]
  | 1 => on.map fun i => deviceIndex i t.y t.z
  | 2 => on.map fun i => deviceIndex t.x i t.z
  | _ => on.map fun i => deviceIndex t.x t.y i

/-- The conditions of R233 on the extension words. -/
def extensionOk (x : Nat → Word) (fmt : Nat) : Bool :=
  let t := Targets.parse (x 0) (x 1)
  let rop := ((x 2).extractLsb' 0 4).toNat
  (x 0).extractLsb' 20 12 == 0 && (x 0).extractLsb' 13 3 == 0 && (x 0).extractLsb' 4 4 == 0
    && (x 1).extractLsb' 20 12 == 0 && (x 2).extractLsb' 5 27 == 0 && x 3 == 0
    && t.y ≤ 17 && rop ≤ 3 && (t.axis == 0) == (t.rep == 0)
    && (t.axis == 0 || t.axis == 2 || t.rep.extractLsb' 16 2 == 0)
    && (rop == 0 || fmt == 8)

def tcpxEff (a b : Operand) (c : Ctx) : Eff :=
  let r := TRec.parse (c.record a)
  let x := c.record b
  match r.fault (c.record a) c.b true c.absent with
  | some code => execFault code
  | none =>
    if r.kind == 3 || r.mask != 0 || r.sparse || r.base.extractLsb' 50 14 != 0
        || !extensionOk x r.fmt then execFault fcRange
    else if c.w.counterFull .net || c.storeFull then .wait c.s .parked
    else
      let op := c.s.nextId
      let id := op + 1
      let cmd := c.cmd id (.tcpx r (Targets.parse (x 0) (x 1)).list ((x 2).extractLsb' 0 4).toNat
        ((x 2).getLsbD 4))
      .done (({ c.s.fresh.fresh with cmds := c.s.cmds ++ [cmd] }).pushOp c.r .net op [id] none 0)

/-- TCPX (R233). -/
def execTcpx (sw : Bool) (a b : Operand) (s : State) : Out :=
  .next (runWord s (fun _ =>
    { sw, uses := [Use.record a 8, Use.record b 4], roles := [.copy], closes := .unlessPaired,
      ahead := .skip }) (tcpxEff a b))

/-! ## SEAL, STGA, STGW (R234, R237) -/

/-- The block declares this stage. -/
def Block.hasStage (b : Block) (ring stage : Nat) : Bool :=
  match b.rings[ring]? with
  | some r => stage < r.stages.length
  | none => false

/-- The phase of a stage. -/
def Block.phase (b : Block) (ring stage : Nat) : Bool :=
  match b.rings[ring]? with
  | some r => ((r.stages[stage]?).map Stage.phase).getD false
  | none => false

def sealEff (arrive : Bool) (ring stage : Nat) (c : Ctx) : Eff :=
  if arrive && !c.b.hasStage ring stage then execFault fcRange
  else if c.w.counterFull .copy then .wait c.s .parked
  else .done (c.s.sealBatch c.r (if arrive then some (ring, stage) else none) c.g.packet.redundant)

/-- SEAL (R234). -/
def execSeal (sw arrive : Bool) (ring stage : BitVec 3) (s : State) : Out :=
  .next (runWord s (fun _ =>
    { sw, codes := Instr.codesOk (.seal sw arrive ring stage), roles := [.copy], closes := .region,
      ahead := .skip }) (sealEff arrive ring.toNat stage.toNat))

def stgaEff (ring stage : Nat) (c : Ctx) : Eff :=
  if !c.b.hasStage ring stage then execFault fcRange
  else .done (c.s.updBlock c.b.id fun b => b.arrive ring stage)

/-- STGA (R237). -/
def execStga (sw : Bool) (ring stage : BitVec 3) (s : State) : Out :=
  .next (runWord s (fun _ => { sw, closes := .region, ahead := .skip })
    (stgaEff ring.toNat stage.toNat))

def stgwEff (d : Operand) (ring stage : Nat) (inv : Bool) (c : Ctx) : Eff :=
  match c.w.run with
  | .ring _ _ _ true => .done c.s
  | .ring i j phi false => .wait c.s (.ring i j phi false)
  | _ =>
    if !c.b.hasStage ring stage then execFault fcRange
    else
      let phi := (c.one d).getLsbD 0 != inv
      if c.b.phase ring stage == phi then .done c.s else .wait c.s (.ring ring stage phi false)

/-- STGW (R237). -/
def execStgw (sw : Bool) (d : Operand) (ring stage : BitVec 3) (inv : Bool) (s : State) : Out :=
  .next (runWord s (fun _ =>
    { sw, uses := [{ Use.src d 1 with ok := d.isWide || d.isZero }], ahead := .stop }) (stgwEff d ring.toNat stage.toNat inv))

end Sys2Proof.Machine
end

