-- ==== Sys2Proof/Machine/CopyEngine.lean ====
section
/-!
DEFINITION. The copy engine at work: COPY_CHUNK, which runs a part of a command and writes the resume
cursors (R220 to R233), and BATCH_COMPLETE (R218, R234).
-/

namespace Sys2Proof.Machine

def State.updCmd (s : State) (id : Nat) (f : Cmd → Cmd) : State :=
  { s with cmds := s.cmds.map fun (c : Cmd) => if c.id == id then f c else c }

/-- A command's warp. -/
def Cmd.ref (c : Cmd) : WarpRef := { blk := c.blk, slot := c.slot }

/-! ## The units that a command moves, one after the other (R224, R227, R228, R229)

A unit of a tensor copy is the run of elements of a tile row that lie in one aligned 4-byte word of device
memory, so that such a word is read or written whole (R223); two sparse groups; 16 bytes of a mapped line; a
lane of LCP. The cursor counts elements of the global tile, or lanes (R221). -/

/-- Bytes of an element, at least one. -/
def TRec.elemBytes (r : TRec) : Nat := if r.e < 8 then 1 else r.e / 8

/-- Row and column of an element in engine order (R227). -/
def TRec.unitAt (r : TRec) (u : Nat) : Nat × Nat := (u / r.wd, u % r.wd)

/-- Elements of the unit that starts at a column: what one access to device memory moves, and so what counts as
one remote write where it is refused (R219; DESIGN CHOICE, log row 107). -/
def TRec.run (r : TRec) (col : Nat) : Nat :=
  if r.sparse then 8 else Nat.min (r.wd - col) ((32 - (r.x0 + col) * r.e % 32) / r.e)

/-- Elements, lines or lanes of a command, for each target of TCPX. -/
def Cmd.units (c : Cmd) (b : Block) : Nat :=
  match c.kind with
  | .lcp _ _ ls => ls.length
  | .tcp _ r _ => if r.kind == 3 then (r.region b).elim 0 (·.line / 16) else r.h * r.wd
  | .tcpx r _ _ _ => r.h * r.wd

/-- Elements of a unit that lie inside the tensor (R227). -/
def TRec.inside (r : TRec) (row col : Nat) : Nat :=
  if r.dim1 ≤ r.y0 + row then 0 else Nat.min (r.run col) (r.dim0 - (r.x0 + col))

/-- Address of a tensor row. -/
def TRec.rowAddr (r : TRec) (row : Nat) : Dword := r.base + BitVec.ofNat 64 ((r.y0 + row) * r.stride)

/-- The device-memory side of a unit: address, bytes, bits inside the tensor, under `sparse` the address of
its metadata byte (R227, R228), and how far the cursor moves. -/
structure CopyUnit where
  va : Dword
  width : Nat
  mask : Nat
  meta' : Option Dword
  run : Nat
  deriving DecidableEq, Repr

/-- Every bit of a unit's bytes is inside. -/
def CopyUnit.full (x : CopyUnit) : Bool := x.mask == 2 ^ (8 * x.width) - 1

def TRec.unit (r : TRec) (u : Nat) : CopyUnit :=
  let (row, col) := r.unitAt u
  let x := r.x0 + col
  let at' (k : Nat) : Dword := r.rowAddr row + BitVec.ofNat 64 k
  let bits := r.inside row col * r.e
  if r.sparse then
    { va := at' (x / 2 * r.elemBytes), width := 4 * r.elemBytes, run := 8,
      mask := if bits == 0 then 0 else 2 ^ (32 * r.elemBytes) - 1,
      meta' := some (at' (r.dim0 / 2 * r.elemBytes + x / 8)) }
  else
    { va := at' (x * r.e / 8), width := (bits + 7) / 8, mask := 2 ^ bits - 1, meta' := none, run := r.run col }

def Cmd.unit (c : Cmd) (u : Nat) : CopyUnit :=
  let whole (va : Dword) (n : Nat) : CopyUnit :=
    { va, width := n, mask := 2 ^ (8 * n) - 1, meta' := none, run := 1 }
  match c.kind with
  | .lcp _ n ls => match ls[u]? with
    | some (_, _, g) => whole g n
    | none => { whole 0 n with mask := 0 }
  | .tcp _ r line =>
    if r.kind == 3 then whole (line + BitVec.ofNat 64 (16 * u)) 16 else r.unit u
  | .tcpx r ts _ _ =>
    let x := r.unit u
    let head : Dword := BitVec.ofNat 64 (2 ^ 63 + (ts[c.target]?).getD 0 * 2 ^ 50)
    { x with va := head ||| x.va }

/-- The command moves data to device memory. -/
def Cmd.out (c : Cmd) : Bool :=
  match c.kind with
  | .lcp out _ _ => out
  | .tcp out _ _ => out
  | .tcpx _ _ _ _ => true

/-! ## The local side -/

/-- Element `i` of the 8 that two sparse groups expand to: the second value wins (R228). -/
def sparseElem (bytes vals meta' i : Nat) : Nat :=
  let nib := meta' / 16 ^ (i / 4) % 16
  let v (k : Nat) := vals / 2 ^ (8 * bytes * (2 * (i / 4) + k)) % 2 ^ (8 * bytes)
  if nib / 4 == i % 4 then v 1 else if nib % 4 == i % 4 then v 0 else 0

/-- Bytes of a local row from byte `k` on, keyed as in `Cmd.part`. -/
def rowPieces (j k n data : Nat) : List (Nat × Byte) :=
  (leBytes n data).mapIdx fun i x => (65536 * j + k + i, x)

/-- The local bytes that a unit's data makes (R227, R228). -/
def TRec.pieces (r : TRec) (b : Block) (u data meta' : Nat) : List (Nat × Byte) :=
  let (row, col) := r.unitAt u
  if r.packed b then
    rowPieces row (col / 2 * r.elemBytes) (4 * r.elemBytes) data
      ++ rowPieces row (r.wd / 2 * r.elemBytes + col / 8) 1 meta'
  else
    let n := r.run col
    let dense := if r.sparse then
        ((List.range 8).map fun i => sparseElem r.elemBytes data meta' i * 2 ^ (r.e * i)).foldl (· + ·) 0
      else data
    if r.transpose then (List.range n).flatMap fun i =>
      rowPieces (col + i) (row * r.elemBytes) r.elemBytes (dense / 2 ^ (r.e * i))
    else rowPieces row (col * r.e / 8) ((n * r.e + 7) / 8) dense

/-- The 4-byte words of local rows that bytes complete: row, word, its bytes. -/
def TRec.complete (r : TRec) (b : Block) (part : List (Nat × Byte)) : List (Nat × Nat × List Byte) :=
  ((part.map fun x => x.1 / 4).eraseDups).filterMap fun w =>
    let k := w * 4 % 65536
    let bytes := (List.range (Nat.min 4 (r.rowBytes b - k))).map fun i =>
      (part.find? (·.1 == 4 * w + i)).map Prod.snd
    if bytes.all Option.isSome then some (w * 4 / 65536, k, bytes.filterMap id) else none

/-- Bytes of a row land in a block. -/
def TRec.landRow (r : TRec) (j k : Nat) (bytes : List Byte) (b : Block) : Block :=
  b.put (r.place b j k) bytes.length (leOf bytes)

/-- Data of an LCP lane lands, but for bytes that a higher lane has landed (R224). -/
def landLane (a n data : Nat) (above : List Nat) (b : Block) : Block :=
  if above.any fun x => x < a + n && a < x + n then
    (List.range n).foldl (fun b i =>
      if above.any fun x => x ≤ a + i && a + i < x + n then b
      else b.put (.scratch (a + i)) 1 (data / 2 ^ (8 * i) % 256)) b
  else b.put (.scratch a) n data

/-- The places of a unit on the local side of an `out` copy, each with its bytes, in order. -/
def Cmd.source (c : Cmd) (u : Nat) (b : Block) : List (Place × Nat) :=
  let tile (r : TRec) : List (Place × Nat) :=
    let (row, col) := r.unitAt u
    if r.e < 8 then (List.range ((r.inside row col * r.e + 7) / 8)).map fun i =>
      (r.place b row (col * r.e / 8 + i), 1)
    else (List.range (r.inside row col)).map fun i => (r.elemPlace b row (col + i), r.elemBytes)
  match c.kind with
  | .lcp _ n ls => match ls[u]? with
    | some (_, a, _) => [(.scratch a, n)]
    | none => []
  | .tcp _ r _ => if r.kind == 3 then [(r.place b 0 (16 * u), 16)] else tile r
  | .tcpx r _ _ _ => tile r

/-- A byte of the operand buffer that an `out` copy takes: of its aligned 4 bytes as they were first read, of
which `part` keeps those not taken yet (R214). -/
def Block.takeByte (b : Block) (part : List (Nat × Byte)) (a : Nat) : Nat × List (Nat × Byte) :=
  let word := (List.range 4).map fun i => (a / 4 * 4 + i, memGet b.opbuf (a / 4 * 4 + i))
  let part := if part.any (·.1 == a) then part else word ++ part.filter fun x => x.1 / 4 != a / 4
  (((part.find? (·.1 == a)).map fun x => x.2.toNat).getD 0, part.filter (·.1 != a))

def Block.takeBytes (b : Block) : List (Nat × Byte) → Nat → Nat → Nat × List (Nat × Byte)
  | part, _, 0 => (0, part)
  | part, a, n + 1 =>
    let (x, part) := b.takeByte part a
    let (y, part) := b.takeBytes part (a + 1) n
    (x + 256 * y, part)

/-- The data at places, as an `out` copy that has words of the operand buffer in `part` reads them (R214). -/
def Block.gatherPart (b : Block) : List (Nat × Byte) → List (Place × Nat) → Nat × List (Nat × Byte)
  | part, [] => (0, part)
  | part, (p, n) :: rest =>
    let (x, part) := match p with
      | .opbuf a => b.takeBytes part a n
      | _ => (b.get p n % 2 ^ (8 * n), part)
    let (y, part) := b.gatherPart part rest
    (x + 2 ^ (8 * n) * y, part)

/-- The blocks in which a unit lands: the issuing block, or the accepted targets of a multicast. -/
def Cmd.targets (c : Cmd) : List Nat :=
  match c.kind with
  | .tcp _ r _ => if r.mask == 0 then [c.blk] else c.accepted
  | _ => [c.blk]

/-- A change of each target; the issuing core and a target's exchange generation tags (R325). -/
def State.landIn (s : State) (c : Cmd) (f : Block → Block) : State :=
  c.targets.foldl (fun s id =>
    let s := if id == c.blk then s else match s.block? id with
      | some t => s.shareTags (c.ctx / 64) [c.core, t.core]
      | none => s
    s.updBlock id f) s

/-- A unit's data lands: local words once their last byte is there, an element of a tile at once. -/
def State.landUnit (s : State) (c : Cmd) (b : Block) (u data meta' : Nat) : State :=
  match c.kind with
  | .lcp _ n ls => match ls[u]? with
    | some (_, a, _) =>
      let landed (v : Nat) : Bool := v < c.next
        && !s.accs.any fun x => x.cmd == some c.id && x.lane == v && x.kind == .load
      let above := ((ls.zipIdx.filter fun x => u < x.2 && landed x.2).map fun x => x.1.2.1)
      s.landIn c (landLane a n data above)
    | none => s
  | .tcpx _ _ _ _ => s
  | .tcp _ r _ =>
    let (row, col) := r.unitAt u
    if r.kind == 3 then s.landIn c fun b => b.put (r.place b 0 (16 * u)) 16 data
    else if r.kind == 2 then s.landIn c fun b => b.put (r.elemPlace b row col) 4 data
    else
      let part := c.part ++ r.pieces b u data meta'
      let words := r.complete b part
      let gone (k : Nat) : Bool := words.any fun w => 65536 * w.1 + w.2.1 ≤ k
        && k < 65536 * w.1 + w.2.1 + 4
      (s.landIn c fun b => words.foldl (fun b w => r.landRow w.1 w.2.1 w.2.2 b) b).updCmd c.id fun k =>
        { k with part := part.filter fun x => !gone x.1 }

/-- A multicast that has landed whole arrives at the ring stage of each accepted target (R231); one that ends in an
error (R220) has not, makes no arrival, and its targets are free with its end (DESIGN CHOICE, log row 108). -/
def State.landed (s : State) (id : Nat) : State :=
  match s.cmds.find? (·.id == id) with
  | none => s
  | some c =>
    match c.kind with
    | .tcp false r _ =>
      if c.over && c.err.isNone && r.arrive && r.mask != 0 then
        s.landIn c fun b => b.arrive r.aring r.astage
      else s
    | _ => s

/-! ## The device-memory side (R220) -/

/-- Where a unit's address leads. -/
inductive Reach where
  | phys (pa : Nat)
  | lower (pa : Nat)
  | far
  | fails (code : BitVec 8)
  | missing (p : SheafPage)
  deriving DecidableEq, Repr

def Reach.of (va : Dword) (acc : Access) (t : Trans) : Reach :=
  match t with
  | .phys pa => .phys pa
  | .lower pa => .lower pa
  | .remote _ _ => .far
  | .range => .fails fcRange
  | .nonCanonical => .fails fcPage
  | .permission => .fails fcPermission
  | .missing => .missing (sheafPage va acc false)
  | .malformed => .missing (sheafPage va acc true)

/-- What a leaf answers an access at an address that it covers. -/
def Tlb.reach (t : Tlb) (va : Nat) (acc : Access) : Reach :=
  if !t.allows acc then .fails fcPermission
  else if t.lower then .lower (t.pa + (va - t.va)) else .phys (t.pa + (va - t.va))

/-- Where an address leads, translated now. -/
def State.reachOf (s : State) (c : Cmd) (va : Dword) (acc : Access) : Reach × State :=
  let (t, s) := s.translate c.core c.ctx va acc
  (Reach.of va acc t, s)

/-- The translation of a map slot's line: the captured one, or a new one, which is captured while
the entry still names the line (R171). -/
def State.slotReach (s : State) (c : Cmd) (b : Block) (r : TRec) (line va : Dword) (acc : Access) :
    Reach × State :=
  match r.region b with
  | none => (.fails fcRange, s)
  | some g =>
    let key := g.key r.slot
    let e := sparseGet 0 b.tags key
    if !e.getLsbD 0 || tagLine e != line.toNat || (s.privileged c.ctx && line.getLsbD 56) then
      s.reachOf c va acc
    else match b.captured.find? (·.1 == key) with
      | some x => (x.2.reach va.toNat acc, s)
      | none =>
        match s.leafOf c.core c.ctx line.toNat false with
        | (.leaf t, s) =>
          (t.reach va.toNat acc, s.updBlock b.id fun b => { b with captured := b.captured ++ [(key, t)] })
        | (_, s) => s.reachOf c va acc

/-- Where an address of a command leads. -/
def State.engineReach (s : State) (c : Cmd) (b : Block) (va : Dword) (acc : Access) : Reach × State :=
  match c.kind with
  | .tcp _ r line =>
    if r.kind == 3 then s.slotReach c b r line va acc else s.reachOf c va acc
  | _ => s.reachOf c va acc

/-- How far a unit came. -/
inductive UnitOut where
  | next (s : State)
  /-- It cannot go on now. -/
  | stop (s : State)
  | noMemory (pa : Nat)
  deriving DecidableEq, Repr

/-- The command ends with an error (R220). -/
def State.failCmd (s : State) (id : Nat) (code : BitVec 8) (va : Dword) : State :=
  s.updCmd id fun c => { c with state := 3, sheaf := none, part := [], err := some (c.err.getD (code, va)) }

/-- The command is held on a missing page (R220). -/
def State.holdCmd (s : State) (c : Cmd) (p : SheafPage) : State :=
  let (s, ids, _) := s.addSheaf c.core c.ctx 2 c.ref 0 [p]
  match ids with
  | [] => s
  | k :: _ => s.updCmd c.id fun c => { c with state := 2, sheaf := some k }

/-- The cursor moves past a unit of `run` elements; the command ends past its last (R221). -/
def Cmd.advance (c : Cmd) (run units : Nat) : Cmd :=
  if c.next + run < units then { c with next := c.next + run }
  else match c.kind with
    | .tcpx _ ts _ _ =>
      if c.target + 1 < ts.length then { c with next := 0, target := c.target + 1, part := [] }
      else { c with next := c.next + run, state := 3 }
    | _ => { c with next := c.next + run, state := 3 }

/-- An access of a command. -/
def Cmd.acc (c : Cmd) (b : Block) (kind : AccKind) (va : Dword) (pa : Option Nat) (width data lane : Nat) :
    Acc :=
  { id := 0, grid := b.grid, blk := c.blk, slot := c.slot, core := c.core, ctx := c.ctx, kind, va,
    pa := pa.getD 0, remote := pa.isNone, width, data := BitVec.ofNat 128 data, lane, result := none,
    cmd := some c.id, twin := none, pc := 0, placed := false, after := [], gen := none, waits := false,
    host := none, far := false, seen := false }

/-- Bytes that the engine reads at a slice or from the lower tier, its copy's own unmatched writes
over them (R353). -/
def State.engineBytes (s : State) (b : Block) (slot : Nat) (lower : Bool) (pa : Nat) (va : Dword)
    (n : Nat) : Nat :=
  leOf (b.forward slot va.toNat (readBytes (if lower then s.low else s.mem) pa n))

/-- One unit that moves data in (R224, R227, R228). -/
def State.unitIn (s : State) (c : Cmd) (b : Block) (x : CopyUnit) : UnitOut :=
  let u := c.next
  let go (s : State) : State := s.updCmd c.id fun k => k.advance x.run (c.units b)
  if x.mask == 0 then .next (go (s.landUnit c b u 0 0))
  else
    let (rm, s) := match x.meta' with
      | some m => s.engineReach c b m .read
      | none => (.phys 0, s)
    let (rv, s) := s.engineReach c b x.va .read
    match rv, rm with
    | .fails code, _ => .stop (s.failCmd c.id code x.va)
    | _, .fails code => .stop (s.failCmd c.id code (x.meta'.getD 0))
    | .missing p, _ | _, .missing p => .stop (s.holdCmd c p)
    | .far, _ | _, .far =>
      let va := x.meta'.getD x.va
      let n := if x.meta'.isSome then 1 else x.width
      .next ((go (s.issueEngine (c.acc b .load va none n 0 u))).updCmd c.id fun k =>
        { k with writes := k.writes + 1 })
    | _, _ =>
      let span (r : Reach) : Bool × Nat := match r with
        | .lower pa => (true, pa)
        | .phys pa => (false, pa)
        | _ => (false, 0)
      let (lo, pa) := span rv
      let (lom, pam) := span rm
      let out (lo : Bool) (pa n : Nat) : Bool := !lo && Config.dramBytes < pa + n
      let waits (lo : Bool) (pa : Nat) : Bool := !lo && s.lineWaits pa
      let bad (lo : Bool) (pa n : Nat) : Bool :=
        if lo then s.dev.lowBad.any fun a => a < pa + n && pa < a + 4 else s.spanBad pa n
      let read (s : State) (lo : Bool) (pa n : Nat) : State :=
        if lo then s else (s.exchangeTags c.core pa).readSpan c.ctx pa n
      let far := read s lo pa x.width
      let far := if x.meta'.isSome then read far lom pam 1 else far
      if out lo pa x.width then .noMemory pa
      else if x.meta'.isSome && out lom pam 1 then .noMemory pam
      else if waits lo pa || (x.meta'.isSome && waits lom pam) then .stop s
      else if bad lo pa x.width || (x.meta'.isSome && bad lom pam 1) then
        .stop (far.failCmd c.id fcUncorrectable x.va)
      else
        let s := far
        let v := s.engineBytes b c.slot lo pa x.va x.width
        let m := match x.meta' with
          | some a => s.engineBytes b c.slot lom pam a 1
          | none => 0
        .next (go (s.landUnit c b u (Nat.land v x.mask) m))

/-- The reduction of a TCPX, as the atomic it is at the target (R233). -/
def CmdKind.rop (k : CmdKind) : AccKind :=
  match k with
  | .tcpx _ _ rop s32 =>
    let ty : BitVec 4 := if s32 then 0 else 4
    if rop == 0 then .store
    else if rop == 1 then .atomic .add ty
    else if rop == 2 then .atomic .min ty else .atomic .max ty
  | _ => .store

/-- One unit that moves data out (R224, R227, R233). -/
def State.unitOut (s : State) (c : Cmd) (b : Block) (red : Bool) (x : CopyUnit) : UnitOut :=
  let ps := c.source c.next b
  let n := x.width
  let (v, part) := b.gatherPart c.part ps
  let go (s : State) (k : Nat) : State := s.updCmd c.id fun y =>
    { Cmd.advance { y with part := part } x.run (c.units b) with writes := y.writes + k }
  if x.mask == 0 then .next (go s 0)
  else
    let (bad, s) := s.readPlaces b c.ctx ps
    if bad then .stop (s.failCmd c.id fcUncorrectable x.va)
    else
      let v := v % 2 ^ (8 * n)
      let kind : AccKind := if x.full then c.kind.rop else .masked
      let data := if x.full then v else Nat.land v x.mask + x.mask * 2 ^ 64
      let (rv, s) := s.engineReach c b x.va .write
      let to' (pa : Option Nat) (lower : Bool) : UnitOut :=
        if red then
          match s.warp? c.ref with
          | none => .stop s
          | some (_, w) =>
            if !w.slackFor b.trail 1 then .stop s
            else
              let e : StreamEntry := { id := s.nextId, after := [], addr := x.va, pa, lower, width := n,
                                       data := BitVec.ofNat 128 data, cmd := some c.id, pc := 0 }
              .next (go (s.fresh.updWarp c.ref fun w => { w with engine := w.engine.push e }) 1)
        else if pa.isNone && 255 ≤ s.unacked c.ref then .stop s
        else .next (go (s.issueEngine (c.acc b kind x.va pa n data c.next)) 1)
      match rv with
      | .fails code => .stop (s.failCmd c.id code x.va)
      | .missing q => .stop (s.holdCmd c q)
      | .far => to' none false
      | .phys pa => to' (some pa) false
      | .lower pa =>
        if red then to' (some pa) true
        else
          let new := if x.full then v else maskedNew n (readLE s.low pa n) data
          .next (go ({ s with low := writeLE s.low pa n new }.updDev fun d =>
            { d with lowBad := keepMarks d.lowBad pa n }) 0)

/-- Runs the unit at a command's cursor. -/
def State.copyUnit (s : State) (id : Nat) : UnitOut :=
  match s.cmds.find? (·.id == id) with
  | none => .stop s
  | some c =>
    match s.block? c.blk with
    | none => .stop s
    | some b =>
      if c.state != 1 then .stop s
      else if c.units b ≤ c.next then .stop (s.updCmd id fun c => { c with state := 3 })
      else
        let red := match s.grid? b.grid with
          | some g => g.packet.redundant
          | none => false
        if c.out then s.unitOut c b red (c.unit c.next) else s.unitIn c b (c.unit c.next)

/-- Runs up to `n` units. -/
def State.copyUnits (s : State) (id : Nat) : Nat → UnitOut
  | 0 => .stop s
  | n + 1 =>
    match s.copyUnit id with
    | .next t => t.copyUnits id n
    | o => o

/-! ## When a command begins (R213, R222, R223, R231) -/

/-- Every earlier word of the warp that names what the command names, or writes where it reads or
writes, is out of its way; under `redundant` the commands run one after the other (R352). -/
def State.clear (s : State) (c : Cmd) (b : Block) (red : Bool) : Bool :=
  let names := c.names b
  let (mine, w) := c.spans b
  let earlier := s.cmds.filter fun x => x.blk == c.blk && x.slot == c.slot && x.id < c.id && !x.over
  (earlier.all fun x =>
    let (ys, xw) := x.spans b
    !(x.names b).meet names && !((xw || w) && spansMeet mine ys) && !(red && x.state != 3))
    && (s.arrayOf c.core c.ref).all fun q =>
      !(q.names b).meet names || (match q.op with
        | some op => c.id < op
        | none => false)

/-- The command may begin: in issue order, at most 16 at a time. -/
def State.mayBegin (s : State) (c : Cmd) (b : Block) (red : Bool) : Bool :=
  let mine := s.cmds.filter fun x => x.blk == c.blk && x.slot == c.slot
  (mine.filter fun x => x.state == 1 || x.state == 2).length < 16
    && (mine.all fun x => c.id ≤ x.id || x.state != 0) && s.clear c b red

/-- The block that a multicast lands in on a core, if the core is accepted (R231). -/
def State.acceptOn (s : State) (b : Block) (r : TRec) (core : Nat) : Option Nat :=
  let last := r.scratchBase + (r.rows - 1) * r.scratchPitch b + r.rowBytes b
  let unit := match s.grid? b.grid with
    | some g => g.clusterIndex
    | none => fun i => i
  let fits := s.blocks.filter fun t => t.core == core && t.grid == b.grid && t.trail == b.trail
    && t.spilled.isEmpty
    && unit t.index == unit b.index
    && (t.regions.any fun x => x.offset ≤ r.scratchBase && last ≤ x.offset + x.size)
    && (!r.arrive || t.hasStage r.aring r.astage)
  (fits.foldl (fun (m : Option Block) t => match m with
    | none => some t
    | some u => if t.index < u.index then some t else some u) none).map Block.id

/-- A command's first chunk starts: targets of a multicast are accepted or skipped; the engine window
closes in front of a TCPX (R353). -/
def State.begin (s : State) (c : Cmd) (b : Block) : State :=
  let s := s.updCmd c.id fun c => { c with state := 1 }
  match c.kind with
  | .tcp false r _ =>
    if r.mask == 0 then s
    else
      let named := (List.range 4).filter fun i => r.mask.getLsbD i
      let at' (i : Nat) := s.acceptOn b r (4 * clusterOf b.core + i)
      s.updCmd c.id fun c => { c with
        accepted := named.filterMap at',
        skipped := named.foldl (fun m i => if (at' i).isNone then m ||| (1 <<< i) else m) 0 }
  | .tcpx _ _ _ _ => s.updWarp c.ref fun w => { w with engine := w.engine.close }
  | _ => s

/-! ## COPY_CHUNK (R221) -/

/-- A resume cursor (R221), `i`-th of the warp record at `record` in the save area. -/
def Cmd.cursor (c : Cmd) (record i : Nat) : Nat :=
  let next := match c.kind with
    | .lcp _ _ ls => ((ls[c.next]?).map Prod.fst).getD (c.next % 64)
    | _ => c.next
  (record + 0x5100 + 240 * i) * 2 ^ 64 + c.state * 2 ^ 48 + c.target * 2 ^ 32 + next % 2 ^ 32

/-- Byte of the save area at which the record of a warp slot of a core lies (R316). -/
def recordOffset (core place : Nat) : Nat := 24576 * (32 * core + place)

/-- The 256 bytes of cursors of a warp: its begun commands in issue order, with that of command `ended`,
which this chunk has ended, the rest 0 (R221, R316). -/
def State.cursors (s : State) (b : Block) (slot ended : Nat) : List Byte :=
  let begun := s.cmds.filter fun c => c.blk == b.id && c.slot == slot
    && (c.state == 1 || c.state == 2 || c.id == ended)
  (List.range 16).flatMap fun i => match begun[i]? with
    | some c => leBytes 16 (c.cursor (recordOffset b.core (b.place slot)) i)
    | none => List.replicate 16 0

/-- Writes the cursors of a command's warp into its save area. -/
def State.saveCursors (s : State) (c : Cmd) : State :=
  match s.block? c.blk, s.saveArea c.ctx with
  | some b, some area =>
    let pa := area + recordOffset b.core (b.place c.slot) + 0x5000
    s.coreWrite c.core c.ctx pa (s.cursors b c.slot c.id) []
  | _, _ => s

/-- Closes the engine window behind the last entry of a sealed batch or of a TCPX (R353). -/
def State.closeBehind (s : State) (c : Cmd) : State :=
  let made (x : EngOp) : Bool := x.cmds.contains c.id
    && x.cmds.all fun id => !s.cmds.any fun k => k.id == id && k.state != 3
  s.updWarp c.ref fun w => if w.eng.any made then { w with engine := w.engine.close } else w

/-- What follows a chunk: the end of the command, then the cursors. -/
def State.endChunk (s : State) (id : Nat) (red : Bool) : State :=
  match s.cmds.find? (·.id == id) with
  | none => s
  | some c => if c.state != 3 then s else (if red then s.closeBehind c else s).landed id

/-- One chunk of a command, at most `count` units. A chunk that has moved something is progress of its context; a
command that only begins or is held has finished none (R309). -/
def State.copyChunk (s : State) (id count : Nat) : Except Nat State :=
  match s.cmds.find? (·.id == id) with
  | none => .ok s
  | some c =>
    match s.block? c.blk with
    | none => .ok s
    | some b =>
      let red := match s.grid? b.grid with
        | some g => g.packet.redundant
        | none => false
      let halted := match s.ctx? c.ctx with
        | some x => x.halted
        | none => false
      if halted || !b.spilled.isEmpty || !(c.state == 1 || (c.state == 0 && s.mayBegin c b red)) then .ok s
      else
        let t := if c.state == 0 then s.begin c b else s
        let left := c.units b * (match c.kind with
          | .tcpx _ ts _ _ => ts.length
          | _ => 1)
        match t.copyUnits id (Nat.min count (left + 1)) with
        | .noMemory pa => .error pa
        | .next t | .stop t =>
          let moved := (t.cmds.find? (·.id == id)).any fun x =>
            x.state == 3 || x.target != c.target || x.next != c.next
          let t := (t.endChunk id red).saveCursors c
          .ok (if moved then t.progress c.ctx else t)

/-- COPY_CHUNK (R221): the engine runs `count` units of a command, or as many as it can. -/
def execCopyChunk (cmd count : Nat) (s : State) : Out :=
  match s.copyChunk cmd count with
  | .ok t => .next t
  | .error pa => .fault (.noSuchMemory pa)

/-! ## Data of a remote read (R218, R224) -/

/-- A remote read of a command returns: the unit lands, or its values follow its metadata. -/
def State.remoteData (s : State) (a : Acc) (data : Nat) : State :=
  match a.cmd.bind fun id => s.cmds.find? (·.id == id) with
  | none => s
  | some c =>
    match s.block? c.blk with
    | none => s
    | some b =>
      let x := c.unit a.lane
      let prev := a.data.toNat
      if x.meta'.isSome && prev < 256 then
        s.issueEngine (c.acc b .load x.va none x.width (256 + data % 256) a.lane)
      else
        ((s.landUnit c b a.lane (Nat.land data x.mask) (prev % 256)).updCmd c.id fun k =>
          { k with writes := k.writes - 1 }).landed c.id

/-! ## BATCH_COMPLETE (R218, R219, R231, R234) -/

/-- Every earlier COPY operation of a warp is done; NET operations complete on their own. -/
def Warp.turn (w : Warp) (op : EngOp) : Bool :=
  op.cls != .copy || ((w.opsOf .copy).takeWhile fun x => x.id != op.id).all EngOp.done

/-- What an operation carries from its commands: error, refused writes, skipped targets. -/
def EngOp.gather (op : EngOp) (cs : List Cmd) : EngOp :=
  { op with
    done := true, err := cs.findSome? Cmd.err,
    refused := cs.foldl (fun n c => n + c.refused) 0,
    skipped := cs.foldl (fun m c => m ||| c.skipped) 0 }

/-- Completes the batch or TCPX with a number, if all of it is performed. -/
def State.completeBatch (s : State) (r : WarpRef) (id : Nat) : State :=
  match s.warp? r with
  | none => s
  | some (_, w) =>
    match w.eng.find? (·.id == id) with
    | none => s
    | some op =>
      let cs := s.cmds.filter fun c => op.cmds.contains c.id
      let mine := op.cls == .copy || (op.cls == .net && !op.cmds.isEmpty)
      let held := w.heldEntries.any fun e => match e.cmd with
        | some k => op.cmds.contains k
        | none => false
      if op.done || !mine || !(cs.all Cmd.over) || held || !w.turn op then s
      else
        let s := s.updOp r id fun x => x.gather cs
        let s : State := { s with cmds := s.cmds.filter fun c => !op.cmds.contains c.id }
        match op.arrive with
        | some (ring, stage) => s.updBlock r.blk fun b => b.arrive ring stage
        | none => s

/-- BATCH_COMPLETE (R218). -/
def execBatchComplete (r : WarpRef) (id : Nat) (s : State) : Out := .next (s.completeBatch r id)

end Sys2Proof.Machine
end

