-- ==== Sys2Proof/Machine/Fabric.lean ====
section
/-!
DEFINITION. Accesses on their way: SLICE_ACCESS (R180), REL_INCREMENT (R190), what another device sends
(R375), the acknowledgement of what this device sends (R195, R376), and packets that pass through
(R374).
-/

namespace Sys2Proof.Machine

/-! ## SLICE_ACCESS and REL_INCREMENT -/

/-- The outcome of an attempt to perform an access. -/
def Performed.out (p : Performed) : Out :=
  match p with
  | .done t => .next t
  | .waits t => .next t
  | .noMemory pa => .fault (.noSuchMemory pa)

/-- SLICE_ACCESS (R180): the slice performs one access. -/
def execSliceAccess (id : Nat) (s : State) : Out := (s.performAcc id).out

/-- REL_INCREMENT (R190): the increment, once nothing that it covers is left to perform. -/
def execRelIncrement (id : Nat) (s : State) : Out :=
  if s.accs.any fun a => a.id == id && a.kind == .relInc then (s.performAcc id).out else .next s

/-! ## At the target (R375, R377) -/

/-- The status with which an exported window refuses an access, or none (R375, R377). -/
def Vf.refuses (v : Vf) (q : RemoteReq) : Option AckStatus :=
  if v.refusing then some .targetReset
  else if !v.ctl.getLsbD 16 || v.wsize.toNat / 4 * 4 < q.off + q.width
      || !v.wsize.getLsbD (if q.kind == .load then 0 else 1)
      || Config.dramBytes < v.wbase.toNat + q.off + q.width then some .permission
  else none

/-- What an access to an exported window does at its slice. -/
def remoteKind (q : RemoteReq) : AccKind :=
  match q.kind with
  | .load => .load
  | .store => .store
  | .masked => .masked
  | k => .atomic k q.ty

/-- An access to the exported window, at its slice (R375). -/
def remoteAcc (q : RemoteReq) (id base : Nat) (far : Bool) : Acc :=
  { id, grid := 0, blk := 0, slot := 0, core := 0, ctx := 0xFFFF, kind := remoteKind q,
    va := BitVec.ofNat 64 q.off, pa := base + q.off, remote := false, width := q.width, data := q.data,
    lane := 0, result := none, cmd := none, twin := none, pc := 0, placed := false, after := [],
    gen := none, waits := false, host := none, far, seen := false }

/-- Serves another device's access: refused, performed, or left at its slice behind the write or the claim
that it waits for (R331), and acknowledged. -/
def State.serve (s : State) (q : RemoteReq) : State :=
  let v := s.vf q.vf
  match v.refuses q with
  | some st => s.sendAck st 0
  | none =>
    let a := remoteAcc q s.nextId v.wbase.toNat true
    let s : State := { s.fresh with accs := s.accs ++ [a] }
    match s.performLocal a with
    | .done t | .waits t => t
    | .noMemory _ => s

/-- REMOTE_ACCESS (R375): performed or refused, and acknowledged to its sender. It wakes the device
(R385); in I4 the ports are down (R384). -/
def execRemoteAccess (q : RemoteReq) (s : State) : Out :=
  .next (if !s.up || s.dev.deviceIdle == 4 then s else s.wake.serve q)

/-! ## The acknowledgement at the sender (R195, R376) -/

/-- Linear index of the device itself (R178, R374). -/
def Device.self (d : Device) : Nat :=
  (d.coords.extractLsb' 0 4).toNat + 16 * (d.coords.extractLsb' 8 5).toNat
    + 288 * (d.coords.extractLsb' 16 4).toNat

/-- Port that leads to a device, or 0xFF for none (R374, log row 2). -/
def Device.route (d : Device) (dev : Nat) : Nat := sparseGet 0xFF d.routes dev

/-- Target of a remote access. -/
def Acc.target (a : Acc) : Nat := (a.va.extractLsb' 50 13).toNat

/-- A remote access as its target sees it (R185, R227). -/
def Acc.req (a : Acc) (vf : Nat) : RemoteReq :=
  let kind : RemoteKind := match a.kind with
    | .load | .acq => .load
    | .atomic fn _ => fn
    | .masked => .masked
    | .relInc => .add
    | _ => .store
  let ty : BitVec 4 := match a.kind with
    | .atomic _ ty => ty
    | _ => 3
  { vf, off := (a.va.extractLsb' 0 50).toNat, width := a.width, kind, ty
    data := if a.kind == .relInc then 1 else a.data }

/-- A remote access of a warp or command is performed; `bad` says that its data is marked (R343). -/
def State.ackDone (s : State) (a : Acc) (data : Wide) (bad : Bool) : State :=
  let r : WarpRef := { blk := a.blk, slot := a.slot }
  let s := if a.kind == .acq then match s.block? a.blk with
      | some b => s.invalidateBound b a.va
      | none => s
    else s
  let s := match a.result with
    | some id => s.feed r id a.lane (BitVec.ofNat 128 (data.toNat % 2 ^ (8 * a.width))) bad
    | none => s
  let s := match a.cmd with
    | none => s
    | some id =>
      if a.kind.writes then s.updCmd id fun c => { c with writes := c.writes - 1 }
      else if bad then s.failCmd id fcUncorrectable a.va
      else s.remoteData a (data.toNat % 2 ^ (8 * a.width))
  s.dropAcc a.id

/-- A refused access of a warp: fatal PERMISSION at its word; a result that it feeds is dropped. -/
def State.ackFatal (s : State) (a : Acc) : State :=
  let r : WarpRef := { blk := a.blk, slot := a.slot }
  let f : FaultInfo := { faultAt fcPermission 1 with addr := a.va, lanes := maskOf [a.lane] }
  let s := s.dropAcc a.id
  match s.warp? r with
  | none => (s.pushStop a.ctx (s.goneStop { blk := a.blk, slot := a.slot } a.grid a.core a.pc f)).kill a.ctx (fcPermission.setWidth 16)
  | some _ =>
    let s := s.updWarp r fun w => { w with
      results := w.results.filter fun x => some x.id != a.result
      pend := match w.results.find? fun x => some x.id == a.result with
        | some x => clearPend w.pend x.pend
        | none => w.pend }
    s.takeFault r f a.pc

/-- A refused access of a command: it ends carrying PERMISSION, or under TARGET_RESET goes on and counts
it (R219). A refused read brings no data, and what it would have landed stays as it is, a local word that it
shares with others too (DESIGN CHOICE, log row 106). -/
def State.ackRefused (s : State) (a : Acc) (id : Nat) (reset : Bool) : State :=
  let s := s.dropAcc a.id
  let ids := id :: a.twin.toList
  let s := s.updCmd id fun c => { c with writes := c.writes - 1 }
  ids.foldl (fun s k =>
    if reset then s.updCmd k fun c => { c with refused := c.refused + 1 }
    else s.failCmd k fcPermission a.va) s |>.landed id

/-- What an acknowledgement does. -/
def State.ack (s : State) (a : Acc) (st : AckStatus) (data : Wide) (bad : Bool) : State :=
  match st, a.cmd with
  | .accepted, _ => s.ackDone a data bad
  | st, some id => s.ackRefused a id (st == .targetReset)
  | _, none => s.ackFatal a

/-- An access to the device's own exported window, which its slice performs (R178, R375), or which waits
there (R331). -/
def State.ownWindow (s : State) (a : Acc) : State :=
  let q := a.req (a.ctx / 64)
  let v := s.vf q.vf
  match v.refuses q with
  | some st => s.ack a st 0 false
  | none =>
    let x := remoteAcc q a.id v.wbase.toNat false
    let old := BitVec.ofNat 128 (readLE s.mem x.pa x.width)
    let keep (t : State) : State := { t with accs := t.accs.map fun (y : Acc) =>
      if y.id == a.id then { y with pa := x.pa, waits := true } else y }
    if q.kind == .load then
      if s.behind x.pa a.id then s
      else (s.readSpan a.ctx x.pa x.width).ack a .accepted old (s.spanBad x.pa x.width)
    else match s.performLocal x with
      | .done t => t.ack a .accepted old (s.spanBad x.pa x.width)
      | .waits t => keep t
      | .noMemory _ => s

/-- REMOTE_ACK (R195): the acknowledgement of a remote access that has left. A route of 0xFF answers
NOROUTE whatever comes; a packet for a port that is down waits (R374); the device's own window is
served here (R178). -/
def State.remoteAck (s : State) (id : Nat) (st : AckStatus) (data : Wide) : State :=
  match s.accs.find? (·.id == id) with
  | none => s
  | some a =>
    let port := s.dev.route a.target
    if !a.remote || !a.after.isEmpty then s
    else if a.target == s.dev.self then s.ownWindow a
    else if port == 0xFF then s.ack a .noRoute 0 false
    else if s.dev.downPorts.contains port then s
    else s.ack a st data false

def execRemoteAck (id : Nat) (status : AckStatus) (data : Wide) (s : State) : Out :=
  .next (s.remoteAck id status data)

/-! ## FABRIC_FORWARD (R374) -/

/-- FABRIC_FORWARD: a packet for another device leaves by the port of its route, waits while the port is
down, and is dropped where there is no route. -/
def Device.forward (d : Device) (dev payload : Nat) : Device :=
  let port := d.route dev
  if port == 0xFF then d
  else if d.downPorts.contains port then { d with stuck := d.stuck ++ [(dev, payload)] }
  else { d with forwarded := (port, dev, payload) :: d.forwarded }

def execFabricForward (dev payload : Nat) (s : State) : Out :=
  .next (if !s.up || s.dev.deviceIdle == 4 || dev == s.dev.self || Config.devices ≤ dev then s
    else s.updDev fun d => d.forward dev payload)

end Sys2Proof.Machine
end

