-- ==== Sys2Proof/Machine/Dispatcher.lean ====
section
/-!
DEFINITION. The dispatcher: the checks of a launch and the entries of a queue (R78 to R82, R370, R371),
DEPENDENCE_REREAD (R84), the room that blocks need and how they start (R83), and GRID_COMPLETION (R85).
-/

namespace Sys2Proof.Machine

/-! ## Launch packets (R78) -/

/-- An unsigned field of a number. -/
def field (x lo n : Nat) : Nat := x / 2 ^ lo % 2 ^ n

/-- Aligned words of `n` bytes of a list. -/
def wordAt (bs : List Byte) (off n : Nat) : Nat := leOf ((bs.drop off).take n)

/-- A launch packet, from its 128 bytes. -/
def Packet.of (bs : List Byte) : Packet :=
  let q (off : Nat) := wordAt bs off 8
  let shape := q 8
  { image := BitVec.ofNat 64 (q 0), nx := field shape 0 16, ny := field shape 16 16,
    nz := field shape 32 16, priority := field shape 48 3, cluster := 2 ^ field shape 51 2
    twin := shape.testBit 56, redundant := shape.testBit 57, coResident := shape.testBit 58,
    feedsEgress := shape.testBit 59, done := BitVec.ofNat 64 (q 16), increment := BitVec.ofNat 32 (q 24),
    tag := BitVec.ofNat 32 (q 24 / 2 ^ 32), map := BitVec.ofNat 64 (q 96)
    deps := ((List.range 4).map fun i =>
      (BitVec.ofNat 64 (q (32 + 16 * i)), BitVec.ofNat 64 (q (40 + 16 * i) % 2 ^ 56))).filter fun x =>
        x.1 != 0 }

/-- The checks of code PACKET (R82). -/
def packetOk (bs : List Byte) : Bool :=
  let q (off : Nat) := wordAt bs off 8
  let shape := q 8
  let p := Packet.of bs
  field shape 53 3 == 0 && field shape 60 4 == 0 && field shape 51 2 != 3
    && ((List.range 4).all fun i => field (q (40 + 16 * i)) 56 8 == 0 && q (32 + 16 * i) % 8 == 0)
    && ((bs.drop 104).all (· == 0))
    && p.nx != 0 && p.ny != 0 && p.nz != 0 && p.nx * p.ny * p.nz ≤ 2 ^ 24 && p.increment != 0
    && q 0 % 64 == 0 && q 16 % 8 == 0 && q 96 % 4 == 0

def Packet.blocks (p : Packet) : Nat := p.nx * p.ny * p.nz

/-- Launch clusters of `n` blocks, the last of which may hold fewer (R80). -/
def Packet.units (p : Packet) (n : Nat) : Nat := (n + p.cluster - 1) / p.cluster

/-! ## The block descriptor (R79) -/

/-- A group word d0 to d2. -/
def Group.of (x : Nat) : Group :=
  { warps := field x 0 6, width := 8 * 2 ^ field x 6 2, budget := 16 * (field x 8 2 + 1) }

def groupOk (x : Nat) : Bool := field x 0 6 ≤ 32 && x / 2 ^ 10 == 0

def Layout.total (l : Layout) : Nat := l.groups.foldl (fun n g => n + g.warps) 0

/-- Record `i` of 16 bytes from an offset on, as four words. -/
def record (bs : List Byte) (base i : Nat) : List Nat :=
  (List.range 4).map fun k => wordAt bs (base + 16 * i + 4 * k) 4

def recWord (r : List Nat) (i : Nat) : Nat := r[i]?.getD 0

/-- A region record (R165). -/
def Region.of (r : List Nat) : Region :=
  let m := recWord r 2
  { offset := recWord r 0, size := recWord r 1, line := if m == 0 then 0 else 64 * 2 ^ m }

/-- A number is a power of two. -/
def powerOfTwo (n : Nat) : Bool := n != 0 && 2 ^ n.log2 == n

/-- Two spans of bytes meet. -/
def overlap (a n b m : Nat) : Bool := a < b + m && b < a + n

/-- The rules of a region record (R165, R166). -/
def regionOk (r : List Nat) (s : Nat) : Bool :=
  let g := Region.of r
  recWord r 2 < 4 && recWord r 3 == 0 && g.offset % 128 == 0 && g.size % 128 == 0 && 128 ≤ g.size
    && g.size ≤ 1048576 && g.offset + g.size ≤ s
    && (g.line == 0 || (g.size % g.line == 0 && powerOfTwo (g.size / g.line)))

/-- A ring record (R235). -/
def Ring.of (r : List Nat) : Ring :=
  let e := field (recWord r 0) 8 8
  { expect := e, stages := List.replicate (field (recWord r 0) 0 4) { phase := false, left := e } }

def ringOk (r : List Nat) : Bool :=
  let x := recWord r 0
  field x 16 16 == 0 && field x 4 4 == 0 && field x 8 8 != 0 && 1 ≤ field x 0 4 && field x 0 4 ≤ 8
    && recWord r 1 == 0 && recWord r 2 == 0 && recWord r 3 == 0

/-- A channel record (R274). -/
def ChanDesc.of (r : List Nat) : ChanDesc :=
  { landing := recWord r 0, slots := recWord r 1, peer := (BitVec.ofNat 32 (recWord r 2)).toInt }

def chanOk (r : List Nat) (s : Nat) : Bool :=
  let x := ChanDesc.of r
  x.landing < 2 ^ 20 && x.landing % 128 == 0 && 1 ≤ x.slots && x.slots ≤ 64 && recWord r 3 == 0
    && x.landing + 128 * x.slots ≤ s

/-- A tree record (R281). -/
def TreeDesc.of (r : List Nat) : TreeDesc :=
  let t := recWord r 2
  { root := recWord r 0, fanin := recWord r 1, allreduce := t.testBit 24
    timeout := if field t 0 24 == 0 then 2 ^ 24 else field t 0 24 }

def treeOk (r : List Nat) (map : List (Nat × Nat)) : Bool :=
  let t := TreeDesc.of r
  t.root ≤ 767 && 1 ≤ t.fanin && t.fanin ≤ 8 && recWord r 2 < 2 ^ 25 && recWord r 3 == 0 && map.any (·.1 == t.root)

/-- No two items of a list meet. -/
def apart {α : Type} (meets : α → α → Bool) : List α → Bool
  | [] => true
  | x :: t => (t.all fun y => !meets x y) && apart meets t

/-- Bytes of the descriptor and its records. -/
def descBytes (bs : List Byte) : Nat :=
  let d7 := wordAt bs 28 4
  64 + 16 * (field d7 0 5 + field d7 8 4 + field d7 16 5 + field d7 24 4 + field (wordAt bs 32 4) 0 8)

/-- The descriptor, from the bytes of it and its records. -/
def Desc.of (bs : List Byte) : Desc :=
  let d (i : Nat) := wordAt bs (4 * i) 4
  let nr := field (d 7) 0 5
  let nq := field (d 7) 8 4
  let nc := field (d 7) 16 5
  let nt := field (d 7) 24 4
  let ns := field (d 8) 0 8
  let at' (k i : Nat) := record bs (64 + 16 * k) i
  let succ (i : Nat) : Layout :=
    let r := at' (nr + nq + nc + nt) i
    { entry := recWord r 0, groups := (r.drop 1).map Group.of }
  { layouts := { entry := d 9, groups := [d 0, d 1, d 2].map Group.of } :: (List.range ns).map succ
    spare := field (d 3) 0 6, uniform := (d 3).testBit 8, scratch := d 4, opbuf := d 5, tiles := d 6
    regions := (List.range nr).map fun i => Region.of (at' 0 i)
    rings := (List.range nq).map fun i => Ring.of (at' nr i)
    chans := (List.range nc).map fun i => ChanDesc.of (at' (nr + nq) i)
    trees := (List.range nt).map fun i => TreeDesc.of (at' (nr + nq + nc) i), size := d 10 }

/-- The rules of the descriptor's own words (R79). -/
def headOk (bs : List Byte) : Bool :=
  let d (i : Nat) := wordAt bs (4 * i) 4
  let d7 := d 7
  groupOk (d 0) && groupOk (d 1) && groupOk (d 2)
    && d 3 / 2 ^ 9 == 0 && field (d 3) 6 2 == 0 && d 4 ≤ 1048576 && d 5 ≤ 524288 && d 6 ≤ 512
    && field d7 0 5 ≤ 16 && field d7 8 4 ≤ 8 && field d7 16 5 ≤ 16 && field d7 24 4 ≤ 8
    && field d7 5 3 == 0 && field d7 12 4 == 0 && field d7 21 3 == 0 && field d7 28 4 == 0
    && d 8 < 256 && d 9 % 64 == 0 && [11, 12, 13, 14, 15].all fun i => d i == 0

/-- The rules of the records (R79, R165, R166, R235, R274, R281), the map being known. -/
def recordsOk (bs : List Byte) (map : List (Nat × Nat)) : Bool :=
  let d7 := wordAt bs 28 4
  let x := Desc.of bs
  let nr := field d7 0 5
  let nq := field d7 8 4
  let nc := field d7 16 5
  let nt := field d7 24 4
  let at' (k i : Nat) := record bs (64 + 16 * k) i
  let areas := x.chans.map fun c => (c.landing, 128 * c.slots)
  (x.layouts.all fun l => l.total != 0 && l.total + x.spare ≤ 32 && l.entry % 4 == 0)
    && ((List.range (field (wordAt bs 32 4) 0 8)).all fun i =>
      ((at' (nr + nq + nc + nt) i).drop 1).all groupOk)
    && ((List.range nr).all fun i => regionOk (at' 0 i) x.scratch)
    && apart (fun (a b : Region) => overlap a.offset a.size b.offset b.size) x.regions
    && ((List.range nq).all fun i => ringOk (at' nr i))
    && ((List.range nc).all fun i => chanOk (at' (nr + nq) i) x.scratch)
    && apart (fun (a b : Nat × Nat) => overlap a.1 a.2 b.1 b.2) areas
    && (areas.all fun a => x.regions.all fun r => !overlap a.1 a.2 r.offset r.size)
    && ((List.range nt).all fun i => treeOk (at' (nr + nq + nc) i) map)

/-! ## What a block needs of its core (R77, R79, R164, R165, R200, R209) -/

/-- Largest value over the layouts. -/
def Desc.most (x : Desc) (f : Layout → Nat) : Nat := x.layouts.foldl (fun m l => Nat.max m (f l)) 0

def Desc.warps (x : Desc) : Nat := x.most Layout.total + x.spare
def Desc.threads (x : Desc) : Nat := x.most fun l => l.groups.foldl (fun n g => n + g.warps * g.width) 0
def Desc.regBytes (x : Desc) : Nat :=
  x.most fun l => l.groups.foldl (fun n g => n + g.warps * g.width * g.budget * 4) 0

/-- Rounds up to a multiple. -/
def roundUp (n k : Nat) : Nat := (n + k - 1) / k * k

/-- Needs of a core: register bytes, warps, blocks, threads, scratchpad, operand buffer, tiles,
regions. -/
def Desc.needs (x : Desc) : List Nat :=
  [x.regBytes, x.warps, 1, x.threads, roundUp x.scratch 128, roundUp x.opbuf 256, x.tiles,
    x.regions.length]

/-- What a core has. -/
def coreLimits : List Nat := [524288, 32, 8, 2048, 1048576, 524288, 512, 64]

def addAll (a b : List Nat) : List Nat := List.zipWith (· + ·) a b

def within (a b : List Nat) : Bool := (a.zip b).all fun x => x.1 ≤ x.2

/-- Needs of `n` blocks of a descriptor. -/
def Desc.times (x : Desc) (n : Nat) : List Nat := x.needs.map (· * n)

/-- Register bytes of a layout, and of a warp. -/
def Layout.regBytes (l : Layout) : Nat := l.groups.foldl (fun n g => n + g.warps * g.width * g.budget * 4) 0
def Warp.regBytes (w : Warp) : Nat := w.width * w.budget * 4

/-- Register bytes that a resident block keeps: those of its warps that have not exited, and at least what a
successor layout may still need (R79, R81, log row 57). -/
def Block.regBytes (b : Block) (x : Desc) : Nat :=
  Nat.max ((b.warps.filter (·.run != .exited)).foldl (fun n w => n + w.regBytes) 0)
    ((x.layouts.drop 1).foldl (fun m l => Nat.max m l.regBytes) 0)

/-- No warp of the block is resident: each is evicted, or exited beside evicted ones (R313). -/
def Block.isOut (b : Block) : Bool :=
  b.warps.any Warp.evicted && b.warps.all fun w => w.evicted || w.run == .exited

/-- What a block holds of its core: its reservation, less the register bytes of its exited warps and what its
evicted warps gave back, no place in the warp and block files once no warp of it is resident, and none of
the stores that are spilled (R77, R81, R168, R215, R313 to R316). -/
def Block.holds (b : Block) (x : Desc) : List Nat :=
  let out := b.warps.filter Warp.evicted
  let sum (f : Warp → Nat) := out.foldl (fun n w => n + f w) 0
  (if b.isOut then [0, 0, 0, 0]
    else List.zipWith (· - ·) [b.regBytes x, x.warps, 1, x.threads]
      [sum Warp.regBytes, out.length, 0, sum Warp.width])
    ++ (x.needs.zipIdx.drop 4).map fun n => if b.spilled.contains n.2 then 0 else n.1

/-- What is in use on a core. -/
def State.coreUse (s : State) (core : Nat) : List Nat :=
  (s.blocks.filter (·.core == core)).foldl (fun n b => match s.grid? b.grid with
    | some g => addAll n (b.holds g.desc)
    | none => n) (coreLimits.map fun _ => 0)

/-! ## The checks of a launch (R82) -/

/-- Die of a logical cluster (R3). -/
def dieOf (cluster : Nat) : Nat := cluster % 24 / 6 + 4 * (cluster / 24 / 4)

/-- Cores of a map entry: the leading copy's, and under `redundant` the trailing copy's. -/
def Packet.coresOf (p : Packet) (e : Nat × Nat) : List Nat := if p.redundant then [e.1, e.2] else [e.1]

/-- The cores of each launch cluster lie in one logical cluster, in each copy. -/
def clustersOk (p : Packet) (map : List (Nat × Nat)) : Bool :=
  let unit (x : (Nat × Nat) × Nat) := x.2 / p.cluster
  let first := map.zipIdx.filter fun x => x.2 % p.cluster == 0
  map.zipIdx.all fun x =>
    match first.find? fun y => unit y == unit x with
    | some y => clusterOf y.1.1 == clusterOf x.1.1
        && (!p.redundant || clusterOf y.1.2 == clusterOf x.1.2)
    | none => true

/-- Checks ABSENT_CORE to PAIR: the first code that fails, or 0. -/
def State.mapCode (s : State) (vf : Nat) (p : Packet) (x : Desc) (map : List (Nat × Nat)) : Nat :=
  let cores := map.flatMap p.coresOf
  let v := s.vf vf
  if cores.any fun c => 767 < c || s.dev.absent.contains (clusterOf c) then 3
  else if cores.any fun c => !v.cores.getLsbD c then 4
  else if !clustersOk p map then 5
  else if cores.any fun c => !within (x.times (cores.filter (· == c)).length) coreLimits then 6
  else if p.redundant && map.any fun e => dieOf (clusterOf e.1) == dieOf (clusterOf e.2) then 7
  else 0

/-- A dependence word of a context (R84): none when it cannot be read. -/
def State.depWord (s : State) (ctx : Nat) (a : Dword) : Option Dword :=
  match s.dispatcherRead ctx a.toNat 8 with
  | .ok bs => some (BitVec.ofNat 64 (leOf bs))
  | .error _ => none

/-- How the dependences of a launch stand: refused, or met or not. -/
def State.deps (s : State) (ctx : Nat) (p : Packet) : Option Bool :=
  p.deps.foldl (fun acc d => match acc, s.depWord ctx d.1 with
    | some m, some x =>
      if x.getLsbD 63 then none else some (m && d.2.toNat ≤ (x.extractLsb' 0 56).toNat)
    | _, _ => none) (some true)

/-- Words of the placement map (R80). -/
def mapOf (bs : List Byte) (n : Nat) : List (Nat × Nat) :=
  (List.range n).map fun i => (wordAt bs (4 * i) 2, wordAt bs (4 * i + 2) 2)

/-- An image offset lies in an executable page of device memory. -/
def State.executable (s : State) (ctx : Nat) (a : Dword) : Bool := (s.dispatcherAddr ctx a .fetch).isSome

/-- `n` bytes from an address on can be read, by pages of 64 KiB at least (R291). -/
def State.readable (s : State) (ctx : Nat) (a n : Nat) : Bool :=
  n == 0 || (List.range ((a + n - 1) / 65536 + 1 - a / 65536)).all fun i =>
    (s.dispatcherAddr ctx (BitVec.ofNat 64 (Nat.max a ((a / 65536 + i) * 65536))) .read).isSome

/-- What the dispatcher meets in the bytes that it reads: corrected or logged (R344, R347). -/
def State.dispatcherMeets (s : State) (ctx : Nat) (spans : List (Nat × Nat)) : State :=
  spans.foldl (fun s x => (s.rangeSpans ctx x.1 x.2).foldl (fun s y => s.readSpan ctx y.1 y.2) s) s

/-- Spans of a packet, of its descriptor, records and map, and of its dependence words. -/
def packetSpans (va : Nat) (p : Packet) (head : List Byte) : List (Nat × Nat) :=
  [(va, 128), (p.image.toNat, descBytes head), (p.map.toNat, 4 * p.blocks)]
    ++ p.deps.map fun d => (d.1.toNat, 8)

/-- The checks of code IMAGE and, if they pass, descriptor and map (R82). -/
def State.readImage (s : State) (ctx : Nat) (p : Packet) : Option (Desc × List (Nat × Nat)) :=
  match s.dispatcherRead ctx p.image.toNat 64, s.dispatcherRead ctx p.map.toNat (4 * p.blocks) with
  | .ok head, .ok ms =>
    let map := mapOf ms p.blocks
    if !headOk head then none
    else match s.dispatcherRead ctx p.image.toNat (descBytes head) with
      | .ok bs =>
        let x := Desc.of bs
        if recordsOk bs map
            && (x.layouts.all fun l => s.executable ctx (p.image + BitVec.ofNat 64 l.entry))
            && s.readable ctx p.image.toNat x.size && (p.redundant || map.all (·.2 == 0)) then some (x, map)
        else none
      | .error _ => none
  | _, _ => none

/-- The end of the checks of a packet: a code, or what the launch needs and whether its dependences are
met. -/
def State.checkLaunch (s : State) (vf ctx : Nat) (bs : List Byte) :
    Except Nat (Desc × List (Nat × Nat) × Bool) :=
  let p := Packet.of bs
  if !packetOk bs then .error 1
  else match s.readImage ctx p with
    | none => .error 2
    | some (x, map) =>
      let code := s.mapCode vf p x map
      if code != 0 then .error code
      else match s.deps ctx p with
        | none => .error 8
        | some met => .ok (x, map, met)

/-! ## Queues (R369, R370) -/

/-- A queue's registers. -/
def Vf.queue (v : Vf) (q : Nat) : Queue := sparseGet Queue.reset v.queues q

def Vf.setQueue (v : Vf) (q : Nat) (x : Queue) : Vf :=
  { v with queues := sparseSet Queue.reset v.queues q x }

/-- log2 of a queue's entries, its context number in the function, its cap. -/
def Queue.n (x : Queue) : Nat := (x.ctl.extractLsb' 0 4).toNat
def Queue.context (x : Queue) : Nat := (x.ctl.extractLsb' 6 6).toNat
def Queue.cap (x : Queue) : Nat := (x.ctl.extractLsb' 12 3).toNat

/-- The head leaves an entry; indices run from 0 to 2^n − 1. -/
def Queue.pop (x : Queue) : Queue :=
  { x with head := BitVec.ofNat 32 ((x.head.toNat + 1) % 2 ^ x.n) }

/-- The entry at the head of a queue has left it (R370). -/
def State.popQueue (s : State) (vf q : Nat) : State :=
  s.updVf vf fun v =>
    if q == 15 then { v with devq := v.devq.drop 1, devHead := (v.devHead + 1) % deviceQueue } else v.setQueue q (v.queue q).pop

/-- A launch of the queue is taken and has not started a block. -/
def State.taken (s : State) (vf q : Nat) : Bool :=
  s.launches.any fun l => l.vf == vf && l.queue == q && (s.grid? l.grid).isNone

/-- A context exists and is not being killed. -/
def State.ctxUsable (s : State) (c : Nat) : Bool :=
  match s.ctx? c with
  | some x => !x.killing && !x.dead
  | none => false

/-- The next entry that the dispatcher may take: packet address and context. -/
def State.entry (s : State) (vf q : Nat) : Option (Dword × Nat) :=
  let v := s.vf vf
  if !v.ctl.getLsbD 16 || s.taken vf q then none
  else if q == 15 then (v.devq.head?).filter fun x => s.ctxUsable x.2
  else
    let x := v.queue q
    let ctx := 64 * vf + x.context
    if q < 15 && x.ctl.getLsbD 15 && x.tail.toNat % 2 ^ x.n != x.head.toNat && s.ctxUsable ctx then
      some (BitVec.ofNat 64 (readLE s.host (x.base.toNat + 8 * x.head.toNat) 8), ctx)
    else none

/-- Rejects a launch with a code in its completion word (R82, R85). -/
def State.reject (s : State) (ctx : Nat) (done : Dword) (code : Nat) : State :=
  s.completionUpdate 0 ctx done .or (failureWord code)

/-- The head of queue 15 is an entry that a kill discarded (R370). -/
def State.stale (s : State) (vf q : Nat) : Bool :=
  q == 15 && match (s.vf vf).devq.head? with
    | some x => x.2 == discarded
    | none => false

/-- Host writes of a function that are not performed (R364). -/
def State.hostPending (s : State) (vf : Nat) : List Nat :=
  (s.accs.filter fun a => a.host == some vf).map Acc.id

/-- The dispatcher takes an entry of a queue (R370, R371). An entry that a kill discarded leaves the queue
without more. -/
def State.takeEntry (s : State) (vf q : Nat) : State :=
  match s.entry vf q with
  | none => if s.stale vf q then s.popQueue vf q else s
  | some (va, ctx) =>
    let bytes := if va.toNat % 64 != 0 then .error va.toNat else s.dispatcherRead ctx va.toNat 128
    match bytes with
    | .error a =>
      (s.pushStop ctx (s.notice 0x00020000 va (BitVec.ofNat 64 a))).popQueue vf q
    | .ok bs =>
      let p := Packet.of bs
      let answer := s.checkLaunch vf ctx bs
      let head := match s.dispatcherRead ctx p.image.toNat 64 with
        | .ok x => x
        | .error _ => []
      let s := if q < 15 then s.onLink else s
      let s := s.dispatcherMeets ctx (if packetOk bs then packetSpans va.toNat p head else [(va.toNat, 128)])
      match answer with
      | .error code => (s.reject ctx p.done code).popQueue vf q
      | .ok (desc, map, met) =>
        let v := s.vf vf
        let cap := if q == 15 then v.devCap.toNat else (v.queue q).cap
        let prio := Nat.min p.priority (Nat.min cap (v.ctl.extractLsb' 8 3).toNat)
        let l : Launch :=
          { id := s.nextId, vf, queue := q, ctx, packet := { p with priority := prio }, desc, map, met,
            grid := s.nextId + 1, waiting := List.range (p.units p.blocks) }
        { s.fresh.fresh with launches := s.launches ++ [l] }

/-! ## DEPENDENCE_REREAD (R84) -/

/-- DEPENDENCE_REREAD: a waiting launch reads its dependence words again. -/
def State.reread (s : State) (id : Nat) : State :=
  match s.launches.find? (·.id == id) with
  | none => s
  | some l =>
    if l.met || !s.ctxUsable l.ctx then s
    else
    let answer := s.deps l.ctx l.packet
    let s := s.dispatcherMeets l.ctx (l.packet.deps.map fun d => (d.1.toNat, 8))
    match answer with
      | none =>
        let s := (s.reject l.ctx l.packet.done 8).popQueue l.vf l.queue
        { s with launches := s.launches.filter (·.id != id) }
      | some met => { s with launches := s.launches.map fun (x : Launch) =>
          if x.id == id then { x with met := met } else x }

def execDependenceReread (launch : Nat) (s : State) : Out := .next (s.reread launch)

/-! ## Room for blocks, and their start (R83, R113, R276, R281) -/

/-- Sets of each kind in a router. -/
def routerSets : Nat := 8

/-- Tree entries of a router (R281). -/
def routerTrees : Nat := 16

/-- Clusters of a list of cores. -/
def clustersOf (cores : List Nat) : List Nat := (cores.map clusterOf).foldl (fun m c => insertNat c m) []

/-- Routers that hold a grid, in both copies. -/
def gridClusters (p : Packet) (map : List (Nat × Nat)) : List Nat := clustersOf (map.flatMap p.coresOf)

/-- Grid-register sets that a grid needs at a router, one for each copy that has a block there (R113, R350). -/
def gNeeds (p : Packet) (map : List (Nat × Nat)) (c : Nat) : Nat :=
  (if map.any fun e => clusterOf e.1 == c then 1 else 0)
    + (if p.redundant && map.any fun e => clusterOf e.2 == c then 1 else 0)

/-- Grid-register sets in use at a router, until the grid's last block retires (R111). -/
def State.gSets (s : State) (c : Nat) : Nat :=
  s.grids.foldl (fun n g => if g.finished then n else n + gNeeds g.packet g.map c) 0

/-- Launch clusters of a grid, in one copy, that hold a resident block at a router. -/
def State.kSets (s : State) (c : Nat) : Nat :=
  let units := (s.blocks.filter fun b => clusterOf b.core == c).map fun b =>
    (b.grid, b.trail, match s.grid? b.grid with
      | some g => g.clusterIndex b.index
      | none => b.index)
  units.eraseDups.length

/-- Tree entries in use at a router, until the grid's last block retires: one for each tree and each copy that has
a block there (R281, R350). -/
def State.treeUse (s : State) (c : Nat) : Nat :=
  s.grids.foldl (fun n g => if g.finished then n else n + gNeeds g.packet g.map c * g.desc.trees.length) 0

/-- Block indices of a launch that start together: one launch cluster, or all under `co-resident`. -/
def Launch.together (l : Launch) (unit : Nat) : List Nat :=
  (List.range l.map.length).filter fun i => l.packet.coResident || i / l.packet.cluster == unit

/-- Cores of the blocks of given indices, in both copies. -/
def Launch.coresOf (l : Launch) (is : List Nat) : List Nat :=
  is.flatMap fun i => match l.map[i]? with
    | some e => l.packet.coresOf e
    | none => []

/-- Cluster-register sets that blocks of given indices need at a router: one for each launch cluster in each
copy that has a block there (R113, R350). -/
def Launch.kNeeds (l : Launch) (is : List Nat) (c : Nat) : Nat :=
  let at' (f : Nat × Nat → Nat) := is.filter fun i => (l.map[i]?).any fun e => clusterOf (f e) == c
  let units (js : List Nat) := (js.map fun i => i / l.packet.cluster).eraseDups.length
  units (at' Prod.fst) + if l.packet.redundant then units (at' Prod.snd) else 0

/-- Places in the warp file of a core that warps of a context hold, evicted ones among them: each has a
record of its own there (R81, R316). -/
def State.placesUsed (s : State) (ctx core : Nat) : List Nat :=
  (s.blocks.filter fun b => b.core == core && s.ctxOf b == ctx).flatMap fun b =>
    (List.range b.slots).map b.place

/-- The lowest free places of a context on a core. -/
def State.freePlaces (s : State) (ctx core n : Nat) : List Nat :=
  ((List.range 32).filter fun p => !(s.placesUsed ctx core).contains p).take n

/-- The cores have room for the blocks of given indices (R77). -/
def State.coresFit (s : State) (l : Launch) (is : List Nat) : Bool :=
  let cores := l.coresOf is
  cores.all fun c => within (addAll (s.coreUse c) (l.desc.times (cores.filter (· == c)).length)) coreLimits

/-- What no eviction frees has room for the blocks: the places of the context in the warp files (R316), the
register sets and the tree entries (R83, R111, R113, R281). -/
def State.setsFit (s : State) (l : Launch) (is : List Nat) : Bool :=
  let cores := l.coresOf is
  let new := (s.grid? l.grid).isNone
  (cores.all fun c =>
      (s.placesUsed l.ctx c).length + (cores.filter (· == c)).length * l.desc.warps ≤ 32)
    && ((clustersOf cores).all fun c => s.kSets c + l.kNeeds is c ≤ routerSets)
    && (!new || (gridClusters l.packet l.map).all fun c =>
      s.gSets c + gNeeds l.packet l.map c ≤ routerSets
        && s.treeUse c + gNeeds l.packet l.map c * l.desc.trees.length ≤ routerTrees)

/-- Everything that the blocks need is free. -/
def State.fits (s : State) (l : Launch) (is : List Nat) : Bool := s.coresFit l is && s.setsFit l is

/-- A block as it starts (R79, R164, R200, R209, R236). -/
def Launch.block (l : Launch) (id index core : Nat) (trail : Bool) (now : Nat) : Block :=
  { Block.start id l.grid index core trail with
    slots := l.desc.warps
    warps := match l.desc.layouts with
      | x :: _ => x.warps now
      | [] => []
    scratchSize := l.desc.scratch, regions := l.desc.regions, opbufSize := l.desc.opbuf
    tileBudget := l.desc.tiles, rings := l.desc.rings.map Ring.initial
    chans := l.desc.chans.map fun d => { desc := d, credits := 0, landed := 0, taken := 0, asked := 0,
                                         sent := 0 } }

/-- Block that a channel of a block sends to (R274). -/
def Grid.receives (g : Grid) (x : ChanDesc) (index : Nat) : Nat :=
  (((index : Int) + x.peer) % (g.map.length : Int)).toNat

/-- Credits as a block starts: those of the blocks that send to it, and its own where its receivers have
started (R276). -/
def State.startCredits (s : State) (b : Block) (g : Grid) : State :=
  let started (i : Nat) : Bool := g.retired.contains (i, b.trail)
    || s.blocks.any fun x => x.grid == b.grid && x.index == i && x.trail == b.trail
  { s with blocks := s.blocks.map fun (x : Block) =>
      if x.grid != b.grid || x.trail != b.trail then x
      else { x with chans := x.chans.map fun (e : ChanEnd) =>
        let to' := g.receives e.desc x.index
        if to' == b.index || (x.id == b.id && started to') then { e with credits := e.desc.slots }
        else e } }

/-- Starts one block in one copy: at the lowest free places of its context on the core; the core's copy of
the grid registers is brought up to the home set first (R111, R112); a block of a halted context starts
halted (R319). -/
def State.startBlock (s : State) (l : Launch) (index core : Nat) (trail : Bool) : State :=
  let halted := match s.ctx? l.ctx with
    | some c => c.halted
    | none => false
  let b : Block := { l.block s.nextId index core trail s.now with
    places := s.freePlaces l.ctx core l.desc.warps }
  let b := if halted then { b with warps := b.warps.map fun w => { w with halted := true } } else b
  let first := !s.blocks.any fun x => x.grid == l.grid && x.trail == trail && x.core == core
  let s := s.updGrid l.grid fun g => if first then g.setG b ((g.gSet b).sync core) else g
  let s : State := { s.fresh with blocks := s.blocks ++ [b], dev := s.dev.rouse (clusterOf core) }
  match s.grid? l.grid with
  | some g => s.startCredits b g
  | none => s

/-! ## GRID_COMPLETION (R85) -/

/-- Nothing of a grid is left to perform or to be acknowledged. -/
def State.gridQuiet (s : State) (g : Grid) : Bool :=
  !(s.accs.any fun a => a.grid == g.id && a.kind.writes)
    && !(s.cmds.any fun c => match s.block? c.blk with
      | some b => b.grid == g.id
      | none => false)
    && !s.launches.any (·.grid == g.id)

/-- GRID_COMPLETION: the increment is added to the completion word, once. -/
def State.completeGrid (s : State) (id : Nat) : State :=
  match s.grid? id with
  | none => s
  | some g =>
    if !g.finished || !s.gridQuiet g then s
    else
      let s := s.completionUpdate id g.ctx g.packet.done .add (g.packet.increment.setWidth 64)
      { s with
        grids := s.grids.filter (·.id != id), messages := s.messages.filter (·.grid != id)
        credits := s.credits.filter (·.grid != id), treePkts := s.treePkts.filter (·.grid != id) }

def execGridCompletion (grid : Nat) (s : State) : Out := .next (s.completeGrid grid)

end Sys2Proof.Machine
end

