-- ==== Sys2Proof/Machine/Generations.lean ====
section
/-!
DEFINITION. Memory generations: SNAP (R334), the grant and the cut (R329), granary claims (R330, R331),
the wain (R332, R333), restore (R337) and the partition control block (R338).
-/

namespace Sys2Proof.Machine

/-! ## SNAP (R334) -/

/-- A function that has a partition (R366). -/
def Vf.hasPartition (v : Vf) : Bool := v.psize != 0

/-- Bit n mod 64 of permit gives context n of a function snapshot permission (R338). -/
def State.maySnap (s : State) (vf ctx : Nat) : Bool := (s.vf vf).part.permit.getLsbD (ctx % 64)

/-- The result of a SNAP, not ready: D for every lane of ACTIVE, event and report 0. -/
def Ctx.snapResult (c : Ctx) (d : Operand) : Result :=
  let x := c.result c.s (some d) 2
  { x with
    uni := true, judged := false, lanes := maskOf c.act, ready := false, event := some (0, 0)
    pend := x.pend ++ [.status] }

/-- The latest image and its drain, as a query answers (R334). -/
def State.snapState (s : State) (vf : Nat) : Dword :=
  let p := (s.vf vf).part
  let word (gen : Dword) (full : Bool) (state left : Nat) : Dword :=
    BitVec.ofNat 64 (gen.toNat % 2 ^ 32 + 2 ^ 32 * (left % 2 ^ 28 + 2 ^ 28 * state + 2 ^ 31 * full.toNat))
  match p.frozen, p.last with
  | some f, _ =>
    let waiting := s.accs.any fun a => a.waits && s.vfAt a.pa == some vf
    word f.gen f.full (if waiting then 2 else 1) f.left
  | none, some (gen, how, full, left) =>
    word gen full (match how with
      | .drained => 3
      | .released => 4
      | .aborted => 5) left
  | none, none => 0

/-- Updates the generation state of a function's partition. -/
def State.updPart (s : State) (vf : Nat) (f : Partition → Partition) : State :=
  s.updVf vf fun v => { v with part := f v.part }

/-- A result that the controller answers at once. -/
def Ctx.snapAnswer (c : Ctx) (s : State) (d : Operand) (y : Dword) : Eff :=
  .done (s.pushResult c.r { c.snapResult d with
    ready := true, vals := [(c.lane0, y.setWidth 128)] })

/-- Fields common to the three forms. -/
def snapEntry (sw : Bool) (d : Operand) : Entry :=
  { sw, uses := [Use.dst d 2], closes := .unlessPaired, ahead := .poison }

/-- A pair-performed request, its copy of the trailing block performing nothing (R354). -/
def Ctx.snapPaired (c : Ctx) (d : Operand) (form : Nat) (perform : Ctx → Eff) : Eff :=
  c.paired { op := 0x7B, args := [(form, 0, 0)] } (some d) 2 fun c =>
    if c.shadow then .done (c.s.pushResult c.r (c.snapResult d)) else perform c

def snapStartEff (d : Operand) (incr dev : Bool) (c : Ctx) : Eff :=
  if !c.s.maySnap c.g.vf c.ctx || (dev && !c.s.privileged c.ctx) then execFault fcPermission
  else c.snapPaired d (8 * incr.toNat + 4 * dev.toNat) fun c =>
    let x := c.snapResult d
    let s := c.s.pushResult c.r x
    let q : SnapReq := { id := s.nextId, blk := c.b.id, slot := c.r.slot, vf := c.g.vf, result := x.id,
                         dev, incr, granted := none }
    .done { s.fresh with snaps := s.snaps ++ [q] }

/-- SNAP start (R334). -/
def execSnapStart (sw : Bool) (d : Operand) (incr dev : Bool) (s : State) : Out :=
  .next (runWord s (fun _ => snapEntry sw d) (snapStartEff d incr dev))

/-- SNAP query (R334). -/
def execSnapQuery (sw : Bool) (d : Operand) (s : State) : Out :=
  .next (runWord s (fun _ => snapEntry sw d) fun c =>
    c.snapPaired d 1 fun c => c.snapAnswer c.s d (c.s.snapState c.g.vf))

/-- SNAP release (R334). -/
def execSnapRelease (sw : Bool) (d : Operand) (s : State) : Out :=
  .next (runWord s (fun _ => snapEntry sw d) fun c =>
    if !c.s.maySnap c.g.vf c.ctx then execFault fcPermission
    else c.snapPaired d 2 fun c =>
      c.snapAnswer (c.s.updPart c.g.vf fun p => p.endFrozen .released) d 0)

/-! ## GENERATION_GRANT and CUT_COMPLETE (R329) -/

/-- The functions whose partitions a request covers. -/
def State.snapCovers (s : State) (q : SnapReq) : List Nat :=
  if q.dev then insertNat q.vf ((s.vfs.filter Vf.hasPartition).map Vf.id) else [q.vf]

/-- The next generation of a partition: the old image is frozen, dest and granary take effect (R329,
R332, R338); `asleep` lists the units that count as having adopted, and adopt as they wake. -/
def Vf.nextGen (v : Vf) (incr : Bool) (now : Nat) (asleep : List Nat) : Vf :=
  let p := v.part
  let base := p.dest != 0 && p.drained == some (p.gen - 1, p.dest)
  let f : Frozen :=
    { gen := p.gen, full := !(incr && base), begun := false, drain := p.touched,
      next := v.pbase.toNat, stop := v.pbase.toNat + v.psize.toNat, claims := [], copies := [],
      badCopies := [], softCopies := [] }
  { v with part := { p with
      gen := p.gen + 1, cut := some { adopted := asleep, start := now }, frozen := some f, touched := [],
      active := p.dest
      granaryNow := match p.granary with
        | some n => n.toNat
        | none => v.psize.toNat / 4096 / 8 } }

/-- Answers a request's warp. -/
def State.snapReply (s : State) (q : SnapReq) (y : Dword) (ev : BitVec 8) : State :=
  s.updWarp { blk := q.blk, slot := q.slot } fun w => { w with
    results := w.results.map fun (x : Result) => if x.id == q.result then
      { x with ready := true, vals := [((lanesOf 64 x.lanes).headD 0, y.setWidth 128)],
               event := some (ev, 0) } else x }

/-- Cores of the clusters in I2, which adopt as they wake (R329). -/
def State.sleepers (s : State) : List Nat :=
  (List.range Config.cores).filter fun c => sparseGet 0 s.dev.idle (clusterOf c) == 2

/-- A cut is in progress; the one controller then grants no start of any partition (R329). -/
def State.cutting (s : State) : Bool := s.vfs.any fun v => v.part.cut.isSome

/-- GENERATION_GRANT: the controller takes its oldest request, once no cut is in progress: a later start waits
for the completion, and is answered BUSY only then (R329, R334). -/
def State.grant (s : State) (id : Nat) : State :=
  match s.snaps.find? (·.granted.isNone) with
  | none => s
  | some q =>
    let vs := s.snapCovers q
    if q.id != id || s.cutting then s
    else if vs.any fun v => (s.vf v).part.frozen.isSome then
      { (s.snapReply q 0 0x01) with snaps := s.snaps.filter (·.id != id) }
    else
      let s := vs.foldl (fun s v => s.updVf v fun x => x.nextGen q.incr s.now s.sleepers) s
      let g := (s.vf q.vf).part.gen
      let s := s.updDev fun d => { d with idle := d.idle.filter fun x => x.2 != 1 }
      { s with snaps := s.snaps.map fun (x : SnapReq) =>
          if x.id == id then { x with granted := some g } else x }

def execGenerationGrant (id : Nat) (s : State) : Out := .next (s.grant id)

/-- Units of the part: 768 cores and 192 slices. -/
def unitCount : Nat := 960

/-- Each unit adopts the new generation when it receives it, at a time of its own (R329 step 2). -/
def Cut.receive (c : Cut) (now : Nat) : Cut :=
  { c with adopted := (List.range unitCount).filter fun u =>
      c.adopted.contains u || c.start + Config.adoptDelay c.start u % 8193 ≤ now }

/-- The units receive what has reached them by now (R329). -/
def State.receive (s : State) : State :=
  { s with vfs := s.vfs.map fun v =>
      { v with part := { v.part with cut := v.part.cut.map fun c => c.receive s.now } } }

/-- Every unit has adopted the generation of a granted request (R329 step 3). -/
def State.cutReady (s : State) (q : SnapReq) : Bool :=
  q.granted.isSome && (s.snapCovers q).all fun v => match (s.vf v).part.cut with
    | some c => unitCount ≤ c.adopted.length
    | none => true

/-- CUT_COMPLETE: once every unit has adopted, the result is written. -/
def State.cutDone (s : State) (id : Nat) : State :=
  match s.snaps.find? (·.id == id) with
  | none => s
  | some q =>
    match q.granted with
    | none => s
    | some g =>
      if !s.cutReady q then s
      else
      let s := (s.snapCovers q).foldl (fun s v => s.updPart v fun p => { p with cut := none }) s
      { (s.snapReply q g 0) with snaps := s.snaps.filter (·.id != id) }

def execCutComplete (id : Nat) (s : State) : Out := .next (s.cutDone id)

/-! ## GRANARY_CLAIM (R330, R331) -/

/-- The claim and the copy that a write needs, made ahead of it; a write that finds the granary full
waits. -/
def State.claim (s : State) (id : Nat) : State :=
  match s.accs.find? (·.id == id) with
  | none => s
  | some a =>
    match (if a.remote || !a.kind.writes || !a.after.isEmpty then none else s.vfAt a.pa) with
    | none => s
    | some v =>
      let p := (s.vf v).part
      let gen := a.gen.getD (p.adopted (768 + sliceOf a.pa))
      if gen != p.gen || p.frozen.isNone then s
      else match s.prepare v a.pa gen with
        | some t => { t with accs := t.accs.map fun (x : Acc) =>
            if x.id == id then { x with waits := false } else x }
        | none => { s with accs := s.accs.map fun (x : Acc) =>
            if x.id == id then { x with waits := true } else x }

def execGranaryClaim (id : Nat) (s : State) : Out := .next (s.claim id)

/-! ## The wain (R332) -/

/-- A write of the frozen generation that left its core is not performed. -/
def State.frozenOut (s : State) (v : Nat) (gen : Dword) : Bool :=
  s.accs.any fun a => !a.remote && a.gen == some gen && s.vfAt a.pa == some v

/-- The frozen image as the wain finds it: claims and copies outside the drain set go (R330). -/
def Frozen.begin (f : Frozen) : Frozen :=
  let f : Frozen := { f with begun := true }
  { f with
    claims := f.claims.filter f.kept, copies := f.copies.filter fun c => f.kept (c.1 / 4096 * 4096)
    badCopies := f.badCopies.filter fun a => f.kept (a / 4096 * 4096)
    softCopies := f.softCopies.filter fun a => f.kept (a / 4096 * 4096) }

/-- A frozen image of which nothing is left is drained (R333). -/
def Partition.settle (p : Partition) : Partition :=
  match p.frozen with
  | none => p
  | some f =>
    if f.begun && f.left == 0 then
      { p with frozen := none, drained := some (f.gen, p.active), last := some (f.gen, .drained, f.full, 0) }
    else p

/-- WAIN_START (R332). -/
def State.wainStart (s : State) (v : Nat) : State :=
  let p := (s.vf v).part
  match p.frozen with
  | none => s
  | some f =>
    if f.begun || p.cut.isSome || p.active == 0 || s.frozenOut v f.gen then s
    else s.updPart v fun p => ({ p with frozen := some f.begin } : Partition).settle

def execWainStart (vf : Nat) (s : State) : Out := .next (s.wainStart vf)

/-- The granule that the wain drains next. -/
def Frozen.first (f : Frozen) : Option Nat :=
  if f.full then (if f.next < f.stop then some f.next else none) else f.drain.head?

/-- The frozen image once a granule is drained. -/
def Frozen.drop (f : Frozen) (g : Nat) : Frozen :=
  { f with
    drain := f.drain.filter (· != g), next := if f.full then g + 4096 else f.next
    claims := f.claims.filter (· != g), copies := f.copies.filter fun c => c.1 / 4096 * 4096 != g
    badCopies := f.badCopies.filter fun a => a / 4096 * 4096 != g
    softCopies := f.softCopies.filter fun a => a / 4096 * 4096 != g }

/-- The bytes of a granule in the frozen image: of each line, its copy or the live line. -/
def State.granuleImage (s : State) (f : Frozen) (g : Nat) : List Byte :=
  (List.range 32).flatMap fun i =>
    match f.copies.find? (·.1 == g + 128 * i) with
    | some c => c.2
    | none => readBytes s.mem (g + 128 * i) 128

/-- A line of the frozen image was copied. -/
def Frozen.copied (f : Frozen) (line : Nat) : Bool := f.copies.any (·.1 == line)

/-- Words of a granule's image with an uncorrectable error (R343). -/
def State.granuleBad (s : State) (f : Frozen) (g : Nat) : List Nat :=
  ((f.badCopies.filter fun a => f.copied (lineOf a))
    ++ s.dev.badWords.filter fun a => !f.copied (lineOf a)).filter fun a => a / 4096 * 4096 == g

/-- The wain reads a granule: what it meets, in a copy or in the live line, is corrected or logged (R344,
R347). -/
def State.granuleRead (s : State) (f : Frozen) (g : Nat) : State :=
  (List.range 32).foldl (fun s i =>
    let line := g + 128 * i
    if !f.copied line then s.readSpan 0xFFFF line 128
    else
      let chan := channelOf line
      let s := if f.softCopies.contains line then
          (s.log 1 .dram chan 0xFFFF (BitVec.ofNat 64 line)).countCorrected chan else s
      if f.badCopies.any fun a => lineOf a == line then
        s.log 2 .dram chan 0xFFFF (BitVec.ofNat 64 line) else s) s

/-- WAIN_DRAIN_GRANULE (R332). -/
def State.wainDrain (s : State) (v : Nat) : State :=
  let x := s.vf v
  match x.part.frozen with
  | none => s
  | some f =>
    match f.first with
    | none => s
    | some g =>
      if !f.begun then s
      else
        let to' := x.part.active.toNat + (g - x.pbase.toNat)
        let bad := (s.granuleBad f g).map fun a => to' + (a - g)
        let t : State := { (s.granuleRead f g) with low := writeBytes s.low to' (s.granuleImage f g) }
        (t.updDev fun d => { d with
            lowBad := bad.foldl (fun l a => insertNat a l) (keepMarks d.lowBad to' 4096) }).updPart v fun p =>
          ({ p with frozen := some (f.drop g) } : Partition).settle

def execWainDrainGranule (vf : Nat) (s : State) : Out := .next (s.wainDrain vf)

/-- FROZEN_IMAGE_RELEASE_REQUEST (R333). -/
def execFrozenImageReleaseRequest (vf : Nat) (s : State) : Out :=
  s.hostIn fun s => s.updPart vf fun p => p.endFrozen .released

/-! ## GENERATION_RESTORE (R337) -/

/-- The entries of a sparse memory in `[src, src + n)`, moved to `dst`, in place of what is there. -/
def copyRange (frm to' : Memory) (src dst n : Nat) : Memory :=
  (to'.filter fun x => x.1 < dst)
    ++ ((frm.filter fun x => src ≤ x.1 && x.1 < src + n).map fun x => (x.1 - src + dst, x.2))
    ++ to'.filter fun x => dst + n ≤ x.1

/-- The function has a resident block. -/
def State.vfBusy (s : State) (v : Nat) : Bool :=
  s.blocks.any fun b => match s.grid? b.grid with
    | some g => g.vf == v
    | none => false

/-- GENERATION_RESTORE: refused while the function has a resident block, or a cut is in progress. The
lower-tier image is the one that dest names; what is marked there is marked in the partition (R343). Every
granule counts as written in the generation that ends (R337 step 3, R341). -/
def State.restore (s : State) (v : Nat) : State :=
  let x := s.vf v
  if s.vfBusy v || s.cutting || x.psize == 0 || x.part.dest == 0 then s
  else
    let lo := x.pbase.toNat
    let n := x.psize.toNat
    let s := s.updPart v fun p => { p.endFrozen .released with
      drained := none, touched := (List.range (n / 4096)).map (lo + 4096 * ·) }
    let src := x.part.dest.toNat
    let changed := ((s.mem.filter fun c => lo ≤ c.1 && c.1 < lo + n).map Prod.fst)
      ++ ((s.low.filter fun c => src ≤ c.1 && c.1 < src + n).map fun c => c.1 - src + lo)
    let s : State := { s with
      mem := copyRange s.low s.mem src lo n
      code := s.code.map fun c => if c.leaf.lower then c else
        c.keepAt s.mem (changed.filter fun a => c.leaf.pa ≤ a && a < c.leaf.pa + c.leaf.size).eraseDups
      scrubs := s.scrubs.map fun (c : Scrub) =>
        if lo ≤ c.line && c.line < lo + n then { c with stale := true } else c }
    let s := s.updDev fun d => { d with
      badWords := ((d.lowBad.filter fun a => src ≤ a && a < src + n).map fun a => a - src + lo).foldl
        (fun l a => insertNat a l) (d.badWords.filter fun a => !(lo ≤ a && a < lo + n)) }
    let s := s.updVf v fun x => x.nextGen false s.now s.sleepers
    let q : SnapReq := { id := s.nextId, blk := 0, slot := 0, vf := v, result := 0, dev := false,
                         incr := false, granted := some (s.vf v).part.gen }
    { s.fresh with snaps := s.snaps ++ [q] }

def execGenerationRestore (vf : Nat) (s : State) : Out := s.hostIn fun s => s.restore vf

/-! ## PARTITION_CONTROL_WRITE (R338) -/

/-- A write of a control block field; while a frozen image exists, dest and granary keep their values. -/
def Partition.control (p : Partition) (off : Nat) (v : Dword) : Partition :=
  match off with
  | 0x00 => if p.frozen.isSome || v.extractLsb' 0 12 != 0 then p else { p with dest := v }
  | 0x08 =>
    { p with
      abort := v.getLsbD 40, share := v.extractLsb' 32 6
      granary := if p.frozen.isSome then p.granary else some (v.extractLsb' 0 28) }
  | 0x18 => { p with permit := v }
  | _ => p

def execPartitionControlWrite (vf off : Nat) (v : Dword) (s : State) : Out :=
  s.hostIn fun s => if vf < Config.functions then s.updPart vf fun p => p.control off v else s

end Sys2Proof.Machine
end

