-- ==== Sys2Proof/Machine/Reliability.lean ====
section
/-!
DEFINITION. The error log (R344), links (R342), gleaners and corrected write-backs (R345 to R347),
spare banks and sites, and the in-field test with its migration (R356 to R359).
-/

namespace Sys2Proof.Machine

/-! ## The error log ring (R344) -/

/-- The second word of a record. -/
def LogRec.word (r : LogRec) : Nat :=
  r.kind * 2 ^ 56 + r.domain * 2 ^ 48 + r.location % 65536 * 2 ^ 32 + r.ctx % 65536 * 2 ^ 16 + r.count

/-- The 32 bytes of a record. -/
def LogRec.bytes (r : LogRec) : List Byte :=
  leBytes 8 r.seq ++ leBytes 8 r.word ++ leBytes 8 r.addr.toNat ++ leBytes 8 r.cycles

/-- ERROR_LOG_RECORD: the oldest waiting record is written at slot tail, once the ring is configured
and has a free slot. -/
def State.writeLog (s : State) : State :=
  let d := s.dev
  let slots := 2 ^ d.logN
  let next := (d.logTail.toNat + 1) % slots
  match d.logWait with
  | [] => s
  | r :: rest =>
    if d.logBase == 0 || next == d.logHead.toNat then s
    else
      { s with
        host := writeBytes s.host (d.logBase.toNat + 32 * d.logTail.toNat) r.bytes
        dev := { d with logWait := rest, logTail := BitVec.ofNat 32 next } }

def execErrorLogRecord (s : State) : Out := .next s.writeLog

/-- A write that a rule of a register's table ignores: the PF's error register reports its offset
(R366, R369). -/
def State.ignoreWrite (s : State) (off : Nat) : State :=
  s.updDev fun d => { d with pfError := BitVec.ofNat 64 off }

/-- ERROR_LOG_CONFIG_WRITE: base at 0x100, n at 0x108. A value outside the field's range is ignored. -/
def State.logConfig (s : State) (off : Nat) (v : Dword) : State :=
  if off == 0x100 && v.toNat % 4096 == 0 then
    s.updDev fun d => { d with logBase := v, logHead := 0, logTail := 0 }
  else if off == 0x108 && 4 ≤ v.toNat && v.toNat ≤ 20 then
    s.updDev fun d => { d with logN := v.toNat, logHead := 0, logTail := 0 }
  else s.ignoreWrite off

def execErrorLogConfigWrite (off : Nat) (v : Dword) (s : State) : Out :=
  s.hostIn fun s => s.logConfig off v

/-- ERROR_LOG_HEAD_WRITE: a head outside 0 to 2^n − 1 is ignored. -/
def State.logHeadWrite (s : State) (v : Dword) : State :=
  if v.toNat < 2 ^ s.dev.logN then s.updDev fun d => { d with logHead := v.setWidth 32 }
  else s.ignoreWrite 0x110

def execErrorLogHeadWrite (v : Dword) (s : State) : Out := s.hostIn fun s => s.logHeadWrite v

/-! ## Links (R342, R374) -/

/-- A link that exists: a torus link at one of the 192 routers, one of the 16 Fleton ports, one of the 8 UCIe
modules (R1, R2, R344). -/
def isLink (domain : Domain) (loc : Nat) : Bool :=
  match domain with
  | .torus => loc < Config.clusters
  | .fleton => loc < 16
  | .ucie => loc < 8
  | _ => false

/-- A link's key. -/
def linkKey (domain : Domain) (loc : Nat) : Nat := 65536 * domainCode domain + loc % 65536

/-- LINK_RETRY: a flit that fails its CRC is resent, up to 8 times. -/
def State.retryLink (s : State) (domain : Domain) (loc : Nat) : State :=
  let k := linkKey domain loc
  let n := sparseGet 0 s.dev.resends k
  if !isLink domain loc || 8 ≤ n then s
  else (s.updDev fun d => { d with resends := sparseSet 0 d.resends k (n + 1) }).log 4 domain loc
    0xFFFF 0

def execLinkRetry (domain : Domain) (loc : Nat) (s : State) : Out := .next (s.retryLink domain loc)

/-- LINK_RETRAIN: after 8 failed resends; a Fleton port that fails it is taken down. -/
def State.retrainLink (s : State) (domain : Domain) (loc : Nat) (ok : Bool) : State :=
  let k := linkKey domain loc
  if !isLink domain loc || sparseGet 0 s.dev.resends k < 8 then s
  else
    let s := s.log 5 domain loc 0xFFFF 0
    if ok then s.updDev fun d => { d with resends := sparseSet 0 d.resends k 0 }
    else if domain == .fleton then s.updDev fun d => { d with
      resends := sparseSet 0 d.resends k 0, downPorts := insertNat loc d.downPorts }
    else s

def execLinkRetrain (domain : Domain) (loc : Nat) (ok : Bool) (s : State) : Out :=
  .next (s.retrainLink domain loc ok)

/-! ## The gleaners and the write-back of a corrected line (R345 to R347) -/

/-- Lines of a channel. -/
def channelLines : Nat := 8388608

/-- Line `i` of a channel, in ascending address (R4, R180, log row 9). -/
def channelLine (chan i : Nat) : Nat := 128 * (chan / 4 + 192 * (chan % 4) + Config.channels * i)

/-- A granary copy of a line is scrubbed like the line itself: a correctable error of it is corrected and
logged (R342, R347). Copies are read with their line (DESIGN CHOICE, log row 98). -/
def State.scrubCopies (s : State) (line : Nat) : State :=
  let soft (f : Frozen) : Bool := f.softCopies.contains line
  if !s.vfs.any fun v => v.part.frozen.any soft then s
  else
    let chan := channelOf line
    let t := (s.log 1 .dram chan 0xFFFF (BitVec.ofNat 64 line)).countCorrected chan
    { t with vfs := t.vfs.map fun v => { v with part := { v.part with
        frozen := v.part.frozen.map fun f =>
          { f with softCopies := f.softCopies.filter (· != line) } } } }

/-- GLEANER_READ: the next line of a channel, in ascending address. The gleaners pause while the
device idles (R384). -/
def State.glean (s : State) (chan : Nat) : State :=
  if Config.channels ≤ chan || s.dev.deviceIdle != 0 then s
  else
    let i := sparseGet 0 s.dev.gleaner chan
    let line := channelLine chan i
    let s := s.updDev fun d => { d with gleaner := sparseSet 0 d.gleaner chan ((i + 1) % channelLines) }
    (s.readSpan 0xFFFF line 128).scrubCopies line

def execGleanerRead (chan : Nat) (s : State) : Out := .next (s.glean chan)

/-- SCRUB_WRITEBACK: performed unless a write has reached the line since the read. It changes no
value and belongs to no generation. -/
def State.scrub (s : State) (id : Nat) : State :=
  match s.scrubs.find? (·.id == id) with
  | none => s
  | some c =>
    let s := if c.stale then s
      else s.updDev fun d => { d with softLines := d.softLines.filter (· != c.line) }
    { s with scrubs := s.scrubs.filter (·.id != id) }

def execScrubWriteback (id : Nat) (s : State) : Out := .next (s.scrub id)

/-! ## Spare banks (R356, R357) -/

/-- Spare banks of a DRAM layer. -/
def layerBanks : Nat := 32

/-- The DRAM layer of a channel: layer l of die d is 4·d + l, and the four channels of a slice lie in
the four layers of its die (DEDUCED, log row 9). -/
def layerOf (chan : Nat) : Nat := 4 * dieOf (chan / 4) + chan % 4

/-- SPARE_BANK: the bank's content is copied into a spare and changes no value. -/
def State.useBank (s : State) (chan : Nat) : State :=
  let k := layerOf chan
  let n := sparseGet 0 s.dev.banksUsed k
  if Config.channels ≤ chan || layerBanks ≤ n then s
  else
    let s := (s.updDev fun d => { d with banksUsed := sparseSet 0 d.banksUsed k (n + 1) }).log 0x0C
      .dram chan 0xFFFF 0
    if layerBanks < n + 1 + 4 then s.requestReplace .dram chan else s

def execSpareBank (chan : Nat) (s : State) : Out := .next (s.useBank chan)

/-! ## In-field test (R358, R359) -/

/-- Cores of a logical cluster. -/
def coresIn (cluster : Nat) : List Nat := (List.range 4).map (4 * cluster + ·)

/-- The site a logical cluster occupies, and a die's spare site (R6, R358). -/
def Device.siteOf (d : Device) (cluster : Nat) : Nat :=
  match sparseGet 0 d.remap cluster with
  | 0 => cluster
  | n + 1 => n
def Device.spareOf (d : Device) (die : Nat) : Nat :=
  match sparseGet 0 d.spare die with
  | 0 => 192 + die
  | n + 1 => n

/-- A logical cluster moves to the spare site of its die, and the spare's use is logged. -/
def State.takeSpare (s : State) (cluster : Nat) : State :=
  let site := s.dev.spareOf (dieOf cluster)
  (s.updDev fun d => { d with
    remap := sparseSet 0 d.remap cluster (if site == cluster then 0 else site + 1) }).log 0x0B .site
    cluster 0xFFFF 0

/-- A test of the cluster's site can come: the cluster is present and its die has a spare site. -/
def State.testable (s : State) (cluster : Nat) : Bool :=
  cluster < Config.clusters && !s.dev.nospare.contains (dieOf cluster) && !s.dev.absent.contains cluster

/-- A suspect core lies in the cluster (R349). -/
def State.suspectAt (s : State) (cluster : Nat) : Bool := (coresIn cluster).any fun c => (s.core c).suspect

/-- Firmware may take a site out: its die has a spare and tests no other site, no warp on its cores
has a PDIS region open, no pre-emption of the cores is in progress, and their array queues have
drained. A suspect core's site goes ahead of the others of its die (R349, R358). -/
def State.mayTest (s : State) (cluster : Nat) : Bool :=
  let die := dieOf cluster
  s.testable cluster && !(s.dev.testing.any fun x => x.1 == die)
    && (s.blocks.all fun b => clusterOf b.core != cluster || b.warps.all fun w => w.pdis.isNone)
    && ((coresIn cluster).all fun c => !(s.core c).wanted && (s.core c).queue.isEmpty)
    && (s.suspectAt cluster || s.cores.all fun k =>
      !k.suspect || dieOf (clusterOf k.id) != die || !s.testable (clusterOf k.id))

/-- What does not move with a block: captured translations, read cache, TLBs and B latches of the cores. A
warp whose DUALST is half performed restarts there (R196). -/
def State.leaveSite (s : State) (cluster : Nat) : State :=
  let s : State := { s with
    blocks := s.blocks.map fun (b : Block) =>
      if clusterOf b.core != cluster then b
      else { b with
        captured := [], warps := b.warps.map fun (w : Warp) => s.restarting w w.ctl.pc }
    accs := s.accs.map fun (a : Acc) =>
      if clusterOf a.core == cluster && a.kind.writes then { a with placed := false } else a }
  (coresIn cluster).foldl (fun s c => s.updCore c fun k =>
    { k with cache := [], dtlb := [], itlb := [], icache := [], latch := none }) s

/-- INFIELD_TEST: the blocks migrate to the spare site with all of their state, the logical cluster
is remapped, and the vacated site is under test. While a region or a pre-emption defers it, it is pending
(R317). -/
def State.startTest (s : State) (cluster : Nat) : State :=
  if !s.testable cluster then s
  else if !s.mayTest cluster then
    s.updDev fun d => { d with testWanted := insertNat cluster d.testWanted }
  else
    let site := s.dev.siteOf cluster
    let die := dieOf cluster
    ((s.leaveSite cluster).takeSpare cluster).updDev fun d =>
      { d with
        testing := d.testing ++ [(die, cluster, site)]
        testWanted := d.testWanted.filter (· != cluster) }

def execInfieldTest (cluster : Nat) (s : State) : Out := .next (s.startTest cluster)

/-- TEST_RESULT: on a pass the vacated site becomes the die's spare, and the cores that left it are no longer
suspect (R349); on a failure the site is retired, and the die has no spare left. -/
def State.endTest (s : State) (die : Nat) (pass : Bool) : State :=
  match s.dev.testing.find? (·.1 == die) with
  | none => s
  | some (_, cluster, site) =>
    let s := s.updDev fun d => { d with testing := d.testing.filter (·.1 != die) }
    if pass then
      let s := (coresIn cluster).foldl (fun s c => s.updCore c fun k => { k with suspect := false }) s
      (s.updDev fun d => { d with
        spare := sparseSet 0 d.spare die (if site == 192 + die then 0 else site + 1) }).log 0x0D .site
        cluster 0xFFFF 0
    else
      ((s.updDev fun d => { d with
          nospare := insertNat die d.nospare
          testWanted := d.testWanted.filter fun c => dieOf c != die }).log 0x0E .site cluster
        0xFFFF 0).requestReplace .site cluster

def execTestResult (die : Nat) (pass : Bool) (s : State) : Out := .next (s.endTest die pass)

end Sys2Proof.Machine
end

