-- ==== Sys2Proof/Machine/Contention.lean ====
section
/-!
DEFINITION. Who waits for a core and who may take room on it (R86, R301, R313, R370), and BLOCK_START (R83).
-/

namespace Sys2Proof.Machine

/-! ## Who waits for a core (R86, R313, R370) -/

/-- Die of a fabric port (R1). -/
def portDie (port : Nat) : Nat := port / 2

/-- Nothing waits to leave through the fabric from a die (R86): no remote access that has left its core and
is not acknowledged, and no packet that a down port holds back. Each stands in the queue of the die of the
port that it is routed to (DESIGN CHOICE, log rows 92 and 93). -/
def State.egressEmpty (s : State) (die : Nat) : Bool :=
  let leaves (dev : Nat) : Bool :=
    dev != s.dev.self && s.dev.route dev != 0xFF && portDie (s.dev.route dev) == die
  !(s.accs.any fun a => a.remote && a.after.isEmpty && leaves a.target)
    && !s.dev.stuck.any fun p => leaves p.1

/-- A block's rank (R86). -/
def State.rank (s : State) (b : Block) : Nat :=
  match s.grid? b.grid with
  | none => 0
  | some g =>
    if g.packet.feedsEgress && s.egressEmpty (dieOf (clusterOf b.core)) then Nat.min 7 (g.priority + 1)
    else g.priority

/-- Blocks of a launch that wait for a core together: their indices, and the launch. -/
def State.waitingOn (s : State) (core : Nat) : List (List Nat × Launch) :=
  s.launches.flatMap fun l => if !l.met then [] else
    l.waiting.filterMap fun u =>
      let is := l.together u
      if (l.coresOf is).contains core then some (is, l) else none

/-- Evicted warps of a core. -/
def State.outOn (s : State) (core : Nat) : List (WarpRef × Block × Warp) :=
  s.warps.filter fun x => x.2.1.core == core && x.2.2.evicted

/-- Contexts that wait for a core, with the rank of what waits: evicted warps, and met launches that cannot
start there. -/
def State.claims (s : State) (core : Nat) : List (Nat × Nat) :=
  ((s.outOn core).map fun x => (s.ctxOf x.2.1, s.rank x.2.1))
    ++ (s.waitingOn core).map fun x => (x.2.ctx, x.2.packet.priority)

/-- Contexts that wait for a core. -/
def State.waiters (s : State) (core : Nat) : List Nat := ((s.claims core).map Prod.fst).eraseDups

/-- A context's place in the rotation of a core: those that never had a slice there, then the one whose slice
ended longest ago (R370). -/
def State.turnOf (s : State) (core ctx : Nat) : Nat :=
  ((s.core core).turns.zipIdx.find? (·.1 == ctx)).elim 0 fun x => x.2 + 1

/-- The waiting context whose turn it is while a slice has expired: the highest rank first, then the rotation
among equal ones (R370). -/
def State.nextUp (s : State) (core : Nat) : Option Nat :=
  (((s.claims core).filter fun x => (s.core core).expiring != some x.1).foldl
    (fun (m : Option (Nat × Nat)) x => match m with
      | none => some x
      | some y => if y.2 < x.2 || (y.2 == x.2 && s.turnOf core x.1 < s.turnOf core y.1) then some x else some y)
    none).map Prod.fst

/-! ## Incoming work (R301, R313) -/

/-- A handler warp with an intake to serve is restored ahead of every priority (R301). -/
def State.handlerWaits (s : State) (core : Nat) : Bool :=
  !(s.cluster (clusterOf core)).intake.isEmpty && s.warps.any fun x =>
    x.2.1.core == core && x.2.2.evicted && s.privileged (s.ctxOf x.2.1)

/-- Work that waits for room on a core: whose it is, its rank, and the evicted warp or what the blocks of a
launch need there. -/
structure Incoming where
  ctx : Nat
  rank : Nat
  /-- A handler warp (R301). -/
  handler : Bool
  own : Option WarpRef
  need : List Nat
  deriving DecidableEq, Repr

/-- An evicted warp back on its core, its block's state with it. -/
def State.back (s : State) (r : WarpRef) : State :=
  s.updBlock r.blk fun b => { (b.updWarp r.slot fun w =>
    { w with evicted := false, born := s.now, since := s.now }) with spilled := [] }

/-- What would be in use on a core with the work on it. -/
def State.useWith (s : State) (core : Nat) (i : Incoming) : List Nat :=
  match i.own with
  | some r => (s.back r).coreUse core
  | none => addAll (s.coreUse core) i.need

/-- An evicted warp as incoming work. -/
def State.returning (s : State) (core : Nat) (x : WarpRef × Block × Warp) : Incoming :=
  { ctx := s.ctxOf x.2.1, rank := s.rank x.2.1, own := some x.1, need := []
    handler := s.handlerWaits core && s.privileged (s.ctxOf x.2.1) }

/-- Blocks of a launch as incoming work of a core. -/
def Launch.arriving (l : Launch) (is : List Nat) (core : Nat) : Incoming :=
  { ctx := l.ctx, rank := l.packet.priority, handler := false, own := none
    need := l.desc.times ((l.coresOf is).filter (· == core)).length }

/-- A warp that makes room for incoming work: its context's slice has expired, its rank is lower, or a
handler of another context waits (R301, R313). -/
def State.yields (s : State) (core : Nat) (i : Incoming) (x : WarpRef × Block × Warp) : Bool :=
  let (_, b, w) := x
  b.core == core && !w.evicted && w.run != .exited
    && ((s.core core).expiring == some (s.ctxOf b) || s.rank b < i.rank || (i.handler && s.ctxOf b != i.ctx))

/-- A part of a block is in an open round (R123). -/
def State.inRound (s : State) (b : Block) : Bool :=
  let parts (m : List Round) : Bool := m.any fun x => x.parts.any fun p => p.blk == b.id
  !b.rounds.isEmpty || match s.grid? b.grid with
    | some g => parts (g.kSet b).rounds || parts (g.gSet b).rounds
    | none => false

/-- Limits of a core on block-scope state: scratchpad, operand buffer, tiles and regions, by their places in
`coreLimits`. -/
def stateLimits : List Nat := [4, 5, 6, 7]

/-- A core once everything has gone that can make room for incoming work: the warps that yield, and the
block-scope state that may then be spilled. -/
def State.yielded (s : State) (core : Nat) (i : Incoming) : State :=
  let gone (b : Block) (w : Warp) : Warp :=
    if s.yields core i ({ blk := b.id, slot := w.slot }, b, w) then { w with evicted := true } else w
  { s with blocks := s.blocks.map fun (b : Block) =>
      if b.core != core then b
      else
        let b := { b with warps := b.warps.map (gone b) }
        if b.isOut && !s.inRound b then { b with spilled := stateLimits } else b }

/-- Pre-emption can make room for the work on a core. -/
def State.couldFit (s : State) (core : Nat) (i : Incoming) : Bool :=
  within ((s.yielded core i).useWith core i) coreLimits

/-- Everything that waits for room on a core and that pre-emption can make room for: nothing is evicted for
other work (R313). -/
def State.feasible (s : State) (core : Nat) : List Incoming :=
  let out := (s.outOn core).map (s.returning core)
  let new := (s.waitingOn core).filter fun x =>
    s.setsFit x.2 x.1 && s.ctxUsable x.2.ctx
      && (x.2.coresOf x.1).eraseDups.all fun c => s.couldFit c (x.2.arriving x.1 c)
  out.filter (s.couldFit core) ++ new.map fun x => x.2.arriving x.1 core

/-- A context may take room on a core: during a pre-emption, unless the pre-emption makes room for work of a
higher rank; and while a slice has expired there, it is the context whose turn it is, or outranks it, and
never the one whose slice has expired (R313, R370). -/
def State.mayTake (s : State) (core ctx rank : Nat) : Bool :=
  match (s.core core).expiring with
  | none => !((s.core core).wanted && (s.feasible core).any fun i => rank < i.rank)
  | some out => ctx != out && match s.nextUp core with
    | none => true
    | some n => n == ctx || ((s.claims core).filter (·.1 == n)).all fun x => x.2 < rank

/-- Everything that waits for room on a core and whose turn it is (R313, R370). -/
def State.incoming (s : State) (core : Nat) : List Incoming :=
  (s.feasible core).filter fun i => i.handler || s.mayTake core i.ctx i.rank

/-- The first of a core's incoming work that does not fit, handlers first, then by rank. -/
def State.pressing (s : State) (core : Nat) : Option Incoming :=
  ((s.incoming core).filter fun i => !within (s.useWith core i) coreLimits).foldl (fun (m : Option Incoming) x =>
    match m with
    | none => some x
    | some y => if (x.handler && !y.handler) || (x.handler == y.handler && y.rank < x.rank) then some x
      else some y) none

/-- Block-scope space that incoming work lacks: those of `stateLimits` that it would exceed (R168, R215). -/
def State.lacks (s : State) (core : Nat) (i : Incoming) : List Nat :=
  stateLimits.filter fun k => coreLimits[k]?.getD 0 < (s.useWith core i)[k]?.getD 0

/-- A block holds some of the space that is lacking. -/
def Block.holdsAny (b : Block) (x : Desc) (ks : List Nat) : Bool :=
  ks.any fun k => (b.holds x)[k]?.getD 0 != 0

/-- The pre-emption of a core is over: the scheduler reports how many warps it saved (R315, R323). -/
def State.endPreempt (s : State) (core : Nat) : State :=
  let k := s.core core
  let s := if k.wanted || k.evictions != 0 then
      s.updDev fun d => { d with saves := (core, k.evictions) :: d.saves } else s
  s.updCore core fun k => { k with wanted := false, expiring := none, evictions := 0 }

/-! ## BLOCK_START (R83) -/

/-- BLOCK_START: the blocks of a launch cluster start once their dependences are met and all that they
need is free. -/
def State.start (s : State) (id unit : Nat) : State :=
  match s.launches.find? (·.id == id) with
  | none => s
  | some l =>
    let is := l.together unit
    if !l.met || !l.waiting.contains unit || !s.ctxUsable l.ctx || !s.fits l is
        || !(l.coresOf is).all fun c => s.mayTake c l.ctx l.packet.priority then s
    else
      let new := (s.grid? l.grid).isNone
      let s : State := if new then
          { (s.popQueue l.vf l.queue) with
            grids := s.grids ++ [Grid.start l.grid l.ctx l.vf l.packet l.desc l.map l.packet.priority] }
        else s
      let s := is.foldl (fun s i => match l.map[i]? with
        | none => s
        | some e =>
          let s := s.startBlock l i e.1 false
          if l.packet.redundant then s.startBlock l i e.2 true else s) s
      let s := (l.coresOf is).eraseDups.foldl (fun s c => s.endPreempt c) s
      let left := if l.packet.coResident then [] else l.waiting.filter (· != unit)
      { s with launches := s.launches.filterMap fun (x : Launch) =>
          if x.id != id then some x
          else if left.isEmpty then none else some { x with waiting := left } }

def execBlockStart (launch unit : Nat) (s : State) : Out := .next (s.start launch unit)

end Sys2Proof.Machine
end

