-- ==== Sys2Proof/Machine/LaneInt.lean ====
section
/-!
DEFINITION. Lane arithmetic of both kinds and of bits: ADD to BFI, CMP, SEL and the moves (R136 to
R147).
-/

namespace Sys2Proof.Machine

/-! ## Shapes -/

/-- Entry of a word D, A, B whose operands all follow the width of ty (R131). -/
def entry3 (sw : Bool) (m : Word) (tys : List Nat) (rounds : Bool) (d a b : Operand) : Entry :=
  let n := tyRegs (tyOf m)
  laneEntry sw m tys rounds [Use.dst d n, Use.src a n, Use.src b n]

/-- Entry of a word D, A. -/
def entry2 (sw : Bool) (m : Word) (tys : List Nat) (rounds : Bool) (d a : Operand) : Entry :=
  let n := tyRegs (tyOf m)
  laneEntry sw m tys rounds [Use.dst d n, Use.src a n]

/-- An element-wise effect of two sources; `f` gets the type, sat, the rounding and the elements. -/
def eff3 (d a b : Operand) (f : Nat → Bool → Rd → Nat → Nat → Nat × Flags) (c : Ctx) : Eff :=
  let ty := tyOf c.mode
  let n := tyRegs ty
  laneEff d n (fun c l => each2 ty (fun i x y => f ty c.sat (c.rdTy l i) x y) (c.val l a n)
    (c.val l b n)) c

/-- An element-wise effect of one source. -/
def eff2 (d a : Operand) (f : Nat → Bool → Rd → Nat → Nat × Flags) (c : Ctx) : Eff :=
  let ty := tyOf c.mode
  let n := tyRegs ty
  laneEff d n (fun c l => each1 ty (fun i x => f ty c.sat (c.rdTy l i) x) (c.val l a n)) c

/-- An effect on whole register values, without flags. -/
def effBits (d a b : Operand) (f : Nat → Nat → Nat → Nat) (c : Ctx) : Eff :=
  let n := tyRegs (tyOf c.mode)
  laneEff d n (fun c l => (f (32 * n) (c.val l a n) (c.val l b n), 0)) c

/-- An integer result that fits its element. -/
def intElem (ty : Nat) (e : Int) : Nat := (intFit false false (tyWidth ty) e).1

/-! ## ADD to MULH (R136 to R140) -/

def addOp (ty : Nat) (sat : Bool) (rd : Rd) (a b : Nat) : Nat × Flags :=
  match tyFmt ty with
  | some f => f.add rd sat a b
  | none => intFit sat (tySigned ty) (tyWidth ty) (intVal ty a + intVal ty b)

/-- ADD (R136). -/
def execAdd (sw : Bool) (d a b : Operand) (s : State) : Out :=
  .next (runWord s (fun m => entry3 sw m tyNum (tyFloat (tyOf m)) d a b) (eff3 d a b addOp))

def subOp (ty : Nat) (sat : Bool) (rd : Rd) (a b : Nat) : Nat × Flags :=
  match tyFmt ty with
  | some f => f.sub rd sat a b
  | none => intFit sat (tySigned ty) (tyWidth ty) (intVal ty a - intVal ty b)

/-- SUB (R136). -/
def execSub (sw : Bool) (d a b : Operand) (s : State) : Out :=
  .next (runWord s (fun m => entry3 sw m tyNum (tyFloat (tyOf m)) d a b) (eff3 d a b subOp))

def mulOp (ty : Nat) (sat : Bool) (rd : Rd) (a b : Nat) : Nat × Flags :=
  match tyFmt ty with
  | some f => f.mul rd sat a b
  | none => intFit sat (tySigned ty) (tyWidth ty) (intVal ty a * intVal ty b)

/-- MUL (R136). -/
def execMul (sw : Bool) (d a b : Operand) (s : State) : Out :=
  .next (runWord s (fun m => entry3 sw m tyNum (tyFloat (tyOf m)) d a b) (eff3 d a b mulOp))

def minMaxOp (max : Bool) (ty a b : Nat) : Nat :=
  match tyFmt ty with
  | some f => f.minMax max a b
  | none =>
    let less := intLess (tySigned ty) (tyWidth ty) a b
    if max then (if less then b else a) else (if less then a else b)

/-- MIN (R136). -/
def execMin (sw : Bool) (d a b : Operand) (s : State) : Out :=
  .next (runWord s (fun m => entry3 sw m tyNum false d a b)
    (eff3 d a b fun ty _ _ x y => (minMaxOp false ty x y, 0)))

/-- MAX (R136). -/
def execMax (sw : Bool) (d a b : Operand) (s : State) : Out :=
  .next (runWord s (fun m => entry3 sw m tyNum false d a b)
    (eff3 d a b fun ty _ _ x y => (minMaxOp true ty x y, 0)))

/-- Entry of MAD and MSB: D is read too. -/
def madEntry (sw : Bool) (m : Word) (d a b : Operand) : Entry :=
  let n := tyRegs (tyOf m)
  laneEntry sw m tyNum (tyFloat (tyOf m)) [Use.both d n, Use.src a n, Use.src b n]

/-- An element of MAD, or of MSB under `minus` (R137). -/
def madOp (minus : Bool) (ty : Nat) (sat : Bool) (rd : Rd) (a b d : Nat) : Nat × Flags :=
  match tyFmt ty with
  | some f =>
    let x := f.decode a
    f.roundSum rd sat [(if minus then x.neg else x).mul (f.decode b), .val (f.decode d)]
  | none =>
    let p := intVal ty a * intVal ty b
    intFit sat (tySigned ty) (tyWidth ty) (if minus then intVal ty d - p else p + intVal ty d)

def madEff (minus : Bool) (d a b : Operand) (c : Ctx) : Eff :=
  let ty := tyOf c.mode
  let n := tyRegs ty
  laneEff d n (fun c l =>
    let z := c.val l d n
    each2 ty (fun i x y => madOp minus ty c.sat (c.rdTy l i) x y (elem z i (tyWidth ty)))
      (c.val l a n) (c.val l b n)) c

/-- MAD (R137). -/
def execMad (sw : Bool) (d a b : Operand) (s : State) : Out :=
  .next (runWord s (fun m => madEntry sw m d a b) (madEff false d a b))

/-- MSB (R137). -/
def execMsb (sw : Bool) (d a b : Operand) (s : State) : Out :=
  .next (runWord s (fun m => madEntry sw m d a b) (madEff true d a b))

/-- MULH (R138). -/
def execMulh (sw : Bool) (d a b : Operand) (s : State) : Out :=
  .next (runWord s (fun m => entry3 sw m tyInt false d a b)
    (eff3 d a b fun ty _ _ x y =>
      (intElem ty (intVal ty x * intVal ty y / (2 ^ tyWidth ty : Nat)), 0)))

/-- The sign bit of an element. -/
def signBit (w x : Nat) : Bool := x / 2 ^ (w - 1) % 2 == 1

def absOp (ty : Nat) (sat : Bool) (_ : Rd) (a : Nat) : Nat × Flags :=
  match tyFmt ty with
  | some f => (if (f.decode a).isNan then f.nan else a % 2 ^ (f.width - 1), 0)
  | none => intFit sat (tySigned ty) (tyWidth ty) (if intVal ty a < 0 then -intVal ty a else intVal ty a)

/-- ABS (R139). -/
def execAbs (sw : Bool) (d a : Operand) (s : State) : Out :=
  .next (runWord s (fun m => entry2 sw m tyNum false d a) (eff2 d a absOp))

def negOp (ty : Nat) (sat : Bool) (_ : Rd) (a : Nat) : Nat × Flags :=
  match tyFmt ty with
  | some f => (if (f.decode a).isNan then f.nan else Nat.xor a (2 ^ (f.width - 1)), 0)
  | none => intFit sat (tySigned ty) (tyWidth ty) (-intVal ty a)

/-- NEG (R139). -/
def execNeg (sw : Bool) (d a : Operand) (s : State) : Out :=
  .next (runWord s (fun m => entry2 sw m tyNum false d a) (eff2 d a negOp))

/-- Writes a predicate lane by lane; its mark is cleared there (R312). -/
def State.writePred (s : State) (r : WarpRef) (p : Nat) (vals : List (Nat × Bool)) : State :=
  s.updWarp r fun w =>
    let w := vals.foldl (fun (w : Warp) x => w.setPred x.1 p x.2) w
    { w with
      flt := { w.flt with marks := clearMarksOf [.p p] (maskOf (vals.map Prod.fst)) w.flt.marks } }

/-- The chained words: D from the sum or difference, p7 from its carry or borrow (R140). -/
def carryEff (minus : Bool) (d a b : Operand) (c : Ctx) : Eff :=
  let e (l : Nat) : Int :=
    let k : Int := if c.w.pred l 7 then 1 else 0
    if minus then (c.opd l a).toNat - (c.opd l b).toNat - k
    else (c.opd l a).toNat + (c.opd l b).toNat + k
  let vals := c.lanes.map fun l => (l, (e l % 2 ^ 32).toNat)
  match c.put c.s d 1 vals 0 with
  | .done s => .done (s.writePred c.r 7 (c.lanes.map fun l => (l, e l < 0 || 2 ^ 32 ≤ e l)))
  | x => x

def carryEntry (sw : Bool) (m : Word) (d a b : Operand) : Entry :=
  { laneEntry sw m [0, 1] false [Use.dst d 1, Use.src a 1, Use.src b 1] with
    lane := true, predRead := [7], predWrite := [7] }

/-- ADDC (R140). -/
def execAddc (sw : Bool) (d a b : Operand) (s : State) : Out :=
  .next (runWord s (fun m => carryEntry sw m d a b) (carryEff false d a b))

/-- SUBB (R140). -/
def execSubb (sw : Bool) (d a b : Operand) (s : State) : Out :=
  .next (runWord s (fun m => carryEntry sw m d a b) (carryEff true d a b))

/-! ## Bits and shifts (R141 to R144) -/

/-- AND (R141). -/
def execAnd (sw : Bool) (d a b : Operand) (s : State) : Out :=
  .next (runWord s (fun m => entry3 sw m tyAny false d a b) (effBits d a b fun _ x y => Nat.land x y))

/-- OR (R141). -/
def execOr (sw : Bool) (d a b : Operand) (s : State) : Out :=
  .next (runWord s (fun m => entry3 sw m tyAny false d a b) (effBits d a b fun _ x y => Nat.lor x y))

/-- XOR (R141). -/
def execXor (sw : Bool) (d a b : Operand) (s : State) : Out :=
  .next (runWord s (fun m => entry3 sw m tyAny false d a b) (effBits d a b fun _ x y => Nat.xor x y))

/-- NOT (R141). -/
def execNot (sw : Bool) (d a : Operand) (s : State) : Out :=
  .next (runWord s (fun m => entry2 sw m tyAny false d a)
    (effBits d a a fun w x _ => 2 ^ w - 1 - x))

/-- Entry of a shift: B is one 32-bit operand (R142). -/
def shiftEntry (sw : Bool) (m : Word) (tys : List Nat) (d a b : Operand) : Entry :=
  let n := tyRegs (tyOf m)
  laneEntry sw m tys false [Use.dst d n, Use.src a n, Use.src b 1]

/-- A shift by element; `f` gets the width, the element and the count (R142). -/
def shiftEff (d a b : Operand) (f : Nat → Nat → Nat → Nat) (c : Ctx) : Eff :=
  let ty := tyOf c.mode
  let n := tyRegs ty
  let w := tyWidth ty
  laneEff d n (fun c l =>
    let y := (c.opd l b).toNat
    each1 ty (fun i x => (f w x (if w == 16 then elem y i 16 else y), 0)) (c.val l a n)) c

/-- SHL (R142). -/
def execShl (sw : Bool) (d a b : Operand) (s : State) : Out :=
  .next (runWord s (fun m => shiftEntry sw m tyInt d a b)
    (shiftEff d a b fun w x k => if k < w then x * 2 ^ k % 2 ^ w else 0))

/-- SHR (R142). -/
def execShr (sw : Bool) (d a b : Operand) (s : State) : Out :=
  .next (runWord s (fun m => shiftEntry sw m tyInt d a b)
    (shiftEff d a b fun w x k => if k < w then x / 2 ^ k else 0))

/-- SAR (R142). -/
def execSar (sw : Bool) (d a b : Operand) (s : State) : Out :=
  .next (runWord s (fun m => shiftEntry sw m tyInt d a b)
    (shiftEff d a b fun w x k =>
      if k < w then (toSigned w x / (2 ^ k : Nat) % (2 ^ w : Nat)).toNat
      else if signBit w x then 2 ^ w - 1 else 0))

/-- The types of POPC to BFI. -/
def tyWords : List Nat := [0, 1, 2, 3]

/-- Number of 1 bits among the low `w`. -/
def popCount (w x : Nat) : Nat := ((List.range w).filter x.testBit).length

/-- Number of leading 0 bits of `w`. -/
def leadingZeros (w x : Nat) : Nat := if x == 0 then w else w - 1 - Nat.log2 x

/-- The bits of `x` in reverse order. -/
def reverseBits (w x : Nat) : Nat :=
  (List.range w).foldl (fun acc i => if x.testBit i then acc + 2 ^ (w - 1 - i) else acc) 0

/-- POPC and CLZ: D is one register whatever ty (R143). -/
def countEntry (sw : Bool) (m : Word) (d a : Operand) : Entry :=
  laneEntry sw m tyWords false [Use.dst d 1, Use.src a (tyRegs (tyOf m))]

def countEff (d a : Operand) (f : Nat → Nat → Nat) (c : Ctx) : Eff :=
  let n := tyRegs (tyOf c.mode)
  laneEff d 1 (fun c l => (f (32 * n) (c.val l a n), 0)) c

/-- POPC (R143). -/
def execPopc (sw : Bool) (d a : Operand) (s : State) : Out :=
  .next (runWord s (fun m => countEntry sw m d a) (countEff d a popCount))

/-- CLZ (R143). -/
def execClz (sw : Bool) (d a : Operand) (s : State) : Out :=
  .next (runWord s (fun m => countEntry sw m d a) (countEff d a leadingZeros))

/-- BREV (R143). -/
def execBrev (sw : Bool) (d a : Operand) (s : State) : Out :=
  .next (runWord s (fun m => entry2 sw m tyWords false d a)
    (effBits d a a fun w x _ => reverseBits w x))

/-- Position and length of a bit field in `w` bits (R144). -/
def bitField (w b : Nat) : Nat × Nat := (b % 256, Nat.min (b / 256 % 256) (w - b % 256))

def bfxOp (signed : Bool) (w a b : Nat) : Nat :=
  let (p, q) := bitField w b
  if w ≤ p || q == 0 then 0
  else
    let x := a / 2 ^ p % 2 ^ q
    if signed && signBit q x then x + 2 ^ w - 2 ^ q else x

/-- BFX (R144). -/
def execBfx (sw : Bool) (d a b : Operand) (s : State) : Out :=
  .next (runWord s (fun m => shiftEntry sw m tyWords d a b) fun c =>
    let ty := tyOf c.mode
    let n := tyRegs ty
    laneEff d n (fun c l => (bfxOp (tySigned ty) (32 * n) (c.val l a n) (c.opd l b).toNat, 0)) c)

def bfiOp (w d a b : Nat) : Nat :=
  let (p, q) := bitField w b
  if w ≤ p || q == 0 then d
  else d - d / 2 ^ p % 2 ^ q * 2 ^ p + a % 2 ^ q * 2 ^ p

/-- BFI (R144). -/
def execBfi (sw : Bool) (d a b : Operand) (s : State) : Out :=
  .next (runWord s (fun m =>
    let n := tyRegs (tyOf m)
    laneEntry sw m tyWords false [Use.both d n, Use.src a n, Use.src b 1]) fun c =>
    let n := tyRegs (tyOf c.mode)
    laneEff d n (fun c l => (bfiOp (32 * n) (c.val l d n) (c.val l a n) (c.opd l b).toNat, 0)) c)

/-! ## Compare, select and move (R145 to R147) -/

/-- A condition of CMP on two values of a type, and NV (R145). -/
def condHolds (cond : Nat) (ty a b : Nat) : Bool × Flags :=
  let (lt, eq, un) := match tyFmt ty with
    | some f =>
      let x := f.decode a
      let y := f.decode b
      (Val.lt false x y, Val.eq x y, x.isNan || y.isNan)
    | none => (decide (intVal ty a < intVal ty b), a == b, false)
  let nv : Flags := if un && 2 ≤ cond && cond ≤ 5 then Flags.nv else 0
  (match cond with
    | 0 => eq
    | 1 => !eq
    | 2 => lt
    | 3 => lt || eq
    | 4 => !(un || lt || eq)
    | 5 => !(un || lt)
    | 6 => un
    | 7 => !un
    | _ => Nat.land a b != 0, nv)

def cmpEff (cond : BitVec 4) (pd : BitVec 3) (a b : Operand) (c : Ctx) : Eff :=
  let ty := tyOf c.mode
  let n := tyRegs ty
  let r (l : Nat) := condHolds cond.toNat ty (c.val l a n) (c.val l b n)
  let s := c.s.writePred c.r pd.toNat (c.lanes.map fun l => (l, (r l).1))
  let fl := c.lanes.foldl (fun fl l => fl ||| (r l).2) (0 : Flags)
  .done (s.updWarp c.r fun w => w.orFlags fl)

/-- CMP (R145). -/
def execCmp (sw : Bool) (cond : BitVec 4) (pd : BitVec 3) (a b : Operand) (s : State) : Out :=
  .next (runWord s (fun m =>
    let n := tyRegs (tyOf m)
    { laneEntry sw m [0, 1, 2, 3, 4, 5] false [Use.src a n, Use.src b n] with
      codes := Instr.codesOk (.cmp sw cond pd a b), lane := true, predWrite := [pd.toNat], p0 := pd == 0 })
    (cmpEff cond pd a b))

def selEff (d a b : Operand) (c : Ctx) : Eff :=
  let n := tyRegs (tyOf c.mode)
  laneEff d n (fun c l => (c.val l (if guardHolds c.w l then a else b) n, 0)) c

/-- SEL (R146). -/
def execSel (sw : Bool) (d a b : Operand) (s : State) : Out :=
  .next (runWord s (fun m => { entry3 sw m tyAny false d a b with selector := true })
    (selEff d a b))

/-- MOV (R147). -/
def execMov (sw : Bool) (d a : Operand) (s : State) : Out :=
  .next (runWord s (fun m => entry2 sw m tyAny false d a) (effBits d a a fun _ x _ => x))

/-- MOVI (R147). -/
def execMovi (sw : Bool) (d : Operand) (imm : BitVec 16) (s : State) : Out :=
  .next (runWord s (fun _ => { sw, uses := [Use.dst d 1], gd := true, twin := true })
    (laneEff d 1 fun _ _ => ((imm.signExtend 32).toNat, 0)))

/-- MOVH (R147). -/
def execMovh (sw : Bool) (d : Operand) (imm : BitVec 16) (s : State) : Out :=
  .next (runWord s (fun _ => { sw, uses := [Use.both d 1], gd := true, twin := true })
    (laneEff d 1 fun c l => (imm.toNat * 65536 + (c.opd l d).toNat % 65536, 0)))

end Sys2Proof.Machine
end

