-- ==== Sys2Proof/Machine/Scoped.lean ====
section
/-!
DEFINITION. Scoped combines and lane exchange: RAISE with its rounds, VOTE, SHFI to SHFD and PLOG
(R71, R72, R120 to R130), and the events ROUND_COMPLETE and REGISTER_COPY_UPDATE (R112, R121).
-/

namespace Sys2Proof.Machine

/-! ## Functions of RAISE (R71, R127) -/

/-- One step of a combine; `agree` keeps the left value, which its check shows equal. -/
def raiseStep (fn : Nat) (ty : BitVec 4) (a b : Nat) : Nat × Flags :=
  let flt := ty == 4
  match fn with
  | 1 => if flt then Fmt.f32.add .rne false a b else ((a + b) % 2 ^ 32, 0)
  | 2 => (if flt then Fmt.f32.minMax false a b else if intLess (ty == 0) 32 b a then b else a, 0)
  | 3 => (if flt then Fmt.f32.minMax true a b else if intLess (ty == 0) 32 a b then b else a, 0)
  | 4 => (Nat.land a b, 0)
  | 5 => (Nat.lor a b, 0)
  | 6 => (Nat.xor a b, 0)
  | _ => (a, 0)

/-- A combine of two values of which either may be absent. A lone value passes as it is, an f32 NaN with
its own code too: nothing is computed from it (DESIGN CHOICE, log row 82). -/
def raiseNode (fn : Nat) (ty : BitVec 4) (a b : Option Nat) : Option Nat × Flags :=
  match a, b with
  | some x, some y =>
    let r := raiseStep fn ty x y
    (some r.1, r.2)
  | some x, none => (some x, 0)
  | none, y => (y, 0)

/-- One level of the tree: neighbours are paired. -/
def raiseLevel (fn : Nat) (ty : BitVec 4) : List (Option Nat) → List (Option Nat) × Flags
  | a :: b :: rest =>
    let x := raiseNode fn ty a b
    let t := raiseLevel fn ty rest
    (x.1 :: t.1, x.2 ||| t.2)
  | l => (l, 0)

/-- The tree of R71 over its leaves, `n` levels. -/
def raiseTree (fn : Nat) (ty : BitVec 4) : Nat → List (Option Nat) → Option Nat × Flags
  | 0, l => (l.headD none, 0)
  | n + 1, l =>
    let x := raiseLevel fn ty l
    let t := raiseTree fn ty n x.1
    (t.1, x.2 ||| t.2)

/-- A left fold over contributions, those without a value left out (R72, R121). -/
def raiseFold (fn : Nat) (ty : BitVec 4) (l : List (Option Nat)) : Option Nat × Flags :=
  l.foldl (fun acc x =>
    let r := raiseNode fn ty acc.1 x
    (r.1, acc.2 ||| r.2)) (none, 0)

/-- The leaves of lanes `lo` to `lo + n − 1`. -/
def Ctx.leaves (c : Ctx) (a : Operand) (lo n : Nat) : List (Option Nat) :=
  (List.range n).map fun i =>
    if c.lanes.contains (lo + i) then some (c.opd (lo + i) a).toNat else none

/-- Lanes among `ls` whose value differs from that of the lowest of them. -/
def Ctx.unlike (c : Ctx) (a : Operand) (ls : List Nat) : List Nat :=
  match ls with
  | [] => []
  | l :: _ => ls.filter fun x => c.opd x a != c.opd l a

/-! ## RAISE (R120, R122, R125, R127) -/

/-- The open rounds of the set that a destination names. -/
def Ctx.rounds (c : Ctx) (d : Operand) : List Round :=
  match d with
  | .k _ => (c.g.kSet c.b).rounds
  | .g _ => (c.g.gSet c.b).rounds
  | _ => c.b.rounds

/-- Replaces the open rounds of a set. -/
def State.setRounds (s : State) (b : Block) (d : Operand) (f : List Round → List Round) : State :=
  match d with
  | .k _ => s.updGrid b.grid fun g =>
      let m := g.kSet b
      g.setK b { m with rounds := f m.rounds }
  | .g _ => s.updGrid b.grid fun g =>
      let m := g.gSet b
      g.setG b { m with rounds := f m.rounds }
  | _ => s.updBlock b.id fun b => { b with rounds := f b.rounds }

/-- Adds a contribution, opening the round where none is open. -/
def addPart (reg : Nat) (p : Contribution) (rs : List Round) : List Round :=
  if rs.any (·.reg == reg) then
    rs.map fun (x : Round) => if x.reg == reg then { x with parts := x.parts ++ [p] } else x
  else rs ++ [{ reg, parts := [p] }]

/-- A contribution to a round (R120). -/
def Ctx.contribute (c : Ctx) (d : Operand) (fn : Nat) (x : Option Nat) (fl : Flags) : Eff :=
  let rs := c.rounds d
  if !(rs.any (·.reg == d.index)) && 8 ≤ rs.length then .wait c.s .parked
  else
    let p : Contribution :=
      { blk := c.b.id, block := c.b.index, slot := c.r.slot, result := c.s.nextId, fn,
        ty := modeTy c.mode, val := x.map (BitVec.ofNat 32), flags := fl, pc := c.w.ctl.pc }
    let r := c.result c.s (some d) 1
    let s := c.s.pushResult c.r
      { r with ready := false, round := true, write := false, judged := false, flags := fl,
               pend := r.pend ++ [.status] }
    .done (s.setRounds c.b d (addPart d.index p))

/-- An `agree` into an octet register faults with the lanes of the first octet that disagrees. On a divergent
path a round under gd = ~p0 neither faults nor contributes: the word has no effect (R36; DESIGN CHOICE, log
row 86). Converged, it contributes the identity there, and its completion writes event and report (DESIGN CHOICE,
log row 102). -/
def raiseEff (d a : Operand) (fn : Nat) (c : Ctx) : Eff :=
  let ty := modeTy c.mode
  match d with
  | .o _ =>
    let octets := List.range (c.w.width / 8)
    let mine (q : Nat) := c.lanes.filter fun l => l / 8 == q
    let bad := ((octets.map fun q => c.unlike a (mine q)).find? fun ls => !ls.isEmpty).getD []
    if fn == 0 && !bad.isEmpty then .fault (scopeDisagree 1 bad)
    else
      let rs := octets.map fun q => (q, raiseTree fn ty 3 (c.leaves a (8 * q) 8))
      let vals := rs.flatMap fun x => match x.2.1 with
        | some v => (mine x.1).map fun l => (l, v)
        | none => []
      c.put c.s d 1 vals (rs.foldl (fun fl x => fl ||| x.2.2) 0)
  | _ =>
    let bad := c.unlike a c.lanes
    if fn == 0 && !bad.isEmpty then .fault (scopeDisagree 1 bad)
    else
      let (x, fl) := raiseTree fn ty 6 (c.leaves a 0 64)
      if d.isW then
        c.put c.s d 1 (match x with
          | some v => c.lanes.map fun l => (l, v)
          | none => []) fl
      else if !c.converged then
        (if modeGd c.mode == 8 then .done c.s else laneFault fcScopeRound c.w.ctl.active)
      else c.contribute d fn x fl

/-- A lane-class source (R127). -/
def Use.laneSrc (a : Operand) : Use := { o := a, regs := 1, ok := a.isLaneSource, read := true, write := false }

/-- RAISE (R127). -/
def execRaise (sw : Bool) (d a : Operand) (fn : BitVec 5) (s : State) : Out :=
  let round := d.isWide && !d.isW
  .next (runWord s (fun m =>
    { sw, uses := [{ Use.dst d 1 with ok := d.isScoped }, Use.laneSrc a],
      codes := Instr.codesOk (.raise sw d a fn),
      modeOk := if 1 ≤ fn.toNat && fn.toNat ≤ 3 then [0, 1, 4].contains (tyOf m)
        else tyAny.contains (tyOf m),
      gd := true, modeRead := true, closes := if round then .region else .no,
      ahead := .skip, twin := true })
    (raiseEff d a fn.toNat))

/-! ## VOTE, SHFI to SHFD, PLOG -/

/-- A vote over lanes: which of them hold a 1 (R128). -/
def voteValue (fn : Nat) (lanes : List Nat) (t : Nat → Bool) : Nat :=
  match fn with
  | 0 => if lanes.any t then 1 else 0
  | 1 => if lanes.all t then 1 else 0
  | 2 => ((maskOf (lanes.filter t)).extractLsb' 0 32).toNat
  | 3 => ((maskOf (lanes.filter t)).extractLsb' 32 32).toNat
  | _ => (lanes.filter t).length

/-- With no lane in C a scoped destination is still written, but under gd = ~p0 (R36, R128). -/
def voteEff (d a : Operand) (fn : Nat) (c : Ctx) : Eff :=
  let x := voteValue fn c.lanes fun l => c.opd l a != 0
  let lanes := if d.isV then c.lanes else if modeGd c.mode == 8 then [] else c.act
  c.put c.s d 1 (lanes.map fun l => (l, x)) 0

/-- VOTE (R128). -/
def execVote (sw : Bool) (d a : Operand) (fn : BitVec 5) (s : State) : Out :=
  .next (runWord s (fun _ =>
    { sw, uses := [{ Use.dst d 1 with ok := d.isReg }, Use.laneSrc a],
      codes := Instr.codesOk (.vote sw d a fn), gd := true, twin := true })
    (voteEff d a fn.toNat))

/-- A move from another lane (R129): `f` gives the source lane from the lane and the selector. -/
def shfEff (d a b : Operand) (f : Nat → Nat → Nat) (c : Ctx) : Eff :=
  laneEff d 1 (fun c l =>
    let src := f l (c.opd l b).toNat % 2 ^ 32
    ((c.opd (if src < c.w.width then src else l) a).toNat, 0)) c

def shfEntry (sw : Bool) (d a b : Operand) : Entry :=
  { sw, gd := true, twin := true,
    uses := [{ Use.dst d 1 with ok := d.isV }, { Use.src a 1 with ok := a.isV }, Use.src b 1] }

/-- SHFI (R129). -/
def execShfi (sw : Bool) (d a b : Operand) (s : State) : Out :=
  .next (runWord s (fun _ => shfEntry sw d a b) (shfEff d a b fun _ k => k))

/-- SHFX (R129). -/
def execShfx (sw : Bool) (d a b : Operand) (s : State) : Out :=
  .next (runWord s (fun _ => shfEntry sw d a b) (shfEff d a b fun l k => Nat.xor l k))

/-- SHFU (R129). -/
def execShfu (sw : Bool) (d a b : Operand) (s : State) : Out :=
  .next (runWord s (fun _ => shfEntry sw d a b) (shfEff d a b fun l k => l + 2 ^ 32 - k))

/-- SHFD (R129). -/
def execShfd (sw : Bool) (d a b : Operand) (s : State) : Out :=
  .next (runWord s (fun _ => shfEntry sw d a b) (shfEff d a b fun l k => l + k))

/-- PLOG in one lane (R130). -/
def plogOp (fn : Nat) (a b : Bool) : Bool :=
  match fn with
  | 0 => a && b
  | 1 => a || b
  | _ => a != b

/-- A uniform PLOG works on the predicates of every lane of ACTIVE. -/
def plogEff (fn : Nat) (pd : BitVec 3) (ia : Bool) (pa : BitVec 3) (ib : Bool) (pb : BitVec 3)
    (c : Ctx) : Eff :=
  .done (c.s.writePred c.r pd.toNat (c.outLanes.map fun l =>
    (l, plogOp fn (c.w.pred l pa.toNat != ia) (c.w.pred l pb.toNat != ib))))

/-- PLOG (R130). -/
def execPlog (sw : Bool) (fn : BitVec 4) (pd : BitVec 3) (ia : Bool) (pa : BitVec 3) (ib : Bool)
    (pb : BitVec 3) (s : State) : Out :=
  .next (runWord s (fun _ =>
    { sw, codes := Instr.codesOk (.plog sw fn pd ia pa ib pb), gd := true,
      predRead := [pa.toNat, pb.toNat], predWrite := [pd.toNat], p0 := pd == 0, twin := true })
    (plogEff fn.toNat pd ia pa ib pb))

/-! ## ROUND_COMPLETE (R72, R120, R121, R126) -/

/-- Where a round is: a block of its set, the destination, and the block indices that take part; the
warps that take part, none while some block has not started. -/
def State.roundSite (s : State) (q : RoundRef) :
    Option (Block × Operand × List Nat × List (WarpRef × Warp)) :=
  match q with
  | .block blk reg => match s.block? blk with
    | some b => some (b, .b (BitVec.ofNat 5 reg), [b.index],
        b.warps.map fun w => ({ blk := b.id, slot := w.slot }, w))
    | none => none
  | .cluster grid unit trail reg => match s.grid? grid with
    | none => none
    | some g =>
      let idx := g.clusterBlocks unit
      match s.blocks.find? fun b => b.grid == grid && b.trail == trail && idx.contains b.index,
          s.unitWarps g trail idx with
      | some b, some ws => some (b, .k (BitVec.ofNat 5 reg), idx, ws)
      | _, _ => none
  | .grid grid trail reg => match s.grid? grid with
    | none => none
    | some g =>
      let idx := List.range g.map.length
      match s.blocks.find? fun b => b.grid == grid && b.trail == trail, s.unitWarps g trail idx with
      | some b, some ws => some (b, .g (BitVec.ofNat 5 reg), idx, ws)
      | _, _ => none

/-- The open rounds of the set of a site. -/
def State.roundsAt (s : State) (b : Block) (d : Operand) : List Round :=
  match d, s.grid? b.grid with
  | .k _, some g => (g.kSet b).rounds
  | .g _, some g => (g.gSet b).rounds
  | _, _ => b.rounds

/-- Every warp that takes part has contributed or exited. -/
def Round.full (x : Round) (ws : List (WarpRef × Warp)) : Bool :=
  ws.all fun w => w.2.run == .exited
    || x.parts.any fun p => p.blk == w.1.blk && p.slot == w.1.slot

/-- The contributions of one block, in ascending %warp. -/
def Round.ofBlock (x : Round) (index : Nat) : List Contribution :=
  (List.range 32).filterMap fun i => x.parts.find? fun p => p.block == index && p.slot == i

/-- The error of a round, if it has one (R126). A round that differs in its function or type has
SCOPE_ROUND, whatever its values are (DESIGN CHOICE, log row 87). -/
def Round.error (x : Round) (idx : List Nat) : Option (BitVec 8) :=
  match idx.flatMap x.ofBlock with
  | [] => none
  | p :: rest =>
    let vals := (p :: rest).filterMap Contribution.val
    if rest.any fun q => q.fn != p.fn || (1 ≤ p.fn && p.fn ≤ 3 && q.ty != p.ty) then some fcScopeRound
    else if p.fn == 0 && vals.any (· != vals.headD 0) then some fcScopeDisagree
    else none

/-- The value and the flags of the fold (R72). -/
def Round.fold (x : Round) (idx : List Nat) : Option Nat × Flags :=
  let (fn, ty) := match x.parts with
    | p :: _ => (p.fn, p.ty)
    | [] => (0, 0)
  let parts := idx.map fun i => raiseFold fn ty ((x.ofBlock i).map fun p => p.val.map BitVec.toNat)
  let t := raiseFold fn ty (parts.map Prod.fst)
  (t.1, parts.foldl (fun fl p => fl ||| p.2) t.2)

/-- The write of a round's value at the block file or at the home of its set (R112, R121). -/
def State.writeRound (s : State) (b : Block) (d : Operand) (x : Nat) : State :=
  let v : Word := BitVec.ofNat 32 x
  let home (m : RegSet) : RegSet := { m with log := m.log ++ [(d.index, v)] }
  match d with
  | .k _ => s.updGrid b.grid fun g => g.setK b (home (g.kSet b))
  | .g _ => s.updGrid b.grid fun g => g.setG b (home (g.gSet b))
  | _ => s.updBlock b.id fun b => b.setB d.index v

/-- Writes of its block's k set and g set that a contributor's core must have applied before a round on
`d` completes for it: those made by then, at this scope and the narrower ones (R117, R122). -/
def State.roundWrites (s : State) (d : Operand) (blk : Nat) : Nat × Nat :=
  match s.block? blk with
  | none => (0, 0)
  | some b => match d, s.grid? b.grid with
    | .k _, some g => ((g.kSet b).log.length, 0)
    | .g _, some g => ((g.kSet b).log.length, (g.gSet b).log.length)
    | _, _ => (0, 0)

/-- No contributor has a result outstanding that is older than its contribution (R92). -/
def State.roundAlone (s : State) (x : Round) : Bool :=
  x.parts.all fun p => match s.warp? { blk := p.blk, slot := p.slot } with
    | some (_, w) => w.results.all fun y => p.result ≤ y.id
    | none => true

/-- The contributors' cores share their generation tags (R325). -/
def State.shareRound (s : State) (b : Block) (x : Round) : State :=
  match s.grid? b.grid with
  | none => s
  | some g => s.shareTags g.vf (x.parts.filterMap fun p => (s.block? p.blk).map Block.core)

/-- The end of a complete round; its error is recorded once the older results of every contributor are
written (R92). -/
def State.endRound (s : State) (b : Block) (d : Operand) (idx : List Nat) (x : Round) : State :=
  let t := (s.shareRound b x).setRounds b d fun rs => rs.filter (·.reg != d.index)
  match x.error idx with
  | some code =>
    if !s.roundAlone x then s
    else
      let t := x.parts.foldl (fun (s : State) (p : Contribution) =>
        let r : WarpRef := { blk := p.blk, slot := p.slot }
        let drop (w : Warp) : Warp := match w.results.find? (·.id == p.result) with
          | some y => { w with
              results := w.results.filter (·.id != p.result), pend := clearPend w.pend y.pend }
          | none => w
        (s.updWarp r drop).noteFault r (faultAt code 2) p.pc) t
      t.kill (t.ctxOf b) (code.setWidth 16)
  | none =>
    let (v, fl) := x.fold idx
    let t := match v with
      | some v => t.writeRound b d v
      | none => t
    (x.parts.foldl (fun (s : State) (p : Contribution) =>
      s.updWarp { blk := p.blk, slot := p.slot } fun w => { w with
        results := w.results.map fun (y : Result) => if y.id == p.result then
          { y with ready := true, after := t.roundWrites d p.blk, flags := y.flags ||| fl,
                   event := some (0, 0) }
          else y }) t).progress (s.ctxOf b)

/-- ROUND_COMPLETE (R121): the round named completes, if every participant has contributed or
exited. -/
def execRoundComplete (q : RoundRef) (s : State) : Out :=
  .next (match s.roundSite q with
    | none => s
    | some (b, d, idx, ws) =>
      match (s.roundsAt b d).find? (·.reg == d.index) with
      | none => s
      | some x => if x.full ws then s.endRound b d idx x else s)

/-! ## REGISTER_COPY_UPDATE (R112) -/

/-- A core's copy applies the next write of a set; home and copy share tags (R325). -/
def Grid.copyUpdate (g : Grid) (unit : Option Nat) (trail : Bool) (core : Nat) : Grid :=
  match unit with
  | some u =>
    let key := 2 * u + trail.toNat
    { g with k := sparseSet RegSet.reset g.k key ((sparseGet RegSet.reset g.k key).advance core) }
  | none => if trail then { g with gTrail := g.gTrail.advance core } else { g with g := g.g.advance core }

/-- A core runs a block of this copy of a grid, in the launch cluster if one is given. -/
def State.runsAt (s : State) (g : Grid) (unit : Option Nat) (trail : Bool) (core : Nat) : Bool :=
  s.blocks.any fun b => b.grid == g.id && b.core == core && b.trail == trail
    && unit.all fun u => g.clusterIndex b.index == u

/-- REGISTER_COPY_UPDATE (R112): the copy of a k set (`unit`) or of the g set at a core applies one
write more, in home order; a core that runs blocks of both copies of a redundant grid holds a copy of
each set. -/
def execRegisterCopyUpdate (grid : Nat) (unit : Option Nat) (core : Nat) (s : State) : Out :=
  .next (match s.grid? grid with
    | none => s
    | some g =>
      let trails := [false, true].filter fun t => s.runsAt g unit t core
      let s := trails.foldl (fun s t => s.updGrid grid fun g => g.copyUpdate unit t core) s
      let writers := (s.blocks.filter fun b => b.grid == grid).map Block.core
      if trails.isEmpty then s else s.shareTags g.vf (core :: writers))

end Sys2Proof.Machine
end

