-- ==== Sys2Proof/Machine/Network.lean ====
section
/-!
DEFINITION. Channels: SEND and RECV, with the events MESSAGE_LANDING and CREDIT_RETURN (R274 to R280,
R288).
-/

namespace Sys2Proof.Machine

/-! ## Channel ends (R274, R276) -/

def Block.updChan (b : Block) (chan : Nat) (f : ChanEnd → ChanEnd) : Block :=
  { b with chans := b.chans.modify chan f }

/-- Index of the block that a channel of a block sends to. -/
def Grid.receiver (g : Grid) (x : ChanDesc) (index : Nat) : Nat :=
  (((index : Int) + x.peer) % (g.map.length : Int)).toNat

/-- The block of an index in one copy of a grid. -/
def State.blockAt (s : State) (grid index : Nat) (trail : Bool) : Option Block :=
  s.blocks.find? fun b => b.grid == grid && b.index == index && b.trail == trail

/-- The channel fields of a word are wrong (R278, R279). -/
def Ctx.badChan (c : Ctx) (half : Bool) (chan : BitVec 4) : Bool :=
  c.b.chans.length ≤ chan.toNat || (half && c.w.width < 64)

/-- First lane of a half. -/
def halfBase (half : Bool) : Nat := if half then 32 else 0

/-! ## SEND (R278) -/

/-- The message that a SEND makes: 32 words, 0 where the lane is not in C. -/
def Ctx.message (c : Ctx) (a : Operand) (half : Bool) : List Word :=
  (List.range 32).map fun w =>
    let l := halfBase half + w
    if c.lanes.contains l then c.opd l a else 0

/-- Fences of the warp that its later writes wait for. -/
def Ctx.fences (c : Ctx) : List Nat := ((c.s.accsOf c.r).filter fun a => a.isFence).map Acc.id

/-- Performs a SEND: the leading copy's reaches both copies of the receiver (R354). -/
def Ctx.send (c : Ctx) (words : List Word) (chan : Nat) : Eff :=
  match c.b.chans[chan]? with
  | none => .done c.s
  | some e =>
    let op := c.s.nextId
    let s := c.s.fresh.pushOp c.r .net op [] none 0
    if c.shadow then .done (s.updOp c.r op fun x => { x with done := true })
    else
      let msg (id : Nat) (trail : Bool) : Message :=
        { id, grid := c.g.id, trail, chan, dest := c.g.receiver e.desc c.b.index, words, blk := c.b.id,
          slot := c.r.slot, op, after := c.fences }
      let s := s.updBlock c.b.id fun b => b.updChan chan fun e =>
        { e with credits := e.credits - 1, sent := e.sent + 1 }
      let one : State := { s.fresh with messages := s.messages ++ [msg s.nextId false] }
      .done (if c.g.packet.redundant then
        { one.fresh with messages := one.messages ++ [msg one.nextId true] } else one)

def sendEff (a : Operand) (half : Bool) (chan : BitVec 4) (c : Ctx) : Eff :=
  if c.badChan half chan then (if c.off then .done c.s else execFault fcRange)
  else
    let words := c.message a half
    let credit := match c.b.chans[chan.toNat]? with
      | some e => e.credits != 0
      | none => false
    let lead := !(c.g.packet.redundant && c.b.trail)
    let logged := c.g.packet.redundant && c.w.replayed < c.w.replay.length
    if (lead && !logged && !credit) || c.w.counterFull .net then .wait c.s .parked
    else c.paired
      { op := 0x78, args := words.zipIdx.map fun x =>
          (x.2, BitVec.ofNat 64 chan.toNat, x.1.setWidth 128) } none 0 fun c => c.send words chan.toNat

/-- SEND (R278). -/
def execSend (sw : Bool) (a : Operand) (half : Bool) (chan : BitVec 4) (s : State) : Out :=
  .next (runWord s (fun _ =>
    { sw, uses := [{ Use.src a 1 with ok := a.isV }], gd := true, closes := .unlessPaired, ahead := .skip })
    (sendEff a half chan))

/-! ## RECV (R279) -/

/-- An earlier RECV of the block on the channel still waits (R277). -/
def Ctx.behind (c : Ctx) (chan ticket : Nat) : Bool :=
  c.b.warps.any fun w => w.slot != c.r.slot && (match w.run with
    | .recv ch t => ch == chan && t < ticket
    | _ => false)

/-- A slot is freed: one credit goes back, once both copies of a redundant receiver have taken the
message (R276, R354). -/
def State.freeSlot (s : State) (b : Block) (g : Grid) (chan : Nat) (e : ChanEnd) : State :=
  let last : Bool := match s.twin? b with
    | some t => match t.chans[chan]? with
      | some y => decide (e.taken + 1 ≤ y.taken)
      | none => true
    | none => true
  let s := s.updBlock b.id fun b => b.updChan chan fun e => { e with taken := e.taken + 1 }
  if last then
    { s.fresh with credits := s.credits ++
        [{ id := s.nextId, grid := g.id, trail := false, chan, dest := g.sender e.desc b.index }] }
  else s

/-- An earlier acquire or full FENCE or ACQ of the warp holds its loads, and so its RECVs (R191, R193,
R280). -/
def Ctx.acquiring (c : Ctx) : Bool := (c.s.accsOf c.r).any fun a => match a.kind with
  | .fence _ acq _ => acq
  | .acq => true
  | _ => false

/-- Takes the oldest unread message into the lanes of C of the half. -/
def Ctx.recv (c : Ctx) (d : Operand) (half : Bool) (chan ticket : Nat) : Eff :=
  match c.b.chans[chan]? with
  | none => .done c.s
  | some e =>
    if e.landed ≤ e.taken || c.behind chan ticket || c.acquiring then .wait c.s .parked
    else
      let base := e.desc.landing + 128 * (e.taken % Nat.max 1 e.desc.slots)
      let lanes := c.lanes.filter fun l => halfBase half ≤ l && l < halfBase half + 32
      let at' (l : Nat) := base + 4 * (l - halfBase half)
      let read (l : Nat) (y : Nat × Nat) : Bool := y.1 == 0 && y.2 == at' l
      let bad := lanes.filter fun l => c.b.localBad (at' l) 4
      let s := c.s.readSoft c.b c.ctx fun y => lanes.any fun l => read l y
      let s := if bad.isEmpty then s else s.log 2 .sram c.b.core c.ctx 0
      let x : Result := { c.result s (some d) 1 with
        lanes := maskOf lanes, store := 1, ready := !c.shadow,
        vals := if c.shadow then [] else sparseVals (lanes.map fun l => (l, readLE c.b.scratch (at' l) 4)),
        marked := maskOf bad }
      let s := if lanes.isEmpty then s else s.pushResult c.r x
      .done (s.freeSlot c.b c.g chan e)

/-- A RECV takes its place in the order when it first issues, and keeps it while it waits. -/
def recvEff (d : Operand) (half : Bool) (chan : BitVec 4) (c : Ctx) : Eff :=
  if c.badChan half chan then (if c.off then .done c.s else execFault fcRange)
  else
    let ch := chan.toNat
    let asked := match c.b.chans[ch]? with
      | some e => e.asked
      | none => 0
    let (ticket, s) := match c.w.run with
      | .recv _ t => (t, c.s)
      | _ => (asked, c.s.updBlock c.b.id fun b => b.updChan ch fun e => { e with asked := e.asked + 1 })
    let hold (e : Eff) : Eff := match e with
      | .wait s _ => .wait s (.recv ch ticket)
      | e => e
    hold (({ c with s := s } : Ctx).paired { op := 0x79, args := [(half.toNat, BitVec.ofNat 64 ch, 0)] }
      (some d) 1 fun c => c.recv d half ch ticket)

/-- RECV (R279). -/
def execRecv (sw : Bool) (d : Operand) (half : Bool) (chan : BitVec 4) (s : State) : Out :=
  .next (runWord s (fun _ =>
    { sw, uses := [{ Use.dst d 1 with ok := d.isV }], gd := true, closes := .unlessPaired, ahead := .poison })
    (recvEff d half chan))

/-! ## MESSAGE_LANDING, CREDIT_RETURN (R276) -/

/-- A message reaches its slot. -/
def Block.receive (b : Block) (m : Message) : Block :=
  match b.chans[m.chan]? with
  | none => b
  | some e =>
    let base := e.desc.landing + 128 * (e.landed % Nat.max 1 e.desc.slots)
    let b := m.words.zipIdx.foldl (fun (b : Block) x =>
      { b with scratch := writeLE b.scratch (base + 4 * x.2) 4 x.1.toNat }) b
    let b : Block := { b.cleanSoft 0 base 128 with scratchBad := keepMarks b.scratchBad base 128 }
    b.updChan m.chan fun e => { e with landed := e.landed + 1 }

/-- A message is gone: its SEND completes with the last of its copies, and what waited for it goes
on. -/
def State.endMessage (s : State) (m : Message) : State :=
  let rest := s.messages.filter (·.id != m.id)
  let s := ({ s with messages := rest } : State).dropAcc m.id
  if rest.any fun x => x.blk == m.blk && x.slot == m.slot && x.op == m.op then s
  else
    s.updOp { blk := m.blk, slot := m.slot } m.op fun x => { x with done := true }

/-- The oldest message to its end of the channel lands, or is discarded where the receiver has
retired; a discarded message gives its credit back. -/
def State.landMessage (s : State) (id : Nat) : State :=
  match s.messages.find? (·.id == id) with
  | none => s
  | some m =>
    let same (x : Message) : Bool :=
      x.grid == m.grid && x.trail == m.trail && x.chan == m.chan && x.dest == m.dest
    if !m.after.isEmpty || ((s.messages.find? same).any fun x => x.id != id) then s
    else match s.grid? m.grid with
      | none => s.endMessage m
      | some g =>
        match s.blockAt m.grid m.dest m.trail with
        | some b =>
          let t := (s.block? m.blk).elim s fun x => s.shareTags g.vf [x.core, b.core]
          (t.updBlock b.id fun b => b.receive m).endMessage m
        | none =>
          if g.retired.contains (m.dest, m.trail) then
            let s := s.endMessage m
            let from' := match s.block? m.blk with
              | some b => b.index
              | none => 0
            if m.trail then s
            else { s.fresh with credits := s.credits ++
              [{ id := s.nextId, grid := m.grid, trail := false, chan := m.chan, dest := from' }] }
          else s

/-- MESSAGE_LANDING (R276). -/
def execMessageLanding (id : Nat) (s : State) : Out := .next (s.landMessage id)

/-- A credit reaches the sending block. -/
def State.returnCredit (s : State) (id : Nat) : State :=
  match s.credits.find? (·.id == id) with
  | none => s
  | some x =>
    let s : State := { s with credits := s.credits.filter (·.id != id) }
    match s.blockAt x.grid x.dest x.trail with
    | some b => s.updBlock b.id fun b => b.updChan x.chan fun e => { e with credits := e.credits + 1 }
    | none => s

/-- CREDIT_RETURN (R276). -/
def execCreditReturn (id : Nat) (s : State) : Out := .next (s.returnCredit id)

end Sys2Proof.Machine
end

