-- ==== Sys2Proof/Machine/Trees.lean ====
section
/-!
DEFINITION. Reduction trees: NRED, and the events TREE_INPUT, TREE_TIMEOUT and TREE_RESULT (R281 to
R290).
-/

namespace Sys2Proof.Machine

/-! ## The shape of a tree (R273, R282, R283) -/

/-- Core of a block of a grid; the leading copy stands for a pair. -/
def Grid.coreOf (g : Grid) (index : Nat) : Nat := ((g.map[index]?).map Prod.fst).getD 0

/-- The member clusters, the root's first. -/
def Grid.members (g : Grid) (t : TreeDesc) : List Nat :=
  let all := (g.map.map fun x => clusterOf x.1).foldl (fun m c => insertNat c m) []
  let root := clusterOf t.root
  (all.filter fun c => root ≤ c) ++ all.filter fun c => c < root

/-- List position of a cluster. -/
def Grid.posOf (g : Grid) (t : TreeDesc) (cluster : Nat) : Nat := (g.members t).idxOf cluster

/-- The root block: the lowest-numbered on the root core. -/
def Grid.rootBlock (g : Grid) (t : TreeDesc) : Option Nat :=
  (List.range g.map.length).find? fun i => g.coreOf i == t.root

/-- Ports of a router, in the order of R284: +x, −x, +y, −y. The port on which a partial from a child
cluster arrives: x is travelled first, the shorter way, the positive one on a tie. -/
def arrivalPort (child parent : Nat) : Nat :=
  let dx := (parent % 24 + 24 - child % 24) % 24
  let dy := (parent / 24 + 8 - child / 24) % 8
  if dy != 0 then (if 2 * dy ≤ 8 then 3 else 2)
  else if 2 * dx ≤ 24 then 1 else 0

/-- List position of the parent. -/
def TreeDesc.parent (t : TreeDesc) (pos : Nat) : Nat := (pos - 1) / Nat.max 1 t.fanin

/-- Cluster at a list position. -/
def Grid.memberAt (g : Grid) (t : TreeDesc) (pos : Nat) : Nat := ((g.members t)[pos]?).getD 0

/-- Children of a router with their ports, in fold order (R284). -/
def Grid.children (g : Grid) (t : TreeDesc) (pos : Nat) : List (Nat × Nat) :=
  let n := (g.members t).length
  let mine := (List.range n).filter fun j => j != 0 && t.parent j == pos
  let port (j : Nat) := arrivalPort (g.memberAt t j) (g.memberAt t pos)
  (List.range 4).flatMap fun p => (mine.filter fun j => port j == p).map fun j => (p, j)

/-- Local blocks of a router: local core and index, in fold order (R284). -/
def Grid.locals (g : Grid) (t : TreeDesc) (pos : Nat) : List (Nat × Nat) :=
  let cl := g.memberAt t pos
  (List.range 4).flatMap fun k =>
    ((List.range g.map.length).filter fun i => g.coreOf i == 4 * cl + k).map fun i => (k, i)

/-- Contributing blocks at and beneath a router; positions below it are larger. -/
def Grid.below (g : Grid) (t : TreeDesc) : Nat → Nat → Nat
  | 0, _ => 0
  | n + 1, pos =>
    (g.locals t pos).length + (g.children t pos).foldl (fun k j => k + g.below t n j.2) 0

def Grid.beneath (g : Grid) (t : TreeDesc) (pos : Nat) : Nat := g.below t (g.members t).length pos

/-- The inputs that a router expects, in fold order. -/
def Grid.expected (g : Grid) (t : TreeDesc) (pos : Nat) : List TreeSrc :=
  (g.locals t pos).map (fun x => TreeSrc.core x.1 x.2) ++ (g.children t pos).map fun x => TreeSrc.child x.2

/-! ## A round at a router (R284, R285, R290) -/

/-- One step of the fold over 32 elements; the newer generation tag goes on (R325). -/
def treeStep (a b : TreeVal) : TreeVal :=
  let gen := if a.gen.toNat < b.gen.toNat then b.gen else a.gen
  let a := { a with gen }
  let b := { b with gen }
  if a.vals.isEmpty then { b with flags := a.flags ||| b.flags }
  else if b.vals.isEmpty then { a with flags := a.flags ||| b.flags }
  else
    let rs := (a.vals.zip b.vals).map fun x => raiseStep (a.fn + 1) a.ty x.1.toNat x.2.toNat
    { a with
      vals := rs.map fun r => BitVec.ofNat 32 r.1,
      flags := rs.foldl (fun fl r => fl ||| r.2) (a.flags ||| b.flags) }

/-- Two inputs with values that name different functions or types (R284). -/
def TreeVal.clash (a b : TreeVal) : Bool :=
  !a.vals.isEmpty && !b.vals.isEmpty && (a.fn != b.fn || a.ty != b.ty)

/-- The inputs that have come, in fold order. -/
def Grid.arrived (g : Grid) (t : TreeDesc) (x : TreeRound) : List TreeVal :=
  (g.expected t x.pos).filterMap fun src => (x.inputs.find? (·.1 == src)).map Prod.snd

/-- Contributions missing at and beneath a router. -/
def Grid.missing (g : Grid) (t : TreeDesc) (x : TreeRound) : Nat :=
  (g.expected t x.pos).foldl (fun n src => n + match x.inputs.find? (·.1 == src), src with
    | some y, _ => y.2.missing
    | none, .core _ _ => 1
    | none, .child j => g.beneath t j) 0

/-- Root inputs that lack a contribution, as report[7:0]. -/
def Grid.lacking (g : Grid) (t : TreeDesc) (x : TreeRound) : BitVec 8 :=
  let lacks (src : TreeSrc) : Bool := match x.inputs.find? (·.1 == src) with
    | some y => y.2.missing != 0
    | none => true
  let bits := ((g.locals t x.pos).filter fun y => lacks (.core y.1 y.2)).map Prod.fst
    ++ ((g.children t x.pos).filter fun y => lacks (.child y.2)).map fun y => 4 + y.1
  bits.foldl (fun m i => m ||| (1 <<< i)) 0

/-- The round of a tree at a router. -/
def Grid.round? (g : Grid) (tree round pos : Nat) : Option TreeRound :=
  g.trees.find? fun x => x.tree == tree && x.round == round && x.pos == pos

def Grid.roundAt (g : Grid) (tree round pos now : Nat) : TreeRound :=
  (g.round? tree round pos).getD
    { tree, round, pos, inputs := [], start := now, sent := false, result := none, gone := false }

/-- Puts a round's new content in its place, or behind the others. -/
def Grid.putRound (g : Grid) (x : TreeRound) : Grid :=
  let same (y : TreeRound) : Bool := y.tree == x.tree && y.round == x.round && y.pos == x.pos
  if g.trees.any same then { g with trees := g.trees.map fun y => if same y then x else y }
  else { g with trees := g.trees ++ [x] }

/-- A router has a round's result; of each tree it keeps those of the last two rounds (R286). -/
def Grid.keepResult (g : Grid) (tree round pos now : Nat) (v : TreeVal × BitVec 16) : Grid :=
  let g := g.putRound { g.roundAt tree round pos now with result := some v }
  let kept := (g.trees.filter fun x => x.tree == tree && x.pos == pos && x.result.isSome).map TreeRound.round
  let old (r : Nat) : Bool := 2 ≤ (kept.filter (r < ·)).length
  { g with trees := g.trees.map fun x =>
      if x.tree == tree && x.pos == pos && x.result.isSome && old x.round then
        { x with result := none, gone := true } else x }

/-- The values of a round's inputs at a router name different functions, or one under different types
(R284). -/
def Grid.clashes (g : Grid) (t : TreeDesc) (x : TreeRound) : Bool :=
  match (g.arrived t x).filter fun v => !v.vals.isEmpty with
  | [] => false
  | v :: rest => rest.any v.clash

/-- An error of a round waits for the results that are older than its NREDs (R92). -/
def State.errorWaits (s : State) (g : Grid) (tree round : Nat) : Bool :=
  (g.nreds.filter fun n => n.tree == tree && n.round == round).any fun n =>
    match s.warp? { blk := n.blk, slot := n.slot } with
    | some (_, w) => w.results.any fun x => x.id < n.result
    | none => false

/-- The error of a round: every NRED that a block has issued for it records SCOPE_ROUND, completed ones
among them and those of warps that have exited and of blocks that have retired, and the context is killed
(R284). -/
def State.treeError (s : State) (g : Grid) (tree round : Nat) : State :=
  let bad := g.nreds.filter fun n => n.tree == tree && n.round == round
  let f := faultAt fcScopeRound 2
  let s := bad.foldl (fun (s : State) n =>
    let r : WarpRef := { blk := n.blk, slot := n.slot }
    let drop (w : Warp) : Warp := match w.results.find? (·.id == n.result) with
      | some y => { w with
          results := w.results.filter (·.id != n.result), pend := clearPend w.pend y.pend }
      | none => w
    match s.warp? r, g.gone.find? (·.1 == n.blk) with
    | some _, _ => (s.updWarp r drop).noteFault r f n.pc
    | none, some x => s.pushStop g.ctx (s.goneStop r g.id (g.coreOf x.2.1) n.pc f)
    | none, none => s) s
  s.kill g.ctx (fcScopeRound.setWidth 16)

/-- A router forwards a round with what it holds: to its parent, or at the root as the result, which
`allreduce` hands to every member router (R284 to R286). -/
def State.treeForward (s : State) (g : Grid) (t : TreeDesc) (x : TreeRound) : State :=
  let vals := g.arrived t x
  if g.clashes t x then s.treeError g x.tree x.round
  else
    let missing := g.missing t x
    let none' : TreeVal := { vals := [], fn := 0, ty := 0, missing := 0, flags := 0, gen := 0 }
    let v := { vals.foldl treeStep none' with missing := missing }
    let s := s.updGrid g.id fun g => g.putRound { x with sent := true }
    if x.pos == 0 then
      let report : BitVec 16 := BitVec.ofNat 8 (Nat.min 255 missing) ++ g.lacking t x
      let at' := if t.allreduce then List.range (g.members t).length else [0]
      s.updGrid g.id fun g => at'.foldl (fun g p => g.keepResult x.tree x.round p s.now (v, report)) g
    else
      let p : TreePkt :=
        { id := s.nextId, grid := g.id, tree := x.tree, round := x.round, pos := t.parent x.pos,
          src := .child x.pos, val := v }
      { s.fresh with treePkts := s.treePkts ++ [p] }

/-! ## NRED (R282, R287) -/

/-- The identity of a function and a type. -/
def treeId (fn : Nat) (ty : BitVec 4) : Word :=
  match fn, ty.toNat with
  | 0, 4 => 0x80000000
  | 0, _ => 0
  | 1, 0 => 0x7FFFFFFF
  | 1, 4 => 0x7F800000
  | 1, _ => 0xFFFFFFFF
  | _, 0 => 0x80000000
  | _, 4 => 0xFF800000
  | _, _ => 0

/-- Open rounds of a block on a tree (R282). -/
def Ctx.openRounds (c : Ctx) (tree : Nat) : Nat :=
  (c.g.nreds.filter fun n => n.blk == c.b.id && n.tree == tree && !n.done).length

/-- Sends the contribution; D and %status are pending until it completes. -/
def Ctx.nred (c : Ctx) (d : Operand) (xs : List Word) (tree fn : Nat) : Eff :=
  match c.g.desc.trees[tree]? with
  | none => .done c.s
  | some t =>
    let id := c.s.nextId
    let r := c.result c.s (some d) 1
    let s := c.s.pushResult c.r { r with
      lanes := maskOf (c.lanes.filter (· < 32)), ready := false, pend := r.pend ++ [.status] }
    if c.shadow then .done s
    else
      let round := sparseGet 0 c.b.nreds tree
      let core := c.g.coreOf c.b.index
      let p : TreePkt :=
        { id := s.nextId, grid := c.g.id, tree, round, pos := c.g.posOf t (clusterOf core),
          src := .core (core % 4) c.b.index,
          val := TreeVal.mk xs fn (modeTy c.mode) 0 0 ((s.vf c.g.vf).part.adopted c.b.core) }
      let n : NredWait :=
        { blk := c.b.id, slot := c.r.slot, result := id, tree, round, pc := c.w.ctl.pc, taken := none,
          done := false }
      let s := s.updBlock c.b.id fun b => { b with nreds := sparseSet 0 b.nreds tree (round + 1) }
      let s := s.updGrid c.g.id fun g => { g with nreds := g.nreds ++ [n] }
      .done { s.fresh with treePkts := s.treePkts ++ [p] }

/-- With no lane in C, gd = ~p0 among such guards, the word still contributes its identities and writes event and
report (DESIGN CHOICE, log row 102). -/
def nredEff (d a : Operand) (tree fn : BitVec 3) (c : Ctx) : Eff :=
  if c.g.desc.trees.length ≤ tree.toNat then (if c.off then .done c.s else execFault fcRange)
  else
    let xs := (List.range 32).map fun e =>
      if c.lanes.contains e then c.opd e a else treeId fn.toNat (modeTy c.mode)
    if 2 ≤ c.openRounds tree.toNat then .wait c.s .parked
    else c.paired
      { op := 16 * 0x7A + tyOf c.mode, args := xs.zipIdx.map fun x =>
          (x.2, BitVec.ofNat 64 (8 * tree.toNat + fn.toNat), x.1.setWidth 128) } (some d) 1 fun c =>
        c.nred d xs tree.toNat fn.toNat

/-- NRED (R287). -/
def execNred (sw : Bool) (d a : Operand) (tree fn : BitVec 3) (s : State) : Out :=
  .next (runWord s (fun m =>
    { sw, codes := Instr.codesOk (.nred sw d a tree fn),
      uses := [{ Use.dst d 1 with ok := d.isV }, { Use.src a 1 with ok := a.isV }],
      modeOk := [0, 1, 4].contains (tyOf m), gd := true, modeRead := true, closes := .unlessPaired,
      ahead := .poison })
    (nredEff d a tree fn))

/-! ## TREE_INPUT, TREE_TIMEOUT, TREE_RESULT -/

/-- Packets of one source reach a router in the order of their rounds. -/
def TreePkt.same (x y : TreePkt) : Bool :=
  x.grid == y.grid && x.tree == y.tree && x.pos == y.pos && x.src == y.src

/-- Marks the NRED of a local block as accepted or discarded (R286). -/
def Grid.mark (g : Grid) (s : State) (p : TreePkt) (ok : Bool) : Grid :=
  match p.src with
  | .child _ => g
  | .core _ index =>
    { g with nreds := g.nreds.map fun n =>
        let mine := match s.block? n.blk with
          | some b => b.index == index
          | none => false
        if mine && n.tree == p.tree && n.round == p.round then { n with taken := some ok } else n }

/-- A router receives an input: it discards it where it has forwarded the round, and forwards at once
when every expected input is there (R285). An input that makes an error of the round known waits until the
error may be recorded (R92). -/
def State.treeInput (s : State) (id : Nat) : State :=
  match s.treePkts.find? (·.id == id) with
  | none => s
  | some p =>
    if (s.treePkts.find? p.same).any fun y => y.id != id then s
    else
      let s : State := { s with treePkts := s.treePkts.filter (·.id != id) }
      match s.grid? p.grid with
      | none => s
      | some g =>
        match g.desc.trees[p.tree]? with
        | none => s
        | some t =>
          let x := g.roundAt p.tree p.round p.pos s.now
          if x.sent then (s.updGrid g.id fun g => g.mark s p false).progress g.ctx
          else
            let x := { x with
              inputs := x.inputs ++ [(p.src, p.val)], start := if x.inputs.isEmpty then s.now else x.start }
            let full := (g.expected t p.pos).all fun src => x.inputs.any (·.1 == src)
            if full && g.clashes t x && s.errorWaits g p.tree p.round then
              { s with treePkts := p :: s.treePkts }
            else
              let s := (s.updGrid g.id fun g => (g.putRound x).mark s p true).progress g.ctx
              match full, s.grid? g.id with
              | true, some g => s.treeForward g t x
              | _, _ => s

/-- TREE_INPUT (R284). -/
def execTreeInput (id : Nat) (s : State) : Out := .next (s.treeInput id)

/-- Time-out of a tree in cycles (R281). -/
def TreeDesc.limit (t : TreeDesc) : Nat := if t.timeout == 0 then 2 ^ 24 else t.timeout

/-- A round's timer has run out at a router that holds an input and has not forwarded. -/
def State.treeTimeout (s : State) (grid tree round pos : Nat) : State :=
  match s.grid? grid with
  | none => s
  | some g =>
    match g.desc.trees[tree]?, g.round? tree round pos with
    | some t, some x =>
      if x.sent || x.inputs.isEmpty || s.now < x.start + t.limit
          || (g.clashes t x && s.errorWaits g tree round) then s
      else (s.progress g.ctx).treeForward g t x
    | _, _ => s

/-- TREE_TIMEOUT (R285). -/
def execTreeTimeout (grid tree round pos : Nat) (s : State) : Out :=
  .next (s.treeTimeout grid tree round pos)

/-- What an NRED completes with, once it may (R286): a result or none, event, report and flags. -/
def State.nredOutcome (s : State) (g : Grid) (n : NredWait) :
    Option (Option (List Word) × BitVec 8 × BitVec 16 × Flags) :=
  match s.block? n.blk, g.desc.trees[n.tree]? with
  | some b, some t =>
    let core := g.coreOf b.index
    let pos := g.posOf t (clusterOf core)
    if t.allreduce || g.rootBlock t == some b.index then
      match g.round? n.tree n.round pos with
      | some x =>
        if x.gone then some (none, evPartial, 0xFFFF, 0)
        else x.result.map fun v =>
          (some v.1.vals, if v.2.extractLsb' 8 8 != 0 then evPartial else 0, v.2, v.1.flags)
      | none => none
    else n.taken.map fun ok =>
      if ok then (none, 0, 0, 0)
      else (none, evPartial, (0x0100 : BitVec 16) ||| (1 <<< (core % 4)), 0)
  | _, _ => none

/-- The result that an NRED receives carries the newest generation tag of its contributions; its core adopts
that generation first (R325). -/
def State.nredTag (s : State) (g : Grid) (n : NredWait) : State :=
  match s.block? n.blk, g.desc.trees[n.tree]? with
  | some b, some t =>
    let v := (g.round? n.tree n.round (g.posOf t (clusterOf (g.coreOf b.index)))).bind TreeRound.result
    if v.any fun v => v.1.gen == (s.vf g.vf).part.gen then s.adopt g.vf b.core else s
  | _, _ => s

/-- The oldest NRED of a warp that may complete does. -/
def State.treeResult (s : State) (r : WarpRef) : State :=
  match (s.warp? r).bind fun x => s.grid? x.1.grid with
  | none => s
  | some g =>
    let mine := g.nreds.filter fun n => n.blk == r.blk && n.slot == r.slot && !n.done
    match mine.findSome? fun n => (s.nredOutcome g n).map fun o => (n, o) with
    | none => s
    | some (n, vals, ev, report, flags) =>
      let s := if vals.isSome then s.nredTag g n else s
      let s := s.updGrid g.id fun g => { g with nreds := g.nreds.map fun (x : NredWait) =>
        if x.result == n.result then { x with done := true } else x }
      let s := s.updWarp r fun w => { w with
        results := w.results.map fun (x : Result) => if x.id == n.result then
          { x with
            ready := true, event := some (ev, report), flags := flags, write := vals.isSome,
            vals := sparseVals ((vals.getD []).zipIdx.map fun v => (v.2, v.1.toNat)) }
          else x }
      s.progress g.ctx

/-- TREE_RESULT (R286). -/
def execTreeResult (r : WarpRef) (s : State) : Out := .next (s.treeResult r)

end Sys2Proof.Machine
end

