-- ==== Sys2Proof/Machine/Idle.lean ====
section
/-!
DEFINITION. When a cluster is idle (R384), and the clock of the windows, which knows how long it has been
(R88, R309, R329, R385).
-/

namespace Sys2Proof.Machine

/-- Routers of the blocks of given indices in one copy of a grid (R350). -/
def Grid.routersOf (g : Grid) (is : List Nat) (trail : Bool) : List Nat :=
  clustersOf (is.filterMap fun i => (g.map[i]?).map fun e => if trail then e.2 else e.1)

/-- Routers at which a grid has a round, barrier or tree state in flight (R112, R120, R108, R284). `waits` gives
the scope codes of the barriers that its warps have arrived at, with the copy and launch cluster. -/
def Grid.inFlight (g : Grid) (waits : List (BitVec 3 × Bool × Nat)) : List Nat :=
  let all := List.range g.map.length
  let copies := if g.packet.redundant then [false, true] else [false]
  let trees := g.trees.filter fun x => !x.gone && !x.sent
  (copies.flatMap fun t =>
      (if (if t then g.gTrail else g.g).rounds.isEmpty && !waits.any (fun x => x.1 == 4 && x.2.1 == t) then []
        else g.routersOf all t)
      ++ ((waits.filter fun x => x.1 == 3 && x.2.1 == t).flatMap fun x => g.routersOf (g.clusterBlocks x.2.2) t))
    ++ ((g.k.filter fun k => !k.2.rounds.isEmpty).flatMap fun k =>
      g.routersOf (g.clusterBlocks (k.1 / 2)) (k.1 % 2 == 1))
    ++ ((trees.filterMap fun x => (g.desc.trees[x.tree]?).map fun t => g.memberAt t x.pos)
    ++ if g.packet.redundant && !trees.isEmpty then g.routersOf all true else [])

/-- Routers with a round, barrier or tree state in flight, packets of trees on their way included. -/
def State.busyRouters (s : State) : List Nat :=
  let here := (s.blocks.filter fun b => !b.rounds.isEmpty || b.warps.any fun w => w.run == .barrier 2 false).map
    fun b => clusterOf b.core
  let waits (g : Grid) : List (BitVec 3 × Bool × Nat) := (s.blocks.filter (·.grid == g.id)).flatMap fun b => b.warps.filterMap fun w =>
    match w.run with
    | .barrier scope false => some (scope, b.trail, g.clusterIndex b.index)
    | _ => none
  let packets := s.treePkts.filterMap fun p => match s.grid? p.grid with
    | some g => (g.desc.trees[p.tree]?).map fun t => g.memberAt t p.pos
    | none => none
  here ++ packets ++ s.grids.flatMap fun g => g.inFlight (waits g)

/-- Clusters that are not idle: a warp is ready, an engine command or an array word is in progress, a round,
barrier or tree state is in flight at the router, or an access is pending at the slice (R384). -/
def State.activeClusters (s : State) : List Nat :=
  (((s.warps.filter fun x => !x.2.2.halted && !x.2.2.evicted && x.2.2.run == .ready).map fun x => clusterOf x.2.1.core)
    ++ ((s.cmds.filter fun c => !c.over).map fun c => clusterOf c.core)
    ++ ((s.cores.filter fun k => !k.queue.isEmpty).map fun k => clusterOf k.id)
    ++ s.busyRouters ++ (s.accs.filter fun a => !a.remote && !a.isFence).map fun a => sliceOf a.pa).eraseDups

/-- Clusters that are present are in an idle state, or the device is. -/
def State.allIdle (s : State) : Bool :=
  s.dev.deviceIdle != 0 || (List.range Config.clusters).all fun c =>
    s.dev.absent.contains c || sparseGet 0 s.dev.idle c != 0

/-- Every cluster that holds a block of a context is in an idle state; of a context without a block, every
cluster is, or the device. -/
def State.asleep (s : State) (ctx : Nat) : Bool :=
  match (s.blocks.filter fun b => s.ctxOf b == ctx).map fun b => clusterOf b.core with
  | [] => s.allIdle
  | mine => mine.all fun k => sparseGet 0 s.dev.idle k != 0

/-- The clock moves by a window: a watchdog does not count while its context sleeps (R385), the clusters that
are not idle are noted (R384), and the units receive what has reached them (R329). -/
def State.tick (s : State) : State :=
  let s : State := { s with now := s.now + 4 }
  let s := s.updDev fun d => { d with busyAt := s.activeClusters.foldl (fun m c => sparseSet 0 m c s.now) d.busyAt }
  (if s.dev.idle.isEmpty && s.dev.deviceIdle == 0 then s
    else { s with ctxs := s.ctxs.map fun (c : Context) =>
        if s.asleep c.id then { c with progress := c.progress + 4 } else c }).receive

end Sys2Proof.Machine
end

