-- ==== Sys2Proof/Machine/Translation.lean ====
section
/-!
DEFINITION. Translation at work: table walks (R291 to R296), instruction fetch (R305), the end of a
run-ahead (R299), and the posting of sheaves (R300).
-/

namespace Sys2Proof.Machine

/-! ## TABLE_WALK (R295) -/

/-- TABLE_WALK (R295): a walk for a core installs the leaf that it finds (R294); a missing or malformed
entry installs nothing. -/
def execTableWalk (core ctx va : Nat) (acc : Access) (s : State) : Out :=
  .next (if va < 2 ^ 57 then (s.leafOf core ctx va (acc == .fetch)).2 else s)

/-! ## INSTRUCTION_FETCH (R305) -/

/-- The warp stands at a word outside the fetch block it issues from, and may issue. -/
def Warp.wantsFetch (w : Warp) (image : Dword) : Bool :=
  w.run == .ready && !w.halted && !w.evicted
    && match w.fetch with
      | none => true
      | some (block, _) =>
        let va := (image + BitVec.ofNat 64 w.ctl.pc).toNat
        va < block || block + 64 ≤ va

/-- The leaf of a fetch (R293, R305). -/
def State.fetchLeaf (s : State) (core ctx : Nat) (va : Dword) : Trans × Option Tlb × State :=
  let (t, s) := s.translate core ctx va .fetch
  (t, (s.core core).itlb.find? (·.covers ctx va.toNat), s)

/-- The leaf of a fetch in the privileged window, which no table holds: its 64 KiB (R301). -/
def windowLeaf (ctx va pa : Nat) : Tlb :=
  { ctx, va := va / 65536 * 65536, size := 65536, pa := pa / 65536 * 65536, r := true, w := true, x := true,
    lower := false, node := false }

/-- A byte of a code page as fetch sees it: as it stood before the stores since the page was met (R305). -/
def State.codeByte (s : State) (ctx va pa : Nat) : Byte :=
  match s.code.find? fun c => c.leaf.covers ctx va with
  | some c => ((c.old.find? (·.1 == pa)).map Prod.snd).getD (memGet s.mem pa)
  | none => memGet s.mem pa

/-- A fetch block in a core's instruction cache. -/
def State.codeHeld (s : State) (core ctx block : Nat) : Option CodeBlock :=
  (s.core core).icache.find? fun x => x.ctx == ctx && x.va == block

/-- A fetch reads the instruction cache: a block with a double error is dropped, and fetched anew (R342; DESIGN
CHOICE, log row 111). -/
def State.readCode (s : State) (core ctx block : Nat) : State :=
  if (s.codeHeld core ctx block).isNone then s
  else match s.readSram .icache core core ctx (· == block) with
    | ([], t) => t
    | (_, t) => t.updCore core fun c => { c with icache := c.icache.filter fun x => !(x.ctx == ctx && x.va == block) }

/-- What a fetch block holds: from the instruction cache, else the code page as fetch sees it. -/
def State.codeWords (s : State) (core ctx block pa : Nat) : List Word :=
  match s.codeHeld core ctx block with
  | some x => x.words
  | none => (List.range 16).map fun i => BitVec.ofNat 32 (leOf ((List.range 4).map fun j =>
      s.codeByte ctx (block + 4 * i + j) (pa + 4 * i + j)))

/-- Blocks of the instruction cache: 128 KiB (R2). The block that has been there longest goes first
(replacement is the part's: DESIGN CHOICE, log row 10). -/
def icacheBlocks : Nat := 2048

/-- The warp takes a fetch block: it may issue from now on (R95). -/
def State.enterBlock (s : State) (r : WarpRef) (core ctx block pa : Nat) (leaf : Tlb) : State :=
  let words := s.codeWords core ctx block pa
  let held := (s.codeHeld core ctx block).isSome
  let x : CodeBlock := { ctx, va := block, words, base := leaf.va, size := leaf.size }
  let s := if held then s else s.updCore core fun c => { c with icache := pushBounded icacheBlocks x c.icache }
  let s : State := if s.code.any fun c => c.leaf.covers ctx block then s
    else { s with code := s.code ++ [{ leaf, old := [] }] }
  s.updWarp r fun w => { w with fetch := some (block, words), since := s.now }

/-- The fault of a fetch that finds no readable block (R305). -/
def fetchFault (code : BitVec 8) (va : Dword) : FaultInfo := { faultAt code 0 with addr := va }

/-- One fetch; the physical address where no memory is. -/
def State.fetch (s : State) (r : WarpRef) : Except Nat State :=
  match s.warp? r with
  | none => .ok s
  | some (b, w) =>
    let va := s.imageOf b + BitVec.ofNat 64 w.ctl.pc
    let block := va &&& ~~~63#64
    let ctx := s.ctxOf b
    let hit := if w.flt.skipComp == some w.ctl.pc then 0 else s.comparators ctx va
    let running := (s.aheadOf b.core r).isSome
    if !w.wantsFetch (s.imageOf b) then .ok s
    else if running then
      let s := s.readCode b.core ctx block.toNat
      match s.codeHeld b.core ctx block.toNat, hit with
      | some x, 0 => .ok (s.updWarp r fun w => { w with fetch := some (block.toNat, x.words) })
      | _, _ => .ok (s.aheadStop b.core)
    else if hit != 0 then .ok (s.takeFault r (comparatorFault hit) w.ctl.pc)
    else
      let (t, leaf, s) := s.fetchLeaf b.core ctx block
      let post (malformed : Bool) : State :=
        if !w.results.isEmpty then s
        else
          let (s, ids, _) := s.addSheaf b.core ctx 1 r va [sheafPage va .fetch malformed]
          s.updWarp r fun w => w.hold (fetchFault fcPage va) ids
      match t with
      | .missing => .ok (post false)
      | .malformed => .ok (post true)
      | .nonCanonical => .ok (s.takeFault r (fetchFault fcPage va) w.ctl.pc)
      | .range => .ok (s.takeFault r (fetchFault fcRange va) w.ctl.pc)
      | .permission | .lower _ | .remote _ _ =>
        .ok (s.takeFault r (fetchFault fcPermission va) w.ctl.pc)
      | .phys pa =>
        let leaf := leaf.getD (windowLeaf ctx block.toNat pa)
        let s := s.readCode b.core ctx block.toNat
        if Config.dramBytes < pa + 64 then .error pa
        else if (s.codeHeld b.core ctx block.toNat).isSome then .ok (s.enterBlock r b.core ctx block.toNat pa leaf)
        else
          let s := s.exchangeTags b.core pa
          if s.spanBad pa 64 then
            let s := s.readSpan ctx pa 64
            .ok ((s.log 3 .pipe b.core ctx va).takeFault r (fetchFault fcUncorrectable va) w.ctl.pc)
          else .ok ((s.correctSpan ctx pa 64).enterBlock r b.core ctx block.toNat pa leaf)

/-- INSTRUCTION_FETCH (R305). -/
def execInstructionFetch (r : WarpRef) (s : State) : Out :=
  match s.fetch r with
  | .ok t => .next t
  | .error pa => .fault (.noSuchMemory pa)

/-! ## RUN_AHEAD_ROLLBACK (R299) -/

/-- The warp as it was saved; what engines, the debugger and other units did meanwhile stays. -/
def Warp.rewound (saved w : Warp) : Warp :=
  { saved with
    halted := w.halted, evicted := w.evicted, stale := w.stale, eng := w.eng, store := w.store, engine := w.engine,
    replay := w.replay, tlbis := w.tlbis, claimed := w.claimed }

/-- The core restores the warp of its run-ahead and frees the buffer; loads of the run-ahead that are
still out leave nothing. -/
def State.rewind (s : State) (core : Nat) : State :=
  match (s.core core).ahead with
  | none => s
  | some a =>
    let r : WarpRef := { blk := a.blk, slot := a.slot }
    let gone := ((s.accsOf r).filter fun x => x.kind == .load).map Acc.id
    let s := gone.foldl (fun s id => s.dropAcc id) s
    (s.updCore core fun c => { c with ahead := none }).updWarp r fun w => a.saved.rewound w

/-- RUN_AHEAD_ROLLBACK (R299): once run-ahead has stopped. -/
def execRunAheadRollback (core : Nat) (s : State) : Out :=
  .next (match (s.core core).ahead with
    | some a => if a.words ≥ aheadWords then s.rewind core else s
    | none => s)

/-! ## SHEAF_POST (R300) -/

/-- Capacity of a router's intake. -/
def intakeSlots : Nat := 64

/-- The fault-queue slot for the sheaf of a context: the first free one from its number on; cancelled sheaves
of an earlier context of this number keep theirs (R304). -/
def Context.freeSlot (c : Context) (id : Nat) (old : List Sheaf) : Option Nat :=
  let n := 2 ^ c.fqLog
  let used := (c.sheaves ++ old.filter (·.ctx == c.id)).filterMap Sheaf.place
  let places := (List.range (Nat.min n (used.length + 1))).map fun i =>
    c.fqBase + 256 * ((id - 1 + i) % n)
  places.find? fun p => !used.contains p

/-- The sheaf is still collecting pages of a run-ahead. -/
def State.collecting (s : State) (x : Sheaf) : Bool :=
  match (s.core x.core).ahead with
  | some a => a.sheaf == x.id && (match s.block? a.blk with
    | some b => s.ctxOf b == x.ctx
    | none => false)
  | none => false

/-- The oldest sheaf of a core that a context can post. -/
def State.nextSheaf (s : State) (core : Nat) : Option (Sheaf × Nat) :=
  if intakeSlots ≤ (s.cluster (clusterOf core)).intake.length then none
  else s.ctxs.findSome? fun c =>
    match c.sheaves.find? fun x => x.core == core && x.place.isNone && !s.collecting x with
    | some x => (c.freeSlot x.id s.cancelled).map fun p => (x, p)
    | none => none

/-- A sheaf record (R300); `place` is the warp's slot on its core. -/
def Sheaf.record (x : Sheaf) (place : Nat) : List Byte :=
  let entry (p : SheafPage) : Nat :=
    p.page % 2 ^ 41 * 65536 + 8 * p.malformed.toNat + 4 * p.x.toNat + 2 * p.w.toNat + p.r.toNat
  let head := x.ctx * 2 ^ 48 + x.cancelled.toNat * 2 ^ 41 + x.pages.length * 2 ^ 32
    + x.source * 2 ^ 24 + place * 2 ^ 16 + x.core
  let words := [x.id, head, x.pc, 0] ++ x.pages.map entry
  (List.range 32).flatMap fun i => leBytes 8 (words[i]?.getD 0)

/-- SHEAF_POST (R300). -/
def State.postSheaf (s : State) (core : Nat) : State :=
  match s.nextSheaf core with
  | none => s
  | some (x, p) =>
    let place := match s.block? x.blk with
      | some b => b.place x.slot
      | none => x.slot
    let s := s.coreWrite core x.ctx p (x.record place) []
    let s := s.updCtx x.ctx fun c => { c with
      sheaves := c.sheaves.map fun (y : Sheaf) => if y.id == x.id then { y with place := some p } else y }
    s.updCluster (clusterOf core) fun k => { k with intake := k.intake ++ [(x.ctx, p)] }

def execSheafPost (core : Nat) (s : State) : Out := .next (s.postSheaf core)

end Sys2Proof.Machine
end

