-- ==== Sys2Proof/Machine/SaveArea.lean ====
section
/-!
DEFINITION. The save area (R316): the record of an evicted warp, and the check of its free bytes.
-/

namespace Sys2Proof.Machine

/-- The run state code of a record (R316). -/
def Warp.runCode (w : Warp) : Nat :=
  if w.halted then 3
  else match w.run with
    | .ready => 0
    | .stopped => 2
    | _ => 1

/-- A run of `n` registers of a sparse file from a key on. -/
def fileBytes (m : Sparse Word) (key n : Nat) : List Byte :=
  (List.range n).flatMap fun i => leBytes 4 (sparseGet 0 m (key + i)).toNat

/-- Bytes 0 to 0x44FF of a warp record (R316): register i of lane l at 4·(64·i + l). -/
def Warp.recordHead (w : Warp) : List Byte :=
  ((List.range 64).flatMap fun i => (List.range 64).flatMap fun l =>
      leBytes 4 (sparseGet 0 w.regs.v (64 * l + i)).toNat)
    ++ fileBytes w.regs.o 0 256 ++ fileBytes w.regs.w 0 32
    ++ ((List.range 64).map fun l => sparseGet 0 w.regs.p l)
    ++ leBytes 8 w.ctl.pc ++ leBytes 4 w.ctl.mode.toNat ++ leBytes 4 w.ctl.status.toNat
    ++ leBytes 8 w.ctl.draw.toNat ++ leBytes 8 w.ctl.active.toNat ++ leBytes 4 w.flt.word.toNat
    ++ leBytes 4 w.flt.retry.toNat ++ leBytes 8 w.flt.addr.toNat ++ leBytes 8 w.flt.lanes.toNat
    ++ leBytes 4 w.flt.ckpc.toNat ++ leBytes 4 w.runCode

/-- `n` of the bytes that the part lays out as it likes, from place `k` on. -/
def freeBytes (saved k n : Nat) : List Byte := (List.range n).map fun i => Config.recordByte (k + i) saved

/-- A whole warp record: head, remaining control state, cursors, captured commands (R316). -/
def State.record (s : State) (b : Block) (w : Warp) : List Byte :=
  w.recordHead ++ freeBytes w.saved 0x4500 2816 ++ s.cursors b w.slot 0 ++ freeBytes w.saved 0x5100 3840

/-- Where a warp's record lies: by its slot on the core. -/
def State.recordAt (s : State) (b : Block) (slot : Nat) : Option Nat :=
  (s.saveArea (s.ctxOf b)).map fun area => area + recordOffset b.core (b.place slot)

/-- The registers that a word of a record holds, as marks of the data in it (R316, R343). -/
def recordMarks (off : Nat) : List Mark :=
  let k := off / 4
  let mark (reg : Reg) (lanes : Mask) : List Mark := [{ reg, lanes, store := 0 }]
  if off < 0x4000 then mark (.v (k / 64)) (maskOf [k % 64])
  else if off < 0x4400 then
    mark (.o ((k - 0x1000) % 32)) (maskOf ((List.range 8).map (8 * ((k - 0x1000) / 32) + ·)))
  else if off < 0x4480 then mark (.w (k - 0x1100)) (BitVec.allOnes 64)
  else if off < 0x44C0 then
    [1, 2, 3, 4, 5, 6, 7].flatMap fun n => mark (.p n) (maskOf ((List.range 4).map (off - 0x4480 + ·)))
  else if off == 0x44C8 then mark .mode (BitVec.allOnes 64)
  else if off == 0x44CC then mark .status (BitVec.allOnes 64)
  else []

/-- Words of a warp's record whose registers carry a mark. -/
def Warp.markedWords (w : Warp) : List Nat :=
  if w.flt.marks.isEmpty then []
  else ((List.range 0x1134).map (4 * ·)).filter fun off => (recordMarks off).any fun x =>
    w.flt.marks.any fun m => m.reg == x.reg && m.lanes &&& x.lanes != 0

/-- Writes a warp's record; what is marked is stored as uncorrectable (R343). -/
def State.saveRecord (s : State) (r : WarpRef) : State :=
  match s.warp? r with
  | none => s
  | some (b, w) =>
    match s.recordAt b r.slot with
    | none => s
    | some pa =>
      (s.coreWrite b.core (s.ctxOf b) pa (s.record b w) (w.markedWords.map (pa + ·))).updWarp r fun w =>
        { w with stale := false }

/-- Writes the head and the cursors of the record of an evicted warp again; the bytes that the part has laid out
stay as they are in memory (R314, R316, R322). -/
def State.refresh (s : State) (r : WarpRef) : State :=
  match s.warp? r with
  | none => s
  | some (b, w) =>
    match (s.recordAt b r.slot).filter fun _ => w.evicted with
    | none => s
    | some pa =>
      let s := s.coreWrite b.core (s.ctxOf b) pa w.recordHead (w.markedWords.map (pa + ·))
      (s.coreWrite b.core (s.ctxOf b) (pa + 0x5000) (s.cursors b w.slot 0) []).updWarp r fun w =>
        { w with stale := false }

/-- Bytes of a warp record, and of a core area (R316). -/
def recordSize : Nat := 24576
def coreAreaSize : Nat := 4718592

/-- A write of the part to `n` bytes at `pa` still waits at its slice (R331). -/
def State.spanWaits (s : State) (pa n : Nat) : Bool :=
  s.accs.any fun a => a.waits && a.pa < pa + n && pa < a.pa + a.width

/-- What was saved of a warp and of its block is written: the part reads it back only then (R314, R331). -/
def State.recordWritten (s : State) (b : Block) (slot : Nat) : Bool :=
  (match s.recordAt b slot with
    | some pa => !s.spanWaits pa recordSize
    | none => true)
  && (b.spilled.isEmpty || match s.coreArea (s.ctxOf b) b.core with
    | some pa => !s.spanWaits pa coreAreaSize
    | none => true)

/-- The part reads a record when its warp returns: registers whose word has an uncorrectable error are marked
(R312, R342). -/
def State.readRecord (s : State) (r : WarpRef) : State :=
  match s.warp? r with
  | none => s
  | some (b, w) =>
    match s.recordAt b w.slot with
    | none => s
    | some pa =>
      let bad := (s.dev.badWords.filter fun a => pa ≤ a && a < pa + 0x44D0).flatMap fun a => recordMarks (a - pa)
      let new := bad.filter fun x => !w.flt.marks.any fun m => m.reg == x.reg && m.lanes &&& x.lanes != 0
      let s := (s.exchangeSpan b.core pa recordSize).readSpan (s.ctxOf b) pa recordSize
      s.updWarp r fun w => { w with flt := { w.flt with marks := w.flt.marks ++ new } }

/-- The free bytes of a record are as the part wrote them (R316). -/
def State.recordIntact (s : State) (b : Block) (w : Warp) : Bool :=
  match s.recordAt b w.slot with
  | none => true
  | some pa =>
    readBytes s.mem (pa + 0x4500) 2816 == freeBytes w.saved 0x4500 2816
      && readBytes s.mem (pa + 0x5100) 3840 == freeBytes w.saved 0x5100 3840

end Sys2Proof.Machine
end

