-- ==== Sys2Proof/Machine/System.lean ====
section
/-!
DEFINITION. The words of handler blocks: TLBI (R302), FHGET and FHDONE (R303), RTT (R321) and SWR
(R322), and the event TLBI_PERFORMED.
-/

namespace Sys2Proof.Machine

/-! ## TLBI (R302) -/

/-- Virtual addresses that a TLBI reaches beyond TLB entries: the 1 GiB that its largest leaf can map,
or all. -/
def TlbiReq.reaches (q : TlbiReq) (ctx va : Nat) : Bool :=
  q.ctx == ctx && (q.all || va / 2 ^ 30 == q.va / 2 ^ 30)

/-- A leaf that a TLBI names. -/
def TlbiReq.names (q : TlbiReq) (t : Tlb) : Bool :=
  q.ctx == t.ctx && (q.all || (t.va ≤ q.va && q.va < t.va + t.size))

/-- A fetch block of a covered page. -/
def TlbiReq.drops (q : TlbiReq) (x : CodeBlock) : Bool :=
  q.ctx == x.ctx && (q.all || (x.base ≤ q.va && q.va < x.base + x.size))

/-- A line of a covered page, under whatever name it has been read (R181). -/
def TlbiReq.holdsLine (q : TlbiReq) (l : CacheLine) : Bool :=
  q.reaches l.ctx l.va || l.names.any fun n => q.reaches n.1 n.2

/-- Every copy of the covered entries goes. -/
def State.shootdown (s : State) (q : TlbiReq) : State :=
  { s with
    cores := s.cores.map fun (c : Core) => { c with
      dtlb := c.dtlb.filter fun t => !q.names t
      itlb := if q.exec then c.itlb.filter fun t => !q.names t else c.itlb
      icache := if q.exec then c.icache.filter fun x => !q.drops x else c.icache
      cache := c.cache.filter fun l => !q.holdsLine l }
    clusters := s.clusters.map fun (k : Cluster) => { k with tlb := k.tlb.filter fun t => !q.names t }
    blocks := s.blocks.map fun (b : Block) =>
      { b with captured := b.captured.filter fun x => !q.names x.2 } }

/-- Local accesses translated before a TLBI that are not performed; the lines that its largest leaf can
map. -/
def State.translated (s : State) (q : TlbiReq) : List Nat :=
  (s.accs.filter fun a => !a.remote && !a.isFence && q.reaches a.ctx a.va.toNat).map Acc.id

/-- A TLBI drops the covered entries at once, and is performed only once its warp's earlier writes are: a walk
until then may still find the old entry (DEDUCED from the litmus of R305, log row 96). -/
def tlbiEff (d a : Operand) (c : Ctx) : Eff :=
  let k := c.one d
  let ctx := (k.extractLsb' 0 16).toNat
  if k.extractLsb' 18 14 != 0 || !c.s.ctxAlive ctx then execFault fcRange
  else
    let own := ((c.s.accsOf c.r).filter fun a => a.kind.writes && !a.remote).map Acc.id
    let q : TlbiReq :=
      { id := c.s.nextId, ctx, va := (c.pair64 a).toNat, all := k.getLsbD 16, exec := k.getLsbD 17,
        own := own ++ c.heldIds true, accs := [], purged := false }
    let s := (c.s.fresh).shootdown q
    .done ({ s with tlbis := s.tlbis ++ [q] }.updWarp c.r fun w => { w with tlbis := w.tlbis ++ [q.id] })

/-- TLBI (R302). -/
def execTlbi (sw : Bool) (d a : Operand) (s : State) : Out :=
  .next (runWord s (fun _ => { sw, uses := [Use.wide d 1, Use.wide a 2], priv := true, ahead := .stop })
    (tlbiEff d a))

/-- Writes of redundant copies, already translated, that wait for their match. -/
def State.heldReach (s : State) (q : TlbiReq) : Bool :=
  s.blocks.any fun b => s.ctxOf b == q.ctx && b.warps.any fun w =>
    w.heldEntries.any fun e => e.pa.isSome && q.reaches q.ctx e.addr.toNat

/-- A covered code page once an execute TLBI is performed: the frame that the tables now give, whose later
stores wait for the next TLBI (R305). -/
def State.codeAfter (s : State) (c : CodePage) : Option CodePage :=
  match s.walk c.leaf.ctx c.leaf.va with
  | .leaf t => if t.x && !t.lower then some { leaf := t, old := [] } else none
  | _ => none

/-- An execute TLBI is performed: fetch sees the stores to the covered code pages so far, and loop bodies of the
context are fetched again at their next iteration, in the saved warp of a run-ahead too (R299, R305). -/
def State.refetchCode (s : State) (q : TlbiReq) : State :=
  let again (w : Warp) : Warp := { w with refetch := w.refetch || !w.ctl.loops.isEmpty }
  let mine (blk : Nat) : Bool := (s.block? blk).any fun b => s.ctxOf b == q.ctx
  { s with
    code := s.code.filterMap fun c => if q.names c.leaf then s.codeAfter c else some c
    cores := s.cores.map fun (c : Core) => { c with
      icache := c.icache.filter fun x => !q.drops x
      ahead := c.ahead.map fun (a : Ahead) => if mine a.blk then { a with saved := again a.saved } else a }
    blocks := s.blocks.map fun (b : Block) => if s.ctxOf b == q.ctx then
      { b with warps := b.warps.map again } else b }

/-- The warp's earlier writes are performed: the entries that walks have brought back since go, and every access
of a covered page that is out is waited for, whichever entry it was translated through (R302). -/
def State.purge (s : State) (q : TlbiReq) : State :=
  let t := s.shootdown q
  { t with tlbis := t.tlbis.map fun (x : TlbiReq) =>
      if x.id == q.id then { x with accs := t.translated q, purged := true } else x }

/-- TLBI_PERFORMED (R302): every copy of the covered entries is gone, and every access through one of them is
performed. -/
def State.endTlbi (s : State) (id : Nat) : State :=
  match s.tlbis.find? (·.id == id) with
  | none => s
  | some q =>
    if !q.own.isEmpty || s.heldReach q then s
    else if !q.purged && !(s.translated q).isEmpty then s.purge q
    else if !q.accs.isEmpty then s
    else
      let s := if q.purged then s else s.shootdown q
      let s := if q.exec then s.refetchCode q else s
      { s with
        tlbis := s.tlbis.filter (·.id != id)
        blocks := s.blocks.map fun (b : Block) => { b with
          warps := b.warps.map fun (w : Warp) => { w with tlbis := w.tlbis.filter (· != id) } } }

def execTlbiPerformed (id : Nat) (s : State) : Out := .next (s.endTlbi id)

/-! ## FHGET and FHDONE (R303) -/

/-- The 2^56 window (R301). -/
def windowAddr (pa : Nat) : Nat := 2 ^ 56 + pa

/-- Updates the sheaf that lies in a fault-queue slot, of a live context or cancelled (R304). -/
def State.updSheafAt (s : State) (p : Nat) (f : Sheaf → Sheaf) : State :=
  let upd (x : Sheaf) : Sheaf := if x.place == some p then f x else x
  { s with
    ctxs := s.ctxs.map fun (c : Context) => { c with sheaves := c.sheaves.map upd }
    cancelled := s.cancelled.map upd }

/-- Marks of a destination whose value comes from an SRAM entry with a double error (R312, R342; the store is
given as 1, DESIGN CHOICE, log row 111). -/
def Ctx.sramMarks (c : Ctx) (d : Operand) (regs : Nat) : List Mark :=
  ((List.range regs).filterMap fun k => (d.nth k).reg?).map fun r =>
    { reg := r, lanes := c.w.ctl.active, store := 1 }

def fhgetEff (d : Operand) (wait : Bool) (c : Ctx) : Eff :=
  let k := clusterOf c.b.core
  match (c.s.cluster k).intake with
  | [] => if wait then .wait c.s .parked else c.put c.s d 2 [(c.lane0, 0)] 0
  | (_, p) :: rest =>
    let (bad, s) := c.s.peekSram .intake k c.b.core c.ctx true
    let s := ((s.shiftSram .intake k).updCluster k fun x => { x with intake := rest }).updSheafAt p fun x =>
      { x with claimed := true }
    let eff := c.put (s.updWarp c.r fun w => { w with claimed := w.claimed ++ [p] }) d 2
      [(c.lane0, windowAddr p)] 0
    match eff with
    | .done t => .done (if bad then t.addMarks c.r (c.sramMarks d 2) else t)
    | e => e

/-- FHGET (R303). -/
def execFhget (sw : Bool) (d : Operand) (wait : Bool) (s : State) : Out :=
  .next (runWord s (fun _ => { sw, uses := [Use.wideDst d 2], priv := true, ahead := .stop })
    (fhgetEff d wait))

/-- The warp is held on a sheaf. -/
def Warp.heldOn (w : Warp) (id : Nat) : Bool :=
  match w.run with
  | .held ids => ids.contains id
  | _ => false

/-- A sheaf of a held warp is done; with its last the warp is ready. -/
def Warp.unhold (w : Warp) (id now : Nat) : Warp :=
  match w.run with
  | .held ids =>
    let rest := ids.filter (· != id)
    if !ids.contains id then w
    else if rest.isEmpty then { w with run := .ready, since := now }
    else { w with run := .held rest }
  | _ => w

/-- Outcome 0: what waits for a sheaf of a context goes on; a warp that was held no longer keeps the watchdog
waiting (R309). -/
def State.sheafRetry (s : State) (ctx id : Nat) : State :=
  let mine (blk : Nat) : Bool := match s.block? blk with
    | some b => s.ctxOf b == ctx
    | none => false
  let free (w : Warp) : Warp := if w.heldOn id then (w.unhold id s.now).touch else w
  let freed := s.blocks.any fun b => s.ctxOf b == ctx && b.warps.any fun w => w.heldOn id
  { s with
    blocks := s.blocks.map fun (b : Block) => if s.ctxOf b == ctx then
      { b with warps := b.warps.map free } else b
    cores := s.cores.map fun (k : Core) => { k with
      ahead := k.ahead.map fun (a : Ahead) =>
        if mine a.blk then { a with saved := a.saved.unhold id s.now } else a }
    cmds := s.cmds.map fun (c : Cmd) =>
      if c.ctx == ctx && c.sheaf == some id then { c with state := 1, sheaf := none } else c
    ctxs := s.ctxs.map fun (c : Context) => if c.id == ctx && freed then { c with progress := s.now } else c }

/-- The fault that a held warp holds, as it takes it (R297, R303). -/
def Warp.heldFault (w : Warp) : FaultInfo :=
  { code := fcPage, stage := w.flt.word.extractLsb' 12 4, detail := 0, addr := w.flt.addr,
    lanes := w.flt.lanes }

/-- Address at which a held command stands. -/
def State.heldAddr (s : State) (c : Cmd) : Dword :=
  match s.ctx? c.ctx, c.sheaf with
  | some x, some id =>
    let u := c.unit c.next
    let pages := ((x.sheaves.filter (·.id == id)).flatMap Sheaf.pages).map SheafPage.page
    match u.meta' with
    | some m => if pages.contains (m.toNat / 65536) then m else u.va
    | none => u.va
  | _, _ => (c.unit c.next).va

/-- Outcome 1: held warps take PAGE as a fatal fault, held commands end carrying it (R220, R307). -/
def State.sheafFail (s : State) (ctx id : Nat) : State :=
  let running := s.cores.filter fun k => match k.ahead with
    | some a => a.saved.heldOn id && (match s.block? a.blk with
      | some b => s.ctxOf b == ctx
      | none => false)
    | none => false
  let s := running.foldl (fun s k => s.rewind k.id) s
  let s := (s.cmds.filter fun c => c.ctx == ctx && c.sheaf == some id).foldl
    (fun s c => s.failCmd c.id fcPage (s.heldAddr c)) s
  let held := s.warps.filter fun x => s.ctxOf x.2.1 == ctx && x.2.2.heldOn id
  let s := held.foldl (fun s x => s.noteFault x.1 x.2.2.heldFault x.2.2.ctl.pc) s
  if held.isEmpty then s else s.kill ctx (fcPage.setWidth 16)

/-- The claimed, unfinished sheaf at an address of the 2^56 window. -/
def State.claimedAt (s : State) (a : Dword) : Option Sheaf :=
  if a.toNat < 2 ^ 56 then none
  else
    let here (x : Sheaf) : Bool := x.claimed && x.place == some (a.toNat - 2 ^ 56)
    match s.ctxs.findSome? fun c => c.sheaves.find? here with
    | some x => some x
    | none => s.cancelled.find? here

/-- Frees the queue slot of a sheaf. -/
def State.dropSheaf (s : State) (x : Sheaf) : State :=
  { s with
    ctxs := s.ctxs.map fun (c : Context) => { c with
      sheaves := c.sheaves.filter fun y => y.place != x.place }
    cancelled := s.cancelled.filter fun y => y.place != x.place
    blocks := s.blocks.map fun (b : Block) => { b with
      warps := b.warps.map fun (w : Warp) =>
        { w with claimed := w.claimed.filter fun p => some p != x.place } } }

/-- Earlier writes and TLBIs of the warp are performed, as a release at device scope (R193, R303). -/
def Ctx.writesDone (c : Ctx) : Bool :=
  c.w.tlbis.isEmpty && ((c.s.accsOf c.r).all fun a => a.remote || !a.kind.writes)
    && (c.s.visibleWrites c.r c.b.core).isEmpty && (c.heldIds true).isEmpty

def fhdoneEff (d a : Operand) (c : Ctx) : Eff :=
  let out := c.one d
  match c.s.claimedAt (c.pair64 a) with
  | none => execFault fcRange
  | some x =>
    if out != 0 && out != 1 then execFault fcRange
    else if !c.writesDone then .wait c.s .parked
    else
      let s := if x.cancelled then c.s
        else if out == 0 then c.s.sheafRetry x.ctx x.id else c.s
      let s := s.dropSheaf x
      .done (if x.cancelled || out == 0 then s else s.sheafFail x.ctx x.id)

/-- FHDONE (R303). -/
def execFhdone (sw : Bool) (d a : Operand) (s : State) : Out :=
  .next (runWord s (fun _ => { sw, uses := [Use.wide d 1, Use.wide a 2], priv := true, ahead := .stop })
    (fhdoneEff d a))

/-! ## RTT and SWR (R321, R322) -/

/-- The warp that a context, a core and a warp slot of the core name: resident there or saved from it. -/
def State.target (s : State) (ctx core slot : Nat) : Option (WarpRef × Block × Warp) :=
  s.warps.find? fun x =>
    s.ctxOf x.2.1 == ctx && x.2.1.core == core && x.2.1.place x.2.2.slot == slot
      && x.2.2.run != .exited

/-- Stopped by a fault, or halted (R307, R319). -/
def Warp.mayRepair (w : Warp) : Bool := w.run == .stopped || w.halted

/-- The target of RTT or SWR, or the fault that it raises; `ok` says that no reserved bit is set. -/
def Ctx.targetOf (c : Ctx) (a : Operand) (ok : Bool) : Except FaultInfo (WarpRef × Block × Warp) :=
  let x := c.pair64 a
  let ctx := (x.extractLsb' 0 16).toNat
  match c.s.target ctx (x.extractLsb' 16 16).toNat (x.extractLsb' 32 5).toNat with
  | some t =>
    let killing := match c.s.ctx? ctx with
      | some k => k.killing
      | none => true
    if !ok || !t.2.2.mayRepair then .error (faultAt fcRange 1)
    else if ctx / 64 != c.g.vf || killing then .error (faultAt fcPermission 1)
    else .ok t
  | none => .error (faultAt fcRange 1)

/-- Since when a context has a resident warp on a core, if it has one. -/
def State.onCore (s : State) (core ctx : Nat) : Option Nat :=
  ((s.warps.filter fun x => x.2.1.core == core && s.ctxOf x.2.1 == ctx && !x.2.2.evicted
    && x.2.2.run != .exited).map fun x => x.2.2.born).min?

/-- Start of a context's slice on a core: when its oldest warp there became resident, or later (R313, R319). -/
def State.sliceStart (s : State) (core ctx : Nat) : Option Nat :=
  (s.onCore core ctx).map fun born => Nat.max born (sparseGet 0 (s.core core).slices ctx)

/-- A slice that was frozen goes on where it stood when the halt began (R319). -/
def State.moveSlice (s : State) (ctx core haltAt : Nat) : State :=
  match s.sliceStart core ctx with
  | none => s
  | some t => s.updCore core fun k =>
      { k with slices := sparseSet 0 k.slices ctx (t + (s.now - Nat.max t haltAt)) }

/-- The halt of a context ends: its time slices and its watchdog, frozen so far, go on (R319). -/
def State.thaw (s : State) (ctx : Nat) : State :=
  match (s.ctx? ctx).filter Context.halted with
  | none => s
  | some c =>
    let cores := ((s.blocks.filter fun b => s.ctxOf b == ctx).map Block.core).eraseDups
    let s := cores.foldl (fun s k => s.moveSlice ctx k c.haltAt) s
    s.updCtx ctx fun c => { c with halted := false, progress := s.now }

/-- A context whose last halted warp is resumed is no longer halted (R319, R321). -/
def State.endHalt (s : State) (ctx : Nat) : State :=
  if s.warps.any fun x => s.ctxOf x.2.1 == ctx && x.2.2.halted then s else s.thaw ctx

def rttEff (a : Operand) (c : Ctx) : Eff :=
  let x := c.pair64 a
  match c.targetOf a (x.extractLsb' 37 3 == 0 && x.extractLsb' 41 23 == 0) with
  | .error f => .fault f
  | .ok (r, _, _) =>
    let s := (c.s.updWarp r fun w => { w.resumed (x.getLsbD 40) with since := c.s.now }).refresh r
    .done ((s.endHalt (x.extractLsb' 0 16).toNat).progress (x.extractLsb' 0 16).toNat)

/-- RTT (R321). -/
def execRtt (sw : Bool) (a : Operand) (s : State) : Out :=
  .next (runWord s (fun _ => { sw, uses := [Use.wide a 2], priv := true, ahead := .stop }) (rttEff a))

/-- The register that a kind and an index of SWR name, and the lane that it lies in. -/
def swrReg (kind idx : Nat) : Option Reg :=
  match kind with
  | 1 => some .mode
  | 2 => some .status
  | 3 => some (.w idx)
  | 4 => some (.v (idx % 64))
  | 5 => some .preds
  | 6 => some (.o (idx % 32))
  | _ => none

/-- The lanes that a write of a kind reaches (R322). -/
def swrLanes (kind idx : Nat) : Mask :=
  match kind with
  | 4 => maskOf [idx / 64]
  | 5 => maskOf [idx]
  | 6 => maskOf ((List.range 8).map fun i => idx / 32 * 8 + i)
  | _ => BitVec.allOnes 64

/-- The index and value are within the target (R322). -/
def swrOk (w : Warp) (size kind idx : Nat) (x : Word) : Bool :=
  match kind with
  | 0 => idx == 0 && x.toNat % 4 == 0 && x.toNat < size
  | 1 => idx == 0 && modeValueOk x
  | 2 => idx == 0
  | 3 => idx < 32
  | 4 => idx < 4096 && idx % 64 < w.budget && idx / 64 < w.width
  | 5 => idx < w.width
  | 6 => idx / 32 < w.width / 8
  | _ => false

/-- The mark of a register goes in the written lanes (R312). -/
def unmark (r : Reg) (lanes : Mask) (ms : List Mark) : List Mark :=
  (ms.map fun m => if m.reg == r then { m with lanes := m.lanes &&& ~~~lanes } else m).filter
    (·.lanes != 0)

/-- The field that SWR writes; the register loses its mark and its pending bit (R322). -/
def Warp.repair (w : Warp) (kind idx : Nat) (x : Word) : Warp :=
  let w := match kind with
    | 0 => { w with ctl := { w.ctl with pc := x.toNat } }
    | 1 => w.setMode x
    | 2 => w.setStatus (statusMask x)
    | 3 => w.setW idx x
    | 4 => w.setV (idx / 64) (idx % 64) x
    | 5 => w.setPreds idx (x.extractLsb' 0 8)
    | _ => w.setO (idx / 32) (idx % 32) x
  match swrReg kind idx with
  | some r =>
    { w with
      pend := w.pend.filter (· != r)
      flt := { w.flt with marks := r.each.foldl (fun ms r => unmark r (swrLanes kind idx) ms) w.flt.marks } }
  | none => w

def swrEff (d a : Operand) (c : Ctx) : Eff :=
  let x := c.pair64 a
  let kind := (x.extractLsb' 40 4).toNat
  let idx := (x.extractLsb' 48 16).toNat
  match c.targetOf a (x.extractLsb' 37 3 == 0 && x.extractLsb' 44 4 == 0) with
  | .error f => .fault f
  | .ok (r, b, w) =>
    let size := match c.s.grid? b.grid with
      | some g => g.desc.size
      | none => 0
    if !swrOk w size kind idx (c.one d) then execFault fcRange
    else .done ((c.s.updWarp r fun w => w.repair kind idx (c.one d)).refresh r)

/-- SWR (R322). -/
def execSwr (sw : Bool) (d a : Operand) (s : State) : Out :=
  .next (runWord s (fun _ => { sw, uses := [Use.wide d 1, Use.wide a 2], priv := true, ahead := .stop })
    (swrEff d a))

end Sys2Proof.Machine
end

