-- ==== Sys2Proof/Machine/Scheduler.lean ====
section
/-!
DEFINITION. The scheduler and what stops a warp: ISSUE_WINDOW (R88), PROMOTION (R95),
VARIABLE_LATENCY_RESULT (R91), BARRIER_COMPLETE (R108), stop queues (R308), the watchdog (R309),
pre-emption and restore (R313 to R317), the halt of DEBUG_HALT (R319) and KILL_WRITE_TIMEOUT (R320).
-/

namespace Sys2Proof.Machine

/-! ## ISSUE_WINDOW (R88, R89) -/

/-- A word honours MODE.gd, by its entry. -/
def honoursGd : Instr → Bool
  | .add .. | .sub .. | .mul .. | .mulh .. | .mad .. | .min .. | .max .. | .abs .. | .neg .. | .and ..
  | .or .. | .xor .. | .not .. | .shl .. | .shr .. | .sar .. | .addc .. | .subb .. | .popc .. | .clz ..
  | .brev .. | .bfx .. | .bfi .. | .sel .. | .cmp .. | .mov .. | .movi .. | .movh .. | .frint .. | .cvt ..
  | .pack .. | .unpk .. | .msb .. | .frcp .. | .frsq .. | .fsqrt .. | .fexp2 .. | .flog2 .. | .fsinpi ..
  | .fcospi .. | .cmul .. | .cfma .. | .fclass .. | .rnd .. | .fscale .. | .dot4 .. => true
  | .raise .. | .vote .. | .shfi .. | .shfx .. | .shfu .. | .shfd .. | .plog .. | .ld .. | .st .. | .ldw ..
  | .stw .. | .ldl .. | .stl .. | .taglLookup .. | .taglRead .. | .tagw .. | .aadd .. | .amin .. | .amax ..
  | .aand .. | .aor .. | .axor .. | .axch .. | .acas .. | .dualst .. | .pref .. | .lcpIn .. | .lcpOut ..
  | .accr .. | .accw .. | .send .. | .recv .. | .nred .. => true
  | _ => false

/-- A word is lane-class whatever its operands: a predicate other than p0 in a B-format word, CMP, ADDC and
SUBB (R36). -/
def laneWord : Instr → Bool
  | .brc _ _ inv pr _ | .call _ _ inv pr _ => pr != 0 || inv
  | .cmp .. | .addc .. | .subb .. => true
  | _ => false

/-- A word that executes once, on the uniform unit, under a MODE (R36, R89). -/
def uniformWord (mode x : Word) : Bool :=
  match decode x with
  | .error _ => false
  | .ok i => !(laneWord i || (i.dests ++ i.srcs).any Operand.isLane || (honoursGd i && modeGd mode != 0))

/-- A warp that stands in a window's order. -/
structure Candidate where
  r : WarpRef
  width : Nat
  /-- Its next word is uniform. -/
  uniform : Bool
  promoted : Bool
  since : Nat
  rank : Nat
  born : Nat
  deriving DecidableEq, Repr

/-- The order of R88. -/
def Candidate.before (x y : Candidate) : Bool :=
  if x.promoted != y.promoted then x.promoted
  else if x.promoted && x.since != y.since then x.since < y.since
  else if !x.promoted && x.rank != y.rank then y.rank < x.rank
  else if !x.promoted && x.born != y.born then x.born < y.born
  else if x.r.slot != y.r.slot then x.r.slot < y.r.slot
  else x.r.blk < y.r.blk

/-- Puts an item into a list by an order. -/
def insertBy {α : Type} (before : α → α → Bool) (x : α) : List α → List α
  | [] => [x]
  | y :: t => if before x y then x :: y :: t else y :: insertBy before x t

def sortBy {α : Type} (before : α → α → Bool) (l : List α) : List α := l.foldl (fun m x => insertBy before x m) []

/-- Greedy packing: each warp that still fits, up to 4 in 64 thread-slots; a uniform word takes a place
and no thread-slot, and a window holds one (R89). -/
def packWindow : Nat → Nat → Bool → List Candidate → List Candidate
  | _, _, _, [] => []
  | slots, n, uni, x :: t =>
    if x.uniform then
      if n != 0 && uni then x :: packWindow slots (n - 1) false t else packWindow slots n uni t
    else if n != 0 && x.width ≤ slots then x :: packWindow (slots - x.width) (n - 1) uni t
    else packWindow slots n uni t

/-- Warps of a pipe of a core. -/
def State.pipeWarps (s : State) (core pipe : Nat) : List (WarpRef × Block × Warp) :=
  s.warps.filter fun x => x.2.1.core == core && x.1.slot % 4 == pipe

/-- Entries that a word adds to its warp's streams for each lane (R352, R360). -/
def entriesOf : Instr → Nat
  | .st .. | .stw .. => 1
  | .dualst .. => 2
  | _ => 0

/-- The next word of a warp of a redundant pair lacks the slack for its entries: the warp is stalled (R360). One
that runs ahead adds none (R299). -/
def State.lacksSlack (s : State) (x : WarpRef × Block × Warp) : Bool :=
  match s.grid? x.2.1.grid, (x.2.2.fetched (s.imageOf x.2.1)).map decode with
  | some g, some (.ok i) =>
    g.packet.redundant && entriesOf i != 0 && (s.aheadOf x.2.1.core x.1).isNone &&
      let e : Entry := { sw := false, gd := true, uses := (i.dests ++ i.srcs).map fun o => Use.src o 1 }
      !x.2.2.slackFor x.2.1.trail (entriesOf i * (mkCtx s x.1 x.2.1 x.2.2 g e).lanes.length)
  | _, _ => false

/-- A warp that is ready for a window: its next word has been fetched, and it does not stall (R88, R360). -/
def State.standsReady (s : State) (x : WarpRef × Block × Warp) : Bool :=
  x.2.2.run == .ready && x.2.2.mayIssue && (x.2.2.fetched (s.imageOf x.2.1)).isSome && !s.lacksSlack x

/-- A warp's place in the order of R88. -/
def State.candidate (s : State) (x : WarpRef × Block × Warp) : Candidate :=
  { r := x.1, width := x.2.2.width
    uniform := uniformWord x.2.2.ctl.mode ((x.2.2.fetched (s.imageOf x.2.1)).getD 0)
    promoted := x.2.2.promoted, since := x.2.2.since, rank := s.rank x.2.1, born := x.2.2.born }

/-- Warps of a pipe that a window may take: the ready ones, and those that their wait would let go on now. -/
def State.candidates (s : State) (core pipe : Nat) : List Candidate :=
  ((s.pipeWarps core pipe).filter fun x => s.standsReady x || s.stirred.contains x.1).map s.candidate

/-- Cores that hold a block, rising. -/
def State.busyCores (s : State) : List Nat := s.blocks.foldl (fun m b => insertNat b.core m) []

/-- Pipes that hold a warp, as 4·core + pipe, rising. -/
def State.busyPipes (s : State) : List Nat :=
  s.blocks.foldl (fun m b => b.warps.foldl (fun m w =>
    if w.run == .exited then m else insertNat (4 * b.core + w.slot % 4) m) m) []

/-- The window after one: that of the next busy pipe. -/
def State.nextCursor (s : State) (core pipe : Nat) : Nat :=
  let busy := s.busyPipes
  (busy.find? fun x => 4 * core + pipe < x).getD (busy.headD 0)

/-- The order of words of one cycle on a core: ascending %warp (R173, R277, log row 94). -/
def slotBefore (x y : WarpRef) : Bool := if x.slot != y.slot then x.slot < y.slot else x.blk < y.blk

/-- How long a warp has been ready, as a window of its pipe finds it: one that stalls for slack is not ready
(R360), one whose wait has ended is, from then on, and one that must wait again is not (R95). -/
def State.noteReady (s : State) (x : WarpRef × Block × Warp) : State :=
  let stirs := x.2.2.run != .ready && s.stirred.contains x.1
  let set (f : Warp → Warp) : State := s.updWarp x.1 f
  if s.lacksSlack x then set fun w => { w with since := s.now }
  else if stirs && !x.2.2.awake then set fun w => { w with awake := true, since := s.now }
  else if x.2.2.awake && !stirs then set fun w => { w with awake := false, since := s.now }
  else s

/-- ISSUE_WINDOW (R88): packs a pipe's candidates. The pipes of a core have their windows at the same time, so
the words packed for them issue together once the last of them has been packed, in ascending %warp. A window
lasts 4 cycles; the clock moves once every busy pipe has had its window, and the units then receive what has
reached them (R329). -/
def State.window (s : State) (core pipe : Nat) : State :=
  let picked := (packWindow 64 4 true (sortBy Candidate.before (s.candidates core pipe))).map Candidate.r
  let packed := s.packed ++ picked.filter fun r => !s.issue.contains r && !s.packed.contains r
  let s := (s.pipeWarps core pipe).foldl State.noteReady s
  let next := s.nextCursor core pipe
  let wraps := next ≤ 4 * core + pipe
  let last := wraps || next / 4 != core
  let t : State := { s with
    issue := if last then s.issue ++ sortBy slotBefore packed else s.issue
    packed := if last then [] else packed
    stirred := []
    dev := if picked.isEmpty then s.dev else s.dev.rouse (clusterOf core)
    cursor := if s.cursor == (core, pipe) then (next / 4, next % 4) else s.cursor }
  if wraps then t.tick else t

def execIssueWindow (core pipe : Nat) (s : State) : Out := .next (s.window core pipe)

/-! ## PROMOTION (R95) -/

/-- Cycles after which a ready warp is promoted. -/
def promotionCycles : Nat := 4096

/-- PROMOTION (R95): of a warp that has been ready, fetched word and all, for 4,096 cycles; one whose wait has
ended is ready too. -/
def execPromotion (r : WarpRef) (s : State) : Out :=
  .next (match s.warp? r with
    | none => s
    | some (b, w) =>
      if (s.standsReady (r, b, w) || w.awake) && w.since + promotionCycles ≤ s.now then
        s.updWarp r fun w => { w with promoted := true }
      else s)

/-! ## VARIABLE_LATENCY_RESULT (R91, R314) -/

/-- VARIABLE_LATENCY_RESULT (R91): a complete result is written, for an evicted warp into its saved record
too (R314). -/
def execVariableLatencyResult (r : WarpRef) (id : Nat) (s : State) : Out :=
  .next ((s.deliver r id).refresh r)

/-! ## BARRIER_COMPLETE (R108) -/

/-- Scope code of a barrier. -/
def barScope : BarRef → BitVec 3
  | .block _ => 2
  | .cluster _ _ _ => 3
  | .grid _ _ => 4

/-- The warps of a barrier's scope; none while a block of it has not started. -/
def State.barWarps (s : State) (q : BarRef) : Option (List (WarpRef × Warp)) :=
  match q with
  | .block blk => (s.block? blk).map fun b => b.warps.map fun w => ({ blk := b.id, slot := w.slot }, w)
  | .cluster grid unit trail => (s.grid? grid).bind fun g => s.unitWarps g trail (g.clusterBlocks unit)
  | .grid grid trail => (s.grid? grid).bind fun g => s.unitWarps g trail (List.range g.map.length)

/-- The warp has arrived at a barrier of a scope. -/
def Warp.arrived (w : Warp) (scope : BitVec 3) : Bool := w.run == .barrier scope false

/-- The scope's registers as every released warp then reads them (R108). -/
def State.syncRegs (s : State) (q : BarRef) (cores : List Nat) : State :=
  match q with
  | .block _ => s
  | .cluster grid unit trail => s.updGrid grid fun g =>
    let key := 2 * unit + trail.toNat
    let m : RegSet := cores.foldl (fun m c => m.sync c) (sparseGet RegSet.reset g.k key)
    { g with k := sparseSet RegSet.reset g.k key m }
  | .grid grid trail => s.updGrid grid fun g =>
    let all (m : RegSet) : RegSet := cores.foldl (fun m c => m.sync c) m
    let g := { g with k := g.k.map fun (x : Nat × RegSet) => if x.1 % 2 == trail.toNat then (x.1, all x.2) else x }
    if trail then { g with gTrail := all g.gTrail } else { g with g := all g.g }

/-- BARRIER_COMPLETE (R108). -/
def State.endBarrier (s : State) (q : BarRef) : State :=
  match s.barWarps q with
  | none => s
  | some ws =>
    let scope := barScope q
    if !(ws.any fun x => x.2.arrived scope) || !(ws.all fun x => x.2.run == .exited || x.2.arrived scope)
    then s
    else
      let here := ws.filterMap fun x => s.block? x.1.blk
      let cores := (here.map Block.core).eraseDups
      let s := s.syncRegs q cores
      let s := match here with
        | b :: _ => match s.grid? b.grid with
          | some g => s.shareTags g.vf cores
          | none => s
        | [] => s
      ws.foldl (fun s x => if x.2.arrived scope then
        s.updWarp x.1 fun w => { w with run := .barrier scope true, since := s.now } else s) s

def execBarrierComplete (q : BarRef) (s : State) : Out := .next (s.endBarrier q)

/-! ## Stop queues (R308) -/

/-- A stop record's 64 bytes (R308). -/
def StopRec.bytes (x : StopRec) (id ctx : Nat) : List Byte :=
  leBytes 8 id ++ leBytes 4 x.record.toNat ++ leBytes 2 x.core ++ leBytes 2 ctx ++ leBytes 8 x.pc.toNat
    ++ leBytes 8 x.addr.toNat ++ leBytes 8 x.lanes.toNat ++ leBytes 8 (x.block % 2 ^ 32 + 2 ^ 32 * x.warp)
    ++ leBytes 8 x.cycles ++ leBytes 8 0

/-- STOP_RECORD (R308): writes the oldest record that waits, if the ring has room, and raises MSI-X, over the
host link. -/
def State.writeStop (s : State) (ctx : Nat) : State :=
  match s.ctx? ctx with
  | none => s
  | some c =>
    match c.stops with
    | [] => s
    | x :: rest =>
      if 2 ^ c.sqLog ≤ (c.written - c.consumed).toNat then s
      else
        let id := c.written + 1
        let pa := c.sqBase + 64 * ((id.toNat - 1) % 2 ^ c.sqLog)
        let bytes := x.bytes id.toNat ctx
        let s := if x.core < 768 then s.coreWrite x.core ctx pa bytes [] else s.partWrite ctx pa bytes none none []
        let s := s.updCtx ctx fun c => { c with stops := rest, written := id }
        s.onLink.updDev fun d => { d with msi := (ctx / 64, c.vector) :: d.msi }

def execStopRecord (ctx : Nat) (s : State) : Out := .next (s.writeStop ctx)

/-- STOP_QUEUE_CONSUMED (R308): a value past written, or lower than before, is ignored. -/
def State.consume (s : State) (ctx : Nat) (v : Dword) : State :=
  s.updCtx ctx fun c =>
    if c.consumed.toNat ≤ v.toNat && v.toNat ≤ c.written.toNat then { c with consumed := v } else c

/-! ## The watchdog (R309) -/

/-- A warp of the context is stopped, halted or held. -/
def State.ctxStuck (s : State) (ctx : Nat) : Bool :=
  s.warps.any fun x => s.ctxOf x.2.1 == ctx && (x.2.2.halted || match x.2.2.run with
    | .stopped | .held _ => true
    | _ => false)

/-- WATCHDOG_EXPIRY (R309): a whole period without progress; not while the context is halted (R319, R382). -/
def State.watchdog (s : State) (ctx : Nat) : State :=
  match s.ctx? ctx with
  | none => s
  | some c =>
    if c.watchdog == 0 || c.killing || c.dead || c.halted || s.now < c.progress + c.watchdog * 2 ^ 20 || s.ctxStuck ctx
    then s
    else (s.pushStop ctx (s.notice 0x00010000 0 0)).progress ctx

def execWatchdogExpiry (ctx : Nat) (s : State) : Out := .next (s.watchdog ctx)

/-! ## PREEMPT_OVERRUN (R317) -/

/-- A warp is at its next word, or parked: not while it is halted, held or stopped, nor while a fault or a
rollback waits for its older results (R317). -/
def Warp.atWord (w : Warp) : Bool :=
  !w.halted && match w.run with
    | .held _ | .stopped | .faulting | .rollback | .exited => false
    | _ => true

/-- PREEMPT_OVERRUN (R317): the timer of an open region has run out, and the warp is at its next word or
parked. -/
def State.overrun (s : State) (r : WarpRef) : State :=
  match s.warp? r with
  | none => s
  | some (b, w) =>
    match w.pdis with
    | none => s
    | some t =>
      if s.now < t || !((s.aheadOf b.core r).isSome || w.atWord) then s
      else
        let s := if (s.aheadOf b.core r).isSome then s.rewind b.core else s
        match s.warp? r with
        | some (_, w) => s.takeFault r (faultAt fcPreemptOverrun 1) w.ctl.pc
        | none => s

def execPreemptOverrun (r : WarpRef) (s : State) : Out := .next (s.overrun r)

/-! ## Time slices (R313) -/

/-- A warp of the block has an open PDIS region. -/
def Block.guarded (b : Block) : Bool := b.warps.any fun w => w.pdis.isSome

/-- Core cycles in a microsecond (R2). -/
def cyclesPerMicro : Nat := 2000

/-- TIME_SLICE_EXPIRY (R313): the slice of a context has run while another waits; it waits while the
context is halted (R323) or a block of it on the core has an open region (R317). The context goes to the end
of the core's rotation (R370). -/
def State.sliceEnd (s : State) (core ctx : Nat) : State :=
  let halted := match s.ctx? ctx with
    | some c => c.halted
    | none => true
  let guarded := s.blocks.any fun b => b.core == core && s.ctxOf b == ctx && b.guarded
  match s.sliceStart core ctx with
  | none => s
  | some t =>
    if halted || guarded || (s.core core).expiring == some ctx || !((s.waiters core).any (· != ctx))
        || s.now < t + cyclesPerMicro * (s.vf (ctx / 64)).slice.toNat then s
    else
      let s := s.updCore core fun k => { k with
        expiring := some ctx, wanted := true, turns := k.turns.filter (· != ctx) ++ [ctx] }
      match s.nextUp core with
      | none => s
      | some n => s.updCore core fun k => { k with slices := sparseSet 0 (sparseSet 0 k.slices ctx 0) n s.now }

def execTimeSliceExpiry (core ctx : Nat) (s : State) : Out := .next (s.sliceEnd core ctx)

/-! ## PREEMPTION (R313 to R316) -/

/-- Queued array words of a warp (R251). -/
def State.inArray (s : State) (r : WarpRef) (core : Nat) : Bool :=
  (s.core core).queue.any fun q => q.blk == r.blk && q.slot == r.slot

/-- One that a pre-emption may evict now. -/
def State.victim (s : State) (core : Nat) (i : Incoming) (x : WarpRef × Block × Warp) : Bool :=
  s.yields core i x && !x.2.1.guarded && x.2.2.claimed.isEmpty && !s.inArray x.1 core

/-- Class of a warp in the order of eviction: a yielded one first (R104), then one that is stopped, halted or
parked (R313). -/
def Warp.evictClass (w : Warp) : Nat :=
  match w.run with
  | .yielded _ _ _ => 0
  | .ready => if w.halted then 1 else 2
  | _ => 1

/-- The order of eviction. -/
def State.evictBefore (s : State) (x y : WarpRef × Block × Warp) : Bool :=
  if x.2.2.evictClass != y.2.2.evictClass then x.2.2.evictClass < y.2.2.evictClass
  else if s.rank x.2.1 != s.rank y.2.1 then s.rank x.2.1 < s.rank y.2.1
  else if x.2.2.born != y.2.2.born then y.2.2.born < x.2.2.born
  else y.1.slot < x.1.slot

/-- Saves a warp at its word boundary, with the captured form of its commands that have not begun (R314,
R316). -/
def State.evict (s : State) (r : WarpRef) (core : Nat) : State :=
  let s := if (s.aheadOf core r).isSome then s.rewind core else s
  match s.warp? r with
  | none => s
  | some (b, w) =>
    let w' := s.restarting w w.ctl.pc
    let n := (s.cmds.filter fun c => c.blk == r.blk && c.slot == r.slot && c.state == 0).length
    let s := (s.fresh.updWarp r fun _ => { w' with evicted := true, saved := s.nextId }).saveRecord r
    if n == 0 then s else s.saveToArea (s.ctxOf b) core (240 * n)

/-- A block that may be spilled: every warp is out, no round is open, nothing of it is queued, and no tile is
still to land in it (R123, R231, R251, R313). -/
def State.maySpill (s : State) (b : Block) : Bool :=
  b.isOut && !s.inRound b
    && (!(s.core b.core).queue.any fun q => q.blk == b.id)
    && !s.cmds.any fun c => c.accepted.contains b.id && !c.over

/-- Bytes that the model lists of the stores of a block that a spill takes, as `stateLimits` names them
(log row 30). -/
def Block.stateBytes (b : Block) (ks : List Nat) : Nat :=
  let take (k n : Nat) : Nat := if ks.contains k then n else 0
  Nat.min 4718592 (4 * b.b.length + take 4 (b.scratch.length + 4 * b.tags.length) + take 5 b.opbuf.length
    + take 6 (4 * b.tiles.length))

/-- Stores of a block that a spill takes for what is lacking: the scratchpad with its regions whole, and each of
the others (R168, R215). -/
def spillOf (ks : List Nat) : List Nat :=
  if ks.contains 4 || ks.contains 7 then [4, 7] ++ ks.filter fun k => k == 5 || k == 6 else ks

/-- Spills stores of a block to its context's save area: with the scratchpad, captured translations are dropped;
spline state stays (R168, R215, R255). -/
def State.spill (s : State) (b : Block) (ks : List Nat) : State :=
  let out := (spillOf ks).filter fun k => !b.spilled.contains k
  let s := s.saveToArea (s.ctxOf b) b.core (b.stateBytes out)
  let s := s.updBlock b.id fun b => { b with
    spilled := b.spilled ++ out, captured := if out.contains 4 then [] else b.captured }
  if out.contains 5 then s.updCore b.core fun k => { k with latch := k.latch.filter fun x => x.1 != b.id } else s

/-- A block that may be spilled and holds some of what incoming work lacks (R168, R215, R313). -/
def State.spillable (s : State) (core : Nat) (i : Incoming) (b : Block) : Bool :=
  b.core == core && (i.own.map WarpRef.blk) != some b.id && s.maySpill b && match s.grid? b.grid with
    | some g => b.holdsAny g.desc (s.lacks core i)
    | none => false

/-- PREEMPTION (R313): while incoming work does not fit, evicts the next victim of a core; with `spill`,
spills what the work lacks of a block all of whose warps are out. With nothing more to make room for, it is
over. -/
def State.preempt (s : State) (core : Nat) (spill : Bool) : State :=
  match s.pressing core with
  | none => if (s.core core).wanted && (s.incoming core).isEmpty then s.endPreempt core else s
  | some i =>
    if spill then
      match s.blocks.find? (s.spillable core i) with
      | some b => s.spill b (s.lacks core i)
      | none => s
    else
      match sortBy s.evictBefore (s.warps.filter (s.victim core i)) with
      | [] => s.updCore core fun k => { k with wanted := true }
      | x :: _ => (s.evict x.1 core).updCore core fun k =>
          { k with wanted := true, evictions := k.evictions + 1 }

def execPreemption (core : Nat) (spill : Bool) (s : State) : Out := .next (s.preempt core spill)

/-! ## WARP_RESTORE (R314, R316) -/

/-- Commands of a warp end carrying a code (R220, R316). -/
def State.failAll (s : State) (r : WarpRef) (code : BitVec 8) : State :=
  (s.cmds.filter fun c => c.blk == r.blk && c.slot == r.slot && c.state != 3).foldl
    (fun s c => s.failCmd c.id code (c.unit c.next).va) s

/-- The context's part of the core area is read again when spilled state returns (R314, R325). -/
def State.readSpilled (s : State) (b : Block) : State :=
  match s.coreArea (s.ctxOf b) b.core with
  | some pa => if b.spilled.isEmpty then s else s.exchangeSpan b.core pa coreAreaSize
  | none => s

/-- WARP_RESTORE (R314): the block state first, then the record, once both are written (R331), there is room and
it is its turn. A record whose free bytes were changed is refused: the warp stops with RANGE, once its older
results are written (R92, R316); one whose fault already waits for them keeps that. -/
def State.restoreWarp (s : State) (r : WarpRef) : State :=
  match s.warp? r with
  | none => s
  | some (b, w) =>
    let back := (s.readSpilled b).back r
    let handler := s.handlerWaits b.core && s.privileged (s.ctxOf b)
    if !w.evicted || !s.recordWritten b r.slot || !within (back.coreUse b.core) coreLimits
        || !(handler || s.mayTake b.core (s.ctxOf b) (s.rank b)) then s
    else
      let t := (back.endPreempt b.core).readRecord r
      if s.recordIntact b w then t
      else if w.run == .faulting || w.run == .exited then t.failAll r fcRange
      else (t.failAll r fcRange).takeFault r (faultAt fcRange 1) w.ctl.pc

def execWarpRestore (r : WarpRef) (s : State) : Out := .next (s.restoreWarp r)

/-! ## DEBUG_HALT (R319, R381) -/

/-- The debug interface answers for a context: TENANT with its function's debug bit, or VENDOR. -/
def State.debugOk (s : State) (ctx : Nat) : Bool :=
  s.dev.debug == 2 || (s.dev.debug == 1 && (s.vf (ctx / 64)).ctl.getLsbD 17)

/-- DEBUG_HALT (R319): every warp of the context stops at its next issue slot; its slices and its watchdog are
frozen until the halt ends. -/
def State.halt (s : State) (ctx : Nat) : State :=
  if !s.debugOk ctx || !s.ctxUsable ctx then s
  else
    let mine := (s.blocks.filter fun b => s.ctxOf b == ctx).map Block.id
    let running := s.cores.filter fun k => match k.ahead with
      | some a => mine.contains a.blk
      | none => false
    let s := running.foldl (fun s k => s.rewind k.id) s
    let s : State := { s with
      blocks := s.blocks.map fun (b : Block) => if mine.contains b.id then
        { b with warps := b.warps.map fun (w : Warp) =>
            if w.run == .exited then w else Warp.touch { w with halted := true } } else b
      issue := s.issue.filter fun r => !mine.contains r.blk
      packed := s.packed.filter fun r => !mine.contains r.blk }
    s.updCtx ctx fun c => { c with
      halted := true, debugger := true, haltAt := if c.halted then c.haltAt else s.now }

/-! ## KILL_WRITE_TIMEOUT (R320) -/

/-- KILL_WRITE_TIMEOUT (R320): the kill ends once its remote writes are acknowledged, or after 100 µs
without them. -/
def State.endKill (s : State) (ctx : Nat) : State :=
  match s.ctx? ctx with
  | none => s
  | some c =>
    match c.killAt with
    | some t => if c.killing && !c.dead && (t ≤ s.now || !s.remoteOut ctx) then s.finishKill ctx else s
    | none => s

def execKillWriteTimeout (ctx : Nat) (s : State) : Out := .next (s.endKill ctx)

end Sys2Proof.Machine
end

