-- ==== Sys2Proof/Machine/Host.lean ====
section
/-!
DEFINITION. The host link: device-memory windows (R364), function records and resets (R366, R377),
contexts (R367, R368), launch queues (R369), attestation and debug states (R380, R381), and the
registers that have no row of their own (R372, R374, R319, R357). Nothing of it answers before
bring-up ends (R389).
-/

namespace Sys2Proof.Machine

/-! ## The windows of the host (R364) -/

/-- Base and bytes of a function's device-memory window: its partition; 512 is the PF, whose window is
the whole of device memory (DEDUCED, log row 13). -/
def State.hostWindow (s : State) (vf : Nat) : Nat × Nat :=
  if vf == Config.functions then (0, Config.dramBytes)
  else
    let v := s.vf vf
    if vf < Config.functions && !v.refusing then (v.pbase.toNat, v.psize.toNat) else (0, 0)

/-- A host write of a function: at its slice, which may keep it waiting (R331), or behind the function's
earlier writes that are not performed, for they stay in order (R364). -/
def State.hostWrite (s : State) (vf pa : Nat) (bytes : List Byte) : State :=
  match s.hostPending vf with
  | [] => s.partWrite 0xFFFF pa bytes none (some vf) []
  | before => (partPieces (bytes.length / 16 + 2) pa bytes).foldl (fun s x =>
      { s.fresh with accs := s.accs ++ [{ waitingWrite s.nextId 0xFFFF x.1 x.2 none (some vf) [] with
          after := before, waits := false }] }) s

/-! ## Function records (R366) and resets (R377) -/

/-- Contexts of a function that exist. -/
def State.ctxsOf (s : State) (v : Nat) : List Nat :=
  (s.ctxs.filter fun c => c.id / 64 == v && !c.dead).map Context.id

/-- A partition overlaps that of another enabled function; one of no bytes overlaps none. -/
def State.clash (s : State) (v : Nat) (base size : Nat) : Bool :=
  s.vfs.any fun x => x.id != v && x.ctl.getLsbD 16 && size != 0 && x.psize != 0
    && overlap base size x.pbase.toNat x.psize.toNat

/-- An exported window lies inside the partition; one of no bytes exports nothing. -/
def Vf.windowOk (x : Vf) (base size : Nat) : Bool :=
  base % 65536 == 0 && size % 65536 == 0 && (size == 0 ||
    (x.pbase.toNat ≤ base && base + size ≤ x.pbase.toNat + x.psize.toNat))

/-- A partition that system software creates anew: generation 1, no image; the control block stays (R324,
R338). -/
def Partition.created (p : Partition) : Partition :=
  { Partition.reset with
    dest := p.dest, abort := p.abort, share := p.share, granary := p.granary, permit := p.permit }

/-- The record with another partition, unless that breaks a rule of the table: alignment, a context held, an
overlap, or an exported window left outside. -/
def State.repart (s : State) (x : Vf) (base size : Dword) : Option Vf :=
  let y : Vf := { x with pbase := base, psize := size, part := x.part.created }
  if !(s.ctxsOf x.id).isEmpty || base.toNat % 2097152 != 0 || size.toNat % 2097152 != 0
      || (x.ctl.getLsbD 16 && s.clash x.id base.toNat size.toNat)
      || !y.windowOk x.wbase.toNat (x.wsize.toNat / 4 * 4) then none
  else some y

/-- The record that a write of one word leaves, or none where it breaks a rule of the table. -/
def State.record' (s : State) (x : Vf) (off : Nat) (v : Dword) : Option Vf :=
  let held := !(s.ctxsOf x.id).isEmpty
  if off == 0x00 then (if v == x.pbase then some x else s.repart x v x.psize)
  else if off == 0x08 then (if v == x.psize then some x else s.repart x x.pbase v)
  else if 0x10 ≤ off && off < 0x70 then
    let lo := 64 * ((off - 0x10) / 8)
    let mask : BitVec 768 := (BitVec.ofNat 768 (2 ^ 64 - 1)) <<< lo
    let cores := (x.cores &&& ~~~mask) ||| (v.setWidth 768 <<< lo)
    if cores == x.cores then some x else if held then none else some { x with cores := cores }
  else if off == 0x70 then
    let enable := v.getLsbD 16
    if v.extractLsb' 20 44 != 0 || v.extractLsb' 11 5 != 0
        || (enable && s.clash x.id x.pbase.toNat x.psize.toNat) then none
    else
      let resetting := x.ctl.getLsbD 18
      let v := if v.extractLsb' 0 8 == 0 then v ||| 1 else v
      let ctl : Dword := if resetting then v ||| 0x40000 else v &&& ~~~(0x40000 : Dword)
      some { x with ctl := ctl, refusing := x.refusing && (resetting || !enable) }
  else if off == 0x78 then
    if v.extractLsb' 32 32 != 0 || v.toNat < 100 || 100000 < v.toNat then none
    else some { x with slice := v.setWidth 32 }
  else if off == 0x80 then
    if v == x.wbase then some x
    else if x.windowOk v.toNat (x.wsize.toNat / 4 * 4) && x.windowOk v.toNat 65536 then
      some { x with wbase := v }
    else none
  else if off == 0x88 then
    if x.windowOk x.wbase.toNat (v.toNat / 4 * 4) then some { x with wsize := v } else none
  else if v == 0 then some x
  else none

/-- The first steps of a reset: the reset point, and the kill of every context. -/
def State.resetPoint (s : State) (v : Nat) : State :=
  let s := s.updVf v fun x => { x with refusing := true, ctl := x.ctl ||| 0x40000 }
  (s.ctxsOf v).foldl (fun s c => s.kill c 0) s

/-- The last steps, once every kill is complete: heads at the tails, the device queue empty, the frozen
image released, enable and reset clear. -/
def State.resetRest (s : State) (v : Nat) : State :=
  let s := s.updPart v fun p => p.endFrozen .released
  s.updVf v fun x => { x with
    queues := x.queues.map fun q =>
      (q.1, { q.2 with head := BitVec.ofNat 32 (q.2.tail.toNat % 2 ^ q.2.n) })
    devq := [], devHead := x.devTail, posted := [], ctl := x.ctl &&& ~~~(0x50000 : Dword) }

/-- A reset of a function: it starts, or one that waits for its kills goes on. -/
def State.resetVf (s : State) (v : Nat) : State :=
  if Config.functions ≤ v then s
  else
    let s := if (s.vf v).ctl.getLsbD 18 then s else s.resetPoint v
    if (s.ctxsOf v).isEmpty then s.resetRest v else s

/-- FUNCTION_RESET (R377): requested by the PF, or one in progress whose kills have ended. -/
def execFunctionReset (vf : Nat) (s : State) : Out :=
  if (s.vf vf).ctl.getLsbD 18 then .next (if s.up then s.resetVf vf else s) else s.hostIn fun s => s.resetVf vf

/-- FUNCTION_LEVEL_RESET (R377): the same, requested on CXL.io. -/
def execFunctionLevelReset (vf : Nat) (s : State) : Out := s.hostIn fun s => s.resetVf vf

/-- FUNCTION_RECORD_WRITE: writing 1 to reset starts a reset. -/
def State.recordWrite (s : State) (vf off : Nat) (v : Dword) : State :=
  if Config.functions ≤ vf || 256 ≤ off || off % 8 != 0 then s
  else match s.record' (s.vf vf) off v with
    | none => s.ignoreWrite (0x10000 + 256 * vf + off)
    | some x =>
      let s := s.updVf vf fun _ => x
      if off == 0x70 && v.getLsbD 18 then s.resetVf vf else s

def execFunctionRecordWrite (vf off : Nat) (v : Dword) (s : State) : Out :=
  s.hostIn fun s => s.recordWrite vf off v

/-! ## Contexts (R367, R368) -/

/-- A context as its creation leaves it (R308, R319). -/
def Context.start (id : Nat) (privileged : Bool) : Context :=
  { id, root := 0, key := 0, save := 0, fqBase := 0, fqLog := 4, sqBase := 0, sqLog := 4,
    watchdog := 0, privileged, vector := 0, killing := false, dead := false, killAt := none,
    nextSheaf := 1, sheaves := [], written := 0, consumed := 0, stops := [], comps := [0, 0, 0, 0],
    debugger := false, halted := false, haltAt := 0, progress := 0 }

/-- Bytes of a save area (R316). -/
def saveAreaBytes : Nat := 4227858432

/-- A range lies within a partition. -/
def Vf.holdsRange (x : Vf) (base size : Nat) : Bool :=
  x.pbase.toNat ≤ base && base + size ≤ x.pbase.toNat + x.psize.toNat

/-- The context that a descriptor describes, if it is accepted: eight words (R367). -/
def Vf.accept (x : Vf) (id : Nat) (d : List Nat) : Option Context :=
  let w (i : Nat) : Nat := d[i]?.getD 0
  let fq := w 3 / 4096 * 4096
  let sq := w 4 / 4096 * 4096
  let fqLog := field (w 3) 0 5
  let sqLog := field (w 4) 0 5
  if field (w 3) 5 7 == 0 && field (w 4) 5 7 == 0 && w 5 / 2 ^ 27 == 0 && w 6 == 0 && w 7 == 0
      && w 0 % 4096 == 0 && w 2 % 4096 == 0
      && 4 ≤ fqLog && fqLog ≤ 16 && 4 ≤ sqLog && sqLog ≤ 16
      && x.holdsRange (w 0) 4096 && x.holdsRange (w 2) saveAreaBytes
      && x.holdsRange fq (256 * 2 ^ fqLog) && x.holdsRange sq (64 * 2 ^ sqLog) then
    some { Context.start id (field (w 5) 16 1 == 1 && x.ctl.getLsbD 19) with
      root := w 0, key := BitVec.ofNat 64 (w 1), save := w 2, fqBase := fq, fqLog := fqLog,
      sqBase := sq, sqLog := sqLog, watchdog := field (w 5) 0 16, vector := field (w 5) 17 10 }
  else none

/-- Nothing that a former context of the number left behind: translations, lines and code tagged with it
(R294). Its cancelled sheaves stay in the intakes until a handler is done with them (R304). -/
def State.forget (s : State) (id : Nat) : State :=
  { s with
    ctxs := s.ctxs.filter (·.id != id)
    cores := s.cores.map fun (k : Core) => { k with
      cache := k.cache.filter (·.ctx != id), dtlb := k.dtlb.filter (·.ctx != id),
      itlb := k.itlb.filter (·.ctx != id), icache := k.icache.filter (·.ctx != id) }
    clusters := s.clusters.map fun (k : Cluster) => { k with tlb := k.tlb.filter (·.ctx != id) }
    code := s.code.filter (·.leaf.ctx != id) }

/-- The word of the context table. -/
def State.setTable (s : State) (vf n : Nat) (v : Dword) : State :=
  s.updVf vf fun x => { x with table := sparseSet 0 x.table n v }

/-- CONTEXT_CREATE: ignored while the context exists; refused while the function is not enabled, or for
a descriptor that fails. Stop records of the number that still wait stay in line. -/
def State.createCtx (s : State) (vf n : Nat) (v : Dword) : State :=
  let id := 64 * vf + n
  if !v.getLsbD 0 || Config.functions ≤ vf || 64 ≤ n || s.ctxAlive id then s
  else
    let x := s.vf vf
    let a := v.toNat - 1
    let words := (List.range 8).map fun i => readLE s.mem (a + 8 * i) 8
    let refused (s : State) : State := s.setTable vf n ((v &&& ~~~(3 : Dword)) ||| 2)
    if !x.ctl.getLsbD 16 || x.ctl.getLsbD 18 || a % 64 != 0 || Config.dramBytes < a + 64 then
      refused s
    else
      let s := s.readSpan 0xFFFF a 64
      match x.accept id words with
      | none => refused s
      | some c =>
        let stops := ((s.ctx? id).elim [] Context.stops)
        let t := (s.forget id).setTable vf n v
        { t with ctxs := t.ctxs ++ [{ c with stops := stops, progress := s.now }] }

/-- CONTEXT_DESTROY: a write with bit 0 clear kills the context; the word reads 0 once it is gone. -/
def State.destroyCtx (s : State) (vf n : Nat) (v : Dword) : State :=
  let id := 64 * vf + n
  if v.getLsbD 0 || Config.functions ≤ vf || 64 ≤ n then s
  else if s.ctxAlive id then s.kill id 0
  else s.setTable vf n 0

/-! ## Launch queues (R369) -/

/-- QUEUE_CONFIG_WRITE: the word at +0x08; of queue 15 only the cap is written. -/
def State.queueConfig (s : State) (vf q : Nat) (v : Dword) : State :=
  let n := (v.extractLsb' 0 4).toNat
  if Config.functions ≤ vf || 16 ≤ q then s
  else if v.extractLsb' 16 48 != 0 || v.extractLsb' 4 2 != 0 || (q != 15 && (n < 2 || 12 < n)) then
    s.ignoreWrite (0x1008 + 32 * q)
  else if q == 15 then s.updVf vf fun x => { x with devCap := v.extractLsb' 12 3 }
  else s.updVf vf fun x => x.setQueue q { x.queue q with ctl := v }

/-- QUEUE_DOORBELL: the tail of a host queue. -/
def State.doorbell (s : State) (vf q : Nat) (v : Word) : State :=
  if Config.functions ≤ vf || 15 ≤ q then s
  else s.updVf vf fun x => x.setQueue q { x.queue q with tail := v }

/-! ## Posted writes stay in order (R364) -/

/-- A write of a register in a function's window, as it is performed. -/
def State.vfWrite (s : State) (vf off : Nat) (v : Dword) : State :=
  let q := (off - 0x1000) / 32
  if Config.functions ≤ vf then s
  else if 0x800 ≤ off && off < 0xA00 && off % 8 == 0 then
    if v.getLsbD 0 then s.createCtx vf ((off - 0x800) / 8) v else s.destroyCtx vf ((off - 0x800) / 8) v
  else if 0x1000 ≤ off && off < 0x1200 then
    match off % 32 with
    | 0x00 =>
      if q == 15 then s
      else if v.toNat % 4096 == 0 then s.updVf vf fun x => x.setQueue q { x.queue q with base := v }
      else s.ignoreWrite off
    | 0x08 => s.queueConfig vf q v
    | 0x10 => s.doorbell vf q (v.setWidth 32)
    | _ => s
  else if 0x1800 ≤ off && off < 0x1C00 && off % 16 == 8 then
    s.consume (64 * vf + (off - 0x1800) / 16) v
  else s

/-- A posted write must still wait: a register for every earlier host write of its function to be performed,
and the creation of a context for the writes of its descriptor that wait at their slices too (R331, R367). -/
def State.postWaits (s : State) (vf : Nat) (x : Posted) : Bool :=
  match x with
  | .mem _ _ => false
  | .reg off v => !(s.hostPending vf).isEmpty
      || (0x800 ≤ off && off < 0xA00 && v.getLsbD 0 && s.lineBusy (v.toNat - 1) 64)

/-- A posted write is performed, or a write of memory goes to its slice. -/
def State.perform (s : State) (vf : Nat) (x : Posted) : State :=
  match x with
  | .mem pa bytes => s.hostWrite vf pa bytes
  | .reg off v => s.vfWrite vf off v

/-- Performs posted writes in their order, up to the first that must wait. -/
def State.runPosted (s : State) (vf : Nat) : List Posted → State
  | [] => s.updVf vf fun v => { v with posted := [] }
  | x :: rest =>
    if s.postWaits vf x then s.updVf vf fun v => { v with posted := x :: rest }
    else (s.perform vf x).runPosted vf rest

/-- A posted write of a function, behind those that wait. -/
def State.post (s : State) (vf : Nat) (x : Posted) : State :=
  if Config.functions ≤ vf then s else s.runPosted vf ((s.vf vf).posted ++ [x])

/-- Place of context `n`'s word, and of a word of queue `q`, in a function's window (R368, R369). -/
def contextOffset (n : Nat) : Nat := 0x800 + 8 * n
def queueOffset (q word : Nat) : Nat := 0x1000 + 32 * q + word

def execContextCreate (vf n : Nat) (v : Dword) (s : State) : Out :=
  s.hostIn fun s => if v.getLsbD 0 && n < 64 then s.post vf (.reg (contextOffset n) v) else s

def execContextDestroy (vf n : Nat) (v : Dword) (s : State) : Out :=
  s.hostIn fun s => if !v.getLsbD 0 && n < 64 then s.post vf (.reg (contextOffset n) v) else s

def execQueueConfigWrite (vf q : Nat) (v : Dword) (s : State) : Out :=
  s.hostIn fun s => if q < 16 then s.post vf (.reg (queueOffset q 8) v) else s

def execQueueDoorbell (vf q : Nat) (v : Word) (s : State) : Out :=
  s.hostIn fun s => if q < 16 then s.post vf (.reg (queueOffset q 0x10) (v.setWidth 64)) else s

/-- STOP_QUEUE_CONSUMED (R308). -/
def execStopQueueConsumed (ctx : Nat) (v : Dword) (s : State) : Out :=
  s.hostIn fun s => s.post (ctx / 64) (.reg (0x1808 + 16 * (ctx % 64)) v)

/-- DISPATCH_QUEUE_ENTRY (R370): the posted writes of the function first (R364). -/
def State.dispatchEntry (s : State) (vf q : Nat) : State := (s.runPosted vf (s.vf vf).posted).takeEntry vf q

def execDispatchQueueEntry (vf q : Nat) (s : State) : Out := .next (s.dispatchEntry vf q)

/-! ## HOST_MEMORY_ACCESS (R364) -/

/-- Number that stands for host memory in HOST_MEMORY_ACCESS, past the functions and the PF (log row 13). -/
def hostMemory : Nat := Config.functions + 1

/-- One access of 1 to 8 bytes to device memory; it wakes the device. Outside the window, and past a reset
point, it is not accepted. A read waits with the line that it reaches (R331), and behind the function's own
writes. -/
def State.hostDevice (s : State) (vf off size : Nat) (write : Bool) (v : Dword) : State :=
  let (base, n) := s.hostWindow vf
  let pa := base + off
  let s := s.wake
  if n < off + size || Config.dramBytes < pa + size then s
  else if write then
    if vf == Config.functions then s.hostWrite vf pa (leBytes size v.toNat)
    else s.post vf (.mem pa (leBytes size v.toNat))
  else if s.lineBusy pa size || !(s.hostPending vf).isEmpty || !(s.vf vf).posted.isEmpty then s
  else (s.readSpan 0xFFFF pa size).updDev fun d => { d with reply := BitVec.ofNat 64 (readLE s.mem pa size) }

/-- The host's own access to its memory: it takes effect at once, so that every doorbell comes after it. -/
def State.hostOwn (s : State) (off size : Nat) (write : Bool) (v : Dword) : State :=
  if write then { s with host := writeLE s.host off size v.toNat }
  else s.updDev fun d => { d with reply := BitVec.ofNat 64 (readLE s.host off size) }

/-- HOST_MEMORY_ACCESS: device memory through a function's window, or host memory. -/
def State.hostAccess (s : State) (vf off size : Nat) (write : Bool) (v : Dword) : State :=
  if size == 0 || 8 < size then s
  else if vf == hostMemory then s.hostOwn off size write v
  else s.hostDevice vf off size write v

def execHostMemoryAccess (vf off size : Nat) (write : Bool) (v : Dword) (s : State) : Out :=
  s.host' fun s => s.hostAccess vf off size write v

/-! ## Attestation and debug states (R380, R381) -/

/-- Bytes 0x000 to 0x07F of the report, which its signature covers. -/
def State.reportBody (s : State) (requester : Nat) (nonce : BitVec 384) : List Byte :=
  leBytes 4 1 ++ leBytes 4 (s.dev.debug + 65536 * requester) ++ leBytes 8 s.dev.secVersion.toNat
    ++ leBytes 16 Config.serial.toNat ++ leBytes 48 (Config.imageDigest s.dev.bootCode.toNat).toNat
    ++ leBytes 48 nonce.toNat

/-- Bytes 0x000 to 0x0DF of the report. -/
def State.report (s : State) (requester : Nat) (nonce : BitVec 384) : List Byte :=
  let body := s.reportBody requester nonce
  body ++ leBytes 96 (Config.signature body s.now).toNat

/-- What the attestation mailbox shows: the last report and the certificate of the identity key (R380; their
places are not given, log row 6). -/
def Device.mailbox (d : Device) : List Byte := d.attest ++ Config.certificate

/-- ATTESTATION_REQUEST: by the PF or an enabled function; it wakes the device. -/
def State.attest (s : State) (requester : Nat) (nonce : BitVec 384) : State :=
  if requester == Config.functions
      || (requester < Config.functions && (s.vf requester).ctl.getLsbD 16) then
    s.wake.updDev fun d => { d with attest := s.report requester nonce }
  else s

def execAttestationRequest (requester : Nat) (nonce : BitVec 384) (s : State) : Out :=
  s.hostIn fun s => s.attest requester nonce

/-- Every halted context is resumed, and no debugger is attached any more. -/
def State.resumeAll (s : State) : State :=
  let free (w : Warp) : Warp := if w.halted then Warp.touch { w.resumed false with since := s.now } else w
  let s : State := { s with
    blocks := s.blocks.map fun (b : Block) => { b with warps := b.warps.map free } }
  let s := (s.ctxs.map Context.id).foldl (fun s c => s.thaw c) s
  { s with ctxs := s.ctxs.map fun (c : Context) => { c with debugger := false } }

/-- A debug access that is answered wakes the device and the clusters that hold a block of the context (R382, R385). -/
def State.rouseCtx (s : State) (ctx : Nat) : State :=
  let mine := (s.blocks.filter fun b => s.ctxOf b == ctx).map fun b => clusterOf b.core
  s.wake.updDev fun d => mine.foldl (fun d c => d.rouse c) d

/-- DEBUG_HALT (R319, R382). A halt that the debug state refuses wakes nothing. -/
def execDebugHalt (ctx : Nat) (s : State) : Out :=
  s.host' fun s => if s.debugOk ctx then (s.rouseCtx ctx).halt ctx else s

/-- Every unit is brought to I0 (R382). -/
def State.wakeAll (s : State) : State := s.wake.updDev fun d => { d with idle := [] }

/-- DEBUG_STATE_WRITE: LOCKED to TENANT and back; VENDOR ends only at part reset. The part wakes to I0
first (R382). -/
def State.debugState (s : State) (tenant : Bool) : State :=
  if s.dev.debug == 2 then s
  else if tenant then s.wakeAll.updDev fun d => { d with debug := 1 }
  else s.wakeAll.resumeAll.updDev fun d => { d with debug := 0 }

def execDebugStateWrite (tenant : Bool) (s : State) : Out := s.host' fun s => s.debugState tenant

/-- A physical address lies in some partition. -/
def State.inPartition (s : State) (a : Nat) : Bool := (s.vfAt a).isSome

/-- Writes 0 over every partition and every on-chip store, and erases every context key; no stop record that
waits is written after it; nothing that was on its way is performed after it, and other devices' accesses are acknowledged. -/
def State.erase (s : State) : State :=
  let s := (s.accs.filter (·.far)).foldl (fun (s : State) a =>
    s.sendAck .accepted (BitVec.ofNat 128 (readLE s.mem a.pa a.width))) s
  let kept := fun (k : Core) => { Core.reset k.id with suspect := k.suspect, wanted := k.wanted }
  let t : State := { s with
    mem := s.mem.filter fun x => !s.inPartition x.1
    accs := []
    tlbis := s.tlbis.map fun t => { t with own := [], accs := [] }
    ctxs := s.ctxs.map fun (c : Context) => { c with key := 0, stops := [] }
    cores := s.cores.map kept
    clusters := [], code := []
    scrubs := s.scrubs.filter fun (c : Scrub) => !s.inPartition c.line
    vfs := s.vfs.map fun (x : Vf) => { x with part := x.part.endFrozen .released } }
  t.updDev fun d => { d with
    badWords := d.badWords.filter fun a => !s.inPartition a
    softLines := d.softLines.filter fun a => !s.inPartition a }

/-- DEBUG_UNLOCK: a token that verifies over the challenge and the serial number kills every context, erases,
and then enters VENDOR; while the kills wait for their remote writes it is in progress. -/
def State.unlock (s : State) (token : BitVec 768) : State :=
  let verified := match s.dev.challenge with
    | some c => Config.tokenVerifies c Config.serial token
    | none => false
  if s.dev.debug == 2 || !(s.dev.unlocking || verified) then s
  else
    let s := s.wakeAll.updDev fun d => { d with unlocking := true }
    let s := (s.ctxs.map Context.id).foldl (fun s c => s.kill c 0) s
    if s.ctxs.all (·.dead) then
      s.erase.updDev fun d => { d with unlocking := false, debug := 2 }
    else s

/-- DEBUG_UNLOCK (R381): a token from the host, or an unlock in progress whose kills have ended. -/
def execDebugUnlock (token : BitVec 768) (s : State) : Out :=
  if s.dev.unlocking then .next (if s.up then s.unlock token else s) else s.hostIn fun s => s.unlock token

/-! ## The other registers: REGISTER_WRITE (R372) -/

/-- A packet that waited for a down port goes by the table as it now stands (R374). -/
def Device.release (d : Device) : Device :=
  d.stuck.foldl (fun d x => d.forward x.1 x.2) { d with stuck := [] }

/-- A write of one entry of the route table (R374): a port, or 0xFF for no route. -/
def Device.setRoute (d : Device) (i : Nat) (x : Nat) : Device :=
  if i < Config.devices && (x < 16 || x == 0xFF) then
    Device.release { d with routes := sparseSet 0xFF d.routes i x }
  else d

/-- Deepest device and cluster state that a tolerance in µs allows (R384). -/
def toleranceLimit (t : Nat) : Nat := if t < 1 then 0 else if t < 50 then 1 else if t < 2000 then 2
  else if t < 30000 then 3 else 4

/-- A lowered tolerance brings every unit to the deepest state that it allows (R385). -/
def Device.setTolerance (d : Device) (t : Word) : Device :=
  let n := toleranceLimit t.toNat
  { d with
    tolerance := t
    idle := d.idle.filterMap fun x => if n == 0 then none else some (x.1, Nat.min x.2 n)
    deviceIdle := if d.deviceIdle ≤ n then d.deviceIdle else if 3 ≤ n then 3 else 0 }

/-- A cause to throttle a die holds at a time: the package power exceeds the cap, or the die's junction has
reached 105 °C (R387). -/
def throttleCause (cap : BitVec 16) (die time : Nat) : Bool :=
  cap.toNat < (Config.powerReading time).toNat || 105 ≤ (Config.dieTemp die time).toNat

/-- Cycles of 10 ms at 2.0 GHz. -/
def clearCycles : Nat := 20000000

/-- The last time of the 10 ms up to `now` at which a cause held (R387). -/
def lastCause (cap : BitVec 16) (die now : Nat) : Option Nat :=
  ((List.range clearCycles).find? fun k => k ≤ now && throttleCause cap die (now - k)).map (now - ·)

/-- A cap outside 400 to 1,800 W is ignored (R383). What was above the old cap has been a cause until then
(R387). -/
def Device.setCap (d : Device) (x : BitVec 16) (now : Nat) : Device :=
  if 400 ≤ x.toNat && x.toNat ≤ 1800 then
    { d with
      cap := x
      slowAt := d.slow.foldl (fun m y => match lastCause d.cap y.1 now with
        | some t => sparseSet 0 m y.1 (Nat.max t (sparseGet 0 m y.1))
        | none => m) d.slowAt }
  else d

/-- A write in the PF's window. -/
def State.pfWrite (s : State) (off : Nat) (v : Dword) : State :=
  if off == 0x00000 then s.updDev fun d => { d with threshold := v.extractLsb' 0 16 }
  else if off == 0x00100 || off == 0x00108 then s.logConfig off v
  else if off == 0x00110 then s.logHeadWrite v
  else if off == 0x00200 then s.updDev fun d => { d with coords := v &&& 0xF1F0F }
  else if off == 0x00600 then s.updDev fun d =>
    { (d.setCap (v.extractLsb' 32 16) s.now).setTolerance (v.extractLsb' 0 32) with toleranceAt := some s.now }
  else if 0x10000 ≤ off && off < 0x30000 then
    s.recordWrite ((off - 0x10000) / 256) ((off - 0x10000) % 256) v
  else if 0x30000 ≤ off && off < 0x34000 then
    s.updPart ((off - 0x30000) / 32) fun p => p.control ((off - 0x30000) % 32) v
  else if 0x40000 ≤ off && off < 0x40000 + Config.devices then
    s.updDev fun d => d.setRoute (off - 0x40000) (v.toNat % 256)
  else s

/-- A write of the management configuration: hours of a gleaner's pass at 0 (R345), of the test period at 8
(R358), the minimum security version of the fuses at 0x10, which is only raised (R379; the offsets are the
model's, log row 98). -/
def Device.manage (d : Device) (off : Nat) (v : Dword) : Device :=
  match off with
  | 0x00 => if 1 ≤ v.toNat && v.toNat ≤ 720 then { d with gleanHours := v.toNat } else d
  | 0x08 => if 1 ≤ v.toNat && v.toNat ≤ 168 then { d with testHours := v.toNat } else d
  | 0x10 => if d.fuseMin.toNat ≤ v.toNat && v.toNat ≤ 64 then { d with fuseMin := v.setWidth 8 } else d
  | _ => d

/-- A write of a comparator, as the debug state permits; reserved bits must be 0 (R319). One that the debug state
refuses wakes nothing (R382). -/
def State.compWrite (s : State) (ctx off : Nat) (v : Dword) : State :=
  if !s.debugOk ctx then s
  else if off % 8 != 0 || v.extractLsb' 57 7 != 0 || v.getLsbD 1 then s.rouseCtx ctx
  else (s.rouseCtx ctx).updCtx ctx fun c => { c with debugger := true, comps := c.comps.set (off / 8) v }

/-- REGISTER_WRITE. -/
def execRegisterWrite (win : Window) (off : Nat) (v : Dword) (s : State) : Out :=
  match win with
  | .pf => s.hostIn fun s => s.pfWrite off v
  | .vf vf => s.hostIn fun s => s.post vf (.reg off v)
  | .comparator ctx => s.host' fun s => s.compWrite ctx off v
  | .management => s.hostIn fun s => s.updDev fun d => d.manage off v

end Sys2Proof.Machine
end

