-- ==== Sys2Proof/Machine/LaneFp.lean ====
section
/-!
DEFINITION. Rounding, conversion and packing, the correctly rounded functions, complex and dot
products, and draws: FRINT to DOT4 and RND (R148 to R161).
-/

namespace Sys2Proof.Machine

/-- A function of one element of a floating type, its special values included. -/
def fltOp (f : Fmt → Rd → Bool → Nat → Nat × Flags) (ty : Nat) (sat : Bool) (rd : Rd) (a : Nat) :
    Nat × Flags :=
  match tyFmt ty with
  | some x => f x rd sat a
  | none => (0, 0)

/-- FRINT (R148). -/
def execFrint (sw : Bool) (d a : Operand) (s : State) : Out :=
  .next (runWord s (fun m => entry2 sw m tyFlt true d a)
    (eff2 d a (fltOp fun f rd _ x => f.frint rd x)))

/-! ## CVT, PACK, UNPK (R149 to R151) -/

/-- One element converted between types (R149). -/
def cvtElem (sty dty : Nat) (sat : Bool) (rd : Rd) (x : Nat) : Nat × Flags :=
  match tyFmt sty, tyFmt dty with
  | some f, some g =>
    if sty == dty then (if (f.decode x).isNan then f.nan else x, 0) else g.round rd sat (f.decode x)
  | some f, none => toInt rd (tySigned dty) (tyWidth dty) (f.decode x)
  | none, some g => g.round rd sat (ofInt (tySigned sty) (tyWidth sty) x)
  | none, none => if sty == dty then (x, 0)
      else intFit sat (tySigned dty) (tyWidth dty) (intVal sty x)

def cvtEff (d a : Operand) (dty : Nat) (c : Ctx) : Eff :=
  let ty := tyOf c.mode
  laneEff d (tyRegs dty) (fun c l =>
    let x := c.val l a (tyRegs ty)
    mapElems (tyCount ty) (tyWidth dty) fun i =>
      cvtElem ty dty c.sat (c.rdTy l i) (elem x i (tyWidth ty))) c

/-- CVT (R149). -/
def execCvt (sw : Bool) (d a : Operand) (dty : BitVec 5) (s : State) : Out :=
  .next (runWord s (fun m =>
    let ty := tyOf m
    let ty' := dty.toNat
    let rounds := ty != ty' && (tyFloat ty || tyFloat ty')
    { laneEntry sw m tyAny rounds [Use.dst d (tyRegs ty'), Use.src a (tyRegs ty)] with
      codes := Instr.codesOk (.cvt sw d a dty),
      modeOk := tyAny.contains ty && tyCount ty == tyCount ty' })
    (cvtEff d a dty.toNat))

/-- The packed types of PACK and UNPK. -/
def tyPacked : List Nat := [6, 7, 8, 9, 10, 11, 12, 13, 14]

/-- A 32-bit value as an element of a packed type (R150). -/
def packElem (ty : Nat) (sat : Bool) (rd : Rd) (x : Nat) : Nat × Flags :=
  match tyFmt ty with
  | some f => f.round rd sat (Fmt.f32.decode x)
  | none => intFit sat (tySigned ty) (tyWidth ty) (toSigned 32 x)

def packEff (d a b : Operand) (c : Ctx) : Eff :=
  let ty := tyOf c.mode
  let x := tyWidth ty
  laneEff d 1 (fun c l =>
    let p := packElem ty c.sat (c.rd l 0 2) (c.opd l a).toNat
    let q := packElem ty c.sat (c.rd l 1 2) (c.opd l b).toNat
    let pair := p.1 + q.1 * 2 ^ x
    (if x == 16 then pair else (c.opd l d).toNat / 2 ^ (2 * x) + pair * 2 ^ (32 - 2 * x),
      p.2 ||| q.2)) c

/-- PACK (R150). -/
def execPack (sw : Bool) (d a b : Operand) (s : State) : Out :=
  .next (runWord s (fun m =>
    laneEntry sw m tyPacked (tyFloat (tyOf m))
      [if tyCount (tyOf m) == 2 then Use.dst d 1 else Use.both d 1, Use.src a 1, Use.src b 1])
    (packEff d a b))

/-- An element widened to 32 bits (R151). -/
def widen (ty x : Nat) : Nat :=
  match tyFmt ty with
  | some f => (Fmt.f32.round .rne false (f.decode x)).1
  | none => (intVal ty x % (2 ^ 32 : Nat)).toNat

def unpkEff (d a b : Operand) (c : Ctx) : Eff :=
  let ty := tyOf c.mode
  let bad := c.lanes.filter fun l => tyCount ty ≤ (c.opd l b).toNat
  if !bad.isEmpty then laneFault fcRange (c.allLanes.getD (maskOf bad))
  else laneEff d 1 (fun c l =>
    (widen ty (elem (c.opd l a).toNat (c.opd l b).toNat (tyWidth ty)), 0)) c

/-- UNPK (R151). -/
def execUnpk (sw : Bool) (d a b : Operand) (s : State) : Out :=
  .next (runWord s (fun m =>
    laneEntry sw m tyPacked false [Use.dst d 1, Use.src a 1, Use.src b 1]) (unpkEff d a b))

/-! ## FSCALE, FCLASS -/

/-- FSCALE (R152). -/
def execFscale (sw : Bool) (d a b : Operand) (s : State) : Out :=
  .next (runWord s (fun m =>
    let n := tyRegs (tyOf m)
    laneEntry sw m tyFlt true [Use.dst d n, Use.src a n, Use.src b 1]) fun c =>
    let ty := tyOf c.mode
    let n := tyRegs ty
    laneEff d n (fun c l =>
      let k := (c.opd l b).toInt
      each1 ty (fun i x => fltOp (fun f rd sat y => f.fscale rd sat y (k < 0) k.natAbs) ty c.sat
        (c.rdTy l i) x) (c.val l a n)) c)

/-- FCLASS (R153). -/
def execFclass (sw : Bool) (d a : Operand) (s : State) : Out :=
  .next (runWord s (fun m =>
    laneEntry sw m tyFlt false [Use.dst d 1, Use.src a (tyRegs (tyOf m))]) fun c =>
    let ty := tyOf c.mode
    laneEff d 1 (fun c l =>
      let x := c.val l a (tyRegs ty)
      mapElems (tyCount ty) 16 fun i => match tyFmt ty with
        | some f => (2 ^ f.classBit (elem x i (tyWidth ty)), 0)
        | none => (0, 0)) c)

/-! ## Correctly rounded functions (R154, R155) -/

/-- The effect of a correctly rounded function. -/
def funEff (d a : Operand) (f : Fmt → Rd → Bool → Nat → Nat × Flags) (c : Ctx) : Eff :=
  let ty := tyOf c.mode
  let n := tyRegs ty
  lateEff d n (fun c l => each1 ty (fun i x => fltOp f ty c.sat (c.rdTy l i) x) (c.val l a n)) c

/-- FRCP (R154). -/
def execFrcp (sw : Bool) (d a : Operand) (s : State) : Out :=
  .next (runWord s (fun m => entry2 sw m tyFlt true d a) (funEff d a Fmt.frcp))

/-- FRSQ (R154). -/
def execFrsq (sw : Bool) (d a : Operand) (s : State) : Out :=
  .next (runWord s (fun m => entry2 sw m tyFlt true d a) (funEff d a Fmt.frsq))

/-- FSQRT (R154). -/
def execFsqrt (sw : Bool) (d a : Operand) (s : State) : Out :=
  .next (runWord s (fun m => entry2 sw m tyFlt true d a) (funEff d a Fmt.fsqrt))

/-- FEXP2 (R154). -/
def execFexp2 (sw : Bool) (d a : Operand) (s : State) : Out :=
  .next (runWord s (fun m => entry2 sw m tyFlt true d a) (funEff d a Fmt.fexp2))

/-- FLOG2 (R154). -/
def execFlog2 (sw : Bool) (d a : Operand) (s : State) : Out :=
  .next (runWord s (fun m => entry2 sw m tyFlt true d a) (funEff d a Fmt.flog2))

/-- FSINPI (R154). -/
def execFsinpi (sw : Bool) (d a : Operand) (s : State) : Out :=
  .next (runWord s (fun m => entry2 sw m tyFlt true d a) (funEff d a Fmt.fsinpi))

/-- FCOSPI (R154). -/
def execFcospi (sw : Bool) (d a : Operand) (s : State) : Out :=
  .next (runWord s (fun m => entry2 sw m tyFlt true d a) (funEff d a Fmt.fcospi))

/-! ## Complex and dot products (R156, R157) -/

/-- The types of CMUL and CFMA, and the registers of an operand. -/
def tyComplex : List Nat := [4, 6, 7]
def complexRegs (ty : Nat) : Nat := if ty == 4 then 2 else 1

/-- A complex product, plus `d` when there is one (R156). -/
def complexOp (ty : Nat) (sat : Bool) (rd : Nat → Rd) (a b : Nat) (d : Option Nat) : Nat × Flags :=
  match tyFmt ty with
  | none => (0, 0)
  | some f =>
    let w := f.width
    let x (v i : Nat) : Val := f.decode (elem v i w)
    let acc (i : Nat) : List Term := match d with
      | some v => [.val (x v i)]
      | none => []
    let re := f.roundSum (rd 0) sat ([(x a 0).mul (x b 0), (x a 1).neg.mul (x b 1)] ++ acc 0)
    let im := f.roundSum (rd 1) sat ([(x a 0).mul (x b 1), (x a 1).mul (x b 0)] ++ acc 1)
    (re.1 + im.1 * 2 ^ w, re.2 ||| im.2)

def complexEff (acc : Bool) (d a b : Operand) (c : Ctx) : Eff :=
  let ty := tyOf c.mode
  let n := complexRegs ty
  laneEff d n (fun c l =>
    complexOp ty c.sat (fun i => c.rd l i 2) (c.val l a n) (c.val l b n)
      (if acc then some (c.val l d n) else none)) c

/-- CMUL (R156). -/
def execCmul (sw : Bool) (d a b : Operand) (s : State) : Out :=
  .next (runWord s (fun m =>
    let n := complexRegs (tyOf m)
    laneEntry sw m tyComplex true [Use.dst d n, Use.src a n, Use.src b n]) (complexEff false d a b))

/-- CFMA (R156). -/
def execCfma (sw : Bool) (d a b : Operand) (s : State) : Out :=
  .next (runWord s (fun m =>
    let n := complexRegs (tyOf m)
    laneEntry sw m tyComplex true [Use.both d n, Use.src a n, Use.src b n]) (complexEff true d a b))

/-- The dot product of two packed registers added to D (R157). -/
def dot4Op (ty : Nat) (sat : Bool) (rd : Rd) (a b d : Nat) : Nat × Flags :=
  let idx := List.range (tyCount ty)
  let w := tyWidth ty
  match tyFmt ty with
  | some f =>
    Fmt.f32.roundSum rd sat (.val (Fmt.f32.decode d) :: idx.map fun i =>
      (f.decode (elem a i w)).mul (f.decode (elem b i w)))
  | none =>
    let base : Int := if tySigned ty then toSigned 32 d else d
    intFit sat (tySigned ty) 32
      (idx.foldl (fun acc i => acc + intVal ty (elem a i w) * intVal ty (elem b i w)) base)

/-- DOT4 (R157). -/
def execDot4 (sw : Bool) (d a b : Operand) (s : State) : Out :=
  .next (runWord s (fun m =>
    laneEntry sw m [10, 11, 12, 13, 14] (tyFloat (tyOf m)) [Use.both d 1, Use.src a 1, Use.src b 1])
    (laneEff d 1 fun c l =>
      dot4Op (tyOf c.mode) c.sat (c.rd l 0 1) (c.opd l a).toNat (c.opd l b).toNat (c.opd l d).toNat))

/-! ## Random draws (R161) -/

/-- A draw as the type asks. -/
def rndOp (ty : Nat) (h : Word) : Nat :=
  if ty == 4 then (Fmt.f32.round .rne false (.fin false (h.toNat / 256) (expZero - 24))).1 else h.toNat

/-- RND (R161). -/
def execRnd (sw : Bool) (d : Operand) (s : State) : Out :=
  .next (runWord s (fun m =>
    { laneEntry sw m [1, 4] false [Use.dst d 1] with draws := true })
    (laneEff d 1 fun c l => (rndOp (tyOf c.mode) (c.draw l), 0)))

end Sys2Proof.Machine
end

