-- ==== Sys2Proof/Machine/Matrix.lean ====
section
/-!
DEFINITION. The matrix array: MMA, MMAZ, MMAD, TMMA and the event MATRIX_OCTET_OPERATION (R70, R240
to R251).
-/

namespace Sys2Proof.Machine

/-! ## Operand shapes (R241, R242) -/

/-- K of an octet operation, by instruction (0 MMA, 1 MMAZ, 2 MMAD, 3 TMMA) and element types; none
for a pair that R241 does not list. -/
def matrixK (fn ea eb : Nat) : Option Nat :=
  if fn == 3 then (if ea == 5 && eb == 7 then some 128 else none)
  else if ea == eb && ea ≤ 1 then some 16
  else if [2, 3].contains ea && [2, 3].contains eb then some 32
  else if ea == 4 && eb == 4 then some 64
  else if fn ≤ 1 && [5, 6].contains ea && [5, 6].contains eb then some 32
  else none

/-- Elements of a K block that carries a scale (R68). -/
def Resv.group (r : Resv) : Nat := 4 * 2 ^ r.blen

/-- A reservation with a column-scale row (R203). -/
def Resv.scaleRow (r : Resv) : Bool := r.blen == 0 && r.inline

/-- Bytes of one column scale. -/
def Resv.scaleBytes (r : Resv) : Nat := if r.sfmt == 0 then 1 else 2

def Resv.bits (r : Resv) : Nat := fmtBits r.etype

/-- First byte after what an A operand touches, from the reservation's first byte (R242). -/
def Resv.endA (r : Resv) (h : Word) (k : Nat) : Nat :=
  let o := handleOffset h
  if h.getLsbD 31 then o + 7 * r.bits / 8 + (k - 1) * r.pitch + r.bits / 8
  else
    let row := if r.blen != 0 then k / r.group * (r.group * r.bits / 8 + 1)
      else if r.sparse then k / 2 * r.bits / 8 + k / 8
      else k * r.bits / 8
    o + 7 * r.pitch + row

/-- The same of a B operand's data. -/
def Resv.endB (r : Resv) (h : Word) (k : Nat) : Nat :=
  let o := handleOffset h
  if h.getLsbD 31 then o + (k - 1) * r.bits / 8 + 31 * r.pitch + r.bits / 8
  else o + (k - 1) * r.pitch + 32 * r.bits / 8

/-- Byte of column `n`'s scale, from the reservation's first byte (R242). -/
def Resv.scaleAt (r : Resv) (h : Word) (n : Nat) : Nat :=
  let c0 := handleOffset h % r.pitch * 8 / r.bits
  r.size - r.pitch + (c0 + n) * r.scaleBytes

/-- The extents of both operands lie where R206 and R242 let them. -/
def extentsOk (a b : Resv) (ha hb : Word) (k : Nat) : Bool :=
  a.endA ha k ≤ a.size && !(a.blen != 0 && a.sfmt == 3) && !a.scaleRow
    && b.blen == 0 && !b.sparse
    && (if b.scaleRow then b.endB hb k + b.pitch ≤ b.size && b.scaleAt hb 32 ≤ b.size
      else b.endB hb k ≤ b.size)

/-- The checks of one octet (R244): the fault code of the first that fails. -/
def octetFault (b : Block) (fn : Nat) (x : OctetOp) : Option (BitVec 8) :=
  match b.alloc? x.hd, b.resv? x.ha, b.resv? x.hb with
  | some d, some ra, some rb =>
    if (x.ha.getLsbD 31 && !ra.col) || (x.hb.getLsbD 31 && !rb.col) then some fcRange
    else match matrixK fn ra.etype rb.etype with
      | none => some fcRange
      | some k =>
        if extentsOk ra rb x.ha x.hb k && d.holds x.hd && handleRow x.hd % 8 == 0 then none
        else some fcRange
  | _, _, _ => some fcHandle

/-! ## Elements and sums (R55, R58, R68 to R70) -/

/-- `e` bits of the operand buffer from a bit of a byte address. -/
def Block.bitsAt (b : Block) (base bit e : Nat) : Nat :=
  readLE b.opbuf (base + bit / 8) ((e + 7) / 8) / 2 ^ (bit % 8) % 2 ^ e

/-- Element (i, k) of an A operand, as stored. -/
def Block.elemA (b : Block) (r : Resv) (h : Word) (kk i k : Nat) : Nat :=
  let e := r.bits
  let o := r.base + handleOffset h
  if h.getLsbD 31 then b.bitsAt (o + i * e / 8 + k * r.pitch) 0 e
  else
    let row := o + i * r.pitch
    if r.blen != 0 then b.bitsAt row (k / r.group * (r.group * e + 8) + k % r.group * e) e
    else if r.sparse then
      let nib := b.bitsAt (row + kk / 2 * e / 8) (k / 4 * 4) 4
      let v (j : Nat) := b.bitsAt row ((2 * (k / 4) + j) * e) e
      if nib / 4 == k % 4 then v 1 else if nib % 4 == k % 4 then v 0 else 0
    else b.bitsAt row (k * e) e

/-- The scale of group `q` of row `i`. -/
def Block.scaleA (b : Block) (r : Resv) (h : Word) (i q : Nat) : Nat :=
  let n := r.group * r.bits / 8
  b.bitsAt (r.base + handleOffset h + i * r.pitch + q * (n + 1) + n) 0 8

/-- Element (k, n) of a B operand, as stored. -/
def Block.elemB (b : Block) (r : Resv) (h : Word) (k n : Nat) : Nat :=
  let e := r.bits
  let o := r.base + handleOffset h
  if h.getLsbD 31 then b.bitsAt (o + k * e / 8 + n * r.pitch) 0 e
  else b.bitsAt (o + k * r.pitch) (n * e) e

/-- The format of an element type. -/
def etypeFmt (t : Nat) : Fmt :=
  match t with
  | 0 => .b16
  | 1 => .h16
  | 2 => .e4m3
  | 3 => .e5m2
  | 4 => .e2m1
  | _ => .f32

/-- A scale of format code `sfmt` (R201). -/
def scaleVal (sfmt x : Nat) : Val :=
  match sfmt with
  | 0 => decodeE8m0 x
  | 1 => Fmt.e5m2.decode x
  | 2 => Fmt.e4m3.decode x
  | _ => Fmt.b16.decode x

/-- An 8-bit integer element. -/
def byteVal (t x : Nat) : Int := if t == 5 then toSigned 8 x else x

/-- A ternary element, and whether its code is 0b10 (R55). -/
def ternary (x : Nat) : Int × Bool :=
  match x with
  | 1 => (1, false)
  | 3 => (-1, false)
  | 2 => (0, true)
  | _ => (0, false)

/-- Round(f32, x · y, rne) of exact values. -/
def scaled (x y : Val) : Val × Flags :=
  let (r, fl) := Fmt.f32.roundSum .rne false [x.mul y]
  (Fmt.f32.decode r, fl)

/-- A value under way, its flags, and whether a NaN scale has been applied: no later step of the element sets
a flag (R252). -/
structure Fold where
  val : Val
  flags : Flags
  quiet : Bool
  deriving DecidableEq, Repr

/-- A step of a fold: its value, and its flags where they count. -/
def Fold.step (x : Fold) (r : Val × Flags) : Fold :=
  { x with
    val := r.1
    flags := if x.quiet then x.flags else x.flags ||| r.2 }

/-- Applies a scale. -/
def Fold.scale (x : Fold) (v : Val) : Fold :=
  let y := x.step (scaled x.val v)
  { y with quiet := y.quiet || v.isNan }

/-- One K block's sum, scaled where A carries block scales (R70). -/
def Block.blockSum (b : Block) (ra rb : Resv) (x : OctetOp) (kk i n q len : Nat) (quiet : Bool) : Fold :=
  let fa := etypeFmt ra.etype
  let fb := etypeFmt rb.etype
  let (s, fl) := sumExact false ((List.range len).map fun j =>
    let k := q * len + j
    (fa.decode (b.elemA ra x.ha kk i k)).mul (fb.decode (b.elemB rb x.hb k n)))
  let y : Fold := { val := s, flags := if quiet then 0 else fl, quiet }
  if ra.blen == 0 then y else y.scale (scaleVal ra.sfmt (b.scaleA ra x.ha i q))

/-- The result t of R70 for (i, n). -/
def Block.dotFloat (b : Block) (ra rb : Resv) (x : OctetOp) (kk i n : Nat) : Fold :=
  let len := if ra.blen == 0 then kk else ra.group
  let t := (List.range (kk / len - 1)).foldl (fun (acc : Fold) q =>
    let a := b.blockSum ra rb x kk i n (q + 1) len acc.quiet
    let (r, f2) := Fmt.f32.roundSum .rne false [.val acc.val, .val a.val]
    { val := Fmt.f32.decode r, quiet := a.quiet,
      flags := acc.flags ||| a.flags ||| if a.quiet then 0 else f2 })
    (b.blockSum ra rb x kk i n 0 len false)
  if rb.scaleRow then
    t.scale (scaleVal rb.sfmt (b.bitsAt (rb.base + rb.scaleAt x.hb n) 0 (8 * rb.scaleBytes)))
  else t

/-- The integer result for (i, n) (R244). -/
def Block.dotInt (b : Block) (ra rb : Resv) (x : OctetOp) (kk i n : Nat) : Int × Flags :=
  (List.range kk).foldl (fun (acc : Int × Flags) k =>
    let a := byteVal ra.etype (b.elemA ra x.ha kk i k)
    let y := b.elemB rb x.hb k n
    if rb.etype == 7 then
      let (t, odd) := ternary y
      (acc.1 + a * t, if odd then acc.2 ||| Flags.ic else acc.2)
    else (acc.1 + a * byteVal rb.etype y, acc.2)) (0, 0)

/-- The tile update of an element (R244). -/
def Block.octetElem (b : Block) (fn : Nat) (lam : Word) (ra rb : Resv) (x : OctetOp) (kk i n old : Nat) :
    Nat × Flags :=
  if 5 ≤ ra.etype then
    let (t, fl) := b.dotInt ra rb x kk i n
    let old : Int := if fn == 1 then 0 else old
    (((old + t) % (2 ^ 32 : Nat)).toNat, fl)
  else
    let t := b.dotFloat ra rb x kk i n
    let rnd (ts : List Term) (f1 : Flags) : Nat × Flags :=
      let (r, f2) := Fmt.f32.roundSum .rne false ts
      (r, if t.quiet then t.flags else t.flags ||| f1 ||| f2)
    match fn with
    | 1 => rnd [.val t.val] 0
    | 2 =>
      let (d, f1) := Fmt.f32.mul .rne false old lam.toNat
      rnd [.val (Fmt.f32.decode d), .val t.val] f1
    | _ => rnd [.val (Fmt.f32.decode old), .val t.val] 0

/-- One octet operation on the block's tiles: rows r0 to r0 + 7 (R243). -/
def Block.octetOp (b : Block) (fn : Nat) (lam : Word) (x : OctetOp) : Block × Flags :=
  match b.resv? x.ha, b.resv? x.hb, b.tilesOf x.hd 1 with
  | some ra, some rb, tile :: _ =>
    let kk := (matrixK fn ra.etype rb.etype).getD 0
    let keys := (List.range 8).flatMap fun i => (List.range 32).map fun n => (i, n)
    let vals := keys.map fun p =>
      let key := tileKey tile (handleRow x.hd + p.1) p.2
      (key, b.octetElem fn lam ra rb x kk p.1 p.2 (sparseGet 0 b.tiles key).toNat)
    (b.setTiles (vals.map fun v => (v.1, BitVec.ofNat 32 v.2.1)),
      vals.foldl (fun fl v => fl ||| v.2.2) 0)
  | _, _, _ => (b, 0)

/-! ## The words (R244, R245, R248) -/

/-- Octets with an active lane, ascending, and their handles (R240). -/
def Ctx.octets (c : Ctx) (d a b : Operand) : List OctetOp :=
  ((List.range (c.w.width / 8)).filter fun q => c.act.any fun l => l / 8 == q).map fun q =>
    { octet := q, hd := c.opd (8 * q) d, ha := c.opd (8 * q) a, hb := c.opd (8 * q) b }

/-- Words that a core's array queue holds (R248). -/
def arrayQueue : Nat := 16

/-- The core's array queue is full. -/
def Ctx.queueFull (c : Ctx) : Bool := arrayQueue ≤ (c.s.core c.b.core).queue.length

/-- Places a word in the array queue. -/
def Ctx.enqueue (c : Ctx) (s : State) (op : Option Nat) (work : ArrayWork) : State :=
  let x : ArrayWord := { blk := c.b.id, slot := c.r.slot, op, work, flags := 0, begun := false }
  s.updCore c.b.core fun k => { k with queue := k.queue ++ [x] }

/-- Some copy command of the warp holds the word (R213). -/
def Ctx.copyHolds (c : Ctx) (n : Names) : Bool :=
  (c.s.cmdsOf c.r).any fun x => (x.names c.b).meet n

def matrixEff (fn : Nat) (lam : Option Operand) (d a b : Operand) (c : Ctx) : Eff :=
  let ops := c.octets d a b
  let bad := ops.filter fun x => (octetFault c.b fn x).isSome
  match bad with
  | x :: _ =>
    laneFault ((octetFault c.b fn x).getD 0) (maskOf (bad.flatMap fun y => (List.range 8).map fun i =>
      8 * y.octet + i))
  | [] =>
    let work : ArrayWork := .matrix fn (match lam with
      | some o => c.one o
      | none => 0) ops
    let id := c.s.nextId
    let names := ({ blk := c.b.id, slot := c.r.slot, op := none, work, flags := 0, begun := false } : ArrayWord).names c.b
    if c.w.counterFull .matrix || c.queueFull || c.copyHolds names then .wait c.s .parked
    else .done (c.enqueue (c.s.fresh.pushOp c.r .matrix id [] none 0) (some id) work)

def matrixEntry (sw : Bool) (d a b : Operand) : Entry :=
  { sw, uses := [Use.scoped d, Use.scoped a, Use.scoped b], roles := [.matrix], ahead := .skip }

/-- MMA (R244). -/
def execMma (sw : Bool) (d a b : Operand) (s : State) : Out :=
  .next (runWord s (fun _ => matrixEntry sw d a b) (matrixEff 0 none d a b))

/-- MMAZ (R244). -/
def execMmaz (sw : Bool) (d a b : Operand) (s : State) : Out :=
  .next (runWord s (fun _ => matrixEntry sw d a b) (matrixEff 1 none d a b))

/-- The register of λ (R244). -/
def decayReg : Operand → Operand
  | .o i => .w i
  | o => o

/-- MMAD (R244): A is of class 2, and λ is in the warp register of its index. -/
def execMmad (sw : Bool) (d a b : Operand) (s : State) : Out :=
  let o2 := match a with
    | .o _ => true
    | _ => false
  let lam := decayReg a
  .next (runWord s (fun _ =>
    { matrixEntry sw d a b with
      uses := [Use.scoped d, { Use.scoped a with ok := o2 }, Use.scoped b, { Use.src lam 1 with ok := o2 }] })
    (matrixEff 2 (some lam) d a b))

/-- TMMA (R244). -/
def execTmma (sw : Bool) (d a b : Operand) (s : State) : Out :=
  .next (runWord s (fun _ => matrixEntry sw d a b) (matrixEff 3 none d a b))

/-! ## MATRIX_OCTET_OPERATION (R244, R246, R249) -/

/-- A queued word is complete: its operation takes its flags (R67, R249). -/
def State.arrayDone (s : State) (core : Nat) (q : ArrayWord) (flags : Flags) : State :=
  let s := (s.shiftSram .queue core).updCore core fun k => { k with queue := k.queue.drop 1 }
  let r : WarpRef := { blk := q.blk, slot := q.slot }
  match q.op with
  | some id => s.updOp r id fun x => { x with done := true, flags := x.flags ||| flags }
  | none => s

/-- What an octet operation reads: both operands, and the tile rows that it updates. -/
def Block.octetReads (b : Block) (fn : Nat) (x : OctetOp) : List (Place × Nat) :=
  match b.resv? x.ha, b.resv? x.hb, b.tilesOf x.hd 1 with
  | some ra, some rb, tile :: _ =>
    let kk := (matrixK fn ra.etype rb.etype).getD 0
    let from' (r : Resv) (h : Word) (stop : Nat) : Place × Nat :=
      (.opbuf (r.base + handleOffset h), stop - handleOffset h)
    [from' ra x.ha (ra.endA x.ha kk), from' rb x.hb (rb.endB x.hb kk)]
      ++ (if rb.scaleRow then [(.opbuf (rb.base + rb.scaleAt x.hb 0), 32 * rb.scaleBytes)] else [])
      ++ if fn == 1 then [] else (List.range 8).flatMap fun i => (List.range 32).map fun n =>
        (.tile (tileKey tile (handleRow x.hd + i) n), 4)
  | _, _, _ => []

/-- The elements that an octet operation writes carry a mark where it has read one (R343); which of them is
not told apart (DESIGN CHOICE, log row 95). -/
def Block.markTiles (b : Block) (keys : List Nat) : Block :=
  { b with tilesBad := keys.foldl (fun l k => insertNat k l) b.tilesBad }

/-- The next octet operation of the word at the head of a core's array queue. One whose entry in the queue has a
double error marks what it writes (R342; DESIGN CHOICE, log row 111). -/
def State.octetStep (s : State) (core : Nat) : State :=
  match (s.core core).queue with
  | [] => s
  | q :: _ =>
    match q.work, s.block? q.blk with
    | .matrix fn lam (x :: rest), some b =>
      let (bad, s) := if b.opbufBad.isEmpty && b.tilesBad.isEmpty && b.soft.isEmpty then (false, s)
        else s.readPlaces b (s.ctxOf b) (b.octetReads fn x)
      let (upset, s) := s.peekSram .queue core core (s.ctxOf b) (!q.begun)
      let bad := bad || upset
      let (t, fl) := b.octetOp fn lam x
      let t := if !bad then t else match b.tilesOf x.hd 1 with
        | tile :: _ => t.markTiles ((List.range 256).map fun i => tileKey tile (handleRow x.hd + i / 32) (i % 32))
        | [] => t
      let s := s.updBlock b.id fun y => { t with soft := t.soft.filter fun k => y.soft.contains k }
      let flags := q.flags ||| fl
      let s := s.updCore core fun k => { k with
        latch := some (q.blk, x.hb),
        queue := match k.queue with
          | y :: ys => { y with work := .matrix fn lam rest, flags, begun := true } :: ys
          | [] => [] }
      if rest.isEmpty then s.arrayDone core q flags else s
    | .matrix _ _ _, _ => s.arrayDone core q q.flags
    | _, _ => s

/-- MATRIX_OCTET_OPERATION (R244). -/
def execMatrixOctetOperation (core : Nat) (s : State) : Out := .next (s.octetStep core)

end Sys2Proof.Machine
end

