-- ==== Sys2Proof/Machine/PairEvents.lean ====
section
/-!
DEFINITION. Events of redundant pairs: WINDOW_MATCH (R353) and PAIR_PERFORMED (R354).
-/

namespace Sys2Proof.Machine

/-- One of a warp's two streams. -/
def Warp.stream (w : Warp) (engine : Bool) : Stream := if engine then w.engine else w.store

def Warp.setStream (w : Warp) (engine : Bool) (t : Stream) : Warp :=
  if engine then { w with engine := t } else { w with store := t }

/-- Removes the first entry of the oldest closed window; an empty window goes. -/
def Stream.pop (t : Stream) : Stream :=
  match t.closed with
  | [] => t
  | x :: rest =>
    match x.entries.drop 1 with
    | [] => { t with closed := rest }
    | es => { t with closed := { x with entries := es } :: rest }

/-- The leading and trailing block of the pair that a warp belongs to. -/
def State.pairOf (s : State) (r : WarpRef) : Option (Block × Block) :=
  match s.block? r.blk with
  | none => none
  | some b => match s.twin? b with
    | none => none
    | some t => some (if b.trail then (t, b) else (b, t))

/-- How an entry's performing ends. -/
inductive EntryOut where
  | done (s : State)
  | waits (s : State)
  | noMemory (pa : Nat)
  deriving DecidableEq, Repr

/-- The old bytes with an entry's over them. -/
def StreamEntry.bytes (e : StreamEntry) (va : Nat) (old : List Byte) : List Byte := e.overlay va old

/-- Lines of both copies' read caches: a store's bytes go into a present one, an engine write
invalidates it (R181). -/
def State.cachePair (s : State) (e : StreamEntry) (pa : Nat) (bytes : List Byte) (cores : List Nat) :
    State :=
  cores.foldl (fun (s : State) (c : Nat) =>
    if e.cmd.isSome then s.invalidate c fun l => l.pa == lineOf pa
    else s.updCore c fun k => { k with cache := k.cache.map fun l => l.patch pa bytes }) s

/-- An entry on its way as an access of the leading warp, under its own number: a remote one, or one that
waits at its slice (R331). -/
def StreamEntry.acc (e : StreamEntry) (s : State) (lead : Block) (slot : Nat) (twin : Option Nat) : Acc :=
  let kind : AccKind := match e.cmd.bind fun id => s.cmds.find? (·.id == id) with
    | none => .store
    | some c => if e.masked then .masked else c.kind.rop
  { id := e.id, grid := lead.grid, blk := lead.id, slot, core := lead.core, ctx := s.ctxOf lead, kind,
    va := e.addr, pa := e.pa.getD 0, remote := e.pa.isNone, width := e.width, data := e.data, lane := 0,
    result := none, cmd := e.cmd, twin, pc := e.pc, placed := false, after := [], gen := none,
    waits := false, host := none, far := false, seen := false }

/-- A write of a command is performed. -/
def State.dropWrite (s : State) (cmd : Option Nat) : State := match cmd with
  | some k => s.updCmd k fun c => { c with writes := c.writes - 1 }
  | none => s

/-- The entry has left as an access: it names itself among what it waits for. -/
def StreamEntry.sent (e : StreamEntry) : Bool := e.after.contains e.id

/-- Marks the first entry of a stream's oldest window as sent. -/
def Stream.send (t : Stream) (id : Nat) : Stream :=
  let mark (e : StreamEntry) : StreamEntry := if e.id == id then { e with after := id :: e.after } else e
  { t with closed := t.closed.map fun x => { x with entries := x.entries.map mark } }

/-- An entry leaves as an access. -/
def State.sendEntry (s : State) (lead : Block) (slot : Nat) (e : StreamEntry) (a : Acc) : State :=
  let t : State := { s with accs := s.accs ++ [{ a with gen := s.leaveGen a }] }
  t.updWarp { blk := lead.id, slot } fun w =>
    { w with store := w.store.send e.id, engine := w.engine.send e.id }

/-- Performs an entry of the leading copy once nothing that it must follow is left (R183, R193, R353): at
its slice, or by its acknowledgement. The trailing command's write ends with it. -/
def State.performEntry (s : State) (lead trail : Block) (slot : Nat) (e : StreamEntry)
    (twin : Option Nat) : EntryOut :=
  let a := e.acc s lead slot twin
  if s.accs.any fun x => e.after.contains x.id then .waits s
  else if e.sent then
    .done ((s.dropWrite twin).invalidate trail.core fun l => !a.remote && l.pa == lineOf a.pa)
  else match e.pa with
  | none =>
    if 255 ≤ s.unacked { blk := lead.id, slot } then .waits s else .waits (s.sendEntry lead slot e a)
  | some pa =>
    let s' := (s.dropWrite e.cmd).dropWrite twin
    let src := if e.lower then s.low else s.mem
    let bytes := e.bytes e.addr.toNat (readBytes src pa e.width)
    if e.lower then
      .done ({ s' with low := writeBytes s.low pa bytes }.updDev fun d =>
        { d with lowBad := if e.masked then d.lowBad else keepMarks d.lowBad pa e.width })
    else if Config.dramBytes < pa + e.width then .noMemory pa
    else match if s.lineBusy pa e.width then none
        else s'.modifyLine pa e.width (e.bytes e.addr.toNat) (!e.masked) (s.coreGen lead.core pa) with
      | none => .waits (s.sendEntry lead slot e { a with waits := true })
      | some t =>
        let t := if e.masked then t.keepBad s' a else t
        .done ((t.exchangeTags lead.core pa).cachePair e pa bytes [lead.core, trail.core])

/-- Performs the entries of a matched window from its first on, and drops the trailing copy's; nothing waits
for either any more (R353). -/
def State.performWindow (s : State) (lead trail : Block) (slot : Nat) (engine : Bool) : Nat → EntryOut
  | 0 => .done s
  | n + 1 =>
    let first (b : Block) : Option StreamEntry :=
      ((s.warp? { blk := b.id, slot }).bind fun x => (x.2.stream engine).closed.head?).bind fun x =>
        if x.matched then x.entries.head? else none
    match first lead with
    | none => .done s
    | some e =>
      match s.performEntry lead trail slot e ((first trail).bind StreamEntry.cmd) with
      | .waits t => .done t
      | .noMemory pa => .noMemory pa
      | .done t =>
        let pop (s : State) (b : Block) : State :=
          s.updWarp { blk := b.id, slot } fun w => w.setStream engine (w.stream engine).pop
        let t := (e :: (first trail).toList).foldl (fun (s : State) x => s.dropAcc x.id) t
        (pop (pop t lead) trail).performWindow lead trail slot engine n

/-- The oldest closed window of a stream is matched. -/
def Stream.matchHead (t : Stream) : Stream :=
  match t.closed with
  | [] => t
  | x :: rest => { t with closed := { x with matched := true } :: rest }

/-- A word that waits until every window of its warp has matched: a pair-performed one, CHKPT or EXIT (R351,
R353, R354). -/
def matchesFirst : Instr → Bool
  | .exit .. | .chkpt .. | .aadd .. | .amin .. | .amax .. | .aand .. | .aor .. | .axor .. | .axch .. | .acas ..
  | .rel .. | .send .. | .recv .. | .nred .. | .snapStart .. | .snapQuery .. | .snapRelease .. | .launch .. => true
  | _ => false

/-- It is parked at a RECV (R277). -/
def Run.isRecv : Run → Bool
  | .recv _ _ => true
  | _ => false

/-- A copy's warp has closed its windows and goes no further without the other copy: its request is not
agreed, or it is parked, its windows closed, at a word that waits for them (R351, R353, R354). -/
def State.stands (s : State) (b : Block) (w : Warp) : Bool :=
  match w.pairReq with
  | some (_, agreed) => !agreed
  | none => (w.run == .parked || w.run.isRecv) && w.store.entries.isEmpty && w.engine.entries.isEmpty
    && !s.producing { blk := b.id, slot := w.slot }
    && match (w.fetched (s.imageOf b)).map decode with
      | some (.ok i) => matchesFirst i
      | _ => false

/-- Place in the order of its copy of the first entry of a stream's oldest closed window; past everything
where there is none. -/
def State.cutAt (s : State) (t : Stream) : Nat := (t.closed.head?).elim s.nextId StreamWindow.order

/-- WINDOW_MATCH (R353): compares the oldest closed windows of a stream of both copies, then performs the
leading entries in order; a mismatch rolls the pair back, as does a window that the other copy has not made
where both copies stand (log row 84). -/
def State.windowMatch (s : State) (r : WarpRef) (engine : Bool) : EntryOut :=
  match s.pairOf r with
  | none => .done s
  | some (lead, trail) =>
    match lead.warp? r.slot, trail.warp? r.slot with
    | some l, some t =>
      let cut := (s.cutAt (l.stream engine), s.cutAt (t.stream engine))
      let miss (x : StreamWindow) : State :=
        s.rollback lead.id trail.id r.slot ((x.entries.head?).elim 0 StreamEntry.addr) cut
      let stand := s.stands lead l && s.stands trail t
      match (l.stream engine).closed, (t.stream engine).closed with
      | x :: _, y :: _ =>
        if x.matched then s.performWindow lead trail r.slot engine 64
        else if x.num == y.num && signature x.entries == signature y.entries then
          let mark (s : State) (b : Block) : State :=
            s.updWarp { blk := b.id, slot := r.slot } fun w =>
              w.setStream engine (w.stream engine).matchHead
          let s := mark (mark s lead) trail
          s.performWindow lead trail r.slot engine 64
        else .done (miss x)
      | x :: _, [] =>
        if stand && !x.matched then .done (miss x) else .done s
      | [], y :: _ =>
        if stand && !y.matched then .done (miss y) else .done s
      | [], [] => .done s
    | _, _ => .done s

def execWindowMatch (r : WarpRef) (engine : Bool) (s : State) : Out :=
  match s.windowMatch r engine with
  | .done t => .next t
  | .waits t => .next t
  | .noMemory pa => .fault (.noSuchMemory pa)

/-- PAIR_PERFORMED (R354): once every window of both copies is performed, equal requests let the word be
performed, and different ones are a mismatch. Two checkpoints meet on their own (R351). -/
def State.pairPerformed (s : State) (r : WarpRef) : State :=
  match s.pairOf r with
  | none => s
  | some (lead, trail) =>
    match lead.warp? r.slot, trail.warp? r.slot with
    | some l, some t =>
      match l.pairReq, t.pairReq with
      | some (x, false), some (y, false) =>
        if (x.isCheck && y.isCheck) || !l.streamsEmpty || !t.streamsEmpty then s
        else if x.op != y.op || x.args != y.args then
          s.rollback lead.id trail.id r.slot x.addr (s.nextId, s.nextId)
        else
          let grant (s : State) (b : Block) : State :=
            s.updWarp { blk := b.id, slot := r.slot } fun w =>
              { w with pairReq := w.pairReq.map fun q => (q.1, true) }
          grant (grant s lead) trail
      | _, _ => s
    | _, _ => s

def execPairPerformed (r : WarpRef) (s : State) : Out := .next (s.pairPerformed r)

end Sys2Proof.Machine
end

