-- ==== Sys2Proof/Machine/Power.lean ====
section
/-!
DEFINITION. Power and bring-up: the power registers (R383), idle states (R384, R385), throttling and
the thermal stop (R387), part reset (R388), the bring-up sequence (R389) and the management sideband
(R390).
-/

namespace Sys2Proof.Machine

/-! ## The power control register (R383) -/

/-- POWER_CONTROL_WRITE. -/
def execPowerControlWrite (v : Dword) (s : State) : Out := s.hostIn fun s => s.pfWrite 0x00600 v

/-! ## Idle states (R384, R385) -/

/-- Cycles for which a cluster is idle before it enters I1. -/
def idleCycles : Nat := 4096

/-- Cycles of 1 ms at 2.0 GHz. -/
def linkIdleCycles : Nat := 2000000

/-- A cluster may enter I1: it is idle, and has been for 4,096 cycles. -/
def State.mayI1 (s : State) (c : Nat) : Bool :=
  !s.activeClusters.contains c && sparseGet 0 s.dev.busyAt c + idleCycles ≤ s.now

/-- And I2: no warp halted under TENANT or VENDOR. -/
def State.mayI2 (s : State) (c : Nat) : Bool :=
  s.mayI1 c && s.warps.all fun x => clusterOf x.2.1.core != c || !x.2.2.halted

/-- Idle state of a cluster. -/
def Device.idleOf (d : Device) (c : Nat) : Nat := sparseGet 0 d.idle c

/-- The device may enter I3: every cluster in I2, no resident context, no frozen image draining, and the host
link idle for 1 ms. -/
def State.mayI3 (s : State) : Bool :=
  ((List.range Config.clusters).all fun c => s.dev.idleOf c == 2 || s.dev.absent.contains c)
    && s.ctxs.all (·.dead) && s.dev.linkAt + linkIdleCycles ≤ s.now
    && s.vfs.all fun v => match v.part.frozen with
      | some f => !f.begun
      | none => true

/-- IDLE_ENTRY: a unit enters the deepest state that the tolerance and its condition allow. -/
def State.enterIdle (s : State) (u : PowerUnit) : State :=
  let n := toleranceLimit s.dev.tolerance.toNat
  match u with
  | .cluster c =>
    let k := if 2 ≤ n && s.mayI2 c then 2 else if 1 ≤ n && s.mayI1 c then 1 else 0
    if Config.clusters ≤ c || k ≤ s.dev.idleOf c then s
    else s.updDev fun d => { d with idle := sparseSet 0 d.idle c k }
  | .device =>
    let enabled := s.vfs.any fun v => v.ctl.getLsbD 16
    let k := if !s.mayI3 then 0 else if 4 ≤ n && !enabled then 4 else if 3 ≤ n then 3 else 0
    if k ≤ s.dev.deviceIdle then s else s.updDev fun d => { d with deviceIdle := k }

def execIdleEntry (unit : PowerUnit) (s : State) : Out := .next (if s.up then s.enterIdle unit else s)

/-- IDLE_EXIT: a wake event brings a unit to I0. -/
def execIdleExit (unit : PowerUnit) (s : State) : Out :=
  .next (match unit with
    | .cluster c => s.updDev fun d => d.rouse c
    | .device => s.wake)

/-! ## Throttling (R387) -/

/-- Steps of 125 MHz from 2.0 GHz to 1.0 GHz. -/
def clockSteps : Nat := 8

/-- THROTTLE: while a cause holds, the clock of a die goes one step down, to 1.0 GHz at the least. -/
def Device.throttle (d : Device) (die now : Nat) : Device :=
  if Config.dies ≤ die || !throttleCause d.cap die now then d
  else { d with
    slow := sparseSet 0 d.slow die (Nat.min clockSteps (sparseGet 0 d.slow die + 1))
    slowAt := sparseSet 0 d.slowAt die now }

def execThrottle (die : Nat) (s : State) : Out := .next (s.updDev fun d => d.throttle die s.now)

/-- THROTTLE_RELEASE: the clock is raised again, once the cause has been clear for 10 ms. -/
def Device.unthrottle (d : Device) (die now : Nat) : Device :=
  if sparseGet 0 d.slowAt die + clearCycles ≤ now && (lastCause d.cap die now).isNone then
    { d with slow := sparseSet 0 d.slow die 0, slowAt := sparseSet 0 d.slowAt die 0 }
  else d

def execThrottleRelease (die : Nat) (s : State) : Out :=
  .next (s.updDev fun d => d.unthrottle die s.now)

/-! ## Part reset (R388, R357) -/

/-- The device-wide registers after a reset: the maps are kept, a site under test becomes its die's
spare again, everything else is at its reset value. -/
def Device.afterReset (d : Device) (powerOn : Bool) : Device :=
  let spare := d.testing.foldl (fun (m : Sparse Nat) x =>
    sparseSet 0 m x.1 (if x.2.2 == 192 + x.1 then 0 else x.2.2 + 1)) d.spare
  { Device.reset with
    nospare := d.nospare, remap := d.remap, spare := spare, absent := d.absent,
    banksUsed := d.banksUsed, fuseMin := d.fuseMin, powerOn := powerOn, thermal := d.thermal && !powerOn,
    softLines := if powerOn then [] else d.softLines,
    badWords := if powerOn then [] else d.badWords, lowBad := d.lowBad }

/-- A cause of REPLACE_REQUESTED that outlives a reset. -/
def Device.replaceCause (d : Device) : Bool :=
  !d.nospare.isEmpty || d.banksUsed.any fun x => layerBanks < x.2 + 4

/-- Every register, store and queue at its reset value; device DRAM keeps its contents unless the reset
is a power-on. -/
def State.partReset (s : State) (powerOn : Bool) : State :=
  let t : State := { State.reset with
    nextId := s.nextId, host := s.host, low := s.low
    mem := if powerOn then [] else s.mem
    dev := s.dev.afterReset powerOn }
  if t.dev.replaceCause then t.requestReplace .site 0 else t

def execPartReset (powerOn : Bool) (s : State) : Out := .next (s.partReset powerOn)

/-- THERMAL_STOP: at 115 °C the part holds itself in part reset. -/
def State.thermalStop (s : State) (temp : BitVec 8) : State :=
  if temp.toNat < 115 then s
  else (s.partReset false).updDev fun d => { d with thermal := true, temp := temp }

def execThermalStop (temp : BitVec 8) (s : State) : Out := .next (s.thermalStop temp)

/-! ## Bring-up (R389) -/

/-- A step of the sequence is running. -/
def Device.booting (d : Device) : Bool := 1 ≤ d.boot && d.boot ≤ 6 && !d.bootFailed && !d.thermal

/-- The site of a present logical cluster failed: it is retired, and replaced by the die's spare, or its cluster
is absent. -/
def State.retireCluster (s : State) (cluster : Nat) : State :=
  let die := dieOf cluster
  let s := if s.dev.nospare.contains die then
      s.updDev fun d => { d with absent := insertNat cluster d.absent }
    else (s.takeSpare cluster).updDev fun d => { d with nospare := insertNat die d.nospare }
  s.requestReplace .site cluster

/-- Step 4 finds a bad site (R6, R356): that of a logical cluster, or the spare of a die, which then has none. A
site retired before changes nothing. -/
def State.retireSite (s : State) (site : Nat) : State :=
  let d := s.dev
  match (List.range Config.clusters).find? fun c => d.siteOf c == site && !d.absent.contains c with
  | some c => s.retireCluster c
  | none =>
    match (List.range Config.dies).find? fun die => d.spareOf die == site && !d.nospare.contains die with
    | some die => (s.updDev fun d => { d with nospare := insertNat die d.nospare }).requestReplace .site site
    | none => s

/-- The boot ROM accepts an image: the key in its header hashes to the fused value, the header's signature
verifies, and its security version is at least the fused minimum (R379). -/
def Device.accepts (d : Device) (image : Nat) : Bool :=
  Config.imageKey image == Config.fuseKey && Config.imageVerifies image
    && d.fuseMin.toNat ≤ (Config.imageVersion image).toNat

/-- A step fails: the sequence halts; where it was step 2, no image runs (R372, R379). -/
def Device.bootStop (d : Device) : Device :=
  { d with bootFailed := true, bootCode := if d.boot == 2 then 2 else d.bootCode }

/-- The next step starts. -/
def Device.nextStep (d : Device) (now : Nat) : Device := { d with boot := d.boot + 1, bootAt := now }

/-- Step 2: the boot ROM tries image A, then image B; where it accepts neither, the sequence halts (R379). -/
def Device.loadImage (d : Device) (now : Nat) : Device :=
  if d.accepts 0 then { d.nextStep now with image := 0 }
  else if d.accepts 1 then { d.nextStep now with image := 1 }
  else d.bootStop

/-- What a step that succeeds leaves; the boot status is set in the last (R389). -/
def State.booted (s : State) : State :=
  match s.dev.boot with
  | 2 => s.updDev fun d => d.loadImage s.now
  | 5 =>
    let s : State := if s.dev.powerOn then { s with mem := [] } else s
    s.updDev fun d => { d.nextStep s.now with
      badWords := if d.powerOn then [] else d.badWords
      softLines := if d.powerOn then [] else d.softLines }
  | 6 => s.updDev fun d => { d.nextStep s.now with
      sampled := true, challenge := some (Config.challenge s.now), bootCode := BitVec.ofNat 8 d.image
      secVersion := Config.imageVersion d.image }
  | _ => s.updDev fun d => d.nextStep s.now

/-- Limits of the steps, in cycles of 2.0 GHz (R389): 50 ms, 300 ms, 2 s, 1 s, 1 s, 200 ms. -/
def stepLimits : List Nat := [100000000, 600000000, 4000000000, 2000000000, 2000000000, 400000000]

/-- The running step has passed its limit. -/
def State.stepLate (s : State) : Bool :=
  s.dev.bootAt + (stepLimits[s.dev.boot - 1]?).getD 0 < s.now

/-- BOOT_STEP. A step that succeeds past its limit has failed. -/
def State.bootStep (s : State) (result : BootResult) : State :=
  if !s.dev.booting then s
  else match result with
    | .ok => if s.stepLate then s.updDev fun d => { d with bootFailed := true } else s.booted
    | .failed => s.updDev fun d => d.bootStop
    | .siteFailed site => if s.dev.boot == 4 then s.retireSite site else s

def execBootStep (result : BootResult) (s : State) : Out := .next (s.bootStep result)

/-- BOOT_STEP_TIMEOUT: a step that passes its limit halts the sequence. -/
def execBootStepTimeout (s : State) : Out :=
  .next (if s.dev.booting && s.stepLate then s.updDev fun d => { d with bootFailed := true } else s)

/-! ## The management sideband (R390) -/

/-- The hottest junction that the sensors report. -/
def hottest (now : Nat) : BitVec 8 :=
  (List.range Config.dies).foldl (fun m die => if m.toNat < (Config.dieTemp die now).toNat then Config.dieTemp die now
    else m) 0

/-- The power status register (R383): power and temperature are 0 from reset until the sensors are sampled,
once the part is up, and sensor readings then; a thermal stop keeps its temperature. -/
def State.powerStatus (s : State) : Dword :=
  let d := s.dev
  let temp := if d.sampled && !d.thermal then hottest s.now else d.temp
  let power := if d.sampled && !d.thermal then Config.powerReading s.now else 0
  BitVec.ofNat 64 ((if d.slow.isEmpty then 0 else 2 ^ 32) + 65536 * power.toNat
    + 256 * temp.toNat + (if d.deviceIdle == 0 then 0 else 3))

/-- The boot status word (R372), with the step number in [23:16] and a failure in [24] (DESIGN CHOICE,
log row 14: the sideband's layout is not given). -/
def Device.bootStatus (d : Device) : Dword :=
  BitVec.ofNat 64 (d.bootCode.toNat + 256 * d.secVersion.toNat + 65536 * d.boot
    + (if d.bootFailed then 2 ^ 24 else 0))

/-- The health register (R357). -/
def State.health (s : State) : Dword :=
  let d := s.dev
  let nospare := d.nospare.foldl (fun n x => n + 2 ^ x) 0
  let suspect := Nat.min 255 (s.cores.filter (·.suspect)).length
  let banks := layerBanks - d.banksUsed.foldl (fun m x => Nat.max m x.2) 0
  BitVec.ofNat 64 ((if d.replace then 2 ^ 63 else 0) + 2 ^ 48 * nospare + 2 ^ 40 * suspect
    + 2 ^ 32 * d.absent.length + 2 ^ 20 * banks + d.threshold.toNat)

/-- SIDEBAND_READ. -/
def State.sideband (s : State) (what : SidebandItem) : Dword :=
  match what with
  | .power => s.powerStatus
  | .boot => s.dev.bootStatus
  | .health => s.health
  | .debug => BitVec.ofNat 64 s.dev.debug

def execSidebandRead (what : SidebandItem) (s : State) : Out :=
  .next (s.updDev fun d => { d with reply := s.sideband what })

/-- SIDEBAND_WRITE_CAP. -/
def execSidebandWriteCap (v : BitVec 16) (s : State) : Out := .next (s.updDev fun d => d.setCap v s.now)

/-- SIDEBAND_WRITE_TOLERANCE: a write of the PF in the same cycle is applied last and stands. -/
def execSidebandWriteTolerance (v : Word) (s : State) : Out :=
  .next (if s.dev.toleranceAt == some s.now then s else s.updDev fun d => d.setTolerance v)

/-- SIDEBAND_RESET: asserts part reset. -/
def execSidebandReset (s : State) : Out := .next (s.partReset false)

/-- SIDEBAND_CLEAR_THERMAL_STOP: bring-up may begin. -/
def execSidebandClearThermalStop (s : State) : Out :=
  .next (if s.dev.thermal then s.updDev fun d => { d with thermal := false, bootAt := s.now } else s)

/-- SIDEBAND_WAKE: wakes the device from I4. -/
def execSidebandWake (s : State) : Out :=
  .next (if s.dev.deviceIdle == 4 then s.wake else s)

end Sys2Proof.Machine
end

