-- ==== Sys2Proof/Machine/Spline.lean ====
section
/-!
DEFINITION. The spline cells: KSET, KGET, CLD, CST, SPL, SPLD, SPLG, GREF and the event
SPLINE_EXECUTION (R253 to R271).
-/

namespace Sys2Proof.Machine

/-! ## Rounding steps (R260 to R262) -/

/-- Rn of an exact sum of terms. -/
def rn (ts : List Term) : Nat × Flags := Fmt.f32.roundSum .rne false ts

/-- The exact value of an f32 code. -/
def f32Val (x : Nat) : Val := Fmt.f32.decode x

/-- A small integer. -/
def intConst (k : Int) : Val := .fin (k < 0) k.natAbs expZero

/-- Rn(a + k), Rn(k·a), Rn(a·b), Rn(a + b), Rn(s + a·b). -/
def rnAddK (k : Int) (a : Nat) : Nat × Flags := rn [.val (f32Val a), .val (intConst k)]
def rnMulK (k : Int) (a : Nat) : Nat × Flags := rn [(intConst k).mul (f32Val a)]
def rnMul (a b : Nat) : Nat × Flags := rn [(f32Val a).mul (f32Val b)]
def rnAdd (a b : Nat) : Nat × Flags := rn [.val (f32Val a), .val (f32Val b)]
def rnFma (s a b : Nat) : Nat × Flags := rn [.val (f32Val s), (f32Val a).mul (f32Val b)]

/-- Runs roundings one after the other, their flags collected. -/
def chain (x : Nat × Flags) (fs : List (Nat → Nat × Flags)) : Nat × Flags :=
  fs.foldl (fun acc f =>
    let r := f acc.1
    (r.1, acc.2 ||| r.2)) x

/-- Rn of an exact value divided by 6. -/
def rnSixth (t : Term) : Nat × Flags :=
  match t with
  | .val (.fin s m e) =>
    if m == 0 then rn [t]
    else
      let (q, x, st) := divMag m e 6 expZero
      Fmt.f32.roundMag .rne false s q x st
  | t => rn [t]

/-- Rn of an exact value times 2^−k. -/
def rnHalves (k : Nat) (t : Term) : Nat × Flags :=
  match t with
  | .val (.fin s m e) => rn [.val (.fin s m (e - k))]
  | t => rn [t]

/-- A float code negated; a NaN stays canonical. -/
def negF32 (x : Nat) : Nat := if (f32Val x).isNan then x else Nat.xor x (2 ^ 31)

/-! ## Location and basis (R260, R261) -/

/-- Where an input lies on a grid: the interval, its place in it, and CLAMP outside. -/
inductive Loc where
  | nan
  | zero
  | at (j t : Nat) (flat : Bool)
  deriving DecidableEq, Repr

/-- The side of the grid: u < 0, u ≥ G, neither, or a NaN. -/
inductive Side where
  | below | above | inside | nan
  deriving DecidableEq, Repr

/-- Integer part of a value that is not negative. -/
def Val.floorNat (v : Val) : Nat :=
  match v with
  | .fin _ m e => if expZero ≤ e then m <<< (e - expZero) else m >>> (expZero - e)
  | _ => 0

/-- Locates an input on the grid of a set (R260). -/
def KnotSet.locate (k : KnotSet) (x : Nat) : Loc × Side × Flags :=
  let v := f32Val x
  if v.isNan then (.nan, .nan, 0)
  else
    let d := v.addExact false (f32Val k.x0.toNat).neg
    let (u, fl) := rn [d.mul (f32Val k.invh.toNat)]
    let u := if u == 2 ^ 31 then 0 else u
    let uv := f32Val u
    let g : Val := .fin false k.g expZero
    if uv.isNeg || !Val.lt false uv g then
      let below := uv.isNeg
      let side : Side := if below then .below else .above
      let j := if below then 0 else k.g - 1
      if k.mode == 0 then (.at j (if below then 0 else 0x3F800000) true, side, fl)
      else if k.mode == 2 then (.zero, side, fl)
      else match uv with
        | .inf _ => (.nan, side, fl ||| Flags.nv)
        | _ =>
          let (t, f2) := rnAddK (-(j : Int)) u
          (.at j t false, side, fl ||| f2)
    else
      let j := uv.floorNat
      (.at j (rnAddK (-(j : Int)) u).1 false, .inside, fl)

/-- P0 to P3 (R261). -/
def basisP (t : Nat) : List Nat × Flags :=
  let (s, f0) := rn [.val (intConst 1), .val (f32Val t).neg]
  let p0 := chain (rnMul s s) [fun a => rnMul a s]
  let by' (a : Nat) := rnMul a t
  let p1 := chain (rnMulK 3 t) [rnAddK (-6), by', by', rnAddK 4]
  let p2 := chain (rnMulK (-3) t) [rnAddK 3, by', rnAddK 3, by', rnAddK 1]
  let p3 := chain (rnMul t t) [by']
  ([p0.1, p1.1, p2.1, p3.1], f0 ||| p0.2 ||| p1.2 ||| p2.2 ||| p3.2)

/-- Q0 to Q3 (R261). -/
def basisQ (t : Nat) : List Nat × Flags :=
  let (s, f0) := rn [.val (intConst 1), .val (f32Val t).neg]
  let q0 := rnMul s s
  let by' (a : Nat) := rnMul a t
  let q1 := chain (rnMulK 3 t) [rnAddK (-4), by']
  let q2 := chain (rnMulK (-3) t) [rnAddK 2, by', rnAddK 1]
  let q3 := rnMul t t
  ([negF32 q0.1, q1.1, q2.1, q3.1], f0 ||| q0.2 ||| q1.2 ||| q2.2 ||| q3.2)

/-- Σ c[j + m]·B_m in ascending m, the first product rounded, the others fused (R262). -/
def fourSum (c : Nat → Nat) (b : List Nat) : Nat × Flags :=
  chain (rnMul (c 0) ((b[0]?).getD 0))
    ([1, 2, 3].map fun m s => rnFma s (c m) ((b[m]?).getD 0))

/-! ## Cells -/

/-- Key of a coefficient. -/
def coefKey (r c k : Nat) : Nat := 32 * (16 * r + c) + k

def Spline.coefAt (x : Spline) (r c k : Nat) : Nat := (sparseGet 0 x.coef (coefKey r c k)).toNat

/-- The set that a row uses, if it is not idle. -/
def Spline.rowSet (x : Spline) (r : Nat) : Option KnotSet := x.sets.find? fun k => k.mask.getLsbD r

/-- φ of a cell at a location (R260, R262). -/
def Spline.value (x : Spline) (r c : Nat) (loc : Loc) (p : List Nat × Flags) : Nat × Flags :=
  match loc with
  | .nan => (Fmt.f32.nan, 0)
  | .zero => (0, 0)
  | .at j _ _ =>
    let (v, fl) := chain (fourSum (fun m => x.coefAt r c (j + m)) p.1)
      [fun a => rnSixth (.val (f32Val a))]
    (v, fl ||| p.2)

/-- φ′ of a cell at a location (R262). Where a CLAMP row outside the grid makes it +0, no δ step is computed and
none raises a flag (DESIGN CHOICE, log row 109). -/
def Spline.slope (x : Spline) (k : KnotSet) (r c : Nat) (loc : Loc) (q : List Nat × Flags) :
    Nat × Flags :=
  match loc with
  | .nan => (Fmt.f32.nan, 0)
  | .zero => (0, 0)
  | .at j _ flat =>
    if flat then (0, 0)
    else
      let (v, fl) := chain (fourSum (fun m => x.coefAt r c (j + m)) q.1)
        [fun a => rnHalves 1 ((f32Val a).mul (f32Val k.invh.toNat))]
      (v, fl ||| q.2)

/-- The basis of a location, none where nothing is evaluated. -/
def Loc.basis (l : Loc) (f : Nat → List Nat × Flags) : List Nat × Flags :=
  match l with
  | .at _ t _ => f t
  | _ => ([], 0)

/-! ## Claim, hold and release (R254, R255, R270) -/

def KnotSet.reset : KnotSet :=
  { x0 := 0, invh := 0x3F800000, mode := 0, g := 1, mask := 0, below := 0, above := 0 }

def IssueView.reset : IssueView := { g := 1, invh := 0x3F800000, mask := 0 }

/-- The spline state at a claim. -/
def Spline.claimed (blk : Nat) : Spline :=
  { blk, coef := [], sets := List.replicate 16 KnotSet.reset, view := List.replicate 16 IssueView.reset,
    bad := [] }

/-- What a block's next spline word finds: none while it must wait, for a busy holder of its context
or for the queued spline words of another context's holder. -/
def Ctx.spline (c : Ctx) : Option Spline :=
  let k := c.s.core c.b.core
  let own := ((k.savedSplines.find? (·.blk == c.b.id))).getD (Spline.claimed c.b.id)
  match k.spline with
  | none => some own
  | some x =>
    if x.blk == c.b.id then some x
    else match c.s.block? x.blk with
      | none => some own
      | some h =>
        if c.s.ctxOf h == c.ctx then none
        else if k.queue.any fun q => q.blk == x.blk && (match q.work with
          | .spline _ => true
          | .matrix _ _ _ => false) then none
        else some own

/-- Bytes in which the part saves a spline state: one word for each coefficient that is not 0 and for each
field of the sets (the part's own layout, log row 30). -/
def Spline.bytes (x : Spline) : Nat := 8 * x.coef.length + 384

/-- The block holds the state with this content; that of another holder, of another context, is saved to
its save area (R255). -/
def Ctx.hold (c : Ctx) (s : State) (x : Spline) : State :=
  let s := match (s.core c.b.core).spline with
    | some y => if y.blk == c.b.id then s else match s.block? y.blk with
      | some h => s.saveToArea (s.ctxOf h) c.b.core y.bytes
      | none => s
    | none => s
  s.updCore c.b.core fun k =>
    let saved := k.savedSplines.filter (·.blk != c.b.id)
    { k with
      spline := some x,
      savedSplines := match k.spline with
        | some y => if y.blk == c.b.id then saved else putBy Spline.blk y saved
        | none => saved }

/-! ## The words -/

/-- Issues a spline word: it waits for the state, is checked, and joins the array queue (R268); `upd`
is its effect on the issue view. -/
def Ctx.splineWord (c : Ctx) (check : Spline → Option (BitVec 8)) (op : SplineOp)
    (upd : Spline → Spline) : Eff :=
  match c.spline with
  | none => .wait c.s .parked
  | some x =>
    match check x with
    | some code => execFault code
    | none =>
      if c.w.counterFull .spline || c.queueFull || c.copyHolds (op.names c.b) then .wait c.s .parked
      else
        let id := c.s.nextId
        let s := c.hold (c.s.fresh.pushOp c.r .spline id [] none 0) (upd x)
        .done (c.enqueue s (some id) (.spline op))

def splineEntry (sw : Bool) (uses : List Use) : Entry :=
  { sw, uses, roles := [.matrix], ahead := .skip }

/-- Replaces an entry of the issue view. -/
def Spline.setView (x : Spline) (k : Nat) (v : IssueView) : Spline := { x with view := x.view.set k v }

/-- An f32 code that is finite. -/
def finiteF32 (x : Word) : Bool := x.extractLsb' 23 8 != 0xFF

/-- The conditions of R257 on a record. -/
def knotOk (q : Nat → Word) (k : Nat) (x : Spline) : Bool :=
  let g := ((q 2).extractLsb' 0 5).toNat
  (q 2).extractLsb' 10 22 == 0 && (q 2).extractLsb' 5 3 == 0 && (q 3).extractLsb' 16 16 == 0
    && 1 ≤ g && g ≤ 29 && (q 2).extractLsb' 8 2 != 3 && finiteF32 (q 0) && finiteF32 (q 1)
    && !(q 1).getLsbD 31 && q 1 != 0
    && (x.view.zipIdx.all fun v => v.2 == k || v.1.mask &&& (q 3).extractLsb' 0 16 == 0)

def ksetEff (a : Operand) (set : BitVec 4) (c : Ctx) : Eff :=
  let q (i : Nat) : Word := c.one (a.nth i)
  let k := set.toNat
  let g := ((q 2).extractLsb' 0 5).toNat
  let mask := (q 3).extractLsb' 0 16
  c.splineWord (fun x => if knotOk q k x then none else some fcRange)
    (.kset k (q 0) (q 1) g ((q 2).extractLsb' 8 2).toNat mask)
    (fun x => x.setView k { g, invh := q 1, mask })

/-- KSET (R257). -/
def execKset (sw : Bool) (a : Operand) (set : BitVec 4) (s : State) : Out :=
  .next (runWord s (fun _ =>
    splineEntry sw [{ Use.src a 4 with ok := a.isW && a.index % 4 == 0 }]) (ksetEff a set))

/-- KGET takes a place in the array queue and no counter (R258). -/
def kgetEff (d : Operand) (count clr : Bool) (set : BitVec 4) (c : Ctx) : Eff :=
  match c.spline with
  | none => .wait c.s .parked
  | some x =>
    if c.queueFull then .wait c.s .parked
    else
      let id := c.s.nextId
      let s := c.hold (c.s.pushResult c.r { c.result c.s (some d) 4 with ready := false }) x
      .done (c.enqueue s none (.spline (.kget set.toNat count clr id)))

def kgetEntry (sw : Bool) (d : Operand) : Entry :=
  { splineEntry sw [Use.wideDst d 4] with ahead := .poison }

/-- KGET_RECORD (R258). -/
def execKgetRecord (sw : Bool) (d : Operand) (set : BitVec 4) (s : State) : Out :=
  .next (runWord s (fun _ => kgetEntry sw d) (kgetEff d false false set))

/-- KGET_COUNT (R258). -/
def execKgetCount (sw : Bool) (d : Operand) (clr : Bool) (set : BitVec 4) (s : State) : Out :=
  .next (runWord s (fun _ => kgetEntry sw d) (kgetEff d true clr set))

/-- The checks of CLD and CST (R263). -/
def cellsFault (b : Block) (h : Word) (ra n : Nat) : Option (BitVec 8) :=
  match b.resv? h with
  | none => some fcHandle
  | some r =>
    if ra + n ≤ 16 && r.etype == 8 && !h.getLsbD 31 && 128 ≤ r.pitch
        && handleOffset h + (16 * n - 1) * r.pitch + 128 ≤ r.size then none
    else some fcRange

def cellsEff (store : Bool) (a : Operand) (nm1 ra : BitVec 4) (c : Ctx) : Eff :=
  let h := c.one a
  let n := nm1.toNat + 1
  c.splineWord (fun _ => cellsFault c.b h ra.toNat n)
    (if store then .store h ra.toNat n else .load h ra.toNat n) id

/-- CLD (R263). -/
def execCld (sw : Bool) (a : Operand) (nm1 ra : BitVec 4) (s : State) : Out :=
  .next (runWord s (fun _ => splineEntry sw [Use.wide a 1]) (cellsEff false a nm1 ra))

/-- CST (R263). -/
def execCst (sw : Bool) (a : Operand) (nm1 ra : BitVec 4) (s : State) : Out :=
  .next (runWord s (fun _ => splineEntry sw [Use.wide a 1]) (cellsEff true a nm1 ra))

/-- A handle names `n` rows of a tile from its row field on. -/
def tileRows (b : Block) (h : Word) (n : Nat) : Bool :=
  match b.alloc? h with
  | some a => a.holds h && handleRow h + n ≤ 32
  | none => false

/-- The checks of SPL, SPLD (with gy) and SPLG (with gy, a group) (R265): HANDLE of any handle before RANGE of any
(DESIGN CHOICE, log row 110). -/
def samplesFault (b : Block) (hd hx : Word) (hg : Option Word) (group : Bool) (n : Nat) :
    Option (BitVec 8) :=
  match b.alloc? hd, b.resv? hx with
  | some d, some r =>
    if hg.any fun g => (b.alloc? g).isNone then some fcHandle
    else if r.etype == 8 && !hx.getLsbD 31 && 64 ≤ r.pitch
        && handleOffset hx + (n - 1) * r.pitch + 64 ≤ r.size
        && (if group then d.holds hd && handleRow hd == 0 && handleTile hd + 8 ≤ d.count
          else tileRows b hd n)
        && hg.all fun g => tileRows b g n then none
    else some fcRange
  | _, _ => some fcHandle

/-- SPL, SPLD, SPLG: `hg` says whether A is a pair with the gy handle. -/
def samplesEff (d a : Operand) (pair group : Bool) (n : Nat) (op : Word → Word → Word → SplineOp)
    (c : Ctx) : Eff :=
  let hd := c.one d
  let hx := c.one a
  let hg := c.one (a.nth 1)
  c.splineWord (fun _ => samplesFault c.b hd hx (if pair then some hg else none) group n)
    (op hd hx hg) id

/-- SPL (R264 to R266). -/
def execSpl (sw : Bool) (d a : Operand) (half acc : Bool) (nm1 : BitVec 5) (s : State) : Out :=
  let n := nm1.toNat + 1
  .next (runWord s (fun _ => splineEntry sw [Use.wide d 1, Use.wide a 1])
    (samplesEff d a false false n fun hd hx _ => .spl hd hx n half acc))

/-- SPLD (R264 to R266). -/
def execSpld (sw : Bool) (d a : Operand) (half acc : Bool) (nm1 : BitVec 5) (s : State) : Out :=
  let n := nm1.toNat + 1
  .next (runWord s (fun _ => splineEntry sw [Use.wide d 1, Use.wide a 2])
    (samplesEff d a true false n fun hd hx hg => .spld hd hx hg n half acc))

/-- SPLG (R264 to R266). -/
def execSplg (sw : Bool) (d a : Operand) (half zero : Bool) (nm1 : BitVec 5) (s : State) : Out :=
  let n := nm1.toNat + 1
  .next (runWord s (fun _ => splineEntry sw [Use.wide d 1, Use.wide a 2])
    (samplesEff d a true true n fun hd hx hg => .splg hd hx hg n half zero))

/-- 2·invh of a view entry. -/
def doubled (x : Word) : Word := BitVec.ofNat 32 (rnMulK 2 x.toNat).1

def grefEff (set : BitVec 4) (c : Ctx) : Eff :=
  let k := set.toNat
  let at' (x : Spline) : IssueView := (x.view[k]?).getD IssueView.reset
  c.splineWord (fun x => if (at' x).g ≤ 14 && finiteF32 (doubled (at' x).invh) then none else some fcRange)
    (.gref k)
    (fun x => x.setView k { at' x with g := 2 * (at' x).g, invh := doubled (at' x).invh })

/-- GREF (R267). -/
def execGref (sw : Bool) (set : BitVec 4) (s : State) : Out :=
  .next (runWord s (fun _ => splineEntry sw []) (grefEff set))

/-! ## SPLINE_EXECUTION -/

/-- Collects the flags of computed values. -/
def flagsOf (xs : List (Nat × Nat × Flags)) : Flags := xs.foldl (fun fl x => fl ||| x.2.2) 0

/-- Writes computed tile elements. -/
def Block.putTiles (b : Block) (xs : List (Nat × Nat × Flags)) : Block :=
  b.setTiles (xs.map fun x => (x.1, BitVec.ofNat 32 x.2.1))

/-- Input r of sample s (R264). -/
def Block.sample (b : Block) (hx : Word) (s r : Nat) : Nat :=
  match b.resv? hx with
  | some x => readLE b.opbuf (x.base + handleOffset hx + s * x.pitch + 4 * r) 4
  | none => 0

/-- A tile element. -/
def Block.tileElem (b : Block) (key : Nat) : Nat := (sparseGet 0 b.tiles key).toNat

/-- The tile of a handle. -/
def Block.tileNo (b : Block) (h : Word) : Nat := (b.tilesOf h 1).headD 0

/-- Location, side and flags of input r of a sample on the set that its row uses. -/
def Spline.locs (x : Spline) (b : Block) (hx : Word) (s : Nat) :
    List (Nat × KnotSet × Loc × Side × Flags) :=
  (List.range 16).filterMap fun r => (x.rowSet r).map fun k => (r, k, k.locate (b.sample hx s r))

/-- One counter step, saturating (R259). -/
def bump (c : Word) : Word := if c == 0xFFFFFFFF then c else c + 1

def KnotSet.count (k : KnotSet) (side : Side) : KnotSet :=
  match side with
  | .below => { k with below := bump k.below }
  | .above => { k with above := bump k.above }
  | _ => k

/-- Sets after a sample's inputs are counted. -/
def Spline.countAll (x : Spline) (ls : List (Nat × KnotSet × Loc × Side × Flags)) : Spline :=
  { x with sets := x.sets.map fun k => ls.foldl (fun k l =>
      if k.mask.getLsbD l.1 then k.count l.2.2.2.1 else k) k }

/-- SPL (R266): outputs and flags. -/
def Spline.spl (x : Spline) (b : Block) (hd hx : Word) (n : Nat) (half acc : Bool) :
    List (Nat × Nat × Flags) :=
  (List.range n).flatMap fun s =>
    let ls := x.locs b hx s
    let rows := ls.map fun l => (l, l.2.2.1.basis basisP)
    (List.range 16).map fun c =>
      let phis := rows.map fun y =>
        let v := x.value y.1.1 c y.1.2.2.1 y.2
        (v.1, v.2 ||| y.1.2.2.2.2)
      let y := match phis with
        | [] => ((0, 0) : Nat × Flags)
        | p :: rest => chain p (rest.map fun q a =>
            let r := rnAdd a q.1
            (r.1, r.2 ||| q.2))
      let key := tileKey (b.tileNo hd) (handleRow hd + s) (16 * half.toNat + c)
      let y := if acc then chain y [rnAdd (b.tileElem key)] else y
      (key, y.1, y.2)

/-- SPLD (R266). -/
def Spline.spld (x : Spline) (b : Block) (hd hx hg : Word) (n : Nat) (half acc : Bool) :
    List (Nat × Nat × Flags) :=
  (List.range n).flatMap fun s =>
    let ls := x.locs b hx s
    let gy (c : Nat) := b.tileElem (tileKey (b.tileNo hg) (handleRow hg + s) (16 * half.toNat + c))
    (List.range 16).map fun r =>
      let v := match ls.find? (·.1 == r) with
        | none => ((0, 0) : Nat × Flags)
        | some l =>
          let q := match l.2.2.1 with
            | .at _ _ true => (([], 0) : List Nat × Flags)
            | y => y.basis basisQ
          let step (c : Nat) (a : Nat) : Nat × Flags :=
            let d := x.slope l.2.1 r c l.2.2.1 q
            let v := if c == 0 then rnMul (gy 0) d.1 else rnFma a (gy c) d.1
            (v.1, v.2 ||| d.2)
          chain (0, l.2.2.2.2) ((List.range 16).map step)
      let key := tileKey (b.tileNo hd) (handleRow hd + s) (16 * half.toNat + r)
      let v := if acc then chain v [rnAdd (b.tileElem key)] else v
      (key, v.1, v.2)

/-- SPLG (R266): the tiles after the scatter, and flags. -/
def Spline.splg (x : Spline) (b : Block) (hd hx hg : Word) (n : Nat) (half zero : Bool) :
    Sparse Word × Flags :=
  let first := b.tileNo hd
  let start : Sparse Word := if zero then
      b.tiles.filter fun e => e.1 < 1024 * first || 1024 * (first + 8) ≤ e.1
    else b.tiles
  (List.range n).foldl (fun (acc : Sparse Word × Flags) s =>
    let gy (c : Nat) := b.tileElem (tileKey (b.tileNo hg) (handleRow hg + s) (16 * half.toNat + c))
    (x.locs b hx s).foldl (fun (acc : Sparse Word × Flags) l =>
      let r := l.1
      let acc : Sparse Word × Flags := (acc.1, acc.2 ||| l.2.2.2.2)
      match l.2.2.1 with
      | .at j t _ =>
        let p := basisP t
        (List.range 16).foldl (fun (acc : Sparse Word × Flags) c =>
          (List.range 4).foldl (fun (acc : Sparse Word × Flags) m =>
            let (e, f1) := rnSixth ((f32Val (gy c)).mul (f32Val ((p.1[m]?).getD 0)))
            let key := tileKey (first + r / 2) (r % 2 * 16 + c) (j + m)
            let (v, f2) := rnAdd (sparseGet 0 acc.1 key).toNat e
            (sparseSet 0 acc.1 key (BitVec.ofNat 32 v), acc.2 ||| f1 ||| f2)) acc)
          (acc.1, acc.2 ||| p.2)
      | _ => acc) acc) (start, 0)

/-- Refined coefficients of a cell (R267): d[0] to d[2G + 2], the others +0. -/
def refine (g : Nat) (c : Nat → Nat) : List (Nat × Nat × Flags) :=
  (List.range 32).map fun i =>
    if 2 * g + 2 < i then (i, 0, 0)
    else if i % 2 == 0 then
      let v := chain (rnAdd (c (i / 2)) (c (i / 2 + 1))) [fun a => rnHalves 1 (.val (f32Val a))]
      (i, v.1, v.2)
    else
      let k := (i + 1) / 2
      let (a, f1) := rnAdd (c (k - 1)) (c (k + 1))
      let (e, f2) := rnMulK 6 (c k)
      let v := chain (rnAdd a e) [fun a => rnHalves 3 (.val (f32Val a))]
      (i, v.1, v.2 ||| f1 ||| f2)

/-- GREF (R267); a refined cell of which a coefficient carries a mark is marked whole (R343, log row 95). -/
def Spline.gref (x : Spline) (k : Nat) : Spline × Flags :=
  match x.sets[k]? with
  | none => (x, 0)
  | some q =>
    let cells := (List.range 16).flatMap fun r =>
      if q.mask.getLsbD r then (List.range 16).flatMap fun c =>
          (refine q.g (x.coefAt r c)).map fun v => (coefKey r c v.1, v.2)
      else []
    ({ x with
        coef := cells.foldl (fun m v => sparseSet 0 m v.1 (BitVec.ofNat 32 v.2.1)) x.coef,
        sets := x.sets.set k { q with g := 2 * q.g, invh := doubled q.invh },
        bad := (x.bad.flatMap fun a => if q.mask.getLsbD (a / 512) then (List.range 32).map (a / 32 * 32 + ·)
          else [a]).eraseDups },
      flagsOf cells)

/-- CLD's coefficients (R263). -/
def Spline.loadCells (x : Spline) (b : Block) (h : Word) (ra n : Nat) : Spline :=
  match b.resv? h with
  | none => x
  | some r =>
    let coef := (List.range (16 * n)).foldl (fun m i =>
        (List.range 32).foldl (fun m k =>
          sparseSet 0 m (coefKey (ra + i / 16) (i % 16) k)
            (BitVec.ofNat 32 (readLE b.opbuf (r.base + handleOffset h + i * r.pitch + 4 * k) 4))) m)
      x.coef
    let keys := (List.range (16 * n)).flatMap fun i => (List.range 32).map fun k =>
      (coefKey (ra + i / 16) (i % 16) k, r.base + handleOffset h + i * r.pitch + 4 * k)
    { x with
      coef := coef
      bad := if x.bad.isEmpty && b.opbufBad.isEmpty then [] else
        (x.bad.filter fun k => !keys.any (·.1 == k))
          ++ (keys.filter fun k => b.opbufBad.contains k.2).map Prod.fst }

/-- CST's bytes (R263). -/
def Block.storeCells (b : Block) (x : Spline) (h : Word) (ra n : Nat) : Block :=
  match b.resv? h with
  | none => b
  | some r =>
    let bytes := (List.range (16 * n)).foldl (fun m i =>
        (List.range 32).foldl (fun m k =>
          writeLE m (r.base + handleOffset h + i * r.pitch + 4 * k) 4
            (x.coefAt (ra + i / 16) (i % 16) k)) m)
      b.opbuf
    let keys := (List.range (16 * n)).flatMap fun i => (List.range 32).map fun k =>
      (coefKey (ra + i / 16) (i % 16) k, r.base + handleOffset h + i * r.pitch + 4 * k)
    { b with
      opbuf := bytes
      opbufBad := if x.bad.isEmpty && b.opbufBad.isEmpty then [] else
        (b.opbufBad.filter fun a => !keys.any (·.2 == a))
          ++ (keys.filter fun k => x.bad.contains k.1).map Prod.snd }

/-- The places of the block that a spline word reads, and the tile elements that it writes (R263, R264,
R266). -/
def SplineOp.touches (op : SplineOp) (b : Block) : List (Place × Nat) × List Nat :=
  let inputs (hx : Word) (n : Nat) : List (Place × Nat) := match b.resv? hx with
    | some r => (List.range n).map fun s => (.opbuf (r.base + handleOffset hx + s * r.pitch), 64)
    | none => []
  let rows (h : Word) (n : Nat) (half : Bool) : List Nat :=
    (List.range (16 * n)).map fun i =>
      tileKey (b.tileNo h) (handleRow h + i / 16) (16 * half.toNat + i % 16)
  let elems (ks : List Nat) : List (Place × Nat) := ks.map fun k => (.tile k, 4)
  match op with
  | .load h _ n => (match b.resv? h with
      | some r => ((List.range (16 * n)).map fun i =>
          (.opbuf (r.base + handleOffset h + i * r.pitch), 128), [])
      | none => ([], []))
  | .spl hd hx n half acc =>
    let out := rows hd n half
    (inputs hx n ++ if acc then elems out else [], out)
  | .spld hd hx hg n half acc =>
    let out := rows hd n half
    (inputs hx n ++ elems (rows hg n half) ++ if acc then elems out else [], out)
  | .splg hd hx hg n half _ =>
    (inputs hx n ++ elems (rows hg n half), (List.range 8192).map fun i => 1024 * b.tileNo hd + i)
  | .kset _ _ _ _ _ _ | .kget _ _ _ _ | .store _ _ _ | .gref _ => ([], [])

/-- The word's values depend on the coefficients. -/
def SplineOp.evaluates : SplineOp → Bool
  | .spl _ _ _ _ _ | .spld _ _ _ _ _ _ => true
  | _ => false

/-- The rows of coefficients that CLD and CST name, by key. -/
def rowsKey (ra n key : Nat) : Bool := 512 * ra ≤ key && key < 512 * (ra + n)

/-- Coefficients that a spline word reads in the stores of the array, and those that it overwrites (R263). -/
def SplineOp.readsCoef (op : SplineOp) (key : Nat) : Bool :=
  match op with
  | .spl _ _ _ _ _ | .spld _ _ _ _ _ _ | .splg _ _ _ _ _ _ | .gref _ => true
  | .store _ ra n => rowsKey ra n key
  | .kset _ _ _ _ _ _ | .kget _ _ _ _ | .load _ _ _ => false

def SplineOp.writesCoef (op : SplineOp) (key : Nat) : Bool :=
  match op with
  | .load _ ra n => rowsKey ra n key
  | _ => false

/-- What a spline word does: the spline state, the block, flags, and KGET's value (R257 to R267). -/
def SplineOp.run (op : SplineOp) (x : Spline) (b : Block) : Spline × Block × Flags × Nat :=
  match op with
  | .kset k x0 invh g mode mask =>
    ({ x with sets := x.sets.set k { x0, invh, mode, g, mask, below := 0, above := 0 } }, b, 0, 0)
  | .kget k count clr _ =>
    let q := (x.sets[k]?).getD KnotSet.reset
    if count then
      (if clr then { x with sets := x.sets.set k { q with below := 0, above := 0 } } else x, b, 0,
        q.below.toNat + 2 ^ 32 * q.above.toNat)
    else (x, b, 0, q.x0.toNat + 2 ^ 32 * q.invh.toNat + 2 ^ 64 * (q.g + 256 * q.mode)
      + 2 ^ 96 * q.mask.toNat)
  | .load h ra n => (x.loadCells b h ra n, b, 0, 0)
  | .store h ra n => (x, b.storeCells x h ra n, 0, 0)
  | .spl hd hx n half acc =>
    let out := x.spl b hd hx n half acc
    ((List.range n).foldl (fun x s => x.countAll (x.locs b hx s)) x, b.putTiles out, flagsOf out, 0)
  | .spld hd hx hg n half acc =>
    let out := x.spld b hd hx hg n half acc
    (x, b.putTiles out, flagsOf out, 0)
  | .splg hd hx hg n half zero =>
    let (tiles, fl) := x.splg b hd hx hg n half zero
    let first := b.tileNo hd
    let out (k : Nat) : Bool := zero && 1024 * first ≤ k && k < 1024 * (first + 8)
    (x, { b with
      tiles := tiles
      tilesBad := b.tilesBad.filter fun k => !out k
      soft := b.soft.filter fun y => y.1 != 2 || !out y.2 }, fl, 0)
  | .gref k =>
    let (x, fl) := x.gref k
    (x, b, fl, 0)

/-- KGET's value reaches its result. -/
def State.giveResult (s : State) (r : WarpRef) (id v : Nat) : State :=
  s.updWarp r fun w => { w with
    results := w.results.map fun (x : Result) => if x.id == id then
      { x with ready := true, vals := sparseSet 0 [] 0 (BitVec.ofNat 128 v) } else x }

/-- The spline word at the head of a core's array queue; it breaks a pour (R268). -/
def State.splineStep (s : State) (core : Nat) : State :=
  let k := s.core core
  match k.queue, k.spline with
  | q :: _, some x =>
    match q.work, s.block? q.blk with
    | .spline op, some b =>
      if x.blk != q.blk then s
      else
        let (bad, s) := if b.opbufBad.isEmpty && b.tilesBad.isEmpty && b.soft.isEmpty then (false, s)
          else s.readPlaces b (s.ctxOf b) (op.touches b).1
        let (upset, s) := s.peekSram .queue core core (s.ctxOf b) true
        let (lost, s) := s.readSram .spline core core (s.ctxOf b) op.readsCoef
        let s := s.writeSram .spline core op.writesCoef
        let x : Spline := if lost.isEmpty then x else { x with bad := x.bad ++ lost }
        let bad := bad || upset || (op.evaluates && !x.bad.isEmpty)
        let (x, t, fl, v) := op.run x b
        let t := if bad then t.markTiles (op.touches b).2 else t
        let s := (s.updBlock q.blk fun y => { t with soft := t.soft.filter fun k => y.soft.contains k }).updCore
          core fun k => { k with spline := some x, latch := none }
        let s := s.arrayDone core q fl
        match op with
        | .kget _ _ _ id => s.giveResult { blk := q.blk, slot := q.slot } id v
        | _ => s
    | _, _ => s
  | _, _ => s

/-- SPLINE_EXECUTION (R268). -/
def execSplineExecution (core : Nat) (s : State) : Out := .next (s.splineStep core)

end Sys2Proof.Machine
end

