-- ==== Sys2Proof/Machine/Dispatch.lean ====
section
/-!
DEFINITION. The dispatcher: one arm for each constructor of `Instr`, each a direct call of that
instruction's meaning.
-/

namespace Sys2Proof.Machine

def exec (i : Instr) (s : State) : Host.Outcome State Fault Refusal :=
  match i with
  | .nop sw => Sys2Proof.Machine.execNop sw s
  | .bra sw u off => Sys2Proof.Machine.execBra sw u off s
  | .brc sw u inv pr off => Sys2Proof.Machine.execBrc sw u inv pr off s
  | .mark sw off => Sys2Proof.Machine.execMark sw off s
  | .join sw => Sys2Proof.Machine.execJoin sw s
  | .call sw u inv pr off => Sys2Proof.Machine.execCall sw u inv pr off s
  | .ret sw a => Sys2Proof.Machine.execRet sw a s
  | .loop sw d len => Sys2Proof.Machine.execLoop sw d len s
  | .exit sw idx => Sys2Proof.Machine.execExit sw idx s
  | .yield sw cls n off => Sys2Proof.Machine.execYield sw cls n off s
  | .waitc sw cls n => Sys2Proof.Machine.execWaitc sw cls n s
  | .setmode sw sel val => Sys2Proof.Machine.execSetmode sw sel val s
  | .fuse sw partner => Sys2Proof.Machine.execFuse sw partner s
  | .split sw => Sys2Proof.Machine.execSplit sw s
  | .bar sw scope => Sys2Proof.Machine.execBar sw scope s
  | .trap sw code => Sys2Proof.Machine.execTrap sw code s
  | .add sw d a b => Sys2Proof.Machine.execAdd sw d a b s
  | .sub sw d a b => Sys2Proof.Machine.execSub sw d a b s
  | .mul sw d a b => Sys2Proof.Machine.execMul sw d a b s
  | .mulh sw d a b => Sys2Proof.Machine.execMulh sw d a b s
  | .mad sw d a b => Sys2Proof.Machine.execMad sw d a b s
  | .min sw d a b => Sys2Proof.Machine.execMin sw d a b s
  | .max sw d a b => Sys2Proof.Machine.execMax sw d a b s
  | .abs sw d a => Sys2Proof.Machine.execAbs sw d a s
  | .neg sw d a => Sys2Proof.Machine.execNeg sw d a s
  | .and sw d a b => Sys2Proof.Machine.execAnd sw d a b s
  | .or sw d a b => Sys2Proof.Machine.execOr sw d a b s
  | .xor sw d a b => Sys2Proof.Machine.execXor sw d a b s
  | .not sw d a => Sys2Proof.Machine.execNot sw d a s
  | .shl sw d a b => Sys2Proof.Machine.execShl sw d a b s
  | .shr sw d a b => Sys2Proof.Machine.execShr sw d a b s
  | .sar sw d a b => Sys2Proof.Machine.execSar sw d a b s
  | .addc sw d a b => Sys2Proof.Machine.execAddc sw d a b s
  | .subb sw d a b => Sys2Proof.Machine.execSubb sw d a b s
  | .popc sw d a => Sys2Proof.Machine.execPopc sw d a s
  | .clz sw d a => Sys2Proof.Machine.execClz sw d a s
  | .brev sw d a => Sys2Proof.Machine.execBrev sw d a s
  | .bfx sw d a b => Sys2Proof.Machine.execBfx sw d a b s
  | .bfi sw d a b => Sys2Proof.Machine.execBfi sw d a b s
  | .sel sw d a b => Sys2Proof.Machine.execSel sw d a b s
  | .cmp sw cond pd a b => Sys2Proof.Machine.execCmp sw cond pd a b s
  | .mov sw d a => Sys2Proof.Machine.execMov sw d a s
  | .movi sw d imm => Sys2Proof.Machine.execMovi sw d imm s
  | .movh sw d imm => Sys2Proof.Machine.execMovh sw d imm s
  | .frint sw d a => Sys2Proof.Machine.execFrint sw d a s
  | .cvt sw d a dty => Sys2Proof.Machine.execCvt sw d a dty s
  | .pack sw d a b => Sys2Proof.Machine.execPack sw d a b s
  | .unpk sw d a b => Sys2Proof.Machine.execUnpk sw d a b s
  | .msb sw d a b => Sys2Proof.Machine.execMsb sw d a b s
  | .frcp sw d a => Sys2Proof.Machine.execFrcp sw d a s
  | .frsq sw d a => Sys2Proof.Machine.execFrsq sw d a s
  | .fsqrt sw d a => Sys2Proof.Machine.execFsqrt sw d a s
  | .fexp2 sw d a => Sys2Proof.Machine.execFexp2 sw d a s
  | .flog2 sw d a => Sys2Proof.Machine.execFlog2 sw d a s
  | .fsinpi sw d a => Sys2Proof.Machine.execFsinpi sw d a s
  | .fcospi sw d a => Sys2Proof.Machine.execFcospi sw d a s
  | .cmul sw d a b => Sys2Proof.Machine.execCmul sw d a b s
  | .cfma sw d a b => Sys2Proof.Machine.execCfma sw d a b s
  | .fclass sw d a => Sys2Proof.Machine.execFclass sw d a s
  | .rnd sw d => Sys2Proof.Machine.execRnd sw d s
  | .fscale sw d a b => Sys2Proof.Machine.execFscale sw d a b s
  | .dot4 sw d a b => Sys2Proof.Machine.execDot4 sw d a b s
  | .raise sw d a fn => Sys2Proof.Machine.execRaise sw d a fn s
  | .vote sw d a fn => Sys2Proof.Machine.execVote sw d a fn s
  | .shfi sw d a b => Sys2Proof.Machine.execShfi sw d a b s
  | .shfx sw d a b => Sys2Proof.Machine.execShfx sw d a b s
  | .shfu sw d a b => Sys2Proof.Machine.execShfu sw d a b s
  | .shfd sw d a b => Sys2Proof.Machine.execShfd sw d a b s
  | .plog sw fn pd ia pa ib pb => Sys2Proof.Machine.execPlog sw fn pd ia pa ib pb s
  | .ld sw d a off => Sys2Proof.Machine.execLd sw d a off s
  | .st sw d a off => Sys2Proof.Machine.execSt sw d a off s
  | .ldw sw d a off => Sys2Proof.Machine.execLdw sw d a off s
  | .stw sw d a off => Sys2Proof.Machine.execStw sw d a off s
  | .ldl sw d a off => Sys2Proof.Machine.execLdl sw d a off s
  | .stl sw d a off => Sys2Proof.Machine.execStl sw d a off s
  | .taglLookup sw d a region => Sys2Proof.Machine.execTaglLookup sw d a region s
  | .taglRead sw d a region => Sys2Proof.Machine.execTaglRead sw d a region s
  | .tagw sw d a region => Sys2Proof.Machine.execTagw sw d a region s
  | .aadd sw d a b => Sys2Proof.Machine.execAadd sw d a b s
  | .amin sw d a b => Sys2Proof.Machine.execAmin sw d a b s
  | .amax sw d a b => Sys2Proof.Machine.execAmax sw d a b s
  | .aand sw d a b => Sys2Proof.Machine.execAand sw d a b s
  | .aor sw d a b => Sys2Proof.Machine.execAor sw d a b s
  | .axor sw d a b => Sys2Proof.Machine.execAxor sw d a b s
  | .axch sw d a b => Sys2Proof.Machine.execAxch sw d a b s
  | .acas sw d a b => Sys2Proof.Machine.execAcas sw d a b s
  | .bind sw a b => Sys2Proof.Machine.execBind sw a b s
  | .unbind sw a => Sys2Proof.Machine.execUnbind sw a s
  | .acq sw d a => Sys2Proof.Machine.execAcq sw d a s
  | .rel sw a => Sys2Proof.Machine.execRel sw a s
  | .fence sw scope kind => Sys2Proof.Machine.execFence sw scope kind s
  | .dualst sw d a b => Sys2Proof.Machine.execDualst sw d a b s
  | .pref sw fn a off => Sys2Proof.Machine.execPref sw fn a off s
  | .lcpIn sw d a size => Sys2Proof.Machine.execLcpIn sw d a size s
  | .lcpOut sw d a size => Sys2Proof.Machine.execLcpOut sw d a size s
  | .tcpIn sw a => Sys2Proof.Machine.execTcpIn sw a s
  | .tcpOut sw a => Sys2Proof.Machine.execTcpOut sw a s
  | .tcpx sw a b => Sys2Proof.Machine.execTcpx sw a b s
  | .seal sw arrive ring stage => Sys2Proof.Machine.execSeal sw arrive ring stage s
  | .res sw d a b => Sys2Proof.Machine.execRes sw d a b s
  | .rls sw a => Sys2Proof.Machine.execRls sw a s
  | .stga sw ring stage => Sys2Proof.Machine.execStga sw ring stage s
  | .stgw sw d ring stage inv => Sys2Proof.Machine.execStgw sw d ring stage inv s
  | .mma sw d a b => Sys2Proof.Machine.execMma sw d a b s
  | .mmaz sw d a b => Sys2Proof.Machine.execMmaz sw d a b s
  | .mmad sw d a b => Sys2Proof.Machine.execMmad sw d a b s
  | .tmma sw d a b => Sys2Proof.Machine.execTmma sw d a b s
  | .acca sw d count => Sys2Proof.Machine.execAcca sw d count s
  | .accf sw a => Sys2Proof.Machine.execAccf sw a s
  | .accr sw d a b => Sys2Proof.Machine.execAccr sw d a b s
  | .accw sw d a b => Sys2Proof.Machine.execAccw sw d a b s
  | .kset sw a set => Sys2Proof.Machine.execKset sw a set s
  | .kgetRecord sw d set => Sys2Proof.Machine.execKgetRecord sw d set s
  | .kgetCount sw d clr set => Sys2Proof.Machine.execKgetCount sw d clr set s
  | .cld sw a nm1 ra => Sys2Proof.Machine.execCld sw a nm1 ra s
  | .cst sw a nm1 ra => Sys2Proof.Machine.execCst sw a nm1 ra s
  | .spl sw d a half acc nm1 => Sys2Proof.Machine.execSpl sw d a half acc nm1 s
  | .spld sw d a half acc nm1 => Sys2Proof.Machine.execSpld sw d a half acc nm1 s
  | .splg sw d a half zero nm1 => Sys2Proof.Machine.execSplg sw d a half zero nm1 s
  | .gref sw set => Sys2Proof.Machine.execGref sw set s
  | .send sw a half chan => Sys2Proof.Machine.execSend sw a half chan s
  | .recv sw d half chan => Sys2Proof.Machine.execRecv sw d half chan s
  | .nred sw d a tree fn => Sys2Proof.Machine.execNred sw d a tree fn s
  | .snapStart sw d incr dev => Sys2Proof.Machine.execSnapStart sw d incr dev s
  | .snapQuery sw d => Sys2Proof.Machine.execSnapQuery sw d s
  | .snapRelease sw d => Sys2Proof.Machine.execSnapRelease sw d s
  | .launch sw a => Sys2Proof.Machine.execLaunch sw a s
  | .idem sw => Sys2Proof.Machine.execIdem sw s
  | .chkpt sw => Sys2Proof.Machine.execChkpt sw s
  | .pdis sw => Sys2Proof.Machine.execPdis sw s
  | .pen sw => Sys2Proof.Machine.execPen sw s
  | .bkpt sw code => Sys2Proof.Machine.execBkpt sw code s
  | .tlbi sw d a => Sys2Proof.Machine.execTlbi sw d a s
  | .fhget sw d wait => Sys2Proof.Machine.execFhget sw d wait s
  | .fhdone sw d a => Sys2Proof.Machine.execFhdone sw d a s
  | .swr sw d a => Sys2Proof.Machine.execSwr sw d a s
  | .rtt sw a => Sys2Proof.Machine.execRtt sw a s
  | .illegalWord w => Sys2Proof.Machine.execIllegalWord w s
  | .issueWindow core pipe => Sys2Proof.Machine.execIssueWindow core pipe s
  | .promotion r => Sys2Proof.Machine.execPromotion r s
  | .variableLatencyResult r id => Sys2Proof.Machine.execVariableLatencyResult r id s
  | .instructionFetch r => Sys2Proof.Machine.execInstructionFetch r s
  | .runAheadRollback core => Sys2Proof.Machine.execRunAheadRollback core s
  | .sheafPost core => Sys2Proof.Machine.execSheafPost core s
  | .tableWalk core ctx va acc => Sys2Proof.Machine.execTableWalk core ctx va acc s
  | .tlbiPerformed id => Sys2Proof.Machine.execTlbiPerformed id s
  | .dispatchQueueEntry vf q => Sys2Proof.Machine.execDispatchQueueEntry vf q s
  | .dependenceReread launch => Sys2Proof.Machine.execDependenceReread launch s
  | .blockStart launch unit => Sys2Proof.Machine.execBlockStart launch unit s
  | .gridCompletion grid => Sys2Proof.Machine.execGridCompletion grid s
  | .sliceAccess id => Sys2Proof.Machine.execSliceAccess id s
  | .relIncrement id => Sys2Proof.Machine.execRelIncrement id s
  | .remoteAccess q => Sys2Proof.Machine.execRemoteAccess q s
  | .remoteAck id status data => Sys2Proof.Machine.execRemoteAck id status data s
  | .fabricForward dev payload => Sys2Proof.Machine.execFabricForward dev payload s
  | .copyChunk cmd count => Sys2Proof.Machine.execCopyChunk cmd count s
  | .batchComplete r id => Sys2Proof.Machine.execBatchComplete r id s
  | .matrixOctetOperation core => Sys2Proof.Machine.execMatrixOctetOperation core s
  | .splineExecution core => Sys2Proof.Machine.execSplineExecution core s
  | .roundComplete q => Sys2Proof.Machine.execRoundComplete q s
  | .barrierComplete q => Sys2Proof.Machine.execBarrierComplete q s
  | .registerCopyUpdate grid unit core => Sys2Proof.Machine.execRegisterCopyUpdate grid unit core s
  | .messageLanding id => Sys2Proof.Machine.execMessageLanding id s
  | .creditReturn id => Sys2Proof.Machine.execCreditReturn id s
  | .treeInput id => Sys2Proof.Machine.execTreeInput id s
  | .treeTimeout grid tree round pos => Sys2Proof.Machine.execTreeTimeout grid tree round pos s
  | .treeResult r => Sys2Proof.Machine.execTreeResult r s
  | .stopRecord ctx => Sys2Proof.Machine.execStopRecord ctx s
  | .stopQueueConsumed ctx v => Sys2Proof.Machine.execStopQueueConsumed ctx v s
  | .watchdogExpiry ctx => Sys2Proof.Machine.execWatchdogExpiry ctx s
  | .preemptOverrun r => Sys2Proof.Machine.execPreemptOverrun r s
  | .timeSliceExpiry core ctx => Sys2Proof.Machine.execTimeSliceExpiry core ctx s
  | .preemption core spill => Sys2Proof.Machine.execPreemption core spill s
  | .warpRestore r => Sys2Proof.Machine.execWarpRestore r s
  | .debugHalt ctx => Sys2Proof.Machine.execDebugHalt ctx s
  | .killWriteTimeout ctx => Sys2Proof.Machine.execKillWriteTimeout ctx s
  | .windowMatch r engine => Sys2Proof.Machine.execWindowMatch r engine s
  | .pairPerformed r => Sys2Proof.Machine.execPairPerformed r s
  | .generationGrant id => Sys2Proof.Machine.execGenerationGrant id s
  | .cutComplete id => Sys2Proof.Machine.execCutComplete id s
  | .granaryClaim id => Sys2Proof.Machine.execGranaryClaim id s
  | .wainStart vf => Sys2Proof.Machine.execWainStart vf s
  | .wainDrainGranule vf => Sys2Proof.Machine.execWainDrainGranule vf s
  | .generationRestore vf => Sys2Proof.Machine.execGenerationRestore vf s
  | .partitionControlWrite vf off v => Sys2Proof.Machine.execPartitionControlWrite vf off v s
  | .errorLogRecord => Sys2Proof.Machine.execErrorLogRecord s
  | .errorLogConfigWrite off v => Sys2Proof.Machine.execErrorLogConfigWrite off v s
  | .errorLogHeadWrite v => Sys2Proof.Machine.execErrorLogHeadWrite v s
  | .linkRetry domain loc => Sys2Proof.Machine.execLinkRetry domain loc s
  | .linkRetrain domain loc ok => Sys2Proof.Machine.execLinkRetrain domain loc ok s
  | .gleanerRead chan => Sys2Proof.Machine.execGleanerRead chan s
  | .scrubWriteback id => Sys2Proof.Machine.execScrubWriteback id s
  | .spareBank chan => Sys2Proof.Machine.execSpareBank chan s
  | .infieldTest cluster => Sys2Proof.Machine.execInfieldTest cluster s
  | .testResult die pass => Sys2Proof.Machine.execTestResult die pass s
  | .hostMemoryAccess vf off size write v => Sys2Proof.Machine.execHostMemoryAccess vf off size write v s
  | .functionRecordWrite vf off v => Sys2Proof.Machine.execFunctionRecordWrite vf off v s
  | .functionReset vf => Sys2Proof.Machine.execFunctionReset vf s
  | .functionLevelReset vf => Sys2Proof.Machine.execFunctionLevelReset vf s
  | .contextCreate vf n v => Sys2Proof.Machine.execContextCreate vf n v s
  | .contextDestroy vf n v => Sys2Proof.Machine.execContextDestroy vf n v s
  | .queueConfigWrite vf q v => Sys2Proof.Machine.execQueueConfigWrite vf q v s
  | .queueDoorbell vf q v => Sys2Proof.Machine.execQueueDoorbell vf q v s
  | .attestationRequest requester nonce => Sys2Proof.Machine.execAttestationRequest requester nonce s
  | .debugStateWrite tenant => Sys2Proof.Machine.execDebugStateWrite tenant s
  | .debugUnlock token => Sys2Proof.Machine.execDebugUnlock token s
  | .powerControlWrite v => Sys2Proof.Machine.execPowerControlWrite v s
  | .idleEntry unit => Sys2Proof.Machine.execIdleEntry unit s
  | .idleExit unit => Sys2Proof.Machine.execIdleExit unit s
  | .throttle die => Sys2Proof.Machine.execThrottle die s
  | .throttleRelease die => Sys2Proof.Machine.execThrottleRelease die s
  | .thermalStop temp => Sys2Proof.Machine.execThermalStop temp s
  | .partReset powerOn => Sys2Proof.Machine.execPartReset powerOn s
  | .bootStep result => Sys2Proof.Machine.execBootStep result s
  | .bootStepTimeout => Sys2Proof.Machine.execBootStepTimeout s
  | .sidebandRead what => Sys2Proof.Machine.execSidebandRead what s
  | .sidebandWriteCap v => Sys2Proof.Machine.execSidebandWriteCap v s
  | .sidebandWriteTolerance v => Sys2Proof.Machine.execSidebandWriteTolerance v s
  | .sidebandReset => Sys2Proof.Machine.execSidebandReset s
  | .sidebandClearThermalStop => Sys2Proof.Machine.execSidebandClearThermalStop s
  | .sidebandWake => Sys2Proof.Machine.execSidebandWake s
  | .registerWrite win off v => Sys2Proof.Machine.execRegisterWrite win off v s
  | .frozenImageReleaseRequest vf => Sys2Proof.Machine.execFrozenImageReleaseRequest vf s

end Sys2Proof.Machine
end

