-- ==== Sys2Proof/Machine/Schedule.lean ====
section
/-!
DEFINITION. What happens next: the word a warp stands at (R29, R305), and the first event that is
enabled where nothing is due (log row 4).
-/

namespace Sys2Proof.Machine

/-- The word that the named warp issues. -/
def State.wordAt (s : State) (r : WarpRef) : Option Word :=
  match s.warp? r with
  | none => none
  | some (b, w) => w.fetched (s.imageOf b)

/-- The instruction that a word is (R51): one that decodes to none is the event ILLEGAL_WORD. -/
def issued (w : Word) : Instr :=
  match decode w with
  | .ok i => i
  | .error _ => .illegalWord w

/-! ## What may happen next (log row 4)

The part's units run at the same time, and the spec fixes no order among what they may do. The lists
below name the events that each unit may be ready for; the first of them that changes the state
happens, and where none does, the next issue window. What comes from outside the part (host, fabric,
sideband, board) is no part of it. -/

/-- Logical clusters whose site firmware tests at the next opportunity: those that a region or a
pre-emption deferred, and those of suspect cores (R317, R349, R358). -/
def State.testsWanted (s : State) : List Nat :=
  s.dev.testWanted ++ ((s.cores.filter (·.suspect)).map fun k => clusterOf k.id).filter fun c =>
    !s.dev.testWanted.contains c && !s.dev.testing.any fun x => x.2.1 == c

/-- Bring-up goes on by itself, each step succeeding; a function reset and an unlock whose kills have
ended go on; tests that are wanted start. -/
def State.deviceEvents (s : State) : List Instr :=
  (if s.dev.booting then [.bootStepTimeout, .bootStep .ok] else [])
    ++ ((s.vfs.filter fun v => v.ctl.getLsbD 18).map fun v => .functionReset v.id)
    ++ (if s.dev.unlocking then [.debugUnlock 0] else [])
    ++ (s.testsWanted.map fun c => .infieldTest c)
    ++ (if s.dev.logWait.isEmpty then [] else [.errorLogRecord])
    ++ s.scrubs.map fun c => .scrubWriteback c.id

/-- Run-ahead that has stopped, sheaves, and fetches. -/
def State.fetchEvents (s : State) : List Instr :=
  ((s.cores.filter fun k => k.ahead.isSome).map fun k => .runAheadRollback k.id)
    ++ (if s.ctxs.any fun c => !c.sheaves.isEmpty then s.cores.map fun k => .sheafPost k.id else [])
    ++ ((s.warps.filter fun x => x.2.2.wantsFetch (s.imageOf x.2.1)).map fun x => .instructionFetch x.1)

/-- Accesses on their way; those to other devices wait for the device. -/
def State.accessEvents (s : State) : List Instr :=
  (s.accs.filter (·.after.isEmpty)).filterMap fun a =>
    if !a.remote then some (if a.kind == .relInc then .relIncrement a.id else .sliceAccess a.id)
    else if a.target == s.dev.self || s.dev.route a.target == 0xFF then some (.remoteAck a.id .accepted 0)
    else none

/-- A result that is written now: one of the scratchpad or the pipes at its time, any of a warp that
waits, and one of the memory 64 cycles later where its warp issues on. -/
def Result.dueNow (x : Result) (w : Warp) (now : Nat) : Bool :=
  x.store == 1 || x.late || w.run != .ready || x.due + 64 ≤ now

/-- Results and engine operations of the warps, and what waits for a time; 0 is the number of no result, and
names the record of an evicted warp that has changed (R314). -/
def State.warpEvents (s : State) : List Instr :=
  s.warps.flatMap fun x =>
    ((x.2.2.results.filter fun y => y.dueNow x.2.2 s.now).map fun y => .variableLatencyResult x.1 y.id)
      ++ ((x.2.2.eng.filter fun y => !y.done).map fun y => .batchComplete x.1 y.id)
      ++ (if x.2.2.stale then [.variableLatencyResult x.1 0] else [])
      ++ (if s.grids.any fun g => g.nreds.any fun n =>
            n.blk == x.1.blk && n.slot == x.1.slot && !n.done then
          [.treeResult x.1] else [])
      ++ (if x.2.2.store.closed.isEmpty then [] else [.windowMatch x.1 false])
      ++ (if x.2.2.engine.closed.isEmpty then [] else [.windowMatch x.1 true])
      ++ (if x.2.2.pairReq.isSome then [.pairPerformed x.1] else [])
      ++ (if x.2.2.pdis.isSome then [.preemptOverrun x.1] else [])
      ++ (if !x.2.2.promoted && x.2.2.since + promotionCycles ≤ s.now then [.promotion x.1] else [])

/-- Engine chunks, and the first word of each array queue. -/
def State.engineEvents (s : State) : List Instr :=
  (s.cmds.map fun c => .copyChunk c.id 64)
    ++ s.cores.filterMap fun k => match k.queue.head? with
      | some q => match q.work with
        | .matrix _ _ _ => some (.matrixOctetOperation k.id)
        | .spline _ => some (.splineExecution k.id)
      | none => none

/-- Units of a grid: its launch clusters, by number. -/
def Grid.units (g : Grid) : List Nat := List.range (g.packet.units g.map.length)

/-- A warp waits at a barrier. -/
def Block.atBarrier (b : Block) : Bool := b.warps.any fun w => match w.run with
  | .barrier _ false => true
  | _ => false

/-- Rounds, barriers, register copies and trees of a grid; `waits` says whether a warp of it waits at a
barrier. -/
def Grid.events (g : Grid) (waits : Bool) : List Instr :=
  let copies := if g.packet.redundant then [false, true] else [false]
  let cores := (g.map.flatMap g.packet.coresOf).eraseDups
  (copies.flatMap fun t =>
      ((if t then g.gTrail else g.g).rounds.map fun x => .roundComplete (.grid g.id t x.reg))
        ++ (if waits then [.barrierComplete (.grid g.id t)] else [])
        ++ g.units.flatMap fun u =>
          ((sparseGet RegSet.reset g.k (2 * u + t.toNat)).rounds.map fun x => .roundComplete (.cluster g.id u t x.reg))
            ++ if waits then [.barrierComplete (.cluster g.id u t)] else [])
    ++ (if g.g.log.isEmpty && g.gTrail.log.isEmpty then []
        else cores.map fun c => .registerCopyUpdate g.id none c)
    ++ (if g.k.isEmpty then []
        else g.units.flatMap fun u => cores.map fun c => .registerCopyUpdate g.id (some u) c)
    ++ (g.trees.map fun x => .treeTimeout g.id x.tree x.round x.pos)
    ++ [.gridCompletion g.id]

/-- Rounds and barriers of the blocks, and the network. -/
def State.networkEvents (s : State) : List Instr :=
  (s.blocks.flatMap fun b =>
      (b.rounds.map fun x => .roundComplete (.block b.id x.reg))
        ++ if b.atBarrier then [.barrierComplete (.block b.id)] else [])
    ++ (s.grids.flatMap fun g => g.events (s.blocks.any fun b => b.grid == g.id && b.atBarrier))
    ++ (s.messages.map fun m => .messageLanding m.id)
    ++ (s.credits.map fun m => .creditReturn m.id)
    ++ (s.treePkts.map fun m => .treeInput m.id)

/-- Generations, and translations that a TLBI drops. -/
def State.generationEvents (s : State) : List Instr :=
  (s.snaps.map fun q => if s.cutReady q then .cutComplete q.id else .generationGrant q.id)
    ++ s.tlbis.map fun q => .tlbiPerformed q.id

/-- The wains. -/
def State.wainEvents (s : State) : List Instr :=
  (s.vfs.filter fun v => v.part.frozen.isSome).flatMap fun v => [.wainStart v.id, .wainDrainGranule v.id]

/-- Contexts: stop records, kills and the watchdog. -/
def State.contextEvents (s : State) : List Instr :=
  s.ctxs.flatMap fun c =>
    (if c.stops.isEmpty then [] else [.stopRecord c.id])
      ++ (if c.killing && !c.dead then [.killWriteTimeout c.id] else [])
      ++ if c.watchdog == 0 || c.dead then [] else [.watchdogExpiry c.id]

/-- The dispatcher. -/
def State.dispatchEvents (s : State) : List Instr :=
  ((s.vfs.filter fun v => v.ctl.getLsbD 16 || !v.posted.isEmpty).flatMap fun v =>
      ((v.queues.map Prod.fst) ++ [15]).map fun q => .dispatchQueueEntry v.id q)
    ++ s.launches.flatMap fun l =>
      .dependenceReread l.id :: l.waiting.map fun u => .blockStart l.id u

/-- Evicted warps of a core in the order in which they come back: a waiting handler first, then by rank, then
by the rotation (R301, R314, R370). -/
def State.restorable (s : State) (core : Nat) : List WarpRef :=
  let out := s.outOn core
  let first := out.filter fun x => s.handlerWaits core && s.privileged (s.ctxOf x.2.1)
  let turn (x : WarpRef × Block × Warp) : Nat := s.turnOf core (s.ctxOf x.2.1)
  (first ++ sortBy (fun x y => s.rank y.2.1 < s.rank x.2.1
    || (s.rank y.2.1 == s.rank x.2.1 && turn x < turn y)) out).map Prod.fst

/-- Time slices, restores and pre-emptions of the cores that hold a block. -/
def State.sliceEvents (s : State) : List Instr :=
  s.busyCores.flatMap fun k =>
    let ctxs := ((s.blocks.filter (·.core == k)).map s.ctxOf).eraseDups
    if (s.waiters k).isEmpty then (if (s.core k).wanted then [.preemption k false] else [])
    else (ctxs.map fun c => .timeSliceExpiry k c) ++ ((s.restorable k).map fun r => .warpRestore r)
      ++ [.preemption k true, .preemption k false]

/-- What the units do as soon as they may. -/
def State.promptEvents (s : State) : List Instr :=
  s.deviceEvents ++ s.accessEvents ++ s.warpEvents ++ s.networkEvents ++ s.generationEvents
    ++ s.contextEvents ++ s.fetchEvents ++ s.dispatchEvents ++ s.sliceEvents

/-- What the engines, the arrays and the wains do behind the warps. -/
def State.engineTurn (s : State) : List Instr := s.engineEvents ++ s.wainEvents

/-- An event that changes the state, or stops. -/
def State.changes (s : State) (i : Instr) : Bool :=
  match exec i s with
  | .next t => t != s
  | _ => true

/-- Some warp is ready to issue. -/
def State.anyReady (s : State) : Bool := s.warps.any s.standsReady

/-- A warp that waits at its word, whose word would go on if it were tried now. -/
def State.wouldGo (s : State) (x : WarpRef × Block × Warp) : Bool :=
  x.2.2.run != .ready && x.2.2.mayIssue && match x.2.2.fetched (s.imageOf x.2.1) with
    | none => false
    | some w => State.changes { s.updWarp x.1 fun w => { w with awake := false } with cur := x.1 } (issued w)

/-- Before a window, the warps of its pipe whose wait has ended (R88): a word that still waits takes no
window. -/
def State.stir (s : State) (i : Instr) : State :=
  match i with
  | .issueWindow core pipe =>
    { s with stirred := ((s.pipeWarps core pipe).filter s.wouldGo).map Prod.fst }
  | _ => s

/-- The engines' turn: no warp is ready, or a round of windows begins and 64 cycles have gone by. -/
def State.engineDue (s : State) : Bool :=
  !s.anyReady || (s.now % 64 == 0 && 4 * s.cursor.1 + s.cursor.2 ≤ s.busyPipes.headD 0)

/-- The event that happens where none is due. The pipes of a core have their windows at the same time (R88):
nothing comes between them. -/
def State.nextEvent (s : State) : Instr :=
  let window : Instr := .issueWindow s.cursor.1 s.cursor.2
  if !s.packed.isEmpty then window
  else match s.promptEvents.find? s.changes with
  | some i => i
  | none => ((if s.engineDue then s.engineTurn.find? s.changes else none).getD window)

/-! ## A program to run (log row 12) -/

/-- The role that may issue an instruction (R76). -/
def someRole (i : Instr) : Role :=
  match i with
  | .mma _ _ _ _ | .mmaz _ _ _ _ | .mmad _ _ _ _ | .tmma _ _ _ _ | .kset _ _ _
  | .kgetRecord _ _ _ | .kgetCount _ _ _ _ | .cld _ _ _ _ | .cst _ _ _ _ | .spl _ _ _ _ _ _
  | .spld _ _ _ _ _ _ | .splg _ _ _ _ _ _ | .gref _ _ => .matrix
  | .lcpIn _ _ _ _ | .lcpOut _ _ _ _ | .tcpIn _ _ | .tcpOut _ _ | .tcpx _ _ _ | .seal _ _ _ _ =>
    .copy
  | _ => .vector

/-- A descriptor of one warp and nothing else (R79). -/
def soloDesc : Desc :=
  { layouts := [{ entry := 64, groups := [] }], spare := 0, uniform := false, scratch := 0, opbuf := 0,
    tiles := 0, regions := [], rings := [], chans := [], trees := [], size := 128 }

/-- A launch packet of one block whose image lies at 4096. -/
def soloPacket : Packet :=
  { image := 4096, nx := 1, ny := 1, nz := 1, priority := 0, cluster := 1, twin := false,
    redundant := false, coResident := false, feedsEgress := false, done := 0, increment := 1, tag := 0,
    deps := [], map := 0 }

/-- The state with one 8-wide warp, alone in its grid, about to issue the word `w`: the part booted,
the word in memory and in the warp's fetch block. -/
def State.launchSolo (s : State) (w : Word) : State :=
  let id := s.nextId
  let i := issued w
  let warp := { Warp.start 0 (someRole i) 8 64 64 [0] s.now with
    fetch := some (4160, [w, 0, 0, 0, 0, 0, 0, 0, 0, 0, 0, 0, 0, 0, 0, 0]) }
  let block := { Block.start id id 0 0 false with slots := 1, warps := [warp] }
  { s with
    nextId := id + 1,
    mem := writeLE s.mem 4160 4 w.toNat,
    dev := { s.dev with boot := 7, bootFailed := false, powerOn := false },
    ctxs := Context.start id true :: s.ctxs.filter (·.id != id),
    grids := Grid.start id id 0 soloPacket soloDesc [(0, 0)] 0 :: s.grids.filter (·.id != id),
    blocks := block :: s.blocks.filter (·.id != id),
    issue := [{ blk := id, slot := 0 }],
    agenda := [] }

end Sys2Proof.Machine
end

