-- ==== Sys2Proof/Machine/Step.lean ====
section
/-!
DEFINITION. One step of the part: an event that is due, else the next word of the window in
progress, else the next event.
-/

namespace Sys2Proof.Machine

/-- One step. -/
def step (s : State) : Host.Outcome State Fault Refusal :=
  match s.agenda, s.issue with
  | i :: rest, _ => exec i { s with agenda := rest }
  | [], r :: rest =>
    match s.wordAt r with
    | some w => exec (issued w) { s with issue := rest, cur := r }
    | none => .next { s with issue := rest }
  | [], [] => exec s.nextEvent (s.stir s.nextEvent)

/-- The state in which the next step fetches and runs the word `w` (log row 12). Every instruction
of the table is one 32-bit word, so bits above `nbits` are those of `w` itself: 0. -/
def State.withFetchWord (s : State) (nbits w : Nat) : State :=
  s.launchSolo (BitVec.ofNat 32 (w % 2 ^ nbits))

end Sys2Proof.Machine
end

