-- ==== Sys2Proof/Safety.lean ====
section
/-!
DEFINITION. The terms in which the claims speak: the invariant that every step keeps, a warp whose
word no check of R52 stops, and what a completed word leaves.
-/

namespace Sys2Proof.Machine

/-- Every memory of the part is in its canonical form. -/
def State.memOk (s : State) : Prop :=
  Memory.wf s.mem = true ∧ Memory.wf s.host = true ∧ Memory.wf s.low = true

/-- The issuing warp stands at a word with the entry `mk`, as `c` describes them: the warp and its
grid exist, it may issue, its core does not run it ahead, no comparator matches, and the issuing
context is that of R36. -/
structure State.Stands (s : State) (mk : Word → Entry) (c : Ctx) : Prop where
  warp : s.warp? s.cur = some (c.b, c.w)
  grid : s.grid? c.b.grid = some c.g
  may : c.w.mayIssue = true
  notAhead : s.aheadOf c.b.core s.cur = none
  noMatch : (c.w.run == .ready && c.w.flt.skipComp != some c.w.ctl.pc) = true →
    s.comparators c.g.ctx (c.g.packet.image + BitVec.ofNat 64 c.w.ctl.pc) = 0
  ctx : c = mkCtx s s.cur c.b c.w c.g (mk c.w.ctl.mode)

/-- Items 3 to 9 of R52 find nothing, and no upset of twin execution is due at the word (R349). -/
structure State.Issues (s : State) (mk : Word → Entry) (c : Ctx) : Prop extends
    State.Stands s mk c where
  legal : (mk c.w.ctl.mode).staticFault c.w c.g (s.privileged c.g.ctx) = none
  operands : step9 c.w (c.w.marksOf c.b c.g) (mk c.w.ctl.mode) (c.markLanes (mk c.w.ctl.mode)) = .go
  noUpset : c.g.packet.twin = false ∨ s.upsetOf s.cur = 0

/-- The state `t` in which a word's effect is made, once the word has completed without a transfer
(R99, R102). -/
def Ctx.completes (c : Ctx) (mk : Word → Entry) (t : State) : State :=
  t.complete c.r c.g (mk c.mode) c.w.ctl.pc none

/-- The same with a transfer to `pc`; `taken` as in R102. -/
def Ctx.goesTo (c : Ctx) (mk : Word → Entry) (t : State) (pc : Nat) (taken : Bool) : State :=
  t.complete c.r c.g (mk c.mode) c.w.ctl.pc (some (pc, taken))

/-- What an operand reads in a lane of a warp (R39, R114). -/
def State.operand (s : State) (r : WarpRef) (lane : Nat) (o : Operand) : Word :=
  match s.warp? r with
  | none => 0
  | some (b, w) => match s.grid? b.grid with
    | none => 0
    | some g => readOperand s b g w lane o

/-- What an operand holds once every write that its set's home has ordered is applied: for a cluster or
grid register the value at the home, for every other operand what it reads (R112). -/
def State.homeValue (s : State) (r : WarpRef) (lane : Nat) (o : Operand) : Word :=
  match s.warp? r with
  | none => 0
  | some (b, w) => match s.grid? b.grid with
    | none => 0
    | some g => match o with
      | .k i => (g.kSet b).at (g.kSet b).log.length i.toNat
      | .g i => (g.gSet b).at (g.gSet b).log.length i.toNat
      | o => readOperand s b g w lane o

/-- A cluster or grid register, of which each core holds a copy (R112). -/
def copied (o : Operand) : Bool :=
  match o with
  | .k _ | .g _ => true
  | _ => false

/-- Two register bytes name one register of a warp in two lanes (R110). -/
def sameReg (a b : Operand) (l m : Nat) : Bool :=
  match a with
  | .v _ => a == b && l == m
  | .o _ => a == b && l / 8 == m / 8
  | _ => a == b

/-- `n` consecutive registers of a lane as one number, the first in its low bits (R56). -/
def State.operandN (s : State) (r : WarpRef) (lane : Nat) (o : Operand) : Nat → Nat
  | 0 => 0
  | n + 1 => (s.operand r lane o).toNat + 2 ^ 32 * s.operandN r lane (o.nth 1) n

/-- The lane whose values a lane's result comes from: the lane itself, or the lowest lane of ACTIVE for a
uniform word (R36). -/
def Ctx.giver (c : Ctx) (l : Nat) : Nat := if c.uni then c.lane0 else l

/-- Nothing outside the issuing warp `r` differs between two states: no memory, no other warp, no other
store of a block, no register of another unit. -/
structure State.OnlyWarp (s t : State) (r : WarpRef) : Prop where
  mem : ∀ a, memGet t.mem a = memGet s.mem a
  host : ∀ a, memGet t.host a = memGet s.host a
  low : ∀ a, memGet t.low a = memGet s.low a
  block : ∀ id b, s.block? id = some b → ∃ b', t.block? id = some b' ∧ b'.scratch = b.scratch
    ∧ b'.tags = b.tags ∧ b'.opbuf = b.opbuf ∧ b'.resvs = b.resvs ∧ b'.tiles = b.tiles
    ∧ b'.allocs = b.allocs ∧ b'.rings = b.rings ∧ b'.chans = b.chans ∧ b'.bindings = b.bindings
    ∧ b'.core = b.core ∧ b'.index = b.index ∧ b'.grid = b.grid
    ∧ ∀ k, ¬ (id = r.blk ∧ k = r.slot) → b'.warp? k = b.warp? k
  dev : t.dev = s.dev
  vfs : t.vfs = s.vfs
  cores : t.cores = s.cores
  clusters : t.clusters = s.clusters
  launches : t.launches = s.launches
  traffic : t.accs = s.accs ∧ t.cmds = s.cmds ∧ t.messages = s.messages ∧ t.credits = s.credits
    ∧ t.treePkts = s.treePkts ∧ t.snaps = s.snaps ∧ t.tlbis = s.tlbis
  now : t.now = s.now

end Sys2Proof.Machine
end

