-- ==== Sys2Proof/Certificates/Slice0/Obligations.lean ====
section
/-!
DEFINITION. The claims about the part, and the tables that they range over. A claim about a word
speaks of a state that meets `State.Issues`: the warp stands at the word and no check of R52 stops it.
-/

namespace Sys2Proof.Claims

open Sys2Proof.Machine

/-! ## Lane arithmetic -/

/-- A lane-arithmetic word: its entry, its destination, the registers of the destination in a lane
under a MODE, and what a lane computes, with the flags that it raises. -/
structure LaneForm where
  entry : Word → Entry
  dest : Operand
  regs : Word → Nat
  value : Ctx → Nat → Nat × Flags

/-- Registers that follow the width of MODE.ty (R131). -/
def tyWide (m : Word) : Nat := tyRegs (tyOf m)

/-- A word over elements of A and B under ty, rd and sat (R132). -/
def LaneForm.binary (sw : Bool) (tys : List Nat) (rounds : Word → Bool) (d a b : Operand)
    (f : Nat → Bool → Rd → Nat → Nat → Nat × Flags) : LaneForm :=
  { entry := fun m => entry3 sw m tys (rounds m) d a b, dest := d, regs := tyWide
    value := fun c l => each2 (tyOf c.mode) (fun i x y => f (tyOf c.mode) c.sat (c.rdTy l i) x y)
      (c.val l a (tyWide c.mode)) (c.val l b (tyWide c.mode)) }

/-- A word over elements of A (R132). -/
def LaneForm.unary (sw : Bool) (tys : List Nat) (rounds : Bool) (d a : Operand)
    (f : Nat → Bool → Rd → Nat → Nat × Flags) : LaneForm :=
  { entry := fun m => entry2 sw m tys rounds d a, dest := d, regs := tyWide
    value := fun c l => each1 (tyOf c.mode) (fun i x => f (tyOf c.mode) c.sat (c.rdTy l i) x)
      (c.val l a (tyWide c.mode)) }

/-- A word over the bits of A and B (R141). -/
def LaneForm.bits (entry : Word → Entry) (d a b : Operand) (f : Nat → Nat → Nat → Nat) : LaneForm :=
  { entry, dest := d, regs := tyWide
    value := fun c l => (f (32 * tyWide c.mode) (c.val l a (tyWide c.mode)) (c.val l b (tyWide c.mode)), 0) }

/-- A shift of elements of A by B (R142): `f` gets the width, the element and the count. -/
def LaneForm.shift (sw : Bool) (d a b : Operand) (f : Nat → Nat → Nat → Nat) : LaneForm :=
  { entry := fun m => shiftEntry sw m tyInt d a b, dest := d, regs := tyWide
    value := fun c l => each1 (tyOf c.mode) (fun i x => (f (tyWidth (tyOf c.mode)) x
      (if tyWidth (tyOf c.mode) == 16 then elem (c.opd l b).toNat i 16 else (c.opd l b).toNat), 0))
      (c.val l a (tyWide c.mode)) }

/-- MODE.ty of a rounding word is a floating type. -/
def floatRounds (m : Word) : Bool := tyFloat (tyOf m)

/-- The words of R136 to R157 and R161 whose result is written at their completion, but for ADDC and
SUBB, which write p7 too, and CMP and UNPK. -/
def laneForm : Instr → Option LaneForm
  | .add sw d a b => some (.binary sw tyNum floatRounds d a b addOp)
  | .sub sw d a b => some (.binary sw tyNum floatRounds d a b subOp)
  | .mul sw d a b => some (.binary sw tyNum floatRounds d a b mulOp)
  | .min sw d a b => some (.binary sw tyNum (fun _ => false) d a b fun ty _ _ x y =>
      (minMaxOp false ty x y, 0))
  | .max sw d a b => some (.binary sw tyNum (fun _ => false) d a b fun ty _ _ x y =>
      (minMaxOp true ty x y, 0))
  | .mulh sw d a b => some (.binary sw tyInt (fun _ => false) d a b fun ty _ _ x y =>
      (intElem ty (intVal ty x * intVal ty y / (2 ^ tyWidth ty : Nat)), 0))
  | .mad sw d a b => some
      { entry := fun m => madEntry sw m d a b, dest := d, regs := tyWide
        value := fun c l => each2 (tyOf c.mode) (fun i x y => madOp false (tyOf c.mode) c.sat
          (c.rdTy l i) x y (elem (c.val l d (tyWide c.mode)) i (tyWidth (tyOf c.mode))))
          (c.val l a (tyWide c.mode)) (c.val l b (tyWide c.mode)) }
  | .msb sw d a b => some
      { entry := fun m => madEntry sw m d a b, dest := d, regs := tyWide
        value := fun c l => each2 (tyOf c.mode) (fun i x y => madOp true (tyOf c.mode) c.sat
          (c.rdTy l i) x y (elem (c.val l d (tyWide c.mode)) i (tyWidth (tyOf c.mode))))
          (c.val l a (tyWide c.mode)) (c.val l b (tyWide c.mode)) }
  | .abs sw d a => some (.unary sw tyNum false d a absOp)
  | .neg sw d a => some (.unary sw tyNum false d a negOp)
  | .and sw d a b => some (.bits (fun m => entry3 sw m tyAny false d a b) d a b fun _ x y => Nat.land x y)
  | .or sw d a b => some (.bits (fun m => entry3 sw m tyAny false d a b) d a b fun _ x y => Nat.lor x y)
  | .xor sw d a b => some (.bits (fun m => entry3 sw m tyAny false d a b) d a b fun _ x y => Nat.xor x y)
  | .not sw d a => some (.bits (fun m => entry2 sw m tyAny false d a) d a a fun w x _ => 2 ^ w - 1 - x)
  | .mov sw d a => some (.bits (fun m => entry2 sw m tyAny false d a) d a a fun _ x _ => x)
  | .brev sw d a => some (.bits (fun m => entry2 sw m tyWords false d a) d a a fun w x _ => reverseBits w x)
  | .shl sw d a b => some (.shift sw d a b fun w x k => if k < w then x * 2 ^ k % 2 ^ w else 0)
  | .shr sw d a b => some (.shift sw d a b fun w x k => if k < w then x / 2 ^ k else 0)
  | .sar sw d a b => some (.shift sw d a b fun w x k =>
      if k < w then (toSigned w x / (2 ^ k : Nat) % (2 ^ w : Nat)).toNat
      else if signBit w x then 2 ^ w - 1 else 0)
  | .popc sw d a => some
      { entry := fun m => countEntry sw m d a, dest := d, regs := fun _ => 1
        value := fun c l => (popCount (32 * tyWide c.mode) (c.val l a (tyWide c.mode)), 0) }
  | .clz sw d a => some
      { entry := fun m => countEntry sw m d a, dest := d, regs := fun _ => 1
        value := fun c l => (leadingZeros (32 * tyWide c.mode) (c.val l a (tyWide c.mode)), 0) }
  | .bfx sw d a b => some
      { entry := fun m => shiftEntry sw m tyWords d a b, dest := d, regs := tyWide
        value := fun c l => (bfxOp (tySigned (tyOf c.mode)) (32 * tyWide c.mode)
          (c.val l a (tyWide c.mode)) (c.opd l b).toNat, 0) }
  | .bfi sw d a b => some
      { entry := fun m => laneEntry sw m tyWords false
          [Use.both d (tyWide m), Use.src a (tyWide m), Use.src b 1]
        dest := d, regs := tyWide
        value := fun c l => (bfiOp (32 * tyWide c.mode) (c.val l d (tyWide c.mode))
          (c.val l a (tyWide c.mode)) (c.opd l b).toNat, 0) }
  | .sel sw d a b => some
      { entry := fun m => { entry3 sw m tyAny false d a b with selector := true }
        dest := d, regs := tyWide
        value := fun c l => (c.val l (if guardHolds c.w l then a else b) (tyWide c.mode), 0) }
  | .movi sw d imm => some
      { entry := fun _ => { sw, uses := [Use.dst d 1], gd := true, twin := true }
        dest := d, regs := fun _ => 1, value := fun _ _ => ((imm.signExtend 32).toNat, 0) }
  | .movh sw d imm => some
      { entry := fun _ => { sw, uses := [Use.both d 1], gd := true, twin := true }
        dest := d, regs := fun _ => 1
        value := fun c l => (imm.toNat * 65536 + (c.opd l d).toNat % 65536, 0) }
  | .frint sw d a => some (.unary sw tyFlt true d a (fltOp fun f rd _ x => f.frint rd x))
  | .cvt sw d a dty => some
      { entry := fun m =>
          { laneEntry sw m tyAny (tyOf m != dty.toNat && (tyFloat (tyOf m) || tyFloat dty.toNat))
              [Use.dst d (tyRegs dty.toNat), Use.src a (tyWide m)] with
            codes := Instr.codesOk (.cvt sw d a dty)
            modeOk := tyAny.contains (tyOf m) && tyCount (tyOf m) == tyCount dty.toNat }
        dest := d, regs := fun _ => tyRegs dty.toNat
        value := fun c l => mapElems (tyCount (tyOf c.mode)) (tyWidth dty.toNat) fun i =>
          cvtElem (tyOf c.mode) dty.toNat c.sat (c.rdTy l i)
            (elem (c.val l a (tyWide c.mode)) i (tyWidth (tyOf c.mode))) }
  | .pack sw d a b => some
      { entry := fun m => laneEntry sw m tyPacked (floatRounds m)
          [if tyCount (tyOf m) == 2 then Use.dst d 1 else Use.both d 1, Use.src a 1, Use.src b 1]
        dest := d, regs := fun _ => 1
        value := fun c l =>
          let x := tyWidth (tyOf c.mode)
          let p := packElem (tyOf c.mode) c.sat (c.rd l 0 2) (c.opd l a).toNat
          let q := packElem (tyOf c.mode) c.sat (c.rd l 1 2) (c.opd l b).toNat
          (if x == 16 then p.1 + q.1 * 2 ^ x
            else (c.opd l d).toNat / 2 ^ (2 * x) + (p.1 + q.1 * 2 ^ x) * 2 ^ (32 - 2 * x), p.2 ||| q.2) }
  | .fscale sw d a b => some
      { entry := fun m => laneEntry sw m tyFlt true
          [Use.dst d (tyWide m), Use.src a (tyWide m), Use.src b 1]
        dest := d, regs := tyWide
        value := fun c l => each1 (tyOf c.mode) (fun i x =>
          fltOp (fun f rd sat y => f.fscale rd sat y ((c.opd l b).toInt < 0) (c.opd l b).toInt.natAbs)
            (tyOf c.mode) c.sat (c.rdTy l i) x) (c.val l a (tyWide c.mode)) }
  | .fclass sw d a => some
      { entry := fun m => laneEntry sw m tyFlt false [Use.dst d 1, Use.src a (tyWide m)]
        dest := d, regs := fun _ => 1
        value := fun c l => mapElems (tyCount (tyOf c.mode)) 16 fun i => match tyFmt (tyOf c.mode) with
          | some f => (2 ^ f.classBit (elem (c.val l a (tyWide c.mode)) i (tyWidth (tyOf c.mode))), 0)
          | none => (0, 0) }
  | .cmul sw d a b => some
      { entry := fun m => laneEntry sw m tyComplex true [Use.dst d (complexRegs (tyOf m)),
          Use.src a (complexRegs (tyOf m)), Use.src b (complexRegs (tyOf m))]
        dest := d, regs := fun m => complexRegs (tyOf m)
        value := fun c l => complexOp (tyOf c.mode) c.sat (fun i => c.rd l i 2)
          (c.val l a (complexRegs (tyOf c.mode))) (c.val l b (complexRegs (tyOf c.mode))) none }
  | .cfma sw d a b => some
      { entry := fun m => laneEntry sw m tyComplex true [Use.both d (complexRegs (tyOf m)),
          Use.src a (complexRegs (tyOf m)), Use.src b (complexRegs (tyOf m))]
        dest := d, regs := fun m => complexRegs (tyOf m)
        value := fun c l => complexOp (tyOf c.mode) c.sat (fun i => c.rd l i 2)
          (c.val l a (complexRegs (tyOf c.mode))) (c.val l b (complexRegs (tyOf c.mode)))
          (some (c.val l d (complexRegs (tyOf c.mode)))) }
  | .dot4 sw d a b => some
      { entry := fun m => laneEntry sw m [10, 11, 12, 13, 14] (floatRounds m)
          [Use.both d 1, Use.src a 1, Use.src b 1]
        dest := d, regs := fun _ => 1
        value := fun c l => dot4Op (tyOf c.mode) c.sat (c.rd l 0 1) (c.opd l a).toNat
          (c.opd l b).toNat (c.opd l d).toNat }
  | .rnd sw d => some
      { entry := fun m => { laneEntry sw m [1, 4] false [Use.dst d 1] with draws := true }
        dest := d, regs := fun _ => 1
        value := fun c l => (rndOp (tyOf c.mode) (c.draw l), 0) }
  | _ => none

/-- What the lanes of C of a lane word compute. -/
def LaneForm.values (x : LaneForm) (c : Ctx) : List (Nat × Nat) :=
  c.spread (c.lanes.map fun l => (l, (x.value c l).1))

/-- The flags that the lanes of C raise. -/
def LaneForm.flags (x : LaneForm) (c : Ctx) : Flags :=
  (c.lanes.map fun l => (x.value c l).2).foldr (fun f fl => f ||| fl) 0

/-- The word `i` completes, and in every lane that receives a value its destination, a register of
classes 0 to 6, then reads a value that `P` allows for the lane that gives it. -/
def Gives (i : Instr) (P : Ctx → Nat → Nat → Prop) : Prop :=
  ∀ (x : LaneForm) (s : State) (c : Ctx), laneForm i = some x → s.Issues x.entry c →
    x.dest.isReg = true → destFault x.dest (x.values c) = none →
    ∃ t, exec i s = .next t ∧ ∀ l ∈ c.outLanes,
      P c (c.giver l) (t.operandN s.cur l x.dest (x.regs c.mode))

/-- MODE.ty of the issuing warp, its element width, and the registers of an operand. -/
def ty (c : Ctx) : Nat := tyOf c.mode
def wd (c : Ctx) : Nat := tyWidth (ty c)
def regs (c : Ctx) : Nat := tyRegs (ty c)

/-- Element `n` of an operand in a lane, as a bit pattern. -/
def el (c : Ctx) (l : Nat) (o : Operand) (n : Nat) : Nat := elem (c.val l o (regs c)) n (wd c)

/-- Element `n` as an integer: signed for the s types, unsigned for the n types. -/
def num (c : Ctx) (l : Nat) (o : Operand) (n : Nat) : Int :=
  if tySigned (ty c) && 2 ^ (wd c - 1) ≤ el c l o n then (el c l o n : Int) - 2 ^ wd c else el c l o n

/-- The least and the greatest integer of the element type. -/
def least (c : Ctx) : Int := if tySigned (ty c) then -2 ^ (wd c - 1) else 0
def greatest (c : Ctx) : Int := if tySigned (ty c) then 2 ^ (wd c - 1) - 1 else 2 ^ wd c - 1

/-- Every element of `y` is the exact integer `e`, modulo 2^width, or under sat brought into range
first (R64). -/
def IntElements (c : Ctx) (y : Nat) (e : Nat → Int) : Prop :=
  ty c ∈ tyInt → ∀ n, n < tyCount (ty c) → (elem y n (wd c) : Int) =
    (if c.sat then max (least c) (min (greatest c) (e n)) else e n) % 2 ^ wd c

/-- The count of a shift (R142). -/
def count (c : Ctx) (l : Nat) (b : Operand) (n : Nat) : Nat :=
  if ty c = 8 ∨ ty c = 9 then (c.opd l b).toNat / 2 ^ (16 * n) % 2 ^ 16 else (c.opd l b).toNat

/-- FRCP to FCOSPI: words whose result returns later (R134, R154). -/
def lateForm : Instr → Option LaneForm
  | .frcp sw d a => some (.unary sw tyFlt true d a (fltOp Fmt.frcp))
  | .frsq sw d a => some (.unary sw tyFlt true d a (fltOp Fmt.frsq))
  | .fsqrt sw d a => some (.unary sw tyFlt true d a (fltOp Fmt.fsqrt))
  | .fexp2 sw d a => some (.unary sw tyFlt true d a (fltOp Fmt.fexp2))
  | .flog2 sw d a => some (.unary sw tyFlt true d a (fltOp Fmt.flog2))
  | .fsinpi sw d a => some (.unary sw tyFlt true d a (fltOp Fmt.fsinpi))
  | .fcospi sw d a => some (.unary sw tyFlt true d a (fltOp Fmt.fcospi))
  | _ => none

/-- The result that such a word leaves outstanding: its values by lane and its flags, which wait for the
next switch park, fault or EXIT; it returns after 12 cycles, or 40 under f64, at the least (R135). -/
def LaneForm.outstanding (x : LaneForm) (s : State) (c : Ctx) : Result :=
  { c.result s (some x.dest) (x.regs c.mode) with
    vals := sparseVals (c.lanes.map fun l => (l, (x.value c l).1)), flags := x.flags c, late := true
    due := s.now + if x.regs c.mode = 2 then 40 else 12 }

/-- The entry of a carry word (R140). -/
def carries (sw : Bool) (d a b : Operand) (m : Word) : Entry := carryEntry sw m d a b

/-- The entry of CMP (R145). -/
def compares (sw : Bool) (cond : BitVec 4) (pd : BitVec 3) (a b : Operand) (m : Word) : Entry :=
  { laneEntry sw m [0, 1, 2, 3, 4, 5] false [Use.src a (tyWide m), Use.src b (tyWide m)] with
    codes := Instr.codesOk (.cmp sw cond pd a b), lane := true, predWrite := [pd.toNat], p0 := pd == 0 }

/-- The entry of UNPK (R151). -/
def unpacks (sw : Bool) (d a b : Operand) (m : Word) : Entry :=
  laneEntry sw m tyPacked false [Use.dst d 1, Use.src a 1, Use.src b 1]

/-- The carry that a lane of ADDC or SUBB reads from p7. -/
def carryIn (c : Ctx) (l : Nat) : Nat := if c.w.pred l 7 then 1 else 0

/-- p0 to p7 of a lane of the issuing warp, as %pred reads them. -/
def predOf (s : State) (l k : Nat) : Bool := (s.operand s.cur l (.sp 13)).getLsbD k

/-- What CMP finds of two operands of an integer type. -/
def intCond (cond : Nat) (x y : Int) (bits : Bool) : Bool :=
  match cond with
  | 0 => x = y
  | 1 => x ≠ y
  | 2 => x < y
  | 3 => x ≤ y
  | 4 => y < x
  | 5 => y ≤ x
  | 6 => false
  | 7 => true
  | _ => bits

/-- A lane holds a NaN in A or B under a floating type. -/
def nanIn (c : Ctx) (l : Nat) (a b : Operand) : Bool :=
  match tyFmt (ty c) with
  | some f => (f.decode (c.val l a (regs c))).isNan || (f.decode (c.val l b (regs c))).isNan
  | none => false

/-- An exact value brought to a sign and a scale: the integer that `mag·2^exp` is. -/
def signed (neg : Bool) (mag exp : Nat) : Int := if neg then -((mag * 2 ^ exp : Nat) : Int) else (mag * 2 ^ exp : Nat)

/-- One value that is no NaN lies below another; the two zeros are equal. -/
def lies (x y : Val) : Prop :=
  match x, y with
  | .inf p, .inf q => p = true ∧ q = false
  | .inf p, .fin _ _ _ => p = true
  | .fin _ _ _, .inf q => q = false
  | .fin p m e, .fin q n g => signed p m e < signed q n g
  | _, _ => False

/-- What CMP finds of two floating values that are no NaN. -/
def floatCond (cond : Nat) (x y : Val) : Prop :=
  match cond with
  | 0 => ¬ lies x y ∧ ¬ lies y x
  | 1 => lies x y ∨ lies y x
  | 2 => lies x y
  | 3 => ¬ lies y x
  | 4 => lies y x
  | 5 => ¬ lies x y
  | 6 => False
  | _ => True

/-- A magnitude `q` units and `rest` of the next one rounds away from zero; `unit` is the unit's size (R60,
R61). -/
def goesUp (rd : Rd) (neg : Bool) (q rest unit : Nat) : Bool :=
  match rd with
  | .rne => unit < 2 * rest || (2 * rest == unit && q % 2 == 1)
  | .rtz => false
  | .rdn => neg && rest != 0
  | .rup => !neg && rest != 0
  | .rna => unit ≤ 2 * rest
  | .sr n r => rest != 0 && r < rest * 2 ^ n / unit

/-- The lane word `i` sets no flag; under a type of `tys` no check of its MODE fails, and under any other
type it takes ILLEGAL_INSTRUCTION (R43, R133). -/
def Accepts (i : Instr) (tys : List Nat) : Prop :=
  ∀ (x : LaneForm) (s : State) (c : Ctx), laneForm i = some x → s.Stands x.entry c →
    x.flags c = 0
    ∧ (ty c ∈ tys → (x.entry c.w.ctl.mode).modeOk = true)
    ∧ (ty c ∉ tys → exec i s = .next (s.takeFault s.cur (faultAt fcIllegalInstruction 0) c.w.ctl.pc))

/-- The word `i` completes under the conditions of a lane word, its destination being `d`. -/
def Leaves (i : Instr) (d : Operand) (P : LaneForm → State → Ctx → State → Prop) : Prop :=
  ∀ (x : LaneForm) (s : State) (c : Ctx), laneForm i = some x → x.dest = d → s.Issues x.entry c →
    destFault x.dest (x.values c) = none → ∃ t, exec i s = .next t ∧ P x s c t

/-- The warp of a state by name, without its block. -/
def warpOf (s : State) (r : WarpRef) : Option Warp := (s.warp? r).map Prod.snd

/-- The checks of R131, R133 and R37 on a word D, A, B that accepts the types `tys`: the fault of the
first that fails. -/
def checks3 (tys : List Nat) (m : Word) (budget : Nat) (d a b : Operand) : Option FaultInfo :=
  let n := tyRegs (tyOf m)
  let dOk := if n = 1 then d.isReg || d == .sp 0 || d == .sp 12 || d == .sp 13 || d == .sp 20
    else d.isReg && d.index % 2 == 0
  let sOk := fun (o : Operand) => if n = 1 then o.isReg || o.index < 27
    else (o.isReg && o.index % 2 == 0) || o == .sp 0
  let beyond := fun (o : Operand) => o.isV && decide (budget < o.index + n)
  if !tys.contains (tyOf m) then some (faultAt fcIllegalInstruction 0)
  else if !(dOk && sOk a && sOk b) then some (faultAt fcIllegalOperand 0)
  else if beyond d || beyond a || beyond b then some (faultAt fcBudget 0)
  else none

/-- A stop record (R308). -/
def stopOf (core : Nat) (record : Word) (pc : Dword) (f : FaultInfo) (block slot now : Nat) : StopRec :=
  { core, record, pc, addr := f.addr, lanes := f.lanes, block, warp := slot, cycles := now }

/-- The word `i` of the issuing warp completes, changing nothing outside that warp, and leaves the warp as
`P` says. -/
def Warps (i : Instr) (s : State) (P : Warp → Prop) : Prop :=
  ∃ t w', exec i s = .next t ∧ warpOf t s.cur = some w' ∧ s.OnlyWarp t s.cur ∧ t.grids = s.grids
    ∧ (w'.run = .ready ∨ w'.run = .switch) ∧ P w'

/-- A target inside the kernel image (R30). -/
def target {n : Nat} (c : Ctx) (off : BitVec n) (pc : Nat) : Prop :=
  (pc : Int) = c.w.ctl.pc + 4 * off.toInt ∧ pc < c.g.desc.size

/-- The lanes of ACTIVE that take a branch, and those that do not (R99). -/
def taking (c : Ctx) (inv : Bool) (pr : BitVec 3) : Mask :=
  maskOf (c.act.filter fun l => c.w.pred l pr.toNat != inv)
def staying (c : Ctx) (inv : Bool) (pr : BitVec 3) : Mask := c.w.ctl.active &&& ~~~taking c inv pr

/-- The lanes whose condition differs from that of the lowest lane of ACTIVE (R99). -/
def differing (c : Ctx) (inv : Bool) (pr : BitVec 3) : Mask :=
  maskOf (c.act.filter fun l => (c.w.pred l pr.toNat != inv) != (c.w.pred c.lane0 pr.toNat != inv))

/-- Where a word without a taken transfer goes on, and the loop levels that are then open (R102). -/
def nextPc (c : Ctx) : Nat := (stepLoops (c.w.ctl.pc + 4) c.w.ctl.loops).1
def nextLoops (c : Ctx) : List LoopLevel := (stepLoops (c.w.ctl.pc + 4) c.w.ctl.loops).2

/-- Registers and control state that no branch changes. -/
def Steady (c : Ctx) (w' : Warp) : Prop :=
  w'.regs = c.w.regs ∧ w'.ctl.mode = c.w.ctl.mode ∧ w'.ctl.draw = c.w.ctl.draw
    ∧ w'.flt.word = c.w.flt.word ∧ w'.eng = c.w.eng

/-- Entries of the branches (R99 to R101). -/
def braEntry (sw u : Bool) (_ : Word) : Entry := { sw, policy := !u, ahead := .control }
def brcEntry (sw u inv : Bool) (pr : BitVec 3) (_ : Word) : Entry :=
  { sw, policy := !u, lane := pr != 0 || inv, predRead := if pr != 0 then [pr.toNat] else [],
    ahead := .control }
def callEntry (sw u inv : Bool) (pr : BitVec 3) (_ : Word) : Entry :=
  { sw, policy := !u, lane := pr != 0 || inv, predRead := if pr != 0 then [pr.toNat] else [],
    ahead := .control, uses := [Use.dst (.w 31) 1] }
def retEntry (sw : Bool) (a : Operand) (_ : Word) : Entry :=
  { sw, ahead := .control, uses := [{ Use.src a 1 with ok := a.isW }] }
def loopEntry (sw : Bool) (d : Operand) (len : BitVec 7) (_ : Word) : Entry :=
  { sw, codes := Instr.codesOk (.loop sw d len), ahead := .control, uses := [Use.wide d 1] }
def markEntry (sw : Bool) (_ : Word) : Entry := { sw, policy := true }
def joinEntry (sw : Bool) (_ : Word) : Entry := { sw, policy := true, ahead := .control }
def setmodeEntry (sw : Bool) (sel : BitVec 4) (val : BitVec 12) (_ : Word) : Entry :=
  { sw, codes := setmodeOk sel val, modeRead := true }
def waitcEntry (sw : Bool) (cls : BitVec 3) (n : BitVec 4) (_ : Word) : Entry :=
  { sw, codes := Instr.codesOk (.waitc sw cls n), ahead := .stop }
def yieldEntry (sw : Bool) (cls : BitVec 3) (n : BitVec 4) (off : BitVec 17) (_ : Word) : Entry :=
  { sw, codes := Instr.codesOk (.yield sw cls n off), ahead := .stop }

/-- The stack after the lanes `t` leave for `pc` (R99): joined to a path entry on top for the same place,
else pushed. -/
def leaving (stack : List StackEntry) (pc : Nat) (t : Mask) : List StackEntry :=
  match stack with
  | e :: rest => if e.path && e.pc == pc then { e with mask := e.mask ||| t } :: rest
      else { path := true, pc, mask := t } :: e :: rest
  | [] => [{ path := true, pc, mask := t }]

/-- Room for the lanes that leave. -/
def room (stack : List StackEntry) (pc : Nat) : Prop :=
  stack.length < 16 ∨ ∃ e rest, stack = e :: rest ∧ e.path = true ∧ e.pc = pc

/-- Entries of the words of R103 to R109, R311, R317, R318 and R351. -/
def exitEntry (sw : Bool) (_ : Word) : Entry := { sw, ahead := .stop }
def splitEntry (sw : Bool) (_ : Word) : Entry := { sw, ahead := .stop, closes := .region }
def barEntry (sw : Bool) (scope : BitVec 3) (_ : Word) : Entry :=
  { sw, codes := Instr.codesOk (.bar sw scope), ahead := .stop, closes := .region }
def plainEntry (sw : Bool) (_ : Word) : Entry := { sw }
def skipEntry (sw : Bool) (_ : Word) : Entry := { sw, ahead := .skip }
def regionEntry (sw : Bool) (_ : Word) : Entry := { sw, ahead := .skip, closes := .region }
def launchEntry (sw : Bool) (a : Operand) (_ : Word) : Entry :=
  { sw, uses := [Use.wide a 2], ahead := .skip, closes := .unlessPaired }

/-- Every lane is active and no branch path waits (R103, R108, R127, R311). -/
def whole (c : Ctx) : Prop :=
  c.w.ctl.active = fullMask c.w.width ∧ ∀ e ∈ c.w.ctl.stack, e.path = false

/-- The warp has nothing outstanding: no pending bit, no result, and all four counters 0. -/
def quiet (w : Warp) : Prop := w.pend = [] ∧ w.results = [] ∧ w.idle = true

/-- An EXIT that nothing holds back: converged, a layout that exists and that no earlier warp's choice
contradicts, nothing outstanding, no open batch, no redundant pair, no multicast tile under way. -/
def mayExit (c : Ctx) (idx : BitVec 8) : Prop :=
  whole c ∧ idx.toNat < c.g.desc.layouts.length ∧ (∀ k, c.b.exitIdx = some k → k = idx.toNat)
    ∧ quiet c.w ∧ c.w.openBatch = [] ∧ c.g.packet.redundant = false
    ∧ ∀ x ∈ c.s.cmds, c.b.id ∉ x.accepted

/-- Every other warp of the block has exited. -/
def lastWarp (c : Ctx) : Prop := ∀ w ∈ c.b.warps, w.slot ≠ c.r.slot → w.run = .exited

/-- What a lane of a warp of the block reads in a state. -/
def laneOf (s : State) (blk slot lane : Nat) (o : Operand) : Word :=
  s.operand { blk, slot } lane o

/-- Entries of the words of R127 to R130. -/
def raiseEntry (sw : Bool) (d a : Operand) (fn : BitVec 5) (m : Word) : Entry :=
  { sw, uses := [{ Use.dst d 1 with ok := d.isScoped }, Use.laneSrc a],
    codes := Instr.codesOk (.raise sw d a fn),
    modeOk := if 1 ≤ fn.toNat && fn.toNat ≤ 3 then [0, 1, 4].contains (tyOf m)
      else tyAny.contains (tyOf m),
    gd := true, modeRead := true, closes := if d.isWide && !d.isW then .region else .no,
    ahead := .skip, twin := true }
def voteEntry (sw : Bool) (d a : Operand) (fn : BitVec 5) (_ : Word) : Entry :=
  { sw, uses := [{ Use.dst d 1 with ok := d.isReg }, Use.laneSrc a],
    codes := Instr.codesOk (.vote sw d a fn), gd := true, twin := true }
def plogEntry (sw : Bool) (fn : BitVec 4) (pd : BitVec 3) (ia : Bool) (pa : BitVec 3) (ib : Bool)
    (pb : BitVec 3) (_ : Word) : Entry :=
  { sw, codes := Instr.codesOk (.plog sw fn pd ia pa ib pb), gd := true, predRead := [pa.toNat, pb.toNat],
    predWrite := [pd.toNat], p0 := pd == 0, twin := true }

/-- What RAISE makes of the values of some lanes, for the functions whose result does not depend on the
order: agree, integer add, and, or and xor (R127). -/
def combine (fn : Nat) (vals : List Word) : Word :=
  match fn with
  | 1 => vals.foldl (· + ·) 0
  | 4 => vals.foldl (· &&& ·) (BitVec.allOnes 32)
  | 5 => vals.foldl (· ||| ·) 0
  | 6 => vals.foldl (· ^^^ ·) 0
  | _ => vals.headD 0

/-- The functions for which `combine` speaks, under MODE.ty. -/
def orderless (fn : Nat) (m : Word) : Prop := fn ∈ [0, 4, 5, 6] ∨ (fn = 1 ∧ tyOf m ≠ 4)

/-- A RAISE of agree has lanes that agree. -/
def agreeing (fn : Nat) (vals : List Word) : Prop := fn = 0 → ∀ x ∈ vals, x = vals.headD 0

/-- Source lane of SHFI, SHFX, SHFU and SHFD (R129): the lane's own where it lies outside the warp. -/
def shuffled (c : Ctx) (l : Nat) (src : Word) : Nat := if src.toNat < c.w.width then src.toNat else l

/-! ## Memory words -/

/-- Entries of the words of R184 to R191 and R196. -/
def ldEntry (sw : Bool) (d a : Operand) (m : Word) : Entry :=
  { sw, uses := [Use.dst d (tyRegs (tyOf m)), Use.base a], modeOk := tyAny.contains (tyOf m), gd := true,
    modeRead := true, roles := [.copy, .vector] }
def ldwEntry (sw : Bool) (d a : Operand) (_ : Word) : Entry :=
  { sw, uses := [Use.dst d 4, Use.base a], gd := true, roles := [.copy, .vector] }
def stEntry (sw : Bool) (d a : Operand) (m : Word) : Entry :=
  { sw, uses := [Use.data d (tyRegs (tyOf m)), Use.base a], modeOk := tyAny.contains (tyOf m), gd := true,
    modeRead := true, roles := [.copy, .vector], ahead := .store }
def stwEntry (sw : Bool) (d a : Operand) (_ : Word) : Entry :=
  { sw, uses := [Use.data d 4, Use.base a], gd := true, roles := [.copy, .vector], ahead := .store }
def dualstEntry (sw : Bool) (d a b : Operand) (m : Word) : Entry :=
  { sw, uses := [Use.data d (tyRegs (tyOf m)), Use.base a, Use.base b],
    modeOk := tyAny.contains (tyOf m), gd := true, modeRead := true, roles := [.copy, .vector],
    closes := .unlessPaired, ahead := .store }
def relEntry (sw : Bool) (a : Operand) (_ : Word) : Entry :=
  { sw, uses := [Use.wide a 2], closes := .unlessPaired, ahead := .skip }
def acqEntry (sw : Bool) (d a : Operand) (_ : Word) : Entry :=
  { sw, uses := [Use.dst d 2, Use.wide a 2], closes := .region, ahead := .poison }

/-- The eight atomics, with the types that each accepts (R185). -/
def atomicForm : Instr → Option (RemoteKind × List Nat)
  | .aadd _ _ _ _ => some (.add, [0, 1, 2, 3, 4, 5, 6, 7])
  | .amin _ _ _ _ => some (.min, [0, 1, 2, 3, 4, 5])
  | .amax _ _ _ _ => some (.max, [0, 1, 2, 3, 4, 5])
  | .aand _ _ _ _ => some (.and, tyAny)
  | .aor _ _ _ _ => some (.or, tyAny)
  | .axor _ _ _ _ => some (.xor, tyAny)
  | .axch _ _ _ _ => some (.exch, tyAny)
  | .acas _ _ _ _ => some (.cas, tyAny)
  | _ => none

/-- What the addresses of a word translate to, and the state that the translations leave, in which TLBs and
counts of corrected errors may differ (R184, R293, R294, R347). -/
def looked (s : State) (c : Ctx) (acc : Access) (as : List (Nat × Dword)) : List LaneAddr × State :=
  s.translateAll c.b.core c.ctx acc as

/-- The state after the translations. -/
def afterLook (s : State) (c : Ctx) (acc : Access) (as : List (Nat × Dword)) : State :=
  (looked s c acc as).2

/-- The conditions of R184 and R297 on the addresses of a word of width `w`: each is a multiple of it, and
lies in device memory that the access may reach, or in another device. -/
def Reaches (s : State) (c : Ctx) (acc : Access) (w : Nat) (as : List (Nat × Dword)) : Prop :=
  ∀ x ∈ (looked s c acc as).1,
    x.va.toNat % w = 0 ∧ ((∃ pa, x.t = .phys pa) ∨ ∃ dev off, x.t = .remote dev off)

/-- Physical address of a translation. -/
def physOf (t : Trans) : Nat :=
  match t with
  | .phys pa => pa
  | _ => 0

/-- A translation names another device. -/
def farOf (t : Trans) : Bool :=
  match t with
  | .remote _ _ => true
  | _ => false

/-- What an access is: its kind, address, physical address, width, data and lane, and whether it goes to
another device. -/
abbrev Seen := AccKind × Dword × Nat × Nat × Wide × Nat × Bool

def seen (a : Acc) : Seen := (a.kind, a.va, a.pa, a.width, a.data, a.lane, a.remote)

/-- One access for each address, with the data of its lane. -/
def accesses (kind : AccKind) (w : Nat) (data : Nat → Nat) (ts : List LaneAddr) : List Seen :=
  ts.map fun x => (kind, x.va, physOf x.t, w, BitVec.ofNat 128 (data x.lane), x.lane, farOf x.t)

/-- The new remote writes of a word keep its warp's unacknowledged ones within 255 (R195). -/
def roomForAcks (s : State) (ts : List LaneAddr) : Prop :=
  let n := (ts.filter fun x => farOf x.t).length
  n = 0 ∨ s.unacked s.cur + n ≤ 255

/-- The registers that `n` registers from an operand on name. -/
def named (o : Operand) (n : Nat) : List Reg := (List.range n).filterMap fun k => (o.nth k).reg?

/-- No store of a block and no warp but the issuing one differs. -/
def BlocksKept (s t : State) : Prop :=
  ∀ id b, s.block? id = some b → ∃ b', t.block? id = some b' ∧ b'.scratch = b.scratch ∧ b'.tags = b.tags
    ∧ b'.opbuf = b.opbuf ∧ b'.resvs = b.resvs ∧ b'.tiles = b.tiles ∧ b'.allocs = b.allocs
    ∧ b'.rings = b.rings ∧ b'.chans = b.chans ∧ b'.bindings = b.bindings ∧ b'.b = b.b
    ∧ ∀ k, ¬ (id = s.cur.blk ∧ k = s.cur.slot) → b'.warp? k = b.warp? k

/-- The word moves its warp on and gives the registers `pend` their pending bits; no register, no byte of
any memory and nothing of a block changes; `P` holds of the warp. -/
def Goes (s u : State) (c : Ctx) (pend : List Reg) (P : Warp → Prop) : Prop :=
  u.mem = s.mem ∧ u.host = s.host ∧ u.low = s.low ∧ u.grids = s.grids ∧ BlocksKept s u
    ∧ ∃ w', warpOf u s.cur = some w' ∧ w'.regs = c.w.regs ∧ w'.ctl.mode = c.mode
        ∧ w'.ctl.pc = nextPc c ∧ w'.pend = c.w.pend ++ pend ∧ P w'

/-- An access but for whether its line held it when it was issued. -/
def loose (a : Acc) : Acc := { a with placed := false }

/-- The accesses `new` of the issuing warp join those that are outstanding, of which each is as before, but that
an earlier load may now read at its slice. -/
def Joins (s u : State) (c : Ctx) (new : List Seen) : Prop :=
  ∃ old xs, u.accs = old ++ xs ∧ old.map loose = s.accs.map loose ∧ xs.map seen = new
    ∧ ∀ x ∈ xs, x.blk = s.cur.blk ∧ x.slot = s.cur.slot ∧ x.core = c.b.core

/-- The word goes on, with its accesses outstanding. -/
def Issued (s u : State) (c : Ctx) (pend : List Reg) (new : List Seen) : Prop :=
  Goes s u c pend (fun _ => True) ∧ Joins s u c new

/-- Writes that a warp of a redundant pair holds back in its store stream: address, width and data. -/
def streamed (w : Warp) : List (Dword × Nat × Wide) :=
  ((w.store.closed.flatMap StreamWindow.entries) ++ w.store.entries).map fun e => (e.addr, e.width, e.data)

/-- The writes of a store word, one for each address in the order `ts`: they join the accesses that are
outstanding, or under `redundant` the warp's store stream (R352). -/
def Stores (i : Instr) (s : State) (c : Ctx) (w : Nat) (data : Nat → Nat) (ts : List LaneAddr) : Prop :=
  (c.g.packet.redundant = false → roomForAcks s ts →
    ∃ u, exec i s = .next u ∧ Issued s u c [] (accesses .store w data ts))
  ∧ (c.g.packet.redundant = true → c.w.slackFor c.b.trail ts.length = true →
    ∃ u, exec i s = .next u ∧ u.accs = s.accs ∧ Goes s u c [] fun w' =>
      streamed w' = streamed c.w ++ ts.map fun x => (x.va, w, BitVec.ofNat 128 (data x.lane)))

/-- Where an address of a store word is no multiple of the width, the first such one is that of its ALIGNMENT
fault, before anything is stored; a copy of a redundant pair has slack for the word (R360). -/
def Misaligned (i : Instr) (s : State) (c : Ctx) (w : Nat) (as : List (Nat × Dword)) : Prop :=
  (c.g.packet.redundant = true → c.w.slackFor c.b.trail as.length = true) →
  ∀ l x, as.find? (fun y => y.2.toNat % w != 0) = some (l, x) → ∃ m, exec i s = .next
    (s.takeFault s.cur { faultAt fcAlignment 1 with addr := x, lanes := m } c.w.ctl.pc)

/-- Entries of LDL, STL and the tag words (R175 to R177). -/
def ldlEntry (sw : Bool) (d a : Operand) (m : Word) : Entry :=
  { sw, uses := [Use.dst d (tyRegs (tyOf m)), Use.localBase a], modeOk := tyAny.contains (tyOf m),
    gd := true, modeRead := true }
def stlEntry (sw : Bool) (d a : Operand) (m : Word) : Entry :=
  { sw, uses := [{ Use.src d (tyRegs (tyOf m)) with
        ok := if tyRegs (tyOf m) == 1 then d.isReg || d.isZero else d.group (tyRegs (tyOf m)) },
      Use.localBase a],
    modeOk := tyAny.contains (tyOf m), gd := true, modeRead := true, ahead := .skip }
def taglEntry (sw : Bool) (d a : Operand) (_ : Word) : Entry :=
  { sw, uses := [{ Use.dst d 1 with ok := d.isReg }, Use.base a], gd := true }
def tagrEntry (sw : Bool) (d a : Operand) (_ : Word) : Entry :=
  { sw, uses := [Use.dst d 2, Use.localBase a], gd := true }
def tagwEntry (sw : Bool) (d a : Operand) (_ : Word) : Entry :=
  { sw, uses := [Use.localBase d, Use.src a 2], gd := true, ahead := .skip }

/-- The result that a word with a later result leaves in its warp: its destination, with pending bits on
its registers and the values by lane. -/
def Later (s u : State) (c : Ctx) (d : Operand) (n : Nat) (vals : List (Nat × Nat)) : Prop :=
  ∃ w' x, warpOf u s.cur = some w' ∧ w'.regs = c.w.regs ∧ w'.pend = c.w.pend ++ named d n
    ∧ w'.results = c.w.results ++ [x] ∧ x.dst = some d ∧ x.regs = n ∧ x.vals = sparseVals vals
    ∧ x.lanes = maskOf c.outLanes ∧ s.now < x.due

/-- Entries of BIND, UNBIND, FENCE and PREF (R189, R193, R197). -/
def bindEntry (sw : Bool) (a b : Operand) (_ : Word) : Entry :=
  { sw, uses := [Use.wide a 2, { Use.wide b 4 with ok := b.isW && b.index % 4 == 0 }], ahead := .skip }
def unbindEntry (sw : Bool) (a : Operand) (_ : Word) : Entry :=
  { sw, uses := [Use.wide a 2], ahead := .skip }
def fenceEntry (sw : Bool) (scope : BitVec 3) (kind : BitVec 2) (_ : Word) : Entry :=
  { sw, codes := Instr.codesOk (.fence sw scope kind), ahead := .skip }
def prefEntry (sw : Bool) (a : Operand) (_ : Word) : Entry := { sw, uses := [Use.base a], gd := true, roles := [.copy, .vector] }

/-! ## Engine words -/

/-- Entries of the copy, ring and buffer words (R208 to R213, R224 to R237). -/
def tcpxEntry (sw : Bool) (a b : Operand) (_ : Word) : Entry :=
  { sw, uses := [Use.record a 8, Use.record b 4], roles := [.copy], closes := .unlessPaired, ahead := .skip }
def sealEntry (sw arrive : Bool) (ring stage : BitVec 3) (_ : Word) : Entry :=
  { sw, codes := Instr.codesOk (.seal sw arrive ring stage), roles := [.copy], closes := .region,
    ahead := .skip }
def stgwEntry (sw : Bool) (d : Operand) (_ : Word) : Entry :=
  { sw, uses := [{ Use.src d 1 with ok := d.isWide || d.isZero }], ahead := .stop }
def resEntry (sw : Bool) (d a b : Operand) (_ : Word) : Entry :=
  { sw, uses := [Use.scopedDst d, Use.scoped a, Use.scoped b], ahead := .poison }
def freeEntry (sw : Bool) (a : Operand) (_ : Word) : Entry := { sw, uses := [Use.scoped a], ahead := .skip }
def accaEntry (sw : Bool) (d : Operand) (n : BitVec 7) (_ : Word) : Entry :=
  { sw, codes := Instr.codesOk (.acca sw d n), uses := [Use.scopedDst d], ahead := .poison }
def accrEntry (sw : Bool) (d a b : Operand) (_ : Word) : Entry :=
  { sw, uses := [{ Use.dst d 1 with ok := d.isV }, Use.scoped a, Use.src b 1], gd := true }
def accwEntry (sw : Bool) (d a b : Operand) (_ : Word) : Entry :=
  { sw, uses := [{ Use.src d 1 with ok := d.isV || d.isZero }, Use.scoped a, Use.src b 1], gd := true,
    ahead := .skip }

/-- The lane list of a LCP: lane, local address, global address (R224). -/
def lcpLanes (c : Ctx) (d a : Operand) : List (Nat × Nat × Dword) :=
  c.lanes.map fun l => (l, (c.opd l d).toNat, BitVec.ofNat 64 (c.val l a 2))

/-- Items that every lane of a LCP of `n` bytes meets (R224). -/
def lcpGood (c : Ctx) (n : Nat) (d a : Operand) : Prop :=
  ∀ x ∈ lcpLanes c d a, x.2.1 % n = 0 ∧ x.2.2.toNat % n = 0 ∧ x.2.1 + n ≤ c.b.scratchSize
    ∧ badForm x.2.2 = none

/-- A command of the issuing warp that has not begun is added, and the warp goes on; `P` says which warp
field names it. -/
def Commands (s u : State) (c : Ctx) (kind : CmdKind) (P : Nat → Warp → Prop) : Prop :=
  u.mem = s.mem ∧ u.low = s.low ∧ u.accs = s.accs ∧ BlocksKept s u
    ∧ ∃ x w', u.cmds = s.cmds ++ [x] ∧ x.kind = kind ∧ x.blk = s.cur.blk ∧ x.slot = s.cur.slot
      ∧ x.state = 0 ∧ x.next = 0 ∧ x.err = none ∧ warpOf u s.cur = some w' ∧ w'.regs = c.w.regs
      ∧ w'.pend = c.w.pend ∧ w'.ctl.pc = nextPc c ∧ P x.id w'

/-- The commands of the warp that have not ended are at most 63 (R222). -/
def roomForCommand (s : State) : Prop :=
  (s.cmds.filter fun x => x.blk == s.cur.blk && x.slot == s.cur.slot && x.state != 3).length < 64

/-- `z` bytes fit at `g` in the operand-buffer window of a block (R202, R208). -/
def fits (b : Block) (z g : Nat) : Prop :=
  g + z ≤ b.opbufSize ∧ ∀ r ∈ b.resvs, g + z ≤ r.base ∨ r.base + r.size ≤ g

/-- The lowest index below `n` that a list does not use. -/
def lowestFree (n : Nat) (used : List Nat) (i : Nat) : Prop :=
  i < n ∧ i ∉ used ∧ ∀ j, j < i → j ∈ used

/-- A word of the array is put behind those of the core's queue, as an operation of a counter where it
has one; nothing of the array's work is done yet. -/
def Queues (s u : State) (c : Ctx) (cls : EngClass) (work : ArrayWork) : Prop :=
  BlocksKept s u
    ∧ (∃ q, (u.core c.b.core).queue = (s.core c.b.core).queue ++ [q] ∧ q.work = work
      ∧ q.blk = s.cur.blk ∧ q.slot = s.cur.slot ∧ q.op = some s.nextId ∧ q.flags = 0)
    ∧ ∃ w' x, warpOf u s.cur = some w' ∧ w'.regs = c.w.regs ∧ w'.ctl.pc = nextPc c
      ∧ w'.eng = c.w.eng ++ [x] ∧ x.id = s.nextId ∧ x.cls = cls ∧ x.done = false

/-- The spline state of the core is free or the issuing block's own, so that no other block's is saved. -/
def ownSpline (s : State) (c : Ctx) : Prop :=
  ∀ x, (s.core c.b.core).spline = some x → x.blk = c.b.id

/-- The matrix words with their numbers (R244), and the register of λ. -/
def matrixForm (d a b : Operand) (sw : Bool) : List (Instr × Nat × Option Operand) :=
  [(.mma sw d a b, 0, none), (.mmaz sw d a b, 1, none), (.mmad sw d a b, 2, some (decayReg a)),
    (.tmma sw d a b, 3, none)]

/-- The entry of a matrix word (R244). -/
def mmaEntry (sw : Bool) (fn : Nat) (d a b : Operand) (_ : Word) : Entry :=
  if fn = 2 then
    let o2 := match a with
      | .o _ => true
      | _ => false
    { matrixEntry sw d a b with
      uses := [Use.scoped d, { Use.scoped a with ok := o2 }, Use.scoped b,
        { Use.src (decayReg a) 1 with ok := o2 }] }
  else matrixEntry sw d a b

/-- Room for one more word of a class, that no earlier engine word of the warp holds (R93, R213, R248). -/
def roomInArray (s : State) (c : Ctx) (cls : EngClass) (n : Names) : Prop :=
  c.w.counter cls < 63 ∧ (s.core c.b.core).queue.length < 16
    ∧ ∀ x ∈ s.cmds, x.blk = s.cur.blk → x.slot = s.cur.slot → x.over = false →
      (x.names c.b).meet n = false

/-- A spline word with its entry, what its check answers on the spline state, the work that it queues,
and what it makes of the issue view (R257 to R267). -/
structure SplineForm where
  entry : Entry
  check : Spline → Option (BitVec 8)
  op : SplineOp
  view : Spline → Spline

/-- A register of a record of four. -/
def recWord (c : Ctx) (a : Operand) (i : Nat) : Word := c.one (a.nth i)

/-- The issue view that a KSET leaves. -/
def recView (c : Ctx) (a : Operand) : IssueView :=
  { g := ((recWord c a 2).extractLsb' 0 5).toNat, invh := recWord c a 1,
    mask := (recWord c a 3).extractLsb' 0 16 }

/-- The words KSET, CLD, CST, SPL, SPLD, SPLG and GREF. -/
def splineForm (c : Ctx) : Instr → Option SplineForm
  | .kset sw a set => some
      { entry := splineEntry sw [{ Use.src a 4 with ok := a.isW && a.index % 4 == 0 }]
        check := fun x => if knotOk (recWord c a) set.toNat x then none else some fcRange
        op := .kset set.toNat (recWord c a 0) (recWord c a 1) ((recWord c a 2).extractLsb' 0 5).toNat
          ((recWord c a 2).extractLsb' 8 2).toNat ((recWord c a 3).extractLsb' 0 16)
        view := fun x => x.setView set.toNat (recView c a) }
  | .cld sw a nm1 ra => some
      { entry := splineEntry sw [Use.wide a 1]
        check := fun _ => cellsFault c.b (c.one a) ra.toNat (nm1.toNat + 1)
        op := .load (c.one a) ra.toNat (nm1.toNat + 1), view := id }
  | .cst sw a nm1 ra => some
      { entry := splineEntry sw [Use.wide a 1]
        check := fun _ => cellsFault c.b (c.one a) ra.toNat (nm1.toNat + 1)
        op := .store (c.one a) ra.toNat (nm1.toNat + 1), view := id }
  | .spl sw d a half acc nm1 => some
      { entry := splineEntry sw [Use.wide d 1, Use.wide a 1]
        check := fun _ => samplesFault c.b (c.one d) (c.one a) none false (nm1.toNat + 1)
        op := .spl (c.one d) (c.one a) (nm1.toNat + 1) half acc, view := id }
  | .spld sw d a half acc nm1 => some
      { entry := splineEntry sw [Use.wide d 1, Use.wide a 2]
        check := fun _ => samplesFault c.b (c.one d) (c.one a) (some (c.one (a.nth 1))) false (nm1.toNat + 1)
        op := .spld (c.one d) (c.one a) (c.one (a.nth 1)) (nm1.toNat + 1) half acc, view := id }
  | .splg sw d a half zero nm1 => some
      { entry := splineEntry sw [Use.wide d 1, Use.wide a 2]
        check := fun _ => samplesFault c.b (c.one d) (c.one a) (some (c.one (a.nth 1))) true (nm1.toNat + 1)
        op := .splg (c.one d) (c.one a) (c.one (a.nth 1)) (nm1.toNat + 1) half zero, view := id }
  | .gref sw set => some
      { entry := splineEntry sw []
        check := fun x =>
          let v := (x.view[set.toNat]?).getD IssueView.reset
          if v.g ≤ 14 && finiteF32 (doubled v.invh) then none else some fcRange
        op := .gref set.toNat
        view := fun x =>
          let v := (x.view[set.toNat]?).getD IssueView.reset
          x.setView set.toNat { v with g := 2 * v.g, invh := doubled v.invh } }
  | _ => none

/-! ### Values of splines (R260 to R267), each step one rounding -/

/-- The basis P0 to P3 at `t`, and the derivative basis Q0 to Q3 (R261). -/
def basisAt (t m : Nat) : Nat :=
  let u := (rn [.val (intConst 1), .val (f32Val t).neg]).1
  let mul := fun a b => (rnMul a b).1
  let add := fun (k : Int) a => (rnAddK k a).1
  let scale := fun (k : Int) => (rnMulK k t).1
  match m with
  | 0 => mul (mul u u) u
  | 1 => add 4 (mul (mul (add (-6) (scale 3)) t) t)
  | 2 => add 1 (mul (add 3 (mul (add 3 (scale (-3))) t)) t)
  | _ => mul (mul t t) t
def slopeAt (t m : Nat) : Nat :=
  let u := (rn [.val (intConst 1), .val (f32Val t).neg]).1
  let mul := fun a b => (rnMul a b).1
  let add := fun (k : Int) a => (rnAddK k a).1
  let scale := fun (k : Int) => (rnMulK k t).1
  match m with
  | 0 => negF32 (mul u u)
  | 1 => mul (add (-4) (scale 3)) t
  | 2 => add 1 (mul (add 2 (scale (-3))) t)
  | _ => mul t t

/-- Four coefficients against four factors: the first product rounded, the others fused (R262). -/
def sum4 (c p : Nat → Nat) : Nat :=
  (rnFma (rnFma (rnFma (rnMul (c 0) (p 0)).1 (c 1) (p 1)).1 (c 2) (p 2)).1 (c 3) (p 3)).1

/-- φ and φ′ of cell (r, c) at a place on the grid (R262). -/
def phiAt (x : Spline) (r c : Nat) (l : Loc) : Nat :=
  match l with
  | .nan => Fmt.f32.nan
  | .zero => 0
  | .at j t _ => (rnSixth (.val (f32Val (sum4 (fun m => x.coefAt r c (j + m)) (basisAt t))))).1
def slopePhi (x : Spline) (k : KnotSet) (r c : Nat) (l : Loc) : Nat :=
  match l with
  | .nan => Fmt.f32.nan
  | .zero => 0
  | .at _ _ true => 0
  | .at j t false => (rnHalves 1
      ((f32Val (sum4 (fun m => x.coefAt r c (j + m)) (slopeAt t))).mul (f32Val k.invh.toNat))).1

/-- The place of an input on the grid of a set, from its u (R260). -/
def PlacedBy (k : KnotSet) (x : Nat) : Prop :=
  let u0 := (rn [((f32Val x).addExact false (f32Val k.x0.toNat).neg).mul (f32Val k.invh.toNat)]).1
  let u := if u0 = 2 ^ 31 then 0 else u0
  let l := k.locate x
  let shifted := fun (j : Nat) => (rnAddK (-(j : Int)) u).1
  ((f32Val x).isNan = true → l.1 = .nan ∧ l.2.1 = .nan)
    ∧ ((f32Val x).isNan = false → (f32Val u).isNan = false →
      (∀ m e, f32Val u = .fin false m e → m * 2 ^ e < k.g * 2 ^ 8192 →
        l.1 = .at (m * 2 ^ e / 2 ^ 8192) (shifted (m * 2 ^ e / 2 ^ 8192)) false ∧ l.2.1 = .inside)
      ∧ ((f32Val u).isNeg = true → l.2.1 = .below ∧ (k.mode = 0 → l.1 = .at 0 0 true)
        ∧ (k.mode = 2 → l.1 = .zero)
        ∧ (k.mode = 1 → l.1 = if f32Val u = .inf true then .nan else .at 0 (shifted 0) false))
      ∧ ((f32Val u = .inf false ∨ ∃ m e, f32Val u = .fin false m e ∧ k.g * 2 ^ 8192 ≤ m * 2 ^ e) →
        l.2.1 = .above ∧ (k.mode = 0 → l.1 = .at (k.g - 1) 0x3F800000 true)
        ∧ (k.mode = 2 → l.1 = .zero)
        ∧ (k.mode = 1 → l.1 = if f32Val u = .inf false then .nan
            else .at (k.g - 1) (shifted (k.g - 1)) false)))

/-- Element (row, col) of a handle's tile, from its row field on, and its key. -/
def keyAt (b : Block) (h : Word) (row col : Nat) : Nat := tileKey (b.tileNo h) (handleRow h + row) col
def tileAt (b : Block) (h : Word) (row col : Nat) : Nat := b.tileElem (keyAt b h row col)

/-- The place of input `r` of a sample, on the set that its row uses. -/
def located (x : Spline) (b : Block) (hx : Word) (s r : Nat) : Option (KnotSet × Loc) :=
  (x.rowSet r).map fun k => (k, (k.locate (b.sample hx s r)).1)

/-- Output `c` of a sample: the rows that are not idle, ascending (R266). -/
def outputOf (x : Spline) (b : Block) (hx : Word) (s c : Nat) : Nat :=
  match (List.range 16).filterMap fun r => (located x b hx s r).map fun y => phiAt x r c y.2 with
  | [] => 0
  | p :: rest => rest.foldl (fun a v => (rnAdd a v).1) p

/-- Input gradient `r` of a sample (R266). -/
def gradientOf (x : Spline) (b : Block) (hx hg : Word) (half : Bool) (s r : Nat) : Nat :=
  match located x b hx s r with
  | none => 0
  | some y => (List.range 16).foldl (fun a c =>
      let g := tileAt b hg s (16 * half.toNat + c)
      if c = 0 then (rnMul g (slopePhi x y.1 r c y.2)).1 else (rnFma a g (slopePhi x y.1 r c y.2)).1) 0

/-- The gradient of coefficient `k` of cell (r, c) after the samples below `n`, from `start` (R266). -/
def scattered (x : Spline) (b : Block) (hx hg : Word) (half : Bool) (r c k n : Nat) (start : Word) : Word :=
  (List.range n).foldl (fun a s => match located x b hx s r with
    | some (_, .at j t _) =>
      if j ≤ k ∧ k < j + 4 then
        BitVec.ofNat 32 (rnAdd a.toNat (rnSixth ((f32Val (tileAt b hg s (16 * half.toNat + c))).mul
          (f32Val (basisAt t (k - j))))).1).1
      else a
    | _ => a) start

/-- The result of an output element with or without what the tile holds there. -/
def placed (acc : Bool) (b : Block) (key y : Nat) : Word :=
  BitVec.ofNat 32 (if acc then (rnAdd (b.tileElem key) y).1 else y)

/-- Coefficient `i` of a refined cell (R267), from those of the cell. -/
def refined (g : Nat) (c : Nat → Nat) (i : Nat) : Nat :=
  if 2 * g + 2 < i then 0
  else if i % 2 = 0 then (rnHalves 1 (.val (f32Val (rnAdd (c (i / 2)) (c (i / 2 + 1))).1))).1
  else (rnHalves 3 (.val (f32Val (rnAdd (rnAdd (c ((i + 1) / 2 - 1)) (c ((i + 1) / 2 + 1))).1
      (rnMulK 6 (c ((i + 1) / 2))).1).1))).1

/-- A tile element's key lies among those of a handle's rows and of 16 columns. -/
def outputKeys (b : Block) (h : Word) (n : Nat) (half : Bool) (key : Nat) : Prop :=
  ∃ s c, s < n ∧ c < 16 ∧ key = keyAt b h s (16 * half.toNat + c)

/-- What the spline words make of the coefficients and of the tiles, the operand buffer and the sets (R259, R263,
R266, R267). -/
def SplineValues : Prop :=
  ∀ (x : Spline) (b : Block) (hd hx hg : Word) (n : Nat) (half acc : Bool),
    (∀ k y, PlacedBy k y)
    ∧ (let t := ((SplineOp.spl hd hx n half acc).run x b).2.1.tiles
      (∀ s c, s < n → c < 16 → sparseGet 0 t (keyAt b hd s (16 * half.toNat + c))
        = placed acc b (keyAt b hd s (16 * half.toNat + c)) (outputOf x b hx s c))
      ∧ ∀ key, ¬ outputKeys b hd n half key → sparseGet 0 t key = sparseGet 0 b.tiles key)
    ∧ (let t := ((SplineOp.spld hd hx hg n half acc).run x b).2.1.tiles
      (∀ s r, s < n → r < 16 → sparseGet 0 t (keyAt b hd s (16 * half.toNat + r))
        = placed acc b (keyAt b hd s (16 * half.toNat + r)) (gradientOf x b hx hg half s r))
      ∧ ∀ key, ¬ outputKeys b hd n half key → sparseGet 0 t key = sparseGet 0 b.tiles key)
    ∧ ((∀ k ∈ x.sets, k.g ≤ 29) →
      let t := ((SplineOp.splg hd hx hg n half acc).run x b).2.1.tiles
      (∀ r c k, r < 16 → c < 16 → k < 32 →
        let key := tileKey (b.tileNo hd + r / 2) (r % 2 * 16 + c) k
        sparseGet 0 t key = scattered x b hx hg half r c k n (if acc then 0 else sparseGet 0 b.tiles key))
      ∧ ∀ key, (key < 1024 * b.tileNo hd ∨ 1024 * (b.tileNo hd + 8) ≤ key) →
        sparseGet 0 t key = sparseGet 0 b.tiles key)
    ∧ (∀ h ra rows r, b.resv? h = some r →
      let p := fun i k : Nat => r.base + handleOffset h + i * r.pitch + 4 * k
      (∀ i k, i < 16 * rows → k < 32 →
        ((SplineOp.load h ra rows).run x b).1.coefAt (ra + i / 16) (i % 16) k = readLE b.opbuf (p i k) 4)
      ∧ (∀ row c k, c < 16 → k < 32 → (row < ra ∨ ra + rows ≤ row) →
        ((SplineOp.load h ra rows).run x b).1.coefAt row c k = x.coefAt row c k)
      ∧ (128 ≤ r.pitch →
        (∀ i k, i < 16 * rows → k < 32 →
          readLE ((SplineOp.store h ra rows).run x b).2.1.opbuf (p i k) 4 = x.coefAt (ra + i / 16) (i % 16) k)
        ∧ ∀ a, (∀ i k, i < 16 * rows → k < 32 → a < p i k ∨ p i k + 4 ≤ a) →
          memGet ((SplineOp.store h ra rows).run x b).2.1.opbuf a = memGet b.opbuf a))
    ∧ ∀ k q, x.sets[k]? = some q →
      let y := ((SplineOp.gref k).run x b).1
      (∀ r c i, r < 16 → c < 16 → i < 32 → y.coefAt r c i =
        if q.mask.getLsbD r then refined q.g (x.coefAt r c) i % 2 ^ 32 else x.coefAt r c i)
      ∧ y.sets[k]? = some { q with g := 2 * q.g, invh := BitVec.ofNat 32 (rnMulK 2 q.invh.toNat).1 }
      ∧ ∀ j, j ≠ k → y.sets[j]? = x.sets[j]?

/-! ## Messages, snapshots and handler words -/

/-- Entries of SEND, RECV, NRED, SNAP and of the words of handler blocks (R278 to R334). -/
def sendEntry (sw : Bool) (a : Operand) (_ : Word) : Entry :=
  { sw, uses := [{ Use.src a 1 with ok := a.isV }], gd := true, closes := .unlessPaired, ahead := .skip }
def recvEntry (sw : Bool) (d : Operand) (_ : Word) : Entry :=
  { sw, uses := [{ Use.dst d 1 with ok := d.isV }], gd := true, closes := .unlessPaired, ahead := .poison }
def nredEntry (sw : Bool) (d a : Operand) (tree fn : BitVec 3) (m : Word) : Entry :=
  { sw, codes := Instr.codesOk (.nred sw d a tree fn),
    uses := [{ Use.dst d 1 with ok := d.isV }, { Use.src a 1 with ok := a.isV }],
    modeOk := [0, 1, 4].contains (tyOf m), gd := true, modeRead := true, closes := .unlessPaired,
    ahead := .poison }
def sysEntry (sw : Bool) (d a : Operand) (_ : Word) : Entry :=
  { sw, uses := [Use.wide d 1, Use.wide a 2], priv := true, ahead := .stop }
def fhgetEntry (sw : Bool) (d : Operand) (_ : Word) : Entry :=
  { sw, uses := [Use.wideDst d 2], priv := true, ahead := .stop }
def rttEntry (sw : Bool) (a : Operand) (_ : Word) : Entry :=
  { sw, uses := [Use.wide a 2], priv := true, ahead := .stop }

/-- First lane of a half, and the lanes of C in it. -/
def halfLane (half : Bool) : Nat := if half then 32 else 0
def halfLanes (c : Ctx) (half : Bool) : List Nat :=
  c.lanes.filter fun l => halfLane half ≤ l && l < halfLane half + 32

/-- The request, result or packet that a word leaves outstanding, and its warp: the named registers and
%status where `st` says so become pending. -/
def Asks (s u : State) (c : Ctx) (d : Operand) (n : Nat) (st : Bool) (P : Result → Prop) : Prop :=
  u.mem = s.mem ∧ u.accs = s.accs ∧ ∃ w' x, warpOf u s.cur = some w' ∧ w'.regs = c.w.regs
    ∧ w'.ctl.pc = nextPc c ∧ w'.pend = c.w.pend ++ (named d n ++ if st then [.status] else [])
    ∧ w'.results = c.w.results ++ [x] ∧ x.dst = some d ∧ x.regs = n ∧ P x

/-- The warp that RTT and SWR name, which a fault stopped or a halt holds, and the context, which is of
the word's own function and not being killed (R321, R322). -/
def Repairs (s : State) (c : Ctx) (x : Dword) (r : WarpRef) (b : Block) (w : Warp) : Prop :=
  s.target (x.extractLsb' 0 16).toNat (x.extractLsb' 16 16).toNat (x.extractLsb' 32 5).toNat = some (r, b, w)
    ∧ s.warp? r = some (b, w) ∧ (w.run = .stopped ∨ w.halted = true) ∧ w.evicted = false ∧ r ≠ s.cur
    ∧ (x.extractLsb' 0 16).toNat / 64 = c.g.vf
    ∧ ∃ k, s.ctx? (x.extractLsb' 0 16).toNat = some k ∧ k.killing = false

/-- What SWR of a kind and index writes: the register that it names, in the lane or octet named (R322). -/
def Repaired (kind idx : Nat) (x : Word) (w w' : Warp) : Prop :=
  match kind with
  | 0 => w'.ctl.pc = x.toNat
  | 1 => w'.ctl.mode = x
  | 2 => w'.ctl.status = x &&& 0xFFFFFF7F
  | 3 => sparseGet 0 w'.regs.w idx = x ∧ ∀ k, k ≠ idx → sparseGet 0 w'.regs.w k = sparseGet 0 w.regs.w k
  | 4 => ∀ k, sparseGet 0 w'.regs.v k = if k = idx then x else sparseGet 0 w.regs.v k
  | 5 => ∀ l, w'.preds l = if l = idx then (x.extractLsb' 0 8 ||| 1) else w.preds l
  | _ => ∀ k, sparseGet 0 w'.regs.o k = if k = idx then x else sparseGet 0 w.regs.o k

/-! ### Events -/

/-- An event happens, and leaves a state with a property. -/
def Happens (i : Instr) (s : State) (P : State → Prop) : Prop := ∃ t, exec i s = .next t ∧ P t

/-- The three memories hold the same bytes. -/
def SameMemory (s t : State) : Prop := t.mem = s.mem ∧ t.host = s.host ∧ t.low = s.low

/-- No partition has a frozen image, so that no write waits for the granary (R331). -/
def noFrozen (s : State) : Prop := ∀ v ∈ s.vfs, v.part.frozen = none

/-- The bytes from `p` on are `bs`, and every other byte of device memory is as it was. -/
def Holds (s t : State) (p : Nat) (bs : List Byte) : Prop :=
  readBytes t.mem p bs.length = bs
    ∧ ∀ a, a < p ∨ p + bs.length ≤ a → memGet t.mem a = memGet s.mem a

/-- Thread-slots that the warps of a window use (R88, R89). -/
def slotsOf (s : State) (picked : List (WarpRef × Block × Warp)) : Nat :=
  (picked.map fun x => if (s.candidate x).uniform then 0 else x.2.2.width).sum

/-- A warp is ready for a window: its next word has been fetched, and nothing stalls it (R88, R360). -/
def isReady (s : State) (x : WarpRef × Block × Warp) : Prop :=
  x.2.2.run = .ready ∧ x.2.2.mayIssue = true ∧ (x.2.2.fetched (s.imageOf x.2.1)).isSome = true
    ∧ s.lacksSlack x = false

/-- Warps that stand in the order of a window: the ready ones, and those whose wait the last event may have
ended (R88). -/
def readyAt (s : State) (core pipe : Nat) (x : WarpRef × Block × Warp) : Prop :=
  x ∈ s.warps ∧ x.2.1.core = core ∧ x.1.slot % 4 = pipe ∧ (isReady s x ∨ x.1 ∈ s.stirred)

/-- What a window packs (R88, R89): at most four ready warps in 64 thread-slots and one uniform word;
a warp is left out only for want of room, and never behind one as wide that comes later. -/
def Packed (s : State) (core pipe : Nat) (picked : List (WarpRef × Block × Warp)) : Prop :=
  (∀ x ∈ picked, readyAt s core pipe x) ∧ picked.length ≤ 4 ∧ slotsOf s picked ≤ 64
    ∧ (picked.filter fun x => (s.candidate x).uniform).length ≤ 1
    ∧ ∀ y, readyAt s core pipe y → y ∉ picked →
        (picked.length = 4 ∨ if (s.candidate y).uniform then ∃ x ∈ picked, (s.candidate x).uniform = true
          else 64 < slotsOf s picked + y.2.2.width)
        ∧ ∀ x ∈ picked, (s.candidate x).uniform = (s.candidate y).uniform → y.2.2.width ≤ x.2.2.width →
            (s.candidate y).before (s.candidate x) = false

/-- A result that is complete and that nothing holds back: written to `i` of each lane (R91). -/
def plainResult (s : State) (x : Result) (i : BitVec 6) : Prop :=
  x.need = 0 ∧ x.due ≤ s.now ∧ x.ready = true ∧ x.after = (0, 0) ∧ x.pair = none ∧ x.write = true
    ∧ x.discard = false ∧ x.judged = false ∧ x.late = false ∧ x.event = none ∧ x.dst = some (.v i)
    ∧ x.regs = 1

/-- The virtual address of a warp's next word. -/
def nextVa (s : State) (b : Block) (w : Warp) : Dword := s.imageOf b + BitVec.ofNat 64 w.ctl.pc

/-- A walk of a core for an address starts from empty TLBs (R294). -/
def untranslated (s : State) (core ctx va : Nat) : Prop :=
  (∀ e ∈ (s.core core).dtlb, e.covers ctx va = false)
    ∧ ∀ e ∈ (s.cluster (clusterOf core)).tlb, e.covers ctx va = false

/-- A write to a completion word is under way (R85): the last access, an atomic on 8 bytes at `pa`. -/
def Completes (s t : State) (pa : Nat) (fn : RemoteKind) (x : Dword) : Prop :=
  ∃ a, t.accs = s.accs ++ [a] ∧ a.kind = .atomic fn 3 ∧ a.pa = pa / 8 * 8 ∧ a.width = 8
    ∧ a.data = x.setWidth 128 ∧ a.after = [] ∧ a.remote = false

/-- A stop record waits in a context's queue behind the ones that did (R308). -/
def Notices (s t : State) (ctx : Nat) (record : Word) (pc addr : Dword) : Prop :=
  ∀ c, s.ctx? ctx = some c → ∃ c' x, t.ctx? ctx = some c' ∧ c'.stops = c.stops ++ [x]
    ∧ x.record = record ∧ x.core = 0xFFFF ∧ x.pc = pc ∧ x.addr = addr

/-- The packet that a queue's entry names, read whole (R370). -/
def entryRead (s : State) (vf q ctx : Nat) (va : Dword) (bs : List Byte) : Prop :=
  (s.vf vf).posted = [] ∧ s.entry vf q = some (va, ctx) ∧ va.toNat % 64 = 0 ∧ s.dispatcherRead ctx va.toNat 128 = .ok bs

/-- A resident block that has just started on a core (R79, R83, R236). -/
def Started (t : State) (l : Launch) (index core : Nat) (trail : Bool) (now : Nat) : Prop :=
  ∃ b ∈ t.blocks, b.grid = l.grid ∧ b.index = index ∧ b.core = core ∧ b.trail = trail ∧ b.layout = 0
    ∧ b.b = [] ∧ b.scratch = [] ∧ b.tags = [] ∧ b.opbuf = [] ∧ b.tiles = [] ∧ b.resvs = [] ∧ b.allocs = []
    ∧ (∀ x ∈ b.rings, ∀ y ∈ x.stages, y = { phase := false, left := x.expect })
    ∧ ∀ w ∈ b.warps, w.run = .ready ∧ w.ctl.pc = (l.desc.layouts.head?.map Layout.entry).getD 0
      ∧ w.ctl.active = fullMask w.width ∧ w.ctl.mode = 0 ∧ w.ctl.status = 0 ∧ w.ctl.stack = []
      ∧ w.ctl.loops = [] ∧ w.ctl.depth = 0 ∧ w.ctl.draw = 0 ∧ w.flt.ckpc = 0 ∧ w.flt.word = 0
      ∧ w.regs = { v := [], o := [], w := [], p := [] } ∧ w.born = now ∧ w.pend = [] ∧ w.eng = []

/-- A result of a warp gets the value of one lane (R90, R184). -/
def Fed (s t : State) (r : WarpRef) (rid lane v : Nat) : Prop :=
  ∀ w, warpOf s r = some w → ∀ x ∈ w.results, x.id = rid → ∃ w' y, warpOf t r = some w'
    ∧ y ∈ w'.results ∧ y.id = rid ∧ y.need = x.need - 1
    ∧ sparseGet 0 y.vals lane = BitVec.ofNat 128 v

/-- A local access that nothing holds: it lies in device memory, and no write waits at its slice. -/
def ready (s : State) (a : Acc) : Prop :=
  s.accs.find? (fun x => x.id == a.id) = some a ∧ a.after = [] ∧ a.remote = false
    ∧ a.pa + a.width ≤ Config.dramBytes ∧ ∀ x ∈ s.accs, x.waits = false

/-- The access is over. -/
def Performs (t : State) (a : Acc) : Prop := ∀ x ∈ t.accs, x.id ≠ a.id ∧ a.id ∉ x.after

/-- What an access leaves at its address, but for the floating types (R180, R185, R190). -/
def newOf (a : Acc) (old : Nat) : Option Nat :=
  let m := 2 ^ (8 * a.width)
  let x := a.data.toNat % m
  match a.kind with
  | .store => some x
  | .relInc => if a.width = 8 then some ((old + 1) % m) else none
  | .atomic fn ty =>
    let value (n : Nat) : Int := if ty.toNat % 2 = 0 then toSigned (8 * a.width) n else n
    if 4 ≤ ty.toNat then none
    else match fn with
      | .add => some ((old + x) % m)
      | .min => some (if value old < value x then old else x)
      | .max => some (if value old < value x then x else old)
      | .and => some (Nat.land old x)
      | .or => some (Nat.lor old x)
      | .xor => some (Nat.xor old x)
      | .exch => some x
      | .cas => some (if old = x then a.data.toNat / m % m else old)
      | _ => none
  | _ => none

/-- No copy of the block holds a write back (R353). -/
def allMatched (b : Block) : Prop := ∀ w ∈ b.warps, w.heldEntries = []

/-- A remote request is turned away by the window of its function (R375, R366). -/
def outsideWindow (v : Vf) (q : RemoteReq) : Prop :=
  v.ctl.getLsbD 16 = false ∨ v.wsize.toNat / 4 * 4 < q.off + q.width
    ∨ v.wsize.getLsbD (if q.kind = .load then 0 else 1) = false
    ∨ Config.dramBytes < v.wbase.toNat + q.off + q.width

/-- The 256 bytes of cursors of a command's warp in the save area (R221, R316). -/
def cursorBytes (s : State) (b : Block) (c : Cmd) (a : Nat) : Prop :=
  ∃ area, s.saveArea c.ctx = some area
    ∧ area + recordOffset b.core (b.place c.slot) + 0x5000 ≤ a
    ∧ a < area + recordOffset b.core (b.place c.slot) + 0x5100

/-- A channel's end of a block of a grid, and the block under its own number. -/
def chanAt (s : State) (grid dest : Nat) (trail : Bool) (chan : Nat) (b : Block) (e : ChanEnd) : Prop :=
  s.blockAt grid dest trail = some b ∧ s.block? b.id = some b ∧ b.chans[chan]? = some e

/-- A router sends a round on with what it holds: to its parent, or at the root, without `allreduce`, as the
round's result, unless two later rounds have theirs (R284, R285, R286); no warp stops. -/
def Forwards (s t : State) (g : Grid) (td : TreeDesc) (x : TreeRound) (pkts : List TreePkt) : Prop :=
  let none' : TreeVal := { vals := [], fn := 0, ty := 0, missing := 0, flags := 0, gen := 0 }
  let v : TreeVal := { (g.arrived td x).foldl treeStep none' with missing := g.missing td x }
  (x.pos ≠ 0 → ∃ p, t.treePkts = pkts ++ [p] ∧ p.grid = g.id ∧ p.tree = x.tree ∧ p.round = x.round
      ∧ p.pos = td.parent x.pos ∧ p.src = .child x.pos ∧ p.val = v)
    ∧ (x.pos = 0 → td.allreduce = false →
      (g.trees.filter fun y => y.tree == x.tree && y.pos == 0 && y.result.isSome
        && decide (x.round < y.round)).length ≤ 1 → ∃ g' y rep, t.grid? g.id = some g'
      ∧ g'.round? x.tree x.round 0 = some y ∧ y.sent = true ∧ y.result = some (v, rep)
      ∧ (rep.extractLsb' 8 8).toNat = Nat.min 255 (g.missing td x))
    ∧ t.ctxs.map (fun c => (c.id, c.killing, c.stops)) = s.ctxs.map fun c => (c.id, c.killing, c.stops)

/-- No two inputs of a round name different functions or types (R284). -/
def agreed (g : Grid) (td : TreeDesc) (x : TreeRound) : Prop :=
  ∀ u ∈ g.arrived td x, ∀ v ∈ g.arrived td x, u.clash v = false

/-- A tree packet that is the next of its source, at a router of its grid (R283, R284). -/
def arriving (s : State) (p : TreePkt) (g : Grid) (td : TreeDesc) : Prop :=
  s.treePkts.find? (fun x => x.id == p.id) = some p ∧ s.treePkts.find? p.same = some p
    ∧ s.grid? p.grid = some g ∧ g.desc.trees[p.tree]? = some td

/-- A warp as it is once restored, its block's state back on the core (R314). -/
def broughtBack (s : State) (r : WarpRef) : State :=
  s.updBlock r.blk fun b => { (b.updWarp r.slot fun w =>
    { w with evicted := false, born := s.now, since := s.now }) with spilled := [] }

/-- A warp is at its next word or parked: nothing holds it, and no fault or rollback waits (R317). -/
def atNext (w : Warp) : Prop :=
  w.halted = false ∧ w.run ≠ .stopped ∧ w.run ≠ .faulting ∧ w.run ≠ .rollback ∧ w.run ≠ .exited
    ∧ ∀ l, w.run ≠ .held l

/-- A block but for how long its warps have been ready. -/
def ageless (b : Block) : Block :=
  { b with warps := b.warps.map fun (w : Warp) => { w with since := 0, awake := false } }

/-- The host's writes through a function's windows have all been performed (R364). -/
def settled (s : State) (vf : Nat) : Prop := (s.vf vf).posted = [] ∧ s.hostPending vf = []

/-- The same functions, number by number. -/
def SameVfs (s t : State) : Prop := ∀ k, t.vf k = s.vf k

/-- The device-wide registers once the host has reached the part: the link has been used, and the device is
awake (R385). -/
def reached (s : State) : Device := { s.dev with linkAt := s.now, deviceIdle := 0 }

/-- The package power is above the cap, or the die at 105 °C (R387). -/
def tooHot (s : State) (die time : Nat) : Prop :=
  s.dev.cap.toNat < (Config.powerReading time).toNat ∨ 105 ≤ (Config.dieTemp die time).toNat

/-- Neither has held in the last 10 ms. -/
def coolSince (s : State) (die : Nat) : Prop :=
  sparseGet 0 s.dev.slowAt die + 20000000 ≤ s.now
    ∧ ∀ k, k < 20000000 → k ≤ s.now → ¬ tooHot s die (s.now - k)

/-- The boot ROM accepts a firmware image (R379). -/
def Accepted (s : State) (image : Nat) : Prop :=
  Config.imageKey image = Config.fuseKey ∧ Config.imageVerifies image = true
    ∧ s.dev.fuseMin.toNat ≤ (Config.imageVersion image).toNat

/-- The running step of bring-up is past its limit, in milliseconds at 2.0 GHz (R389). -/
def tooLate (s : State) : Prop :=
  s.dev.bootAt + 2000000 * ([50, 300, 2000, 1000, 1000, 200][s.dev.boot - 1]?).getD 0 < s.now

/-- The two copies of a warp of a redundant pair (R350). -/
def copies (s : State) (r : WarpRef) (lead trail : Block) (l t : Warp) : Prop :=
  s.pairOf r = some (lead, trail) ∧ lead.id ≠ trail.id ∧ s.block? lead.id = some lead
    ∧ s.block? trail.id = some trail ∧ lead.warp? r.slot = some l ∧ trail.warp? r.slot = some t

/-- The same warp number in a block. -/
def inBlock (b : Block) (r : WarpRef) : WarpRef := { blk := b.id, slot := r.slot }

/-- A copy restarts at its checkpoint; of its unmatched windows and entries none stays from place `cut` of its
order on (R312, R351, R355, log row 84). -/
def Restarts (t : State) (r : WarpRef) (w : Warp) (c : Checkpoint) (cut : Nat) : Prop :=
  ∃ w', warpOf t r = some w' ∧ w'.run = .ready ∧ w'.regs = c.regs ∧ w'.ctl.pc = c.pc
    ∧ w'.ctl.mode = c.mode ∧ w'.ctl.active = c.active ∧ w'.ctl.stack = c.stack
    ∧ (∀ z ∈ w'.store.closed ++ w'.engine.closed, z.matched = true ∨ ∀ e ∈ z.entries, e.order < cut)
    ∧ (∀ e ∈ w'.store.entries ++ w'.engine.entries, e.order < cut)
    ∧ w'.flt.retry = w.flt.retry + 1

/-- A result that the generation controller or another unit completes for a warp. -/
def Answered (s t : State) (r : WarpRef) (rid : Nat) (ev : BitVec 8) : Prop :=
  ∀ w, warpOf s r = some w → ∀ x ∈ w.results, x.id = rid → ∃ w' y, warpOf t r = some w'
    ∧ y ∈ w'.results ∧ y.id = rid ∧ y.ready = true ∧ y.event = some (ev, 0)

/-- A write that belongs to the newest generation of the partition it lies in, whose image is frozen
(R330). -/
def newWrite (s : State) (a : Acc) (v : Nat) (f : Frozen) : Prop :=
  s.accs.find? (fun x => x.id == a.id) = some a ∧ a.remote = false ∧ a.kind.writes = true ∧ a.after = []
    ∧ s.vfAt a.pa = some v ∧ (s.vf v).part.frozen = some f ∧ a.gen = some (s.vf v).part.gen

/-- A record of a kind waits in the error log (R344). -/
def Logged (t : State) (kind : Nat) (d : Domain) (location : Nat) : Prop :=
  ∃ x ∈ t.dev.logWait, x.kind = kind ∧ x.domain = domainCode d ∧ x.location = location

/-- A part reset leaves nothing resident and nothing in flight, keeps the maps, and starts bring-up again
(R388, R389). -/
def FreshPart (s t : State) : Prop :=
  t.blocks = [] ∧ t.grids = [] ∧ t.ctxs = [] ∧ t.launches = [] ∧ t.vfs = [] ∧ t.cores = [] ∧ t.clusters = []
    ∧ t.accs = [] ∧ t.cmds = [] ∧ t.messages = [] ∧ t.snaps = [] ∧ t.dev.boot = 1 ∧ t.dev.cap = 1800
    ∧ t.dev.debug = 0 ∧ t.dev.remap = s.dev.remap ∧ t.dev.nospare = s.dev.nospare
    ∧ t.dev.absent = s.dev.absent ∧ t.dev.banksUsed = s.dev.banksUsed ∧ t.host = s.host ∧ t.low = s.low

/-! ## Encoding, the step, reset and the invariant -/

/-- Majors that name no instruction (R46). -/
def unassigned : List Nat := [0x3E, 0x3F, 0x47, 0x5F]

/-- A word's major opcode (R31). -/
def majorOf (x : Word) : Nat := (x.extractLsb' 24 7).toNat

end Sys2Proof.Claims

section Claims

open Sys2Proof Sys2Proof.Machine Sys2Proof.Claims

/-! ## Lane arithmetic -/

/-- R132: a lane word that no check stops, and whose values agree where its destination asks for it,
completes with the destination written in the lanes of C and the flags of every lane set. R134, R135,
R154: FRCP to FCOSPI complete with their result outstanding; with no lane in C there is nothing to
write. -/
def Obligations.LaneWordsComplete : Prop :=
  (∀ (i : Instr) (x : LaneForm) (s : State) (c : Ctx), laneForm i = some x → s.Issues x.entry c →
      destFault x.dest (x.values c) = none →
      exec i s = .next (c.completes x.entry
        ((s.writeDest s.cur x.dest (x.regs c.mode) (x.values c)).updWarp s.cur fun w =>
          w.orFlags (x.flags c))))
  ∧ (∀ (i : Instr) (x : LaneForm) (s : State) (c : Ctx), lateForm i = some x → s.Issues x.entry c →
      exec i s = .next (c.completes x.entry
        (if c.lanes = [] then s else s.pushResult s.cur (x.outstanding s c))))

/-- R115, R132: in every lane that receives a value, the destination register then reads it. -/
def Obligations.LaneResultIsRead : Prop :=
  ∀ (i : Instr) (x : LaneForm), laneForm i = some x →
    Gives i fun c l y => y = (x.value c l).1 % 2 ^ (32 * x.regs c.mode)

/-- R136 to R139, integer types: ADD, SUB, MUL, MAD, MSB, ABS and NEG give the exact result modulo
2^width, or saturated under sat; MULH, of integer types alone, the high half of the double-width product,
with no flag; MIN and MAX the lesser and greater. -/
def Obligations.IntegerArithmeticIsExact : Prop :=
  ∀ (sw : Bool) (d a b : Operand),
    (Gives (.add sw d a b) fun c l y => IntElements c y fun n => num c l a n + num c l b n)
    ∧ (Gives (.sub sw d a b) fun c l y => IntElements c y fun n => num c l a n - num c l b n)
    ∧ (Gives (.mul sw d a b) fun c l y => IntElements c y fun n => num c l a n * num c l b n)
    ∧ (Gives (.mad sw d a b) fun c l y => IntElements c y fun n =>
        num c l a n * num c l b n + num c l d n)
    ∧ (Gives (.msb sw d a b) fun c l y => IntElements c y fun n =>
        num c l d n - num c l a n * num c l b n)
    ∧ (Gives (.abs sw d a) fun c l y => IntElements c y fun n => |num c l a n|)
    ∧ (Gives (.neg sw d a) fun c l y => IntElements c y fun n => -num c l a n)
    ∧ (Gives (.mulh sw d a b) fun c l y => ty c ∈ tyInt → ∀ n, n < tyCount (ty c) →
        (elem y n (wd c) : Int) = num c l a n * num c l b n / 2 ^ wd c % 2 ^ wd c)
    ∧ Accepts (.mulh sw d a b) tyInt
    ∧ encode (.mulh false (.v 3) (.v 1) (.v 2)) = some 0x13030102
    ∧ (Gives (.min sw d a b) fun c l y => ty c ∈ tyInt → ∀ n, n < tyCount (ty c) →
        elem y n (wd c) = if num c l a n < num c l b n then el c l a n else el c l b n)
    ∧ (Gives (.max sw d a b) fun c l y => ty c ∈ tyInt → ∀ n, n < tyCount (ty c) →
        elem y n (wd c) = if num c l a n < num c l b n then el c l b n else el c l a n)

/-- R141: AND, OR, XOR and NOT accept every type, which they read only for the width: 64 bits under codes 2, 3
and 5, else 32; they work on each bit, and set no flag. -/
def Obligations.BitwiseWordsWorkOnEachBit : Prop :=
  ∀ (sw : Bool) (d a b : Operand),
    (Gives (.and sw d a b) fun c l y => ∀ k, k < 32 * regs c →
      y.testBit k = ((c.val l a (regs c)).testBit k && (c.val l b (regs c)).testBit k))
    ∧ (Gives (.or sw d a b) fun c l y => ∀ k, k < 32 * regs c →
      y.testBit k = ((c.val l a (regs c)).testBit k || (c.val l b (regs c)).testBit k))
    ∧ (Gives (.xor sw d a b) fun c l y => ∀ k, k < 32 * regs c →
      y.testBit k = ((c.val l a (regs c)).testBit k != (c.val l b (regs c)).testBit k))
    ∧ (Gives (.not sw d a) fun c l y => ∀ k, k < 32 * regs c →
      y.testBit k = !(c.val l a (regs c)).testBit k)
    ∧ (∀ i ∈ [Instr.and sw d a b, .or sw d a b, .xor sw d a b, .not sw d a],
        Accepts i (List.range 15))
    ∧ (∀ c : Ctx, regs c = if ty c = 2 ∨ ty c = 3 ∨ ty c = 5 then 2 else 1)
    ∧ encode (.and false (.v 1) (.v 2) (.v 3)) = some 0x19010203
    ∧ encode (.or false (.v 1) (.v 2) (.v 3)) = some 0x1A010203
    ∧ encode (.xor false (.v 1) (.v 2) (.v 3)) = some 0x1B010203
    ∧ encode (.not false (.v 1) (.v 2)) = some 0x1C010200

/-- R142: SHL, SHR and SAR, with every count: SHL and SHR fill with 0, SAR with the sign bit; integer types
alone, and no flag. -/
def Obligations.ShiftsFillAndDrop : Prop :=
  ∀ (sw : Bool) (d a b : Operand),
    (Gives (.shl sw d a b) fun c l y => ∀ n, n < tyCount (ty c) → ∀ k, k < wd c →
      (elem y n (wd c)).testBit k =
        (decide (count c l b n ≤ k) && (el c l a n).testBit (k - count c l b n)))
    ∧ (Gives (.shr sw d a b) fun c l y => ∀ n, n < tyCount (ty c) → ∀ k, k < wd c →
      (elem y n (wd c)).testBit k =
        (decide (k + count c l b n < wd c) && (el c l a n).testBit (k + count c l b n)))
    ∧ (Gives (.sar sw d a b) fun c l y => ∀ n, n < tyCount (ty c) → ∀ k, k < wd c →
      (elem y n (wd c)).testBit k =
        (el c l a n).testBit (if k + count c l b n < wd c then k + count c l b n else wd c - 1))
    ∧ (∀ i ∈ [Instr.shl sw d a b, .shr sw d a b, .sar sw d a b], Accepts i [0, 1, 2, 3, 8, 9])
    ∧ encode (.shl false (.v 1) (.v 2) (.v 3)) = some 0x1D010203
    ∧ encode (.shr false (.v 1) (.v 2) (.v 3)) = some 0x1E010203
    ∧ encode (.sar false (.v 1) (.v 2) (.v 3)) = some 0x1F010203

/-- R143, R144: counts of bits, reversed bits, and bit fields, under the 32-bit and 64-bit integer types
alone, and with no flag. -/
def Obligations.BitFieldWords : Prop :=
  ∀ (sw : Bool) (d a b : Operand),
    (Gives (.popc sw d a) fun c l y =>
      y = ((List.range (32 * regs c)).filter (c.val l a (regs c)).testBit).length)
    ∧ (Gives (.clz sw d a) fun c l y => y ≤ 32 * regs c
      ∧ (∀ k, k < y → (c.val l a (regs c)).testBit (32 * regs c - 1 - k) = false)
      ∧ (y < 32 * regs c → (c.val l a (regs c)).testBit (32 * regs c - 1 - y) = true))
    ∧ (Gives (.brev sw d a) fun c l y => ∀ k, k < 32 * regs c →
      y.testBit (32 * regs c - 1 - k) = (c.val l a (regs c)).testBit k)
    ∧ (Gives (.bfx sw d a b) fun c l y =>
      let p := (c.opd l b).toNat % 256
      let q := min ((c.opd l b).toNat / 256 % 256) (32 * regs c - p)
      ∀ k, k < 32 * regs c → y.testBit k =
        if 32 * regs c ≤ p ∨ q = 0 then false
        else if k < q then (c.val l a (regs c)).testBit (p + k)
        else tySigned (ty c) && (c.val l a (regs c)).testBit (p + q - 1))
    ∧ (Gives (.bfi sw d a b) fun c l y =>
      let p := (c.opd l b).toNat % 256
      let q := min ((c.opd l b).toNat / 256 % 256) (32 * regs c - p)
      ∀ k, k < 32 * regs c → y.testBit k =
        if p ≤ k ∧ k < p + q then (c.val l a (regs c)).testBit (k - p)
        else (c.val l d (regs c)).testBit k)
    ∧ (∀ i ∈ [Instr.popc sw d a, .clz sw d a, .brev sw d a, .bfx sw d a b, .bfi sw d a b],
        Accepts i [0, 1, 2, 3])
    ∧ encode (.popc false (.v 1) (.v 2)) = some 0x22010200
    ∧ encode (.clz false (.v 1) (.v 2)) = some 0x23010200
    ∧ encode (.brev false (.v 1) (.v 2)) = some 0x24010200
    ∧ encode (.bfx false (.v 1) (.v 2) (.w 0)) = some 0x25010260
    ∧ encode (.bfi false (.v 1) (.v 2) (.w 0)) = some 0x26010260

/-- R146, R147: SEL gives A in the lanes of ACTIVE where the guard holds and B in the others; MOV, MOVI and
MOVH move values. SEL and MOV accept every type, for the width alone; MOVI and MOVH read none, and none
of the four sets a flag. -/
def Obligations.MovesAndSelect : Prop :=
  ∀ (sw : Bool) (d a b : Operand) (imm : BitVec 16),
    (Gives (.mov sw d a) fun c l y => y = c.val l a (regs c))
    ∧ (Gives (.movi sw d imm) fun _ _ y => y = (imm.signExtend 32).toNat)
    ∧ (Gives (.movh sw d imm) fun c l y => y = (imm ++ (c.opd l d).extractLsb' 0 16).toNat)
    ∧ (Gives (.sel sw d a b) fun c l y => y = c.val l
        (if c.w.pred l (c.mode.extractLsb' 0 3).toNat != c.mode.getLsbD 3 then a else b) (regs c))
    ∧ (∀ i ∈ [Instr.mov sw d a, .sel sw d a b], Accepts i (List.range 15))
    ∧ (∀ i ∈ [Instr.movi sw d imm, .movh sw d imm], Accepts i (List.range 16))
    ∧ (∀ (x : LaneForm) (c : Ctx), laneForm (.sel sw d a b) = some x →
        c = mkCtx c.s c.r c.b c.w c.g (x.entry c.mode) → modeGd c.mode ≠ 8 → c.uni = false → c.lanes = c.act)
    ∧ (∀ (x : LaneForm) (c : Ctx), laneForm (.sel sw d a b) = some x →
        c = mkCtx c.s c.r c.b c.w c.g (x.entry c.mode) → modeGd c.mode = 8 → c.outLanes = [])
    ∧ encode (.sel false (.v 3) (.v 1) (.v 2)) = some 0x27030102
    ∧ encode (.mov false (.v 4) (.v 2)) = some 0x29040200
    ∧ encode (.movi false (.v 7) (-1)) = some 0x2A07FFFF
    ∧ encode (.movh false (.v 7) 0x4B80) = some 0x2B074B80

/-- R140: ADDC and SUBB complete; D reads the sum or difference modulo 2^32, and p7 the carry or borrow
in the lanes of C alone; where the values of D disagree, the fault is all that happens; types s32 and n32
alone; no flag. -/
def Obligations.CarryChain : Prop :=
  ∀ (sw : Bool) (d a b : Operand) (s : State) (c : Ctx), s.Issues (carries sw d a b) c →
    (ty c = 0 ∨ ty c = 1)
    ∧ (destFault d (c.lanes.map fun l =>
        (l, ((c.opd l a).toNat + (c.opd l b).toNat + carryIn c l) % 2 ^ 32)) = none →
      ∃ t, exec (.addc sw d a b) s = .next t ∧ t.cur = s.cur
        ∧ (sw = false → d ≠ .sp 20 → t.operand s.cur 0 (.sp 20) = c.w.ctl.status) ∧ ∀ l, l < 64 →
        (l ∈ c.lanes → d.isReg = true →
          t.operand s.cur l d = c.opd l a + c.opd l b + BitVec.ofNat 32 (carryIn c l))
        ∧ predOf t l 7 = if l ∈ c.lanes then
            decide (2 ^ 32 ≤ (c.opd l a).toNat + (c.opd l b).toNat + carryIn c l) else predOf s l 7)
    ∧ (∀ f, destFault d (c.lanes.map fun l =>
        (l, ((c.opd l a).toNat + (c.opd l b).toNat + carryIn c l) % 2 ^ 32)) = some f →
      exec (.addc sw d a b) s = .next (s.takeFault s.cur f c.w.ctl.pc))
    ∧ (destFault d (c.lanes.map fun l =>
        (l, ((c.opd l a).toNat + 2 ^ 33 - (c.opd l b).toNat - carryIn c l) % 2 ^ 32)) = none →
      ∃ t, exec (.subb sw d a b) s = .next t ∧ t.cur = s.cur
        ∧ (sw = false → d ≠ .sp 20 → t.operand s.cur 0 (.sp 20) = c.w.ctl.status) ∧ ∀ l, l < 64 →
        (l ∈ c.lanes → d.isReg = true →
          t.operand s.cur l d = c.opd l a - c.opd l b - BitVec.ofNat 32 (carryIn c l))
        ∧ predOf t l 7 = if l ∈ c.lanes then
            decide ((c.opd l a).toNat < (c.opd l b).toNat + carryIn c l) else predOf s l 7)
    ∧ (∀ f, destFault d (c.lanes.map fun l =>
        (l, ((c.opd l a).toNat + 2 ^ 33 - (c.opd l b).toNat - carryIn c l) % 2 ^ 32)) = some f →
      exec (.subb sw d a b) s = .next (s.takeFault s.cur f c.w.ctl.pc))

/-- R145: CMP completes; its predicate holds the condition in the lanes of C, of two integers, of two floating
values, of which −0 equals +0, or of a NaN, and of the bits alone under tst; every other predicate and
every other lane is as before; NV is set when a lane compares a NaN for order, and nothing else. -/
def Obligations.CompareWritesItsPredicate : Prop :=
  ∀ (sw : Bool) (cond : BitVec 4) (pd : BitVec 3) (a b : Operand) (s : State) (c : Ctx),
    s.Issues (compares sw cond pd a b) c →
    ∃ t, exec (.cmp sw cond pd a b) s = .next t ∧ t.cur = s.cur
      ∧ (∀ l k, k < 8 → ¬ (l ∈ c.lanes ∧ k = pd.toNat) → predOf t l k = predOf s l k)
      ∧ (∀ l, l ∈ c.lanes → ty c ∈ tyInt → predOf t l pd.toNat =
          intCond cond.toNat (num c l a 0) (num c l b 0)
            (Nat.land (c.val l a (regs c)) (c.val l b (regs c)) != 0))
      ∧ (∀ l, l ∈ c.lanes → nanIn c l a b = true → cond ≠ 8 →
          predOf t l pd.toNat = (cond == 1 || cond == 6))
      ∧ (∀ l, l ∈ c.lanes → nanIn c l a b = false → cond ≠ 8 → ∀ f, tyFmt (ty c) = some f →
          (predOf t l pd.toNat = true ↔
            floatCond cond.toNat (f.decode (c.val l a (regs c))) (f.decode (c.val l b (regs c)))))
      ∧ (∀ l, l ∈ c.lanes → cond = 8 →
          predOf t l pd.toNat = (Nat.land (c.val l a (regs c)) (c.val l b (regs c)) != 0))
      ∧ (sw = false → t.operand s.cur 0 (.sp 20) = c.w.ctl.status |||
          if (c.lanes.any fun l => nanIn c l a b) ∧ 2 ≤ cond.toNat ∧ cond.toNat ≤ 5 then 1 else 0)

/-- R151: UNPK completes where every lane's index names an element, and gives the element widened; a lane
with an index beyond the last raises RANGE. -/
def Obligations.UnpackChecksItsIndex : Prop :=
  ∀ (sw : Bool) (d a b : Operand) (s : State) (c : Ctx), s.Issues (unpacks sw d a b) c →
    ((∀ l ∈ c.lanes, (c.opd l b).toNat < tyCount (ty c)) →
      destFault d (c.spread (c.lanes.map fun l =>
        (l, widen (ty c) (elem (c.opd l a).toNat (c.opd l b).toNat (wd c))))) = none →
      ∃ t, exec (.unpk sw d a b) s = .next t ∧ ∀ l ∈ c.outLanes, d.isReg = true →
        (t.operand s.cur l d).toNat =
          widen (ty c) (elem (c.opd (c.giver l) a).toNat (c.opd (c.giver l) b).toNat (wd c))
          ∧ (ty c ∈ tyInt ∨ ty c = 10 ∨ ty c = 11 → (t.operand s.cur l d).toInt % 2 ^ 32 =
            intVal (ty c) (elem (c.opd (c.giver l) a).toNat (c.opd (c.giver l) b).toNat (wd c)) % 2 ^ 32))
    ∧ ((∃ l ∈ c.lanes, tyCount (ty c) ≤ (c.opd l b).toNat) →
      ∃ m, exec (.unpk sw d a b) s = .next
        (s.takeFault s.cur { faultAt fcRange 1 with lanes := m } c.w.ctl.pc))

/-- R54, R58, R60 to R62: rounding a value that the format has gives that value again, in every rounding
mode and with no flag. A finite value lies between two neighbours of the format, and goes to the one that the
mode names: to the nearer, to the lesser, toward zero, or by the draw. NX says that it was not exact; beyond
the largest finite value OF is set too. -/
def Obligations.RoundingKeepsRepresentableValues : Prop :=
  ∀ f ∈ [Fmt.f64, Fmt.f32, Fmt.h16, Fmt.b16, Fmt.e5m2, Fmt.e4m3, Fmt.e2m1],
    (∀ (rd : Rd) (sat : Bool) (x : Nat), x < 2 ^ f.width → f.decode x ≠ .nan →
      f.round rd sat (f.decode x) = (x, 0))
    ∧ ∀ (rd : Rd) (sat neg : Bool) (mag exp : Nat), mag ≠ 0 →
      let y := f.round rd sat (.fin neg mag exp)
      ∃ q k up, q * 2 ^ k ≤ mag * 2 ^ exp ∧ mag * 2 ^ exp < (q + 1) * 2 ^ k ∧ q < 2 ^ (f.mbits + 1)
        ∧ (2 ^ f.mbits ≤ q ∨ k = expZero + 1 - f.bias - f.mbits)
        ∧ up = (if goesUp rd neg q (mag * 2 ^ exp - q * 2 ^ k) (2 ^ k) then 1 else 0)
        ∧ ∃ top high, f.decode (f.maxFinite false) = .fin false top high
          ∧ ((q + up) * 2 ^ k ≤ top * 2 ^ high → y.2.getLsbD 2 = false
            ∧ (∃ m e, f.decode y.1 = .fin neg m e ∧ m * 2 ^ e = (q + up) * 2 ^ k)
            ∧ (y.2.getLsbD 4 = true ↔ mag * 2 ^ exp ≠ q * 2 ^ k))
          ∧ (top * 2 ^ high < (q + up) * 2 ^ k → y.2.getLsbD 2 = true ∧ y.2.getLsbD 4 = true)

/-- R58: a NaN in a source of ADD, SUB, MUL, MIN, MAX, MAD or MSB, of which D is one for MAD and MSB, gives the
canonical NaN of the type. -/
def Obligations.NaNGivesTheCanonicalNaN : Prop :=
  ∀ (sw : Bool) (d a b : Operand) (i : Instr),
    (i ∈ [.add sw d a b, .sub sw d a b, .mul sw d a b, .min sw d a b, .max sw d a b, .mad sw d a b,
      .msb sw d a b] →
    Gives i fun c l y => ∀ f, tyFmt (ty c) = some f → ty c ∈ tyFlt → ∀ n, n < tyCount (ty c) →
      ((f.decode (el c l a n)).isNan || (f.decode (el c l b n)).isNan) = true →
      elem y n (wd c) = f.nan)
    ∧ (i ∈ [.mad sw d a b, .msb sw d a b] →
      Gives i fun c l y => ∀ f, tyFmt (ty c) = some f → ty c ∈ tyFlt → ∀ n, n < tyCount (ty c) →
        (f.decode (el c l d n)).isNan = true → elem y n (wd c) = f.nan)

/-- The frame of the lane words (R66, R110, R132, R160): with a register or %zero as destination, such a
word changes no memory, no other warp and no unit; every register but its destination in the lanes that
receive a value holds what it held; of the special operands %status gains sticky flags, %draw rises by
one where the word draws, and %cychi takes the upper half of the cycle count where the word names %cyclo as a
source, with lanes in C or without (that it latches without is the model's choice, log row 101), and else
stays; a write of a k or g register carries the core's generation tag along; the stacks and ACTIVE stay. -/
def Obligations.LaneWordFrame : Prop :=
  ∀ (i : Instr) (d : Operand), d.isReg = true ∨ d = .sp 0 → Leaves i d fun x s c t =>
    s.OnlyWarp { t with vfs := s.vfs } s.cur
    ∧ (∀ m p, p.isReg = true →
        (∀ l ∈ c.outLanes, ∀ k, k < x.regs c.mode → sameReg (d.nth k) p l m = false) →
        t.homeValue s.cur m p = s.homeValue s.cur m p)
    ∧ (∀ m k, k ≠ 15 → k ≠ 20 → k ≠ 24 → (k = 16 → copied d = false) →
        t.operand s.cur m (.sp k) = s.operand s.cur m (.sp k))
    ∧ (∀ m, t.operand s.cur m (.sp 15) =
        if .sp 14 ∈ i.srcs then BitVec.ofNat 32 (s.now / 2 ^ 32) else s.operand s.cur m (.sp 15))
    ∧ (copied d = false → t.grids = s.grids ∧ t.vfs = s.vfs)
    ∧ ∃ w' fl, warpOf t s.cur = some w' ∧ w'.ctl.status = statusOr c.w.ctl.status fl
      ∧ ((x.entry c.mode).sw = false → fl = x.flags c)
      ∧ w'.ctl.draw = (if (x.entry c.mode).draws then c.w.ctl.draw + 1 else c.w.ctl.draw)
      ∧ w'.ctl.active = c.w.ctl.active ∧ w'.ctl.stack = c.w.ctl.stack ∧ w'.ctl.depth = c.w.ctl.depth
      ∧ w'.ctl.pc = (stepLoops (c.w.ctl.pc + 4) c.w.ctl.loops).1

/-- R39, R40, R65: a lane word whose destination is %mode, %pred or %status gives the special operand its
value; bit 7 of %status reads 0, and bits 0 and [31:8] of a %pred write are ignored. R45: a CMP or PLOG to
p0 is ILLEGAL_OPERAND. -/
def Obligations.SpecialDestinations : Prop :=
  ∀ (i : Instr),
    (Leaves i (.sp 12) fun x s c t => ∀ l ∈ c.outLanes,
      t.operand s.cur l (.sp 12) = BitVec.ofNat 32 (x.value c (c.giver l)).1)
    ∧ (Leaves i (.sp 13) fun x s c t => ∀ l ∈ c.outLanes,
      t.operand s.cur l (.sp 13) = (BitVec.ofNat 32 (x.value c (c.giver l)).1 &&& 0xFE) ||| 1)
    ∧ (Leaves i (.sp 20) fun x s c t => (x.entry c.mode).sw = false → ∀ l ∈ c.outLanes,
      t.operand s.cur l (.sp 20) =
        (BitVec.ofNat 32 (x.value c (c.giver l)).1 &&& 0xFFFFFF7F) ||| (x.flags c).setWidth 32)
    ∧ (∀ (sw ia ib : Bool) (cond fn : BitVec 4) (a b : Operand) (pa pb : BitVec 3) (s : State) (c : Ctx),
      (s.Stands (compares sw cond 0 a b) c → cond.toNat ≤ 8 → ty c ≤ 5 → exec (.cmp sw cond 0 a b) s =
        .next (s.takeFault s.cur (faultAt fcIllegalOperand 0) c.w.ctl.pc))
      ∧ (s.Stands (plogEntry sw fn 0 ia pa ib pb) c → fn.toNat ≤ 2 →
        exec (.plog sw fn 0 ia pa ib pb) s =
          .next (s.takeFault s.cur (faultAt fcIllegalOperand 0) c.w.ctl.pc)))

/-- R37, R52 items 3 to 8, R131: a word D, A, B is checked for its type, then its operands, then the
budget; the first check that fails is the fault that the word takes, and nothing else happens. A word
of an accepted type, with operands that R131 allows below the budget, meets no fault of these items. -/
def Obligations.LaneWordChecksInOrder : Prop :=
  (∀ (sw : Bool) (d a b : Operand) (i : Instr) (tys : List Nat),
      (i, tys) ∈ [(.add sw d a b, tyNum), (.sub sw d a b, tyNum), (.mul sw d a b, tyNum),
        (.mulh sw d a b, tyInt), (.min sw d a b, tyNum), (.max sw d a b, tyNum), (.and sw d a b, tyAny),
        (.or sw d a b, tyAny), (.xor sw d a b, tyAny)] →
      ∀ (x : LaneForm) (s : State) (c : Ctx) (f : FaultInfo), laneForm i = some x → s.Stands x.entry c →
        checks3 tys c.mode c.w.budget d a b = some f →
        exec i s = .next (s.takeFault s.cur f c.w.ctl.pc))
  ∧ (∀ (sw : Bool) (d a b : Operand) (i : Instr) (tys : List Nat),
      (i, tys) ∈ [(.add sw d a b, tyNum), (.sub sw d a b, tyNum), (.mul sw d a b, tyNum),
        (.mulh sw d a b, tyInt), (.min sw d a b, tyNum), (.max sw d a b, tyNum), (.and sw d a b, tyAny),
        (.or sw d a b, tyAny), (.xor sw d a b, tyAny)] →
      ∀ (x : LaneForm) (m : Word) (w : Warp) (g : Grid) (priv : Bool), laneForm i = some x →
        checks3 tys m w.budget d a b = none → (x.entry m).staticFault w g priv = none)

/-! ## Faults -/

/-- R91, R92, R52 item 9: a legal lane word that reads or writes a register with a pending bit takes
PENDING_READ; with no uncorrectable mark and no RAISE round of the warp outstanding. -/
def Obligations.PendingRegisterFaults : Prop :=
  ∀ (i : Instr) (x : LaneForm) (s : State) (c : Ctx), laneForm i = some x → s.Stands x.entry c →
    (x.entry c.w.ctl.mode).staticFault c.w c.g (s.privileged c.g.ctx) = none →
    c.w.marksOf c.b c.g = [] → c.w.results.all (fun y => !y.round) = true →
    (∃ u ∈ (x.entry c.w.ctl.mode).uses, ∃ k, k < u.regs ∧ (u.read || u.write) = true ∧
      ∃ r ∈ c.w.pend, (u.o.nth k).reg? = some r) →
    exec i s = .next (s.takeFault s.cur (faultAt fcPendingRead 0) c.w.ctl.pc)

/-- R92, R306 to R308, R320: a stopping fault of a warp with no older result outstanding: the warp stops at
its word, the fault registers are replaced whole, the region and the PDIS region close, waiting flags
are merged, and one stop record with these values joins those of the context, which names the warp by the place
that its block took on the core (the model's reading, log row 100); nothing else changes. With older results
outstanding the warp waits. A fatal fault kills the context: every warp of the grid has
exited. -/
def Obligations.FaultsAreRecorded : Prop :=
  (∀ (s : State) (r : WarpRef) (f : FaultInfo) (pc : Nat) (b : Block) (w : Warp) (g : Grid) (k : Context),
      s.warp? r = some (b, w) → s.grid? b.grid = some g → s.ctx? g.ctx = some k → w.results = [] →
      f.fatal = false → ¬ (f.code = fcBreakpoint ∧ k.debugger = true) →
      ∃ w' k', warpOf (s.takeFault r f pc) r = some w' ∧ (s.takeFault r f pc).ctx? g.ctx = some k'
        ∧ s.OnlyWarp (s.takeFault r f pc) r ∧ (s.takeFault r f pc).grids = s.grids
        ∧ w'.run = .stopped ∧ w'.ctl.pc = (s.restarting w pc).ctl.pc ∧ (w.dual = none → w'.ctl.pc = pc)
        ∧ w'.regs = w.regs ∧ w'.pdis = none
        ∧ w'.flt.word = (f.detail ++ f.stage ++ (0 : BitVec 4) ++ f.code).setWidth 32
        ∧ w'.flt.addr = f.addr ∧ w'.flt.lanes = f.lanes ∧ w'.flt.ckpc = 0
        ∧ w'.ctl.status = statusOr w.ctl.status w.lateFlags
        ∧ k' = { k with stops := k.stops ++ [stopOf b.core w'.flt.word
            (g.packet.image + BitVec.ofNat 64 pc) f b.index (b.place r.slot) s.now] })
  ∧ (∀ (s : State) (r : WarpRef) (f : FaultInfo) (pc : Nat) (b : Block) (w : Warp),
      s.warp? r = some (b, w) → w.results ≠ [] →
      warpOf (s.takeFault r f pc) r =
        some { w with run := .faulting, flt := { w.flt with waiting := some (f, pc) } }
      ∧ s.OnlyWarp (s.takeFault r f pc) r ∧ (s.takeFault r f pc).ctxs = s.ctxs)
  ∧ (∀ (s : State) (r : WarpRef) (f : FaultInfo) (pc : Nat) (b : Block) (w : Warp) (g : Grid) (k : Context),
      s.warp? r = some (b, w) → s.grid? b.grid = some g → s.ctx? g.ctx = some k → w.results = [] →
      f.fatal = true → k.killing = false → k.dead = false →
      ∃ k', (s.takeFault r f pc).ctx? g.ctx = some k' ∧ k'.killing = true
        ∧ ∀ b' ∈ (s.takeFault r f pc).blocks, b'.grid = b.grid → ∀ w' ∈ b'.warps, w'.run = .exited)

/-! ## Control -/

/-- R30, R99: BRA goes to its target, and BRC by the lanes that take it: on when none does, to the target
when all do, and else the taking lanes wait on the stack while the others go on; a full stack is STACK,
and lanes that differ under U are UNIFORMITY. A BRA, BRC, CALL, MARK or YIELD whose target lies outside the
kernel image raises RANGE, whichever lanes would take it. -/
def Obligations.BranchesGoWhereTheirLanesGo : Prop :=
  (∀ (sw u inv : Bool) (pr : BitVec 3) (off : BitVec 19) (s : State) (c : Ctx) (pc : Nat),
      target c off pc →
      (s.Issues (braEntry sw u) c → Warps (.bra sw u off) s fun w' => Steady c w' ∧ w'.ctl.pc = pc
        ∧ w'.ctl.active = c.w.ctl.active ∧ w'.ctl.stack = c.w.ctl.stack
        ∧ w'.ctl.loops = closeLevels pc c.w.ctl.loops)
      ∧ (s.Issues (brcEntry sw u inv pr) c →
        (taking c inv pr = 0 → Warps (.brc sw u inv pr off) s fun w' => Steady c w'
          ∧ w'.ctl.pc = nextPc c ∧ w'.ctl.active = c.w.ctl.active ∧ w'.ctl.stack = c.w.ctl.stack)
        ∧ (taking c inv pr ≠ 0 → staying c inv pr = 0 → Warps (.brc sw u inv pr off) s fun w' =>
          Steady c w' ∧ w'.ctl.pc = pc ∧ w'.ctl.active = c.w.ctl.active ∧ w'.ctl.stack = c.w.ctl.stack)
        ∧ (taking c inv pr ≠ 0 → staying c inv pr ≠ 0 → u = false → room c.w.ctl.stack pc →
          Warps (.brc sw u inv pr off) s fun w' => Steady c w' ∧ w'.ctl.pc = nextPc c
            ∧ w'.ctl.active = staying c inv pr
            ∧ w'.ctl.stack = leaving c.w.ctl.stack pc (taking c inv pr))
        ∧ (taking c inv pr ≠ 0 → staying c inv pr ≠ 0 → u = false → ¬ room c.w.ctl.stack pc →
          exec (.brc sw u inv pr off) s = .next
            (s.takeFault s.cur { faultAt fcStack 1 with lanes := c.w.ctl.active } c.w.ctl.pc))
        ∧ (taking c inv pr ≠ 0 → staying c inv pr ≠ 0 → u = true →
          exec (.brc sw u inv pr off) s = .next
            (s.takeFault s.cur { faultAt fcUniformity 1 with lanes := differing c inv pr } c.w.ctl.pc))))
  ∧ (∀ (sw u inv : Bool) (pr : BitVec 3) (off : BitVec 19) (s : State) (c : Ctx),
      (∀ pc, ¬ target c off pc) →
      (s.Issues (braEntry sw u) c →
        exec (.bra sw u off) s = .next (s.takeFault s.cur (faultAt fcRange 1) c.w.ctl.pc))
      ∧ (s.Issues (brcEntry sw u inv pr) c →
        exec (.brc sw u inv pr off) s = .next (s.takeFault s.cur (faultAt fcRange 1) c.w.ctl.pc))
      ∧ (s.Issues (callEntry sw u inv pr) c →
        exec (.call sw u inv pr off) s = .next (s.takeFault s.cur (faultAt fcRange 1) c.w.ctl.pc))
      ∧ (s.Issues (markEntry sw) c →
        exec (.mark sw off) s = .next (s.takeFault s.cur (faultAt fcRange 1) c.w.ctl.pc)))
  ∧ (∀ (sw : Bool) (cls : BitVec 3) (n : BitVec 4) (off : BitVec 17) (s : State) (c : Ctx),
      (∀ pc, ¬ target c off pc) → s.Issues (yieldEntry sw cls n off) c →
      exec (.yield sw cls n off) s = .next (s.takeFault s.cur (faultAt fcRange 1) c.w.ctl.pc))
  ∧ encode (.bra false true 1) = some 0x01800001
  ∧ encode (.brc false true true 1 2) = some 0x02C80002

/-- R100: MARK pushes a rejoin entry with ACTIVE; JOIN pops the top entry, with its lanes and its place;
a full or an empty stack is STACK. -/
def Obligations.MarkAndJoinUseTheStack : Prop :=
  ∀ (sw : Bool) (off : BitVec 19) (s : State) (c : Ctx) (pc : Nat),
    (s.Issues (markEntry sw) c → target c off pc → c.w.ctl.stack.length < 16 →
      Warps (.mark sw off) s fun w' => Steady c w' ∧ w'.ctl.pc = nextPc c
        ∧ w'.ctl.active = c.w.ctl.active
        ∧ w'.ctl.stack = { path := false, pc, mask := c.w.ctl.active } :: c.w.ctl.stack)
    ∧ (s.Issues (markEntry sw) c → target c off pc → 16 ≤ c.w.ctl.stack.length →
      exec (.mark sw off) s = .next
        (s.takeFault s.cur { faultAt fcStack 1 with lanes := c.w.ctl.active } c.w.ctl.pc))
    ∧ (s.Issues (joinEntry sw) c → ∀ e rest, c.w.ctl.stack = e :: rest →
      Warps (.join sw) s fun w' => Steady c w' ∧ w'.ctl.pc = e.pc ∧ w'.ctl.active = e.mask
        ∧ w'.ctl.stack = rest ∧ w'.ctl.loops = closeLevels e.pc c.w.ctl.loops)
    ∧ (s.Issues (joinEntry sw) c → c.w.ctl.stack = [] →
      exec (.join sw) s = .next
        (s.takeFault s.cur { faultAt fcStack 1 with lanes := c.w.ctl.active } c.w.ctl.pc))
    ∧ encode (.mark false 1) = some 0x03000001 ∧ encode (.join false) = some 0x04000000

/-- R101: CALL saves the image offset of the next word in w31 and goes one deeper; RET comes back up to
the word that its register names. A pending w31 is PENDING_READ at CALL. -/
def Obligations.CallAndReturn : Prop :=
  ∀ (sw u inv : Bool) (pr : BitVec 3) (off : BitVec 19) (a : Operand) (s : State) (c : Ctx) (pc : Nat),
    (s.Issues (callEntry sw u inv pr) c → target c off pc →
      (taking c inv pr = 0 → Warps (.call sw u inv pr off) s fun w' => Steady c w'
        ∧ w'.ctl.pc = nextPc c ∧ w'.ctl.depth = c.w.ctl.depth)
      ∧ (taking c inv pr ≠ 0 → staying c inv pr = 0 → c.w.ctl.depth < 64 →
        Warps (.call sw u inv pr off) s fun w' => w'.ctl.pc = pc ∧ w'.ctl.depth = c.w.ctl.depth + 1
          ∧ w'.ctl.active = c.w.ctl.active ∧ w'.ctl.stack = c.w.ctl.stack
          ∧ w'.ctl.loops = c.w.ctl.loops
          ∧ sparseGet 0 w'.regs.w 31 = BitVec.ofNat 32 (c.w.ctl.pc + 4)
          ∧ w'.regs.v = c.w.regs.v ∧ w'.regs.o = c.w.regs.o ∧ w'.regs.p = c.w.regs.p
          ∧ ∀ k, k ≠ 31 → sparseGet 0 w'.regs.w k = sparseGet 0 c.w.regs.w k)
      ∧ (taking c inv pr ≠ 0 → staying c inv pr = 0 → 64 ≤ c.w.ctl.depth →
        exec (.call sw u inv pr off) s = .next (s.takeFault s.cur (faultAt fcStack 1) c.w.ctl.pc))
      ∧ (taking c inv pr ≠ 0 → staying c inv pr ≠ 0 → exec (.call sw u inv pr off) s = .next
          (s.takeFault s.cur { faultAt fcUniformity 1 with lanes := differing c inv pr } c.w.ctl.pc)))
    ∧ (s.Stands (callEntry sw u inv pr) c →
      (callEntry sw u inv pr c.w.ctl.mode).staticFault c.w c.g (s.privileged c.g.ctx) = none →
      c.w.marksOf c.b c.g = [] → c.w.results.all (fun y => !y.round) = true → .w 31 ∈ c.w.pend →
      exec (.call sw u inv pr off) s = .next (s.takeFault s.cur (faultAt fcPendingRead 0) c.w.ctl.pc))
    ∧ encode (.call false true false 2 0) = some 0x05900000
    ∧ encode (.ret false (.w 31)) = some 0x06007F00
    ∧ (s.Issues (retEntry sw a) c →
      (0 < c.w.ctl.depth → (c.one a).toNat % 4 = 0 → (c.one a).toNat < c.g.desc.size →
        Warps (.ret sw a) s fun w' => Steady c w' ∧ w'.ctl.pc = (c.one a).toNat
          ∧ w'.ctl.depth = c.w.ctl.depth - 1 ∧ w'.ctl.active = c.w.ctl.active
          ∧ w'.ctl.stack = c.w.ctl.stack)
      ∧ (c.w.ctl.depth = 0 →
        exec (.ret sw a) s = .next (s.takeFault s.cur (faultAt fcStack 1) c.w.ctl.pc))
      ∧ (0 < c.w.ctl.depth → ((c.one a).toNat % 4 ≠ 0 ∨ c.g.desc.size ≤ (c.one a).toNat) →
        exec (.ret sw a) s = .next (s.takeFault s.cur (faultAt fcRange 1) c.w.ctl.pc)))

/-- R102: LOOP opens a level over its body, or goes past it when the count is 0; the word at the end of
the body, shown for NOP, goes back while iterations are left and else closes the level. R98: NOP has no
effect of its own, and meets no fault. -/
def Obligations.LoopsCount : Prop :=
  ∀ (sw : Bool) (d : Operand) (len : BitVec 7) (s : State) (c : Ctx),
    (s.Issues (loopEntry sw d len) c →
      (c.one d = 0 → Warps (.loop sw d len) s fun w' => Steady c w'
        ∧ w'.ctl.pc = c.w.ctl.pc + 4 + 4 * len.toNat ∧ w'.ctl.loops = c.w.ctl.loops)
      ∧ (c.one d ≠ 0 → c.w.ctl.loops.length < 2 →
        (∀ l ∈ c.w.ctl.loops, c.w.ctl.pc + 4 + 4 * len.toNat ≤ l.stop) →
        Warps (.loop sw d len) s fun w' => Steady c w' ∧ w'.ctl.pc = c.w.ctl.pc + 4
          ∧ w'.ctl.loops = { start := c.w.ctl.pc + 4, stop := c.w.ctl.pc + 4 + 4 * len.toNat,
                             left := (c.one d).toNat } :: c.w.ctl.loops)
      ∧ (c.one d ≠ 0 → 2 ≤ c.w.ctl.loops.length →
        exec (.loop sw d len) s = .next (s.takeFault s.cur (faultAt fcStack 1) c.w.ctl.pc)))
    ∧ (∀ (w : Warp) (g : Grid) (priv : Bool),
      ({ sw, ahead := .run } : Entry).staticFault w g priv = none)
    ∧ encode (.nop false) = some 0 ∧ encode (.nop true) = some 0x80000000
    ∧ (s.Issues (fun _ => { sw, ahead := .run }) c →
      exec (.nop sw) s = .next (c.completes (fun _ => { sw, ahead := .run }) s)
      ∧ (c.w.ctl.loops = [] → Warps (.nop sw) s fun w' => Steady c w' ∧ w'.ctl.pc = c.w.ctl.pc + 4)
      ∧ (∀ l rest, c.w.ctl.loops = l :: rest → c.w.ctl.pc + 4 ≠ l.stop →
        Warps (.nop sw) s fun w' => Steady c w' ∧ w'.ctl.pc = c.w.ctl.pc + 4
          ∧ w'.ctl.loops = c.w.ctl.loops)
      ∧ (∀ l rest, c.w.ctl.loops = l :: rest → c.w.ctl.pc + 4 = l.stop → 1 < l.left →
        Warps (.nop sw) s fun w' => Steady c w' ∧ w'.ctl.pc = l.start
          ∧ w'.ctl.loops = { l with left := l.left - 1 } :: rest)
      ∧ (∀ l, c.w.ctl.loops = [l] → c.w.ctl.pc + 4 = l.stop → l.left ≤ 1 →
        Warps (.nop sw) s fun w' => Steady c w' ∧ w'.ctl.pc = l.stop ∧ w'.ctl.loops = []))

/-- R42: each selected field of MODE takes its value from the word, and every other field stays; the
fields are gd [3:0], ty [7:4], rd [10:8] and sat [11]. -/
def Obligations.SetmodeWritesSelectedFields : Prop :=
  ∀ (sw : Bool) (sel : BitVec 4) (val : BitVec 12) (s : State) (c : Ctx),
    s.Issues (setmodeEntry sw sel val) c →
    Warps (.setmode sw sel val) s fun w' => w'.regs = c.w.regs ∧ w'.ctl.pc = nextPc c
      ∧ (w'.ctl.mode.extractLsb' 0 4 =
          if sel.getLsbD 0 then val.extractLsb' 0 4 else c.mode.extractLsb' 0 4)
      ∧ (w'.ctl.mode.extractLsb' 4 4 =
          if sel.getLsbD 1 then val.extractLsb' 4 4 else c.mode.extractLsb' 4 4)
      ∧ (w'.ctl.mode.extractLsb' 8 3 =
          if sel.getLsbD 2 then val.extractLsb' 8 3 else c.mode.extractLsb' 8 3)
      ∧ (w'.ctl.mode.getLsbD 11 = if sel.getLsbD 3 then val.getLsbD 11 else c.mode.getLsbD 11)
      ∧ w'.ctl.mode.extractLsb' 12 20 = c.mode.extractLsb' 12 20

/-- R94, R104: WAITC and YIELD park while the counter is above N; at N or below they report the older
operations of the class, which leave the counter with their flags merged, and go on, YIELD at its
continuation; shown where no reported operation carries an error. -/
def Obligations.WaitcAndYieldReport : Prop :=
  ∀ (sw : Bool) (cls : BitVec 3) (n : BitVec 4) (off : BitVec 17) (s : State) (c : Ctx) (pc : Nat),
    let k := engClass cls
    let ops := c.w.eng.filter fun x => x.cls == k
    let done := ops.take (ops.length - n.toNat)
    (s.Issues (waitcEntry sw cls n) c →
      (n.toNat < c.w.counter k → exec (.waitc sw cls n) s = .next (s.park s.cur .parked))
      ∧ (c.w.counter k ≤ n.toNat → (∀ x ∈ done, x.err = none) →
        Warps (.waitc sw cls n) s fun w' => w'.regs = c.w.regs ∧ w'.ctl.pc = nextPc c
          ∧ w'.eng = (c.w.eng.filter fun x => !(x.cls == k && (done.map EngOp.id).contains x.id))
          ∧ (sw = false → k = .matrix ∨ k = .spline → w'.ctl.status =
              statusOr c.w.ctl.status (done.foldl (fun fl x => fl ||| x.flags) 0))))
    ∧ (s.Issues (yieldEntry sw cls n off) c → target c off pc →
      (n.toNat < c.w.counter k →
        exec (.yield sw cls n off) s = .next (s.park s.cur (.yielded k n.toNat pc)))
      ∧ (c.w.counter k ≤ n.toNat → (∀ x ∈ done, x.err = none) →
        Warps (.yield sw cls n off) s fun w' => w'.regs = c.w.regs
          ∧ w'.ctl.pc = (if pc = c.w.ctl.pc + 4 then nextPc c else pc)
          ∧ w'.eng = (c.w.eng.filter fun x => !(x.cls == k && (done.map EngOp.id).contains x.id))))

/-- R103: EXIT retires its warp, with the flags that still wait merged, and records the successor; the
last warp's EXIT retires the block, or restarts it at the successor with registers and MODE at reset
and the block's registers and stores kept. EXIT of a warp that is not converged is SCOPE_ROUND, an index
beyond the layouts RANGE, and an index against that of an earlier warp SCOPE_ROUND. -/
def Obligations.ExitRetiresOrRestarts : Prop :=
  (∀ (sw : Bool) (idx : BitVec 8) (s : State) (c : Ctx), s.Issues (exitEntry sw) c → mayExit c idx →
      (¬ lastWarp c → ∃ t w' b', exec (.exit sw idx) s = .next t ∧ warpOf t s.cur = some w'
        ∧ w'.run = .exited ∧ w'.ctl.status = statusOr c.w.ctl.status c.w.lateFlags
        ∧ t.block? c.b.id = some b' ∧ b'.exitIdx = some idx.toNat ∧ s.OnlyWarp t s.cur)
      ∧ (lastWarp c → idx = 0 → ∃ t g', exec (.exit sw idx) s = .next t ∧ t.block? c.b.id = none
        ∧ t.grid? c.b.grid = some g' ∧ (c.b.index, c.b.trail) ∈ g'.retired)
      ∧ (lastWarp c → idx ≠ 0 → ∀ l, c.g.desc.layouts[idx.toNat]? = some l →
        ∃ t b', exec (.exit sw idx) s = .next t ∧ t.block? c.b.id = some b' ∧ b'.layout = idx.toNat
          ∧ b'.exitIdx = none ∧ b'.warps.length = (l.warps s.now).length
          ∧ (∀ w' ∈ b'.warps, w'.run = .ready ∧ w'.ctl.pc = l.entry ∧ w'.ctl.mode = 0 ∧ w'.ctl.stack = []
            ∧ w'.ctl.loops = [] ∧ w'.ctl.depth = 0 ∧ w'.regs.v = [] ∧ w'.regs.o = [] ∧ w'.regs.w = []
            ∧ w'.regs.p = [])
          ∧ b'.b = c.b.b ∧ b'.scratch = c.b.scratch ∧ b'.opbuf = c.b.opbuf ∧ b'.resvs = c.b.resvs
          ∧ b'.allocs = c.b.allocs ∧ b'.tiles = c.b.tiles ∧ b'.chans = c.b.chans))
  ∧ (∀ (sw : Bool) (idx : BitVec 8) (s : State) (c : Ctx), s.Issues (exitEntry sw) c →
      (¬ whole c → exec (.exit sw idx) s = .next
        (s.takeFault s.cur { faultAt fcScopeRound 1 with lanes := c.w.ctl.active } c.w.ctl.pc))
      ∧ (whole c → c.g.desc.layouts.length ≤ idx.toNat →
        exec (.exit sw idx) s = .next (s.takeFault s.cur (faultAt fcRange 1) c.w.ctl.pc))
      ∧ (whole c → idx.toNat < c.g.desc.layouts.length → ∀ k, c.b.exitIdx = some k → k ≠ idx.toNat →
        exec (.exit sw idx) s = .next (s.takeFault s.cur (faultAt fcScopeRound 1) c.w.ctl.pc)))

/-- R106: SPLIT puts the lower and the upper half of its lanes into the two lowest free slots, each lane
with its v registers and predicates, each octet with its o registers, both with the w registers, MODE
and %status, and both go on at the next word. -/
def Obligations.SplitHalvesAWarp : Prop :=
  ∀ (sw : Bool) (s : State) (c : Ctx) (lo hi : Nat) (rest : List Nat), s.Issues (splitEntry sw) c →
    c.w.width ∈ [16, 32, 64] → c.w.ctl.active = fullMask c.w.width → c.w.ctl.stack = [] →
    c.w.ctl.loops = [] → quiet c.w → c.s.accsOf c.r = [] → c.b.freeSlots s.now ≠ [] →
    insertNat c.r.slot (c.b.freeSlots s.now) = lo :: hi :: rest →
    ∃ t w0 w1, exec (.split sw) s = .next t
      ∧ warpOf t { blk := s.cur.blk, slot := lo } = some w0
      ∧ warpOf t { blk := s.cur.blk, slot := hi } = some w1
      ∧ w0.width = c.w.width / 2 ∧ w1.width = c.w.width / 2 ∧ w0.ctl.pc = c.w.ctl.pc + 4
      ∧ w1.ctl.pc = c.w.ctl.pc + 4 ∧ w0.ctl.status = (if sw then statusOr c.w.ctl.status c.w.lateFlags else c.w.ctl.status)
      ∧ w1.ctl.status = w0.ctl.status
      ∧ w0.ctl.mode = c.mode ∧ w1.ctl.mode = c.mode ∧ w0.ctl.depth = c.w.ctl.depth
      ∧ w1.ctl.depth = c.w.ctl.depth ∧ w0.ctl.active = fullMask (c.w.width / 2)
      ∧ w1.ctl.active = fullMask (c.w.width / 2) ∧ w0.regs.w = c.w.regs.w ∧ w1.regs.w = c.w.regs.w
      ∧ ∀ l, l < c.w.width / 2 → ∀ k n,
        laneOf t s.cur.blk lo l (.v k) = c.opd l (.v k)
        ∧ laneOf t s.cur.blk hi l (.v k) = c.opd (l + c.w.width / 2) (.v k)
        ∧ laneOf t s.cur.blk lo l (.o n) = c.opd l (.o n)
        ∧ laneOf t s.cur.blk hi l (.o n) = c.opd (l + c.w.width / 2) (.o n)
        ∧ laneOf t s.cur.blk lo l (.sp 13) = c.opd l (.sp 13)
        ∧ laneOf t s.cur.blk hi l (.sp 13) = c.opd (l + c.w.width / 2) (.sp 13)

/-- R107: FUSE waits for its partner; once the partner stands at a FUSE that names this warp and neither
has anything outstanding, the two become one warp in the lower slot, twice as wide: lanes and octets of
the lower warp first, w registers, MODE and call depth of the lower, sticky flags of both. -/
def Obligations.FuseJoinsTwoWarps : Prop :=
  ∀ (sw : Bool) (p : BitVec 5) (s : State) (c : Ctx) (w : Warp), s.Issues (splitEntry sw) c →
    c.w.run = .ready → p.toNat ≠ c.r.slot → c.b.warp? p.toNat = some w →
    c.w.ctl.active = fullMask c.w.width → c.w.ctl.stack = [] → c.w.ctl.loops = [] →
    (w.run = .ready → exec (.fuse sw p) s = .next (s.park s.cur (.fuse p.toNat)))
    ∧ (w.run = .fuse c.r.slot → w.role = c.w.role → w.width = c.w.width → c.w.width ∈ [8, 16, 32] →
      c.unevenRound c.r.slot p.toNat = false → c.atRest c.w = true → c.atRest w = true →
      let lo := if c.r.slot < p.toNat then c.w else w
      let hi := if c.r.slot < p.toNat then w else c.w
      ∃ t w', exec (.fuse sw p) s = .next t
        ∧ warpOf t { blk := s.cur.blk, slot := lo.slot } = some w'
        ∧ warpOf t { blk := s.cur.blk, slot := hi.slot } = none
        ∧ w'.width = 2 * c.w.width ∧ w'.ctl.pc = lo.ctl.pc + 4 ∧ w'.ctl.mode = lo.ctl.mode
        ∧ w'.ctl.depth = lo.ctl.depth ∧ w'.regs.w = lo.regs.w
        ∧ (c.w.lateFlags = 0 → w.lateFlags = 0 →
          w'.ctl.status = lo.ctl.status ||| (hi.ctl.status &&& 0x7F))
        ∧ ∀ l, l < c.w.width → ∀ k n,
          laneOf t s.cur.blk lo.slot l (.v k) = laneOf s s.cur.blk lo.slot l (.v k)
          ∧ laneOf t s.cur.blk lo.slot (l + c.w.width) (.v k) = laneOf s s.cur.blk hi.slot l (.v k)
          ∧ laneOf t s.cur.blk lo.slot l (.o n) = laneOf s s.cur.blk lo.slot l (.o n)
          ∧ laneOf t s.cur.blk lo.slot (l + c.w.width) (.o n) = laneOf s s.cur.blk hi.slot l (.o n))

/-- R108: BAR marks its warp arrived and parks it; released, it goes on. R109, R318: TRAP and BKPT take
their fault, with the code in the detail and ACTIVE as its lanes. R51: a word that is no instruction
takes ILLEGAL_INSTRUCTION. -/
def Obligations.BarriersTrapsAndIllegalWords : Prop :=
  ∀ (sw : Bool) (scope : BitVec 3) (code : BitVec 16) (bk : BitVec 8) (x : Word) (s : State) (c : Ctx),
    (s.Issues (barEntry sw scope) c → c.w.run = .ready → whole c →
      (scope = 4 → c.g.packet.coResident = true) →
      exec (.bar sw scope) s = .next (s.park s.cur (.barrier scope false)))
    ∧ (s.Issues (barEntry sw scope) c → ∀ k, c.w.run = .barrier k true →
      Warps (.bar sw scope) s fun w' => w'.regs = c.w.regs ∧ w'.ctl.pc = nextPc c)
    ∧ (s.Issues (plainEntry sw) c →
      exec (.trap sw code) s = .next
        (s.takeFault s.cur { code := 0x20, stage := 1, detail := code, addr := 0,
                             lanes := c.w.ctl.active } c.w.ctl.pc)
      ∧ (∀ (f : FaultInfo) (k : Context), f.code = 0x20 → s.ctx? c.g.ctx = some k →
        s.OnlyWarp (s.takeFault s.cur f c.w.ctl.pc) s.cur)
      ∧ exec (.bkpt sw bk) s = .next
        (s.takeFault s.cur { code := 0x21, stage := 1, detail := bk.setWidth 16, addr := 0,
                             lanes := c.w.ctl.active } c.w.ctl.pc))
    ∧ encode (.trap false 0x12) = some 0x0F000012
    ∧ (s.Stands (fun _ => { sw := false, codes := false }) c →
      exec (.illegalWord x) s = .next
        (s.takeFault s.cur { code := 0x01, stage := 0, detail := 0, addr := 0, lanes := 0 }
          c.w.ctl.pc))

/-- R311, R351: IDEM records the restart state, and CHKPT the whole checkpoint record, with %ckpc at the
next word and %retry 0; in memory it writes the record's place in the core area alone. R317: PDIS opens the region with its timer, and PEN closes it. -/
def Obligations.RegionsOpenAndClose : Prop :=
  ∀ (sw : Bool) (s : State) (c : Ctx),
    (s.Issues (skipEntry sw) c → whole c →
      Warps (.idem sw) s fun w' => w'.regs = c.w.regs ∧ w'.ctl.pc = nextPc c
        ∧ w'.flt.ckpc = BitVec.ofNat 32 (c.w.ctl.pc + 4) ∧ w'.flt.retry = 0 ∧ w'.flt.chkpt = none
        ∧ ∃ x, w'.flt.restart = some x ∧ x.mode = c.mode ∧ x.draw = c.w.ctl.draw
          ∧ x.depth = c.w.ctl.depth ∧ x.loops = c.w.ctl.loops ∧ x.stack = c.w.ctl.stack)
    ∧ (s.Issues (exitEntry sw) c → whole c → quiet c.w → c.g.packet.redundant = false →
      ∃ t w', exec (.chkpt sw) s = .next t ∧ warpOf t s.cur = some w' ∧ BlocksKept s t ∧ t.host = s.host
        ∧ t.low = s.low
        ∧ (∀ a, (∀ p, s.coreArea c.ctx c.b.core = some p → a < p ∨ p + 0x5000 ≤ a) →
          memGet t.mem a = memGet s.mem a)
        ∧ w'.regs = c.w.regs ∧ w'.ctl.pc = nextPc c
        ∧ w'.flt.ckpc = BitVec.ofNat 32 (c.w.ctl.pc + 4) ∧ w'.flt.retry = 0 ∧ w'.flt.restart = none
        ∧ w'.replay = [] ∧ ∃ x, w'.flt.chkpt = some x ∧ x.regs = c.w.regs ∧ x.pc = c.w.ctl.pc + 4
          ∧ x.mode = c.mode ∧ x.status = c.w.ctl.status ∧ x.draw = c.w.ctl.draw
          ∧ x.active = c.w.ctl.active ∧ x.depth = c.w.ctl.depth ∧ x.loops = c.w.ctl.loops
          ∧ x.stack = c.w.ctl.stack ∧ x.word = c.w.flt.word ∧ x.addr = c.w.flt.addr
          ∧ x.lanes = c.w.flt.lanes ∧ x.lateFlags = c.w.lateFlags)
    ∧ (s.Issues (regionEntry sw) c →
      (c.w.pdis = none → (s.core c.b.core).wanted = false →
        s.dev.testWanted.contains (clusterOf c.b.core) = false →
        Warps (.pdis sw) s fun w' => w'.regs = c.w.regs ∧ w'.pdis = some (s.now + 2 ^ 20)
          ∧ w'.flt.ckpc = 0)
      ∧ (c.w.pdis ≠ none →
        (exec (.pdis sw) s = .next (s.takeFault s.cur (faultAt fcRange 1) c.w.ctl.pc))
        ∧ Warps (.pen sw) s fun w' => w'.regs = c.w.regs ∧ w'.pdis = none ∧ w'.flt.ckpc = 0)
      ∧ (c.w.pdis = none →
        exec (.pen sw) s = .next (s.takeFault s.cur (faultAt fcRange 1) c.w.ctl.pc)))

/-- R87: LAUNCH of a readable, aligned packet address, with room in the device queue and every earlier
write of the warp performed, puts the packet into the queue of the warp's function. -/
def Obligations.LaunchQueuesItsPacket : Prop :=
  ∀ (sw : Bool) (a : Operand) (s : State) (c : Ctx), s.Issues (launchEntry sw a) c →
    c.g.packet.redundant = false → (c.pair64 a).toNat % 64 = 0 →
    (∃ pa, (s.translate c.b.core c.ctx (c.pair64 a) .read).1 = .phys pa) →
    (s.vf c.g.vf).devq.length < 64 → c.released = true →
    ∃ u, exec (.launch sw a) s = .next u
      ∧ (u.vf c.g.vf).devq = (s.vf c.g.vf).devq ++ [(c.pair64 a, c.ctx)]
      ∧ u.mem = s.mem ∧ u.accs = s.accs ∧ u.launches = s.launches
      ∧ ∃ w', warpOf u s.cur = some w' ∧ w'.regs = c.w.regs ∧ w'.ctl.pc = nextPc c

/-! ## Scoped registers -/

/-- R127: RAISE to a w register gives the combine of the lanes of C, and RAISE to an o register that of
each octet; lanes that disagree under agree are SCOPE_DISAGREE. R120, R122: RAISE to a block register
contributes to the round of that register: the register and %status become pending, and the contribution
carries what the lanes of C combine to. -/
def Obligations.RaiseCombinesItsLanes : Prop :=
  (∀ (sw : Bool) (a : Operand) (i j : BitVec 5) (fn : BitVec 5) (s : State) (c : Ctx),
      (s.Issues (raiseEntry sw (.w i) a fn) c → orderless fn.toNat c.mode →
        (agreeing fn.toNat (c.lanes.map fun l => c.opd l a) → c.lanes ≠ [] →
          Warps (.raise sw (.w i) a fn) s fun w' => sparseGet 0 w'.regs.w i.toNat =
            combine fn.toNat (c.lanes.map fun l => c.opd l a)
            ∧ w'.regs.v = c.w.regs.v ∧ w'.regs.o = c.w.regs.o ∧ w'.regs.p = c.w.regs.p
            ∧ ∀ k, k ≠ i.toNat → sparseGet 0 w'.regs.w k = sparseGet 0 c.w.regs.w k)
        ∧ (¬ agreeing fn.toNat (c.lanes.map fun l => c.opd l a) → ∃ m,
          exec (.raise sw (.w i) a fn) s = .next
            (s.takeFault s.cur { faultAt fcScopeDisagree 1 with lanes := m } c.w.ctl.pc)))
      ∧ (s.Issues (raiseEntry sw (.o j) a fn) c → orderless fn.toNat c.mode → c.w.width ∈ [8, 16, 32, 64] →
        (∀ q, q < 8 → agreeing fn.toNat ((c.lanes.filter fun l => l / 8 == q).map fun l => c.opd l a)) →
        Warps (.raise sw (.o j) a fn) s fun w' => ∀ q, q < 8 →
          sparseGet 0 w'.regs.o (32 * q + j.toNat) =
            if (c.lanes.filter fun l => l / 8 == q) = [] then sparseGet 0 c.w.regs.o (32 * q + j.toNat)
            else combine fn.toNat ((c.lanes.filter fun l => l / 8 == q).map fun l => c.opd l a)))
  ∧ (∀ (sw : Bool) (a : Operand) (i : BitVec 5) (fn : BitVec 5) (s : State) (c : Ctx),
      s.Issues (raiseEntry sw (.b i) a fn) c → orderless fn.toNat c.mode →
      agreeing fn.toNat (c.lanes.map fun l => c.opd l a) → whole c → c.lanes ≠ [] →
      (c.b.rounds.length < 8 ∨ ∃ x ∈ c.b.rounds, x.reg = i.toNat) →
      ∃ t w' b' x p, exec (.raise sw (.b i) a fn) s = .next t ∧ warpOf t s.cur = some w'
        ∧ w'.pend = c.w.pend ++ [.b i.toNat, .status] ∧ w'.regs = c.w.regs
        ∧ t.block? c.b.id = some b' ∧ b'.b = c.b.b ∧ x ∈ b'.rounds ∧ x.reg = i.toNat ∧ p ∈ x.parts
        ∧ p.slot = c.r.slot ∧ p.fn = fn.toNat
        ∧ p.val = some (combine fn.toNat (c.lanes.map fun l => c.opd l a)))

/-- R128: VOTE to a v register, in the lanes of C, and to a register of another class, for the whole warp;
under gd = ~p0 it writes nothing; it sets no flag. -/
def Obligations.VoteCountsItsLanes : Prop :=
  ∀ (sw : Bool) (a d : Operand) (fn : BitVec 5) (s : State) (c : Ctx),
    s.Issues (voteEntry sw d a fn) c →
    let holds := fun l => c.opd l a != 0
    let out := if d.isV then c.lanes else if modeGd c.mode = 8 then [] else c.act
    encode (.vote false (.w 1) (.v 3) 2) = some 0x41610302
    ∧ ∃ t w', exec (.vote sw d a fn) s = .next t ∧ warpOf t s.cur = some w'
    ∧ (sw = false → w'.ctl.status = c.w.ctl.status)
    ∧ (out = [] → BlocksKept s t ∧ t.grids = s.grids ∧ w'.regs = c.w.regs)
    ∧ ∀ l ∈ out,
      (fn = 0 → t.operand s.cur l d = if c.lanes.any holds then 1 else 0)
      ∧ (fn = 1 → t.operand s.cur l d = if c.lanes.all holds then 1 else 0)
      ∧ (fn = 2 → ∀ k, k < 32 →
        (t.operand s.cur l d).getLsbD k = (decide (k ∈ c.lanes) && holds k))
      ∧ (fn = 3 → ∀ k, k < 32 →
        (t.operand s.cur l d).getLsbD k = (decide (k + 32 ∈ c.lanes) && holds (k + 32)))
      ∧ (fn = 4 → (t.operand s.cur l d).toNat = (c.lanes.filter holds).length)

/-- R129: the shuffles read their source lane, or their own where it lies outside the warp; the lanes outside C,
every other v register, the o and w registers and the predicates keep their values. R130: PLOG writes its
predicate in the lanes whose guard holds, and no other predicate and no register. -/
def Obligations.ShufflesAndPredicateLogic : Prop :=
  ∀ (sw : Bool) (d a : BitVec 6) (b : Operand) (fn : BitVec 4) (pd pa pb : BitVec 3) (ia ib : Bool)
    (s : State) (c : Ctx),
    (s.Issues (fun _ => shfEntry sw (.v d) (.v a) b) c → ∀ i f,
      (i, f) ∈ [(Instr.shfi sw (.v d) (.v a) b, fun (_ k : Word) => k),
        (.shfx sw (.v d) (.v a) b, fun l k => l ^^^ k), (.shfu sw (.v d) (.v a) b, fun l k => l - k),
        (.shfd sw (.v d) (.v a) b, fun l k => l + k)] →
      ∃ t w', exec i s = .next t ∧ s.OnlyWarp t s.cur ∧ warpOf t s.cur = some w'
        ∧ (sw = false → w'.ctl.status = c.w.ctl.status) ∧ ∀ l, l < 64 →
        (t.operand s.cur l (.v d) = if l ∈ c.lanes then
            c.opd (shuffled c l (f (BitVec.ofNat 32 l) (c.opd l b))) (.v a)
          else s.operand s.cur l (.v d))
        ∧ (∀ k, k ≠ d → t.operand s.cur l (.v k) = s.operand s.cur l (.v k))
        ∧ w'.regs.o = c.w.regs.o ∧ w'.regs.w = c.w.regs.w ∧ w'.regs.p = c.w.regs.p)
    ∧ (∀ (x y : Operand) i, x.isV = false → s.Stands (fun _ => shfEntry sw x y b) c →
      i ∈ [Instr.shfi sw x y b, .shfx sw x y b, .shfu sw x y b, .shfd sw x y b] →
      exec i s = .next (s.takeFault s.cur (faultAt fcIllegalOperand 0) c.w.ctl.pc))
    ∧ encode (.shfx false (.v 4) (.v 2) (.w 7)) = some 0x43040267
    ∧ encode (.plog false 0 2 false 1 true 3) = some 0x4602010B
    ∧ (s.Stands (plogEntry sw fn 0 ia pa ib pb) c → fn.toNat ≤ 2 →
      exec (.plog sw fn 0 ia pa ib pb) s =
        .next (s.takeFault s.cur (faultAt fcIllegalOperand 0) c.w.ctl.pc))
    ∧ (s.Issues (plogEntry sw fn pd ia pa ib pb) c →
      ∃ t w', exec (.plog sw fn pd ia pa ib pb) s = .next t ∧ t.cur = s.cur ∧ s.OnlyWarp t s.cur
        ∧ warpOf t s.cur = some w' ∧ w'.regs.v = c.w.regs.v ∧ w'.regs.o = c.w.regs.o
        ∧ w'.regs.w = c.w.regs.w ∧ ∀ l k, k < 8 → predOf t l k =
          if l ∈ c.outLanes ∧ k = pd.toNat then
            (match fn.toNat with
              | 0 => (c.w.pred l pa.toNat != ia) && (c.w.pred l pb.toNat != ib)
              | 1 => (c.w.pred l pa.toNat != ia) || (c.w.pred l pb.toNat != ib)
              | _ => (c.w.pred l pa.toNat != ia) != (c.w.pred l pb.toNat != ib))
          else predOf s l k)

/-! ## Memory words -/

/-- R184, R196: LD, ST, LDW, STW and DUALST complete wherever every address is aligned and lies in device
memory that they may reach: a load issues one access for each lane whose line its core does not hold, with
its registers pending; a store one for each lane, with its lane's data, or holds them in the stream of a
redundant warp; DUALST those of its second address behind those of its first. A misaligned address of any of
the five is ALIGNMENT with the address of the lowest such lane, of DUALST the first of its two that is
misaligned. That each lane makes an access of its own is the model's choice (log row 81). -/
def Obligations.LoadsAndStoresIssueAccesses : Prop :=
  ∀ (sw : Bool) (d a b : Operand) (off : BitVec 8) (s : State) (c : Ctx),
    let n := regs c
    (∀ i k, (i, k) ∈ [(Instr.ld sw d a off, 4 * n), (.ldw sw d a off, 16)] →
      s.Issues (if k = 16 then ldwEntry sw d a else ldEntry sw d a) c →
      let as := c.addrs a (off.toInt * k)
      let ts := (looked s c .read as).1
      let pend := if c.lanes = [] then [] else named d (k / 4)
      (Reaches s c .read k as →
        ∃ u, exec i s = .next u ∧ Goes s u c pend (fun _ => True)
          ∧ ((∀ x ∈ ts, (afterLook s c .read as).lineIn c.b.core (physOf x.t) = false) →
            Joins s u c (accesses .load k (fun _ => 0) ts)))
      ∧ ∀ l x, as.find? (fun y => y.2.toNat % k != 0) = some (l, x) →
        ∃ m, exec i s = .next
          (s.takeFault s.cur { faultAt fcAlignment 1 with addr := x, lanes := m } c.w.ctl.pc))
    ∧ (∀ i k, (i, k) ∈ [(Instr.st sw d a off, 4 * n), (.stw sw d a off, 16)] →
      s.Issues (if k = 16 then stwEntry sw d a else stEntry sw d a) c →
      let as := c.addrs a (off.toInt * k)
      (Reaches s c .write k as →
        Stores i s c k (fun l => c.val l d (k / 4)) (looked s c .write as).1)
      ∧ Misaligned i s c k as)
    ∧ (s.Issues (dualstEntry sw d a b) c →
      let as := ((c.addrs a 0).zip (c.addrs b 0)).flatMap fun x => [x.1, x.2]
      let half := fun k : Nat =>
        (((looked s c .write as).1.zipIdx.filter fun x => x.2 % 2 == k).map Prod.fst)
      (Reaches s c .write (4 * n) as →
        Stores (.dualst sw d a b) s c (4 * n) (fun l => c.val l d n) (half 0 ++ half 1)
        ∧ (c.g.packet.redundant = false → roomForAcks s (half 0 ++ half 1) →
          ∃ u, exec (.dualst sw d a b) s = .next u
            ∧ ∀ x ∈ u.accs.drop (s.accs.length + c.lanes.length),
              ∀ y ∈ (u.accs.drop s.accs.length).take c.lanes.length, y.id ∈ x.after))
      ∧ Misaligned (.dualst sw d a b) s c (4 * n) as)

/-- R185, R190, R191: the atomics, REL and ACQ complete wherever every address is aligned and lies in device
memory that they may reach, an atomic and a REL of a warp that is not of a redundant pair (whose copies meet
first, R354): an atomic issues one access a lane, with its operand; REL its increment, behind every access
of its set P; ACQ its read, with a pending pair. -/
def Obligations.AtomicsAndSyncIssueAccesses : Prop :=
  ∀ (sw : Bool) (d a b : Operand) (s : State) (c : Ctx),
    let n := regs c
    let o := c.pair64 a
    (∀ i fn tys, i ∈ [Instr.aadd sw d a b, .amin sw d a b, .amax sw d a b, .aand sw d a b, .aor sw d a b,
        .axor sw d a b, .axch sw d a b, .acas sw d a b] → atomicForm i = some (fn, tys) →
      s.Issues (fun m => atomicEntry sw m fn tys d a b) c → c.g.packet.redundant = false →
      let ts := (looked s c .write (c.addrs a 0)).1
      Reaches s c .write (4 * n) (c.addrs a 0) → (d.isZero = true → roomForAcks s ts) →
      ∃ u, exec i s = .next u ∧
        Issued s u c (if c.lanes = [] then [] else named d n)
          (accesses (.atomic fn (modeTy c.mode)) (4 * n)
            (fun l => c.val l b (if fn = .cas then 2 * n else n)) ts))
    ∧ (s.Issues (relEntry sw a) c → c.g.packet.redundant = false → o.toNat % 8 = 0 →
      let ts := (looked s c .write [(c.lane0, o)]).1
      Reaches s c .write 8 [(c.lane0, o)] → roomForAcks s ts →
      ∃ u, exec (.rel sw a) s = .next u ∧ Issued s u c [] (accesses .relInc 8 (fun _ => 0) ts)
        ∧ ∀ x ∈ u.accs.drop s.accs.length, ∀ id ∈ c.relSet o, id ∈ x.after)
    ∧ (s.Issues (acqEntry sw d a) c → o.toNat % 8 = 0 → Reaches s c .read 8 [(c.lane0, o)] →
      ∃ u, exec (.acq sw d a) s = .next u ∧
        Issued s u c (named d 2) (accesses .acq 8 (fun _ => 0) (looked s c .read [(c.lane0, o)]).1))

/-- R175: LDL and STL check every lane, ALIGNMENT before RANGE, and then read or write; LDL's result is
what the window holds at issue, and comes later; STL leaves at each lane's address that lane's data, of two
lanes with one address the higher lane's, and sets the dirty bit of each valid slot that it stores to, and
of no other; a byte of the window that no lane stores to, and all of every other block's, stays. -/
def Obligations.ScratchpadLoadsAndStores : Prop :=
  ∀ (sw : Bool) (d a : Operand) (off : BitVec 8) (s : State) (c : Ctx),
    let n := regs c
    let as := c.localAddrs a off (4 * n)
    let good := ∀ x ∈ as, x.2 % (4 * n) = 0 ∧ x.2 + 4 * n ≤ c.b.scratchSize
    (s.Issues (ldlEntry sw d a) c → good → c.lanes ≠ [] →
      ∃ u, exec (.ldl sw d a off) s = .next u ∧ u.mem = s.mem ∧ u.accs = s.accs ∧ BlocksKept s u ∧
        Later s u c d n (as.map fun x => (x.1, readLE c.b.scratch x.2 (4 * n))))
    ∧ (s.Issues (stlEntry sw d a) c → good →
      ∃ u b', exec (.stl sw d a off) s = .next u ∧ u.mem = s.mem ∧ u.accs = s.accs
        ∧ u.block? c.b.id = some b'
        ∧ (∀ id, id ≠ c.b.id → u.block? id = s.block? id)
        ∧ (∀ k, (∀ x ∈ as, ¬ (x.2 ≤ k ∧ k < x.2 + 4 * n)) → memGet b'.scratch k = memGet c.b.scratch k)
        ∧ (∀ older x later, as = older ++ x :: later → (∀ y ∈ later, y.2 ≠ x.2) →
          readLE b'.scratch x.2 (4 * n) = c.val x.1 d n % 2 ^ (32 * n))
        ∧ (∀ k, sparseGet 0 b'.tags k =
          if (∃ x ∈ as, c.b.slotAt x.2 = some k) ∧ (sparseGet 0 c.b.tags k).getLsbD 0 = true
          then sparseGet 0 c.b.tags k ||| 2 else sparseGet 0 c.b.tags k)
        ∧ ∃ w', b'.warp? s.cur.slot = some w' ∧ w'.regs = c.w.regs ∧ w'.pend = c.w.pend
          ∧ w'.ctl.pc = nextPc c)
    ∧ (∀ x, as.find? (fun y => y.2 % (4 * n) != 0) = some x →
      ∀ i, (s.Issues (ldlEntry sw d a) c ∧ i = .ldl sw d a off)
          ∨ (s.Issues (stlEntry sw d a) c ∧ i = .stl sw d a off) →
      ∃ m, exec i s = .next (s.takeFault s.cur
        { faultAt fcAlignment 1 with addr := BitVec.ofNat 64 x.2, lanes := m } c.w.ctl.pc))
    ∧ ((∀ x ∈ as, x.2 % (4 * n) = 0) → ∀ x, as.find? (fun y => c.b.scratchSize < y.2 + 4 * n) = some x →
      ∀ i, (s.Issues (ldlEntry sw d a) c ∧ i = .ldl sw d a off)
          ∨ (s.Issues (stlEntry sw d a) c ∧ i = .stl sw d a off) →
      ∃ m, exec i s = .next (s.takeFault s.cur
        { faultAt fcRange 1 with addr := BitVec.ofNat 64 x.2, lanes := m } c.w.ctl.pc))

/-- R169, R170, R176, R177: TAGL_LOOKUP gives the local address of a line that a valid slot of its set
holds, and all ones otherwise; TAGL_READ a slot's entry; TAGW writes an entry that its slot may hold,
and any other is RANGE. -/
def Obligations.TagWords : Prop :=
  ∀ (sw : Bool) (d a : Operand) (region : BitVec 4) (s : State) (c : Ctx) (r : Region),
    c.b.regions[region.toNat]? = some r → r.line ≠ 0 → modeGd c.mode ≠ 8 →
    (s.Issues (taglEntry sw d a) c → c.lanes ≠ [] →
      ∃ u vals, exec (.taglLookup sw d a region) s = .next u ∧ BlocksKept s u ∧ Later s u c d 1 vals
        ∧ vals.map Prod.fst = c.lanes
        ∧ ∀ l x, (l, x) ∈ vals → (∀ slot, slot < r.slots → slot / r.ways = r.setOf (c.val l a 2) →
            (sparseGet 0 c.b.tags (r.key slot)).getLsbD 0 = true →
            tagLine (sparseGet 0 c.b.tags (r.key slot)) = c.val l a 2 / r.line * r.line →
            c.val l a 2 < 2 ^ 57 →
            ∃ slot', slot' / r.ways = r.setOf (c.val l a 2)
              ∧ tagLine (sparseGet 0 c.b.tags (r.key slot')) = c.val l a 2 / r.line * r.line
              ∧ x = r.offset + slot' * r.line + c.val l a 2 % r.line)
          ∧ ((2 ^ 57 ≤ c.val l a 2 ∨ ∀ slot, slot / r.ways = r.setOf (c.val l a 2) →
              (sparseGet 0 c.b.tags (r.key slot)).getLsbD 0 = true →
              tagLine (sparseGet 0 c.b.tags (r.key slot)) ≠ c.val l a 2 / r.line * r.line) →
            x = 0xFFFFFFFF))
    ∧ (s.Issues (tagrEntry sw d a) c →
      ((∀ l ∈ c.lanes, (c.opd l a).toNat < r.slots) → c.lanes ≠ [] →
        ∃ u, exec (.taglRead sw d a region) s = .next u ∧ BlocksKept s u ∧ Later s u c d 2
          (c.lanes.map fun l => (l, (sparseGet 0 c.b.tags (r.key (c.opd l a).toNat)).toNat)))
      ∧ ((∃ l ∈ c.lanes, r.slots ≤ (c.opd l a).toNat) → ∃ m, exec (.taglRead sw d a region) s = .next
          (s.takeFault s.cur { faultAt fcRange 1 with lanes := m } c.w.ctl.pc)))
    ∧ (s.Issues (tagwEntry sw d a) c → ∀ l, c.lanes = [l] →
      let k := (c.opd l d).toNat
      let e := BitVec.ofNat 64 (c.val l a 2)
      (r.entryOk k e = true →
        (∀ slot, slot ≠ k → slot / r.ways = r.setOf (tagLine e) → slot < r.slots → e.getLsbD 0 = true →
          (sparseGet 0 c.b.tags (r.key slot)).getLsbD 0 = true →
          tagLine (sparseGet 0 c.b.tags (r.key slot)) ≠ tagLine e) → r.slots % r.ways = 0 →
        r.offset % 128 = 0 → r.line % 128 = 0 →
        ∃ u b', exec (.tagw sw d a region) s = .next u ∧ u.block? c.b.id = some b'
          ∧ b'.scratch = c.b.scratch ∧ ∀ j, sparseGet 0 b'.tags j =
            if j = r.key k then e else sparseGet 0 c.b.tags j)
      ∧ (r.entryOk k e = false → ∃ m, exec (.tagw sw d a region) s = .next
          (s.takeFault s.cur { faultAt fcRange 1 with lanes := m } c.w.ctl.pc)))

/-- R187 to R189, R193, R197: BIND of a record that passes its checks, with object and range in memory that
they may reach, adds its binding, and UNBIND removes those of its object; a FENCE with nothing to wait for
completes, and one with earlier accesses joins them as an access behind them; PREF completes and changes no
register and no memory. -/
def Obligations.BindingsFencesAndPrefetches : Prop :=
  ∀ (sw fn : Bool) (a b : Operand) (scope : BitVec 3) (kind : BitVec 2) (off : BitVec 8) (s : State)
    (c : Ctx),
    let o := c.pair64 a
    (s.Issues (bindEntry sw a b) c →
      let x : Binding := { obj := o, base := c.pair64 b, len := (c.one (b.nth 2)).toNat,
                           system := (c.one (b.nth 3)).getLsbD 0 }
      o.toNat % 8 = 0 → x.base.toNat % 128 = 0 → c.one (b.nth 3) &&& ~~~1#32 = 0 →
      x.len % 128 = 0 → 128 ≤ x.len → x.len ≤ 2 ^ 31 →
      (o.getLsbD 63 = true ∨ x.base.getLsbD 63 = true → x.system = true) →
      (∀ y ∈ c.b.bindings, y.obj = o → y.system = x.system) →
      x ∈ c.b.bindings ∨ (c.b.bindings.length < 64 ∧ s.bindingsOf c.ctx < 4096) →
      Reaches s c .write 8 [(c.lane0, o)] →
      Reaches (afterLook s c .write [(c.lane0, o)]) c .present 1
        [(c.lane0, x.base), (c.lane0, x.base + BitVec.ofNat 64 (x.len - 1))] →
      ∃ u b', exec (.bind sw a b) s = .next u ∧ u.mem = s.mem ∧ u.accs = s.accs
        ∧ u.block? c.b.id = some b' ∧ b'.bindings =
          (if x ∈ c.b.bindings then c.b.bindings else c.b.bindings ++ [x])
        ∧ ∃ w', b'.warp? s.cur.slot = some w' ∧ w'.regs = c.w.regs ∧ w'.ctl.pc = nextPc c)
    ∧ (s.Issues (unbindEntry sw a) c → o.toNat % 8 = 0 →
      ∃ u b', exec (.unbind sw a) s = .next u ∧ u.mem = s.mem ∧ u.accs = s.accs
        ∧ u.block? c.b.id = some b' ∧ b'.bindings = (c.b.bindings.filter fun y => y.obj != o)
        ∧ ∃ w', b'.warp? s.cur.slot = some w' ∧ w'.regs = c.w.regs ∧ w'.ctl.pc = nextPc c)
    ∧ (s.Issues (fenceEntry sw scope kind) c →
      (kind = 0 ∨ ((scope.toNat < 3 ∨ c.w.tlbis = [])
        ∧ (c.g.packet.redundant = true → s.producing s.cur = false))) →
      let set := c.fenceSet (kind != 0) (kind != 1) (scope == 4)
      (set = [] → ∃ u, exec (.fence sw scope kind) s = .next u ∧ Issued s u c [] [])
      ∧ (set ≠ [] → ∃ u, exec (.fence sw scope kind) s = .next u
        ∧ Issued s u c [] [(.fence (kind != 0) (kind != 1) (scope == 4), 0, 0, 0, 0, 0, false)]
        ∧ ∀ x ∈ u.accs.drop s.accs.length, ∀ id ∈ set, id ∈ x.after))
    ∧ (s.Issues (prefEntry sw a) c →
      ∃ u, exec (.pref sw fn a off) s = .next u ∧ u.accs.map Acc.id = s.accs.map Acc.id
        ∧ Goes s u c [] fun _ => True)

/-! ## Engine words -/

/-- R218, R222, R224, R226, R233, R234: LCP and TCP of a record that passes its checks add a command to
the open batch, TCPX one of the NET counter; SEAL closes the batch as one COPY operation; a 256th
command of a batch is RANGE. That sparse is ignored of an out record of a map slot (R229, against the out line
of R230), and that h and wd of 1,025 to 2,047 raise RANGE, are the model's choices (log rows 91, 90). -/
def Obligations.CopyWordsQueueTheirCommands : Prop :=
  ∀ (sw arrive : Bool) (d a b : Operand) (size : BitVec 2) (ring stage : BitVec 3) (s : State) (c : Ctx),
    let r := TRec.parse (c.record a)
    let x := c.record b
    (∀ out i, (out, i) ∈ [(false, Instr.lcpIn sw d a size), (true, .lcpOut sw d a size)] →
      s.Issues (fun _ => lcpEntry sw d a size) c → lcpGood c (4 * 2 ^ size.toNat) d a →
      modeGd c.mode ≠ 8 →
      (c.w.openBatch.length < 255 → roomForCommand s → ∃ u, exec i s = .next u ∧
        Commands s u c (.lcp out (4 * 2 ^ size.toNat) (lcpLanes c d a)) fun id w' =>
          w'.openBatch = c.w.openBatch ++ [id] ∧ w'.eng = c.w.eng)
      ∧ (255 ≤ c.w.openBatch.length →
        exec i s = .next (s.takeFault s.cur (faultAt fcRange 1) c.w.ctl.pc)))
    ∧ (∀ out i, (out, i) ∈ [(false, Instr.tcpIn sw a), (true, .tcpOut sw a)] →
      s.Issues (fun _ => tcpEntry sw a) c →
      (r.fault (c.record a) c.b out c.absent = none →
        (out = true → r.mask = 0 ∧ (r.sparse = false ∨ r.kind = 3)) → c.w.openBatch.length < 255 →
        roomForCommand s → ∃ u line, exec i s = .next u ∧
          (r.kind ≠ 3 → line = 0) ∧
          Commands s u c (.tcp out r line) fun id w' =>
            w'.openBatch = c.w.openBatch ++ [id] ∧ w'.eng = c.w.eng)
      ∧ (∀ f, r.fault (c.record a) c.b out c.absent = some f →
        exec i s = .next (s.takeFault s.cur (faultAt f 1) c.w.ctl.pc)))
    ∧ (s.Issues (tcpxEntry sw a b) c → r.fault (c.record a) c.b true c.absent = none → r.kind ≠ 3 →
      r.mask = 0 → r.sparse = false → r.base.extractLsb' 50 14 = 0 → extensionOk x r.fmt = true →
      c.w.counter .net < 63 → roomForCommand s →
      ∃ u, exec (.tcpx sw a b) s = .next u ∧
        Commands s u c (.tcpx r (Targets.parse (x 0) (x 1)).list ((x 2).extractLsb' 0 4).toNat
          ((x 2).getLsbD 4)) fun id w' => w'.openBatch = c.w.openBatch ∧
            ∃ o, w'.eng = c.w.eng ++ [o] ∧ o.cls = .net ∧ o.done = false ∧ o.cmds = [id])
    ∧ (s.Issues (sealEntry sw arrive ring stage) c →
      (arrive = true → c.b.hasStage ring.toNat stage.toNat = true) → c.w.counter .copy < 63 →
      ∃ u w' o, exec (.seal sw arrive ring stage) s = .next u ∧ u.cmds = s.cmds ∧ BlocksKept s u
        ∧ warpOf u s.cur = some w' ∧ w'.regs = c.w.regs ∧ w'.openBatch = [] ∧ w'.eng = c.w.eng ++ [o]
        ∧ o.cls = .copy ∧ o.done = false ∧ o.cmds = c.w.openBatch
        ∧ o.arrive = if arrive then some (ring.toNat, stage.toNat) else none)
    ∧ (s.Issues (sealEntry sw true ring stage) c → c.b.hasStage ring.toNat stage.toNat = false →
      exec (.seal sw true ring stage) s = .next (s.takeFault s.cur (faultAt fcRange 1) c.w.ctl.pc))

/-- R208, R236, R237: RES takes the lowest index and the lowest place that is free and gives its handle;
RLS frees a reservation that nothing uses; STGA makes an arrival, the last of which flips the phase;
STGW completes in its phase and waits otherwise. -/
def Obligations.ReservationsAndStages : Prop :=
  ∀ (sw inv : Bool) (d a sz : Operand) (ring stage : BitVec 3) (s : State) (c : Ctx),
    (s.Issues (resEntry sw d a sz) c →
      let z := (c.one sz).toNat
      (z ≠ 0 → z % 16 = 0 → recordOk (c.one a) z = true → s.resvsOn c.b.core < 32 →
        ∀ i g, lowestFree 32 (c.b.resvs.map Resv.idx) i → g % 256 = 0 → fits c.b z g →
        (∀ h, h < g → h % 256 = 0 → ¬ fits c.b z h) →
        ∃ u b' x, exec (.res sw d a sz) s = .next u ∧ u.block? c.b.id = some b'
          ∧ b'.resvs = c.b.resvs ++ [x] ∧ x.idx = i ∧ x.base = g ∧ x.size = z ∧ x.record = c.one a
          ∧ x.tag < 128 ∧ ∀ l ∈ c.outLanes, (u.homeValue s.cur l d).toNat = x.tag * 2 ^ 24 + i * 2 ^ 16)
      ∧ (z = 0 ∨ z % 16 ≠ 0 ∨ recordOk (c.one a) z = false →
        exec (.res sw d a sz) s = .next (s.takeFault s.cur (faultAt fcRange 1) c.w.ctl.pc)))
    ∧ (s.Issues (freeEntry sw a) c → ∀ r, c.b.resv? (c.one a) = some r →
      s.inUse c.b { resvs := [r.idx], tiles := [] } = false →
      ∃ u b', exec (.rls sw a) s = .next u ∧ u.block? c.b.id = some b'
        ∧ b'.resvs = c.b.resvs.filter (fun x => x.idx != r.idx) ∧ b'.opbuf = c.b.opbuf)
    ∧ (s.Issues (freeEntry sw a) c → c.b.resv? (c.one a) = none →
      exec (.rls sw a) s = .next (s.takeFault s.cur (faultAt fcHandle 1) c.w.ctl.pc))
    ∧ (s.Issues (regionEntry sw) c → ∀ r st, c.b.rings[ring.toNat]? = some r →
      r.stages[stage.toNat]? = some st →
      ∃ u b', exec (.stga sw ring stage) s = .next u ∧ u.block? c.b.id = some b'
        ∧ b'.phase ring.toNat stage.toNat = (if st.left ≤ 1 then !st.phase else st.phase)
        ∧ (∀ j k, (j, k) ≠ (ring.toNat, stage.toNat) → b'.phase j k = c.b.phase j k)
        ∧ b'.scratch = c.b.scratch)
    ∧ (s.Issues (stgwEntry sw d) c → c.w.run = .ready → c.b.hasStage ring.toNat stage.toNat = true →
      let phi := (c.one d).getLsbD 0 != inv
      (c.b.phase ring.toNat stage.toNat = phi → Warps (.stgw sw d ring stage inv) s fun w' =>
        w'.regs = c.w.regs ∧ w'.ctl.pc = nextPc c)
      ∧ (c.b.phase ring.toNat stage.toNat ≠ phi → exec (.stgw sw d ring stage inv) s = .next
        (s.park s.cur (.ring ring.toNat stage.toNat phi false))))

/-- R210 to R212: ACCA allocates free tiles of zeros within the budget and gives their handle; ACCF frees
an allocation; ACCR reads an element in each lane, and ACCW writes one, at row and column of its handle,
its operand and its lane. -/
def Obligations.AccumulatorWords : Prop :=
  ∀ (sw : Bool) (d a b : Operand) (n : BitVec 7) (s : State) (c : Ctx),
    (s.Issues (accaEntry sw d n) c → ∀ i, lowestFree 64 (c.b.allocs.map Alloc.idx) i →
      c.b.allocs.foldl (fun k x => k + x.count) 0 + n.toNat ≤ c.b.tileBudget →
      ∃ u b' x, exec (.acca sw d n) s = .next u ∧ u.block? c.b.id = some b'
        ∧ b'.allocs = c.b.allocs ++ [x] ∧ x.idx = i ∧ x.count = n.toNat ∧ x.tag < 128
        ∧ (∀ y ∈ c.b.allocs, x.first + x.count ≤ y.first ∨ y.first + y.count ≤ x.first)
        ∧ (∀ t, x.first ≤ t → t < x.first + x.count → ∀ row col, row < 32 → col < 32 →
          sparseGet 0 b'.tiles (tileKey t row col) = 0)
        ∧ ∀ l ∈ c.outLanes, (u.homeValue s.cur l d).toNat = x.tag * 2 ^ 24 + i * 2 ^ 16)
    ∧ (s.Issues (freeEntry sw a) c → ∀ x, c.b.alloc? (c.one a) = some x →
      s.inUse c.b { resvs := [], tiles := (List.range x.count).map (x.first + ·) } = false →
      ∃ u b', exec (.accf sw a) s = .next u ∧ u.block? c.b.id = some b'
        ∧ b'.allocs = c.b.allocs.filter (fun y => y.idx != x.idx))
    ∧ (s.Issues (freeEntry sw a) c → c.b.alloc? (c.one a) = none →
      exec (.accf sw a) s = .next (s.takeFault s.cur (faultAt fcHandle 1) c.w.ctl.pc))
    ∧ (∀ h x, c.outLanes ≠ [] → (∀ l ∈ c.outLanes, c.opd l a = h) → modeGd c.mode ≠ 8 →
      c.b.alloc? h = some x → x.holds h = true →
      (∀ l ∈ c.outLanes, 32 * handleRow h + (c.opd l b).toNat + l < 1024) →
      c.heldBy { resvs := [], tiles := [x.first + handleTile h] } = false →
      let key := fun l => 1024 * (x.first + handleTile h) + 32 * handleRow h + (c.opd l b).toNat + l
      (s.Issues (accrEntry sw d a b) c → ∃ u, exec (.accr sw d a b) s = .next u ∧ BlocksKept s u
        ∧ Later s u c d 1 (c.outLanes.map fun l => (l, (sparseGet 0 c.b.tiles (key l)).toNat)))
      ∧ (s.Issues (accwEntry sw d a b) c →
        (∀ l ∈ c.outLanes, ∀ m ∈ c.outLanes, key l = key m → l = m) →
        ∃ u b', exec (.accw sw d a b) s = .next u ∧ u.block? c.b.id = some b'
          ∧ (∀ l ∈ c.outLanes, sparseGet 0 b'.tiles (key l) = c.opd l d)
          ∧ ∀ k, (∀ l ∈ c.outLanes, key l ≠ k) →
            sparseGet 0 b'.tiles k = sparseGet 0 c.b.tiles k))

/-- R213, R244, R248: a matrix word whose octets all pass their checks goes behind the words of its
core's array queue as one MATRIX operation, with the handles of each octet read at issue; the first
octet that fails gives the fault. R254, R257 to R268: so do the spline words, as SPLINE operations, and
KGET with pending registers and no counter. -/
def Obligations.ArrayWordsQueue : Prop :=
  ∀ (sw clr : Bool) (d a b : Operand) (set : BitVec 4) (s : State) (c : Ctx),
    (∀ i fn lam, (i, fn, lam) ∈ matrixForm d a b sw → s.Issues (mmaEntry sw fn d a b) c →
      let ops := ((List.range (c.w.width / 8)).filter fun q => c.act.any fun l => l / 8 == q).map fun q =>
        ({ octet := q, hd := c.opd (8 * q) d, ha := c.opd (8 * q) a, hb := c.opd (8 * q) b } : OctetOp)
      ((∀ x ∈ ops, octetFault c.b fn x = none) →
        roomInArray s c .matrix { resvs := ops.flatMap fun o => (o.names c.b).resvs,
                                  tiles := ops.flatMap fun o => (o.names c.b).tiles } →
        ∃ u, exec i s = .next u ∧ u.mem = s.mem ∧ u.accs = s.accs
          ∧ Queues s u c .matrix (.matrix fn (match lam with
          | some o => c.one o
          | none => 0) ops))
      ∧ (∀ x f, ops.find? (fun y => (octetFault c.b fn y).isSome) = some x →
        octetFault c.b fn x = some f →
        ∃ m, exec i s = .next (s.takeFault s.cur { faultAt f 1 with lanes := m } c.w.ctl.pc)))
    ∧ (∀ i x y, splineForm c i = some x → s.Issues (fun _ => x.entry) c → c.spline = some y →
      (x.check y = none → roomInArray s c .spline (x.op.names c.b) →
        ∃ u, exec i s = .next u ∧ Queues s u c .spline (.spline x.op)
          ∧ (ownSpline s c → u.mem = s.mem ∧ u.accs = s.accs)
          ∧ (u.core c.b.core).spline = some (x.view y))
      ∧ (∀ f, x.check y = some f →
        exec i s = .next (s.takeFault s.cur (faultAt f 1) c.w.ctl.pc)))
    ∧ (∀ i k, (i, k) ∈ [(Instr.kgetRecord sw d set, SplineOp.kget set.toNat false false s.nextId),
        (.kgetCount sw d clr set, .kget set.toNat true clr s.nextId)] →
      s.Issues (fun _ => kgetEntry sw d) c → ∀ y, c.spline = some y →
      (s.core c.b.core).queue.length < 16 →
      ∃ u w' q, exec i s = .next u ∧ BlocksKept s u ∧ warpOf u s.cur = some w' ∧ w'.regs = c.w.regs
        ∧ w'.pend = c.w.pend ++ named d 4 ∧ w'.eng = c.w.eng
        ∧ (u.core c.b.core).queue = (s.core c.b.core).queue ++ [q] ∧ q.work = .spline k ∧ q.op = none)

/-! ## Messages, snapshots and handler words -/

/-- R276, R278, R279, R287: SEND with a credit takes it and puts a message of 32 words, 0 for a lane
outside C, on its way to the peer; RECV with an unread message takes the oldest slot into the lanes of
C and gives its credit back, and without one waits; NRED sends its contribution, identities for the
lanes outside C, and leaves D and %status pending. -/
def Obligations.MessageWords : Prop :=
  ∀ (sw half : Bool) (d a : Operand) (chan : BitVec 4) (tree fn : BitVec 3) (s : State) (c : Ctx),
    c.g.packet.redundant = false → (half = true → c.w.width = 64) → c.g.map ≠ [] →
    (s.Issues (sendEntry sw a) c → ∀ e, c.b.chans[chan.toNat]? = some e → e.credits ≠ 0 →
      c.w.counter .net < 63 →
      ∃ u b' w' e' m o, exec (.send sw a half chan) s = .next u ∧ u.messages = s.messages ++ [m]
        ∧ (∀ k, k < 32 → m.words[k]? = some (if halfLane half + k ∈ c.lanes then
            c.opd (halfLane half + k) a else 0)) ∧ m.words.length = 32
        ∧ m.chan = chan.toNat ∧ m.grid = c.b.grid
        ∧ (m.dest : Int) = ((c.b.index : Int) + e.desc.peer) % c.g.map.length
        ∧ u.block? c.b.id = some b' ∧ b'.chans[chan.toNat]? = some e' ∧ e'.credits = e.credits - 1
        ∧ warpOf u s.cur = some w' ∧ w'.regs = c.w.regs ∧ w'.eng = c.w.eng ++ [o] ∧ o.cls = .net
        ∧ o.done = false ∧ m.op = o.id)
    ∧ (s.Issues (recvEntry sw d) c → c.w.run = .ready → ∀ e, c.b.chans[chan.toNat]? = some e →
      (e.taken < e.landed → (∀ w ∈ c.b.warps, ∀ t, w.run ≠ .recv chan.toNat t) → s.twin? c.b = none →
        c.acquiring = false → halfLanes c half ≠ [] →
        ∃ u b' e' k, exec (.recv sw d half chan) s = .next u
          ∧ (Asks s u c d 1 false fun x => x.lanes = maskOf (halfLanes c half) ∧ x.vals =
              sparseVals ((halfLanes c half).map fun l => (l, readLE c.b.scratch
                (e.desc.landing + 128 * (e.taken % max 1 e.desc.slots) + 4 * (l - halfLane half)) 4)))
          ∧ u.block? c.b.id = some b' ∧ b'.chans[chan.toNat]? = some e' ∧ e'.taken = e.taken + 1
          ∧ u.credits = s.credits ++ [k] ∧ k.chan = chan.toNat ∧ k.grid = c.b.grid
          ∧ (k.dest : Int) = ((c.b.index : Int) - e.desc.peer) % c.g.map.length)
      ∧ (e.landed ≤ e.taken → ∃ u w' t, exec (.recv sw d half chan) s = .next u
        ∧ warpOf u s.cur = some w' ∧ w'.run = .recv chan.toNat t ∧ w'.regs = c.w.regs
        ∧ w'.ctl.pc = c.w.ctl.pc ∧ w'.results = c.w.results))
    ∧ (s.Issues (nredEntry sw d a tree fn) c → ∀ t, c.g.desc.trees[tree.toNat]? = some t →
      c.openRounds tree.toNat < 2 →
      ∃ u p, exec (.nred sw d a tree fn) s = .next u
        ∧ (Asks s u c d 1 true fun x => x.ready = false)
        ∧ u.treePkts = s.treePkts ++ [p] ∧ p.tree = tree.toNat ∧ p.val.fn = fn.toNat
        ∧ p.round = sparseGet 0 c.b.nreds tree.toNat ∧ p.val.vals.length = 32
        ∧ ∀ k, k < 32 → p.val.vals[k]? = some (if k ∈ c.lanes then c.opd k a
            else treeId fn.toNat (modeTy c.mode)))

/-- R334: SNAP start queues a request; query answers the state of the latest image; release ends a
frozen image; start and release without snapshot permission are PERMISSION. D is pending with %status. -/
def Obligations.SnapshotWords : Prop :=
  ∀ (sw incr dev : Bool) (d : Operand) (s : State) (c : Ctx), s.Issues (fun _ => snapEntry sw d) c →
    (c.g.packet.redundant = false →
      (s.maySnap c.g.vf c.ctx = true → (dev = true → s.privileged c.ctx = true) →
        ∃ u q, exec (.snapStart sw d incr dev) s = .next u
          ∧ (Asks s u c d 2 true fun x => x.ready = false ∧ q.result = x.id)
          ∧ u.snaps = s.snaps ++ [q] ∧ q.vf = c.g.vf ∧ q.incr = incr ∧ q.dev = dev ∧ q.granted = none)
      ∧ (∃ u, exec (.snapQuery sw d) s = .next u ∧ u.vfs = s.vfs
          ∧ Asks s u c d 2 true fun x => x.ready = true ∧
              x.vals = [(c.lane0, (s.snapState c.g.vf).setWidth 128)])
      ∧ (s.maySnap c.g.vf c.ctx = true →
        ∃ u, exec (.snapRelease sw d) s = .next u ∧ (u.vf c.g.vf).part.frozen = none
          ∧ Asks s u c d 2 true fun x => x.ready = true ∧ x.vals = [(c.lane0, 0)]))
    ∧ (s.maySnap c.g.vf c.ctx = false ∨ (dev = true ∧ s.privileged c.ctx = false) →
      exec (.snapStart sw d incr dev) s = .next (s.takeFault s.cur (faultAt fcPermission 1) c.w.ctl.pc))
    ∧ (s.maySnap c.g.vf c.ctx = false →
      exec (.snapRelease sw d) s = .next (s.takeFault s.cur (faultAt fcPermission 1) c.w.ctl.pc))

/-- R302, R303, R321, R322, R52: what the words of handler blocks do in a privileged context. TLBI removes
every TLB entry that it names and is outstanding; FHGET takes the oldest fault-queue entry of its
cluster, or 0; FHDONE frees its sheaf, and with outcome 0 its warps go on; SWR writes one register of
a stopped warp, and RTT makes it ready, one word on where its skip bit is set, but for a warp whose word has
issued and waits, which goes on waiting (the model's reading of R321, log row 80). In a context without the
privileged flag each of them is PERMISSION, when its codes, operands and budget are accepted, and nothing
else happens; a reserved sub-op is ILLEGAL_INSTRUCTION whatever the privilege. -/
def Obligations.HandlerWords : Prop :=
  ∀ (sw wait : Bool) (d a : Operand) (s : State) (c : Ctx),
    let x := c.pair64 a
    let k := c.one d
    (s.Issues (sysEntry sw d a) c →
      (k.extractLsb' 18 14 = 0 → s.ctxAlive (k.extractLsb' 0 16).toNat = true →
        ∃ u q, exec (.tlbi sw d a) s = .next u ∧ u.tlbis = s.tlbis ++ [q]
          ∧ q.ctx = (k.extractLsb' 0 16).toNat ∧ q.va = x.toNat ∧ q.all = k.getLsbD 16
          ∧ (∀ e ∈ u.cores, ∀ t ∈ e.dtlb, q.names t = false)
          ∧ (∀ e ∈ u.clusters, ∀ t ∈ e.tlb, q.names t = false)
          ∧ (k.getLsbD 17 = true → ∀ e ∈ u.cores, ∀ t ∈ e.itlb, q.names t = false)
          ∧ ∃ w', warpOf u s.cur = some w' ∧ w'.tlbis = c.w.tlbis ++ [q.id] ∧ w'.regs = c.w.regs)
      ∧ (k.extractLsb' 18 14 ≠ 0 ∨ s.ctxAlive (k.extractLsb' 0 16).toNat = false →
        exec (.tlbi sw d a) s = .next (s.takeFault s.cur (faultAt fcRange 1) c.w.ctl.pc))
      ∧ (∀ f, s.claimedAt x = some f → f.cancelled = false → k = 0 → c.writesDone = true →
        ∃ u, exec (.fhdone sw d a) s = .next u ∧ u.mem = s.mem
          ∧ (∀ y ∈ u.ctxs, ∀ z ∈ y.sheaves, z.place ≠ f.place)
          ∧ ∀ b ∈ u.blocks, ∀ w ∈ b.warps, s.ctxOf b = f.ctx → w.run ≠ .held [f.id])
      ∧ (s.claimedAt x = none →
        exec (.fhdone sw d a) s = .next (s.takeFault s.cur (faultAt fcRange 1) c.w.ctl.pc))
      ∧ (∀ r b w g, Repairs s c x r b w → s.grid? b.grid = some g →
        x.extractLsb' 37 3 = 0 → x.extractLsb' 44 4 = 0 →
        swrOk w g.desc.size (x.extractLsb' 40 4).toNat (x.extractLsb' 48 16).toNat k = true →
        ∃ u w', exec (.swr sw d a) s = .next u ∧ warpOf u r = some w'
          ∧ Repaired (x.extractLsb' 40 4).toNat (x.extractLsb' 48 16).toNat k w w' ∧ w'.run = w.run))
    ∧ (s.Issues (fhgetEntry sw d) c →
      ((s.cluster (clusterOf c.b.core)).intake = [] →
        (wait = true → exec (.fhget sw d wait) s = .next (s.park s.cur .parked))
        ∧ (wait = false → ∃ u, exec (.fhget sw d wait) s = .next u
          ∧ ∀ l ∈ c.outLanes, u.homeValue s.cur l d = 0 ∧ u.homeValue s.cur l (d.nth 1) = 0))
      ∧ (∀ e p rest, (s.cluster (clusterOf c.b.core)).intake = (e, p) :: rest → p < 2 ^ 42 →
        ∃ u w', exec (.fhget sw d wait) s = .next u
          ∧ (u.cluster (clusterOf c.b.core)).intake = rest
          ∧ (∀ l ∈ c.outLanes, (u.homeValue s.cur l d).toNat + 2 ^ 32 * (u.homeValue s.cur l (d.nth 1)).toNat
              = 2 ^ 56 + p)
          ∧ warpOf u s.cur = some w' ∧ w'.claimed = c.w.claimed ++ [p]))
    ∧ (s.Issues (rttEntry sw a) c → ∀ r b w, Repairs s c x r b w →
      x.extractLsb' 37 3 = 0 → x.extractLsb' 41 23 = 0 →
      ∃ u w', exec (.rtt sw a) s = .next u ∧ warpOf u r = some w' ∧ w'.halted = false
        ∧ w'.run = (if w.run.resumes then .ready else w.run) ∧ w'.regs = w.regs
        ∧ w'.ctl.pc = w.ctl.pc + if x.getLsbD 40 then 4 else 0)
    ∧ (∀ (i : Instr) (e : Word → Entry),
      (i, e) ∈ [(Instr.tlbi sw d a, sysEntry sw d a), (.fhdone sw d a, sysEntry sw d a),
        (.swr sw d a, sysEntry sw d a), (.fhget sw d wait, fhgetEntry sw d), (.rtt sw a, rttEntry sw a)] →
      s.Stands e c → s.privileged c.g.ctx = false → (∀ u ∈ (e c.mode).uses, u.ok = true) →
      exec i s = .next (s.takeFault s.cur { code := 0x11, stage := 0, detail := 0, addr := 0, lanes := 0 }
        c.w.ctl.pc))
    ∧ (∀ y : Word, majorOf y = 0x7E → 5 ≤ (y.extractLsb' 0 5).toNat → issued y = .illegalWord y
      ∧ (s.Stands (fun _ => { sw := false, codes := false }) c → exec (issued y) s = .next
        (s.takeFault s.cur (faultAt fcIllegalInstruction 0) c.w.ctl.pc)))

/-! ## Events of the part

An event is a step that no word asks for. Each clause says when it happens and what it leaves. -/

/-- R88, R89, R95, R91, R305, R299, R300, R295, R302: an issue window packs its warps; a warp ready for
4,096 cycles is promoted; a complete result is written and its pending bits cleared; a fetch brings 16
words; a run-ahead of 512 words behind the faulting one is rolled back; a sheaf is posted; a walk installs its
leaf; a TLBI is performed, once every access that went through a covered entry is. The order in which the model
lets them happen is its own choice (log rows 4, 15, 22), as are the packing in ascending %warp and the window
that the pipes of a core share (row 94), which warps stand among a window's candidates (row 49), how warps of
two blocks compare (row 48), the clock's step of 4 (row 23) and what a TLBI waits for (row 96). -/
def Obligations.SchedulingEvents : Prop :=
  (∀ (s : State) (core pipe : Nat), Happens (.issueWindow core pipe) s fun t =>
      SameMemory s t ∧ t.blocks.map ageless = s.blocks.map ageless ∧ (t.now = s.now ∨ t.now = s.now + 4)
      ∧ ∃ picked : List (WarpRef × Block × Warp), Packed s core pipe picked ∧
        let new := (picked.map Prod.fst).filter fun r => !s.issue.contains r && !s.packed.contains r
        (t.issue = s.issue ∧ t.packed = s.packed ++ new)
          ∨ (t.packed = [] ∧ ∃ rs, t.issue = s.issue ++ rs ∧ rs.Perm (s.packed ++ new)
            ∧ rs.Pairwise fun x y => x.slot ≤ y.slot))
  ∧ (∀ (s : State) (r : WarpRef) (b : Block) (w : Warp), s.warp? r = some (b, w) → isReady s (r, b, w) →
      Happens (.promotion r) s fun t => SameMemory s t ∧
        ∃ b', t.warp? r = some (b', if w.since + 4096 ≤ s.now then { w with promoted := true } else w))
  ∧ (∀ (s : State) (r : WarpRef) (b : Block) (w : Warp) (g : Grid) (x : Result) (i : BitVec 6),
      s.warp? r = some (b, w) → s.grid? b.grid = some g → w.run = .ready → w.evicted = false →
      w.results.find? (fun y => y.id == x.id) = some x → plainResult s x i →
      Happens (.variableLatencyResult r x.id) s fun t => SameMemory s t
        ∧ (∀ y ∈ x.values, t.operand r y.1 (.v i) = BitVec.ofNat 32 y.2)
        ∧ (∀ (l : Nat) (j : BitVec 6), l < 64 → (j ≠ i ∨ l ∉ x.values.map Prod.fst) →
            t.operand r l (.v j) = s.operand r l (.v j))
        ∧ ∃ w', warpOf t r = some w' ∧ w'.pend = clearPend w.pend x.pend
          ∧ w'.results = w.results.filter (fun y => y.id != x.id) ∧ w'.run = .ready
          ∧ w'.ctl.status = statusOr w.ctl.status x.flags ∧ w'.ctl.pc = w.ctl.pc)
  ∧ (∀ (s u : State) (r : WarpRef) (b : Block) (w : Warp) (pa : Nat), s.warp? r = some (b, w) →
      w.wantsFetch (s.imageOf b) = true →
      (w.flt.skipComp = some w.ctl.pc ∨ s.comparators (s.ctxOf b) (nextVa s b w) = 0) →
      s.aheadOf b.core r = none →
      s.translate b.core (s.ctxOf b) (nextVa s b w &&& ~~~63#64) .fetch = (.phys pa, u) →
      pa + 64 ≤ Config.dramBytes → s.spanBad pa 64 = false →
      (∀ x ∈ (s.core b.core).icache, ¬ (x.ctx = s.ctxOf b ∧ x.va = (nextVa s b w &&& ~~~63#64).toNat)) →
      (∀ x ∈ s.code, ∀ k, k < 64 →
        x.leaf.covers (s.ctxOf b) ((nextVa s b w &&& ~~~63#64).toNat + k) = false) →
      Happens (.instructionFetch r) s fun t => SameMemory s t
        ∧ ∃ w', warpOf t r = some w' ∧ w'.ctl = w.ctl ∧ w'.regs = w.regs ∧ w'.run = w.run
          ∧ w'.fetch = some ((nextVa s b w &&& ~~~63#64).toNat,
              (List.range 16).map fun i => BitVec.ofNat 32 (readLE s.mem (pa + 4 * i) 4)))
  ∧ (∀ (s : State) (core : Nat) (a : Ahead) (b : Block) (w : Warp), (s.core core).ahead = some a →
      513 ≤ a.words → a.saved.slot = a.slot →
      s.warp? { blk := a.blk, slot := a.slot } = some (b, w) →
      Happens (.runAheadRollback core) s fun t => SameMemory s t ∧ (t.core core).ahead = none
        ∧ ∃ w', warpOf t { blk := a.blk, slot := a.slot } = some w' ∧ w'.regs = a.saved.regs
          ∧ w'.ctl = a.saved.ctl ∧ w'.run = a.saved.run ∧ w'.pend = a.saved.pend)
  ∧ (∀ (s : State) (core p : Nat) (x : Sheaf), s.nextSheaf core = some (x, p) → noFrozen s →
      s.lineBusy p 256 = false → Happens (.sheafPost core) s fun t =>
        Holds s t p (x.record (match s.block? x.blk with
          | some b => b.place x.slot
          | none => x.slot))
        ∧ (t.cluster (clusterOf core)).intake = (s.cluster (clusterOf core)).intake ++ [(x.ctx, p)]
        ∧ ∀ c, s.ctx? x.ctx = some c → ∃ c', t.ctx? x.ctx = some c'
          ∧ ∀ y' ∈ c'.sheaves, y'.id = x.id → y'.place = some p)
  ∧ (∀ (s : State) (core ctx va : Nat) (acc : Access) (e : Tlb), va < 2 ^ 57 → acc ≠ .fetch →
      untranslated s core ctx va → s.walk ctx va = .leaf e →
      Happens (.tableWalk core ctx va acc) s fun t => SameMemory s t ∧ e.covers ctx va = true
        ∧ e ∈ (t.core core).dtlb ∧ e ∈ (t.cluster (clusterOf core)).tlb)
  ∧ (∀ (s : State) (q : TlbiReq), s.tlbis.find? (fun x => x.id == q.id) = some q → q.accs = [] →
      q.own = [] → s.heldReach q = false →
      ((q.purged = true ∨ s.translated q = []) → Happens (.tlbiPerformed q.id) s fun t => SameMemory s t
        ∧ t.tlbis = s.tlbis.filter (fun x => x.id != q.id) ∧ t.accs = s.accs
        ∧ ∀ b ∈ t.blocks, ∀ w ∈ b.warps, q.id ∉ w.tlbis)
      ∧ (q.purged = false → s.translated q ≠ [] → Happens (.tlbiPerformed q.id) s fun t => SameMemory s t
        ∧ t.accs = s.accs ∧ t.tlbis = s.tlbis.map fun x =>
            if x.id == q.id then { x with accs := s.translated q, purged := true } else x))


/-- R370, R371, R82, R84, R83, R85: the dispatcher takes an entry, which is accepted or gets its code in
its completion word; a waiting launch reads its dependences again, a failure code among them ends it;
the blocks of a launch start at their entry; a grid whose blocks have retired adds its increment. The word at
which a code is written for a misaligned completion address is the model's choice (log row 83). -/
def Obligations.DispatcherEvents : Prop :=
  (∀ (s : State) (vf q ctx : Nat) (va : Dword) (bs : List Byte) (d : Desc) (map : List (Nat × Nat))
      (met : Bool), entryRead s vf q ctx va bs → s.checkLaunch vf ctx bs = .ok (d, map, met) →
      Happens (.dispatchQueueEntry vf q) s fun t => SameMemory s t ∧ SameVfs s t ∧ t.accs = s.accs
        ∧ ∃ l, t.launches = s.launches ++ [l] ∧ l.vf = vf ∧ l.queue = q ∧ l.ctx = ctx ∧ l.desc = d
          ∧ l.map = map ∧ l.met = met ∧ l.packet = { Packet.of bs with priority := l.packet.priority }
          ∧ l.packet.priority = Nat.min (Packet.of bs).priority
              (Nat.min (if q == 15 then (s.vf vf).devCap.toNat else ((s.vf vf).queue q).cap)
                ((s.vf vf).ctl.extractLsb' 8 3).toNat)
          ∧ ∀ u, u ∈ l.waiting ↔ u * (Packet.of bs).cluster < (Packet.of bs).blocks)
  ∧ (∀ (s : State) (vf q ctx : Nat) (va : Dword) (bs : List Byte) (code : Nat),
      entryRead s vf q ctx va bs → s.checkLaunch vf ctx bs = .error code →
      (packetOk bs = false → code = 1)
      ∧ Happens (.dispatchQueueEntry vf q) s fun t => SameMemory s t ∧ t.launches = s.launches
        ∧ (match s.dispatcherAddr ctx (Packet.of bs).done .write with
          | some pa => Completes s t pa .or (BitVec.ofNat 64 ((0x80 + code) * 2 ^ 56))
          | none => Notices s t ctx 0x00030000 (Packet.of bs).done (Packet.of bs).done)
        ∧ if q = 15 then (t.vf vf).devq = (s.vf vf).devq.drop 1
          else ((t.vf vf).queue q).head.toNat =
            (((s.vf vf).queue q).head.toNat + 1) % 2 ^ ((s.vf vf).queue q).n)
  ∧ (∀ (s : State) (vf q ctx : Nat) (va : Dword), (s.vf vf).posted = [] →
      s.entry vf q = some (va, ctx) → va.toNat % 64 ≠ 0 →
      Happens (.dispatchQueueEntry vf q) s fun t => SameMemory s t ∧ t.launches = s.launches
        ∧ t.accs = s.accs ∧ Notices s t ctx 0x00020000 va va)
  ∧ (∀ (s : State) (id : Nat) (l : Launch) (value : Dword → Dword),
      s.launches.find? (fun x => x.id == id) = some l → l.met = false → s.ctxUsable l.ctx = true →
      (∀ d ∈ l.packet.deps, s.depWord l.ctx d.1 = some (value d.1)) →
      ((∀ d ∈ l.packet.deps, (value d.1).getLsbD 63 = false) →
        Happens (.dependenceReread id) s fun t => SameMemory s t
          ∧ t.launches.find? (fun x => x.id == id) = some { l with
              met := l.packet.deps.all fun d => d.2.toNat ≤ (value d.1).toNat % 2 ^ 56 })
      ∧ ((∃ d ∈ l.packet.deps, (value d.1).getLsbD 63 = true) →
        Happens (.dependenceReread id) s fun t => SameMemory s t
          ∧ t.launches = s.launches.filter (fun x => x.id != id)
          ∧ ∀ pa, s.dispatcherAddr l.ctx l.packet.done .write = some pa →
              Completes s t pa .or (BitVec.ofNat 64 (0x88 * 2 ^ 56))))
  ∧ (∀ (s : State) (id unit : Nat) (l : Launch), s.launches.find? (fun x => x.id == id) = some l →
      l.met = true → unit ∈ l.waiting → s.ctxUsable l.ctx = true → s.fits l (l.together unit) = true →
      (∀ c ∈ l.coresOf (l.together unit), s.mayTake c l.ctx l.packet.priority = true) →
      Happens (.blockStart id unit) s fun t => SameMemory s t ∧ t.accs = s.accs
        ∧ (∀ i ∈ l.together unit, ∀ e, l.map[i]? = some e → Started t l i e.1 false s.now
          ∧ (l.packet.redundant = true → Started t l i e.2 true s.now))
        ∧ (∀ b ∈ s.blocks, ∃ b' ∈ t.blocks, b'.id = b.id ∧ b'.warps = b.warps ∧ b'.scratch = b.scratch)
        ∧ ∀ x ∈ t.launches, x.id = id → unit ∉ x.waiting)
  ∧ (∀ (s : State) (id : Nat) (g : Grid), s.grid? id = some g → g.finished = true →
      s.gridQuiet g = true → Happens (.gridCompletion id) s fun t => SameMemory s t ∧ t.grid? id = none
        ∧ t.blocks = s.blocks
        ∧ match s.dispatcherAddr g.ctx g.packet.done .write with
          | some pa => Completes s t pa .add (g.packet.increment.setWidth 64)
          | none => Notices s t g.ctx 0x00030000 g.packet.done g.packet.done)


/-- R180, R183 to R185, R190, R191, R195, R374 to R377: a slice performs a load, a write and an ACQ; a REL
increment; another device's access is answered; an acknowledgement ends a remote access; a packet is
forwarded, and dropped where there is no route, which is the model's choice (log row 45). -/
def Obligations.AccessEvents : Prop :=
  (∀ (s : State) (a : Acc) (b : Block) (w : Warp) (rid : Nat), ready s a → a.kind = .load →
      a.far = false → a.result = some rid → s.warp? { blk := a.blk, slot := a.slot } = some (b, w) → allMatched b →
      (∀ l ∈ (s.core a.core).cache, l.pa ≠ lineOf a.pa) → s.spanBad a.pa a.width = false →
      Happens (.sliceAccess a.id) s fun t => SameMemory s t ∧ Performs t a
        ∧ Fed s t { blk := a.blk, slot := a.slot } rid a.lane (readLE s.mem a.pa a.width))
  ∧ (∀ (s : State) (a : Acc) (i : Instr), ready s a → a.kind.writes = true → noFrozen s →
      (i = .sliceAccess a.id ∨ (i = .relIncrement a.id ∧ a.kind = .relInc)) →
      Happens i s fun t => Performs t a ∧ t.host = s.host ∧ t.low = s.low
        ∧ readLE t.mem a.pa a.width
          = a.newValue (readLE s.mem a.pa a.width) % 2 ^ (8 * a.width)
        ∧ (∀ y, newOf a (readLE s.mem a.pa a.width) = some y → readLE t.mem a.pa a.width = y)
        ∧ (∀ x, x < a.pa ∨ a.pa + a.width ≤ x → memGet t.mem x = memGet s.mem x)
        ∧ ∀ rid, a.result = some rid →
          Fed s t { blk := a.blk, slot := a.slot } rid a.lane (readLE s.mem a.pa a.width))
  ∧ (∀ (s : State) (a : Acc) (b : Block) (w : Warp) (rid : Nat), ready s a → a.kind = .acq →
      a.result = some rid → s.warp? { blk := a.blk, slot := a.slot } = some (b, w) →
      Happens (.sliceAccess a.id) s fun t => SameMemory s t ∧ Performs t a
        ∧ Fed s t { blk := a.blk, slot := a.slot } rid a.lane (readLE s.mem a.pa 8)
        ∧ ∀ l ∈ (t.core b.core).cache, ∀ x ∈ b.bindings, x.obj = a.va →
          (l.ctx = s.ctxOf b → l.va + 128 ≤ x.base.toNat ∨ x.base.toNat + x.len ≤ l.va)
          ∧ ∀ y ∈ s.rangeSpans (s.ctxOf b) x.base.toNat x.len, l.pa + 128 ≤ y.1 ∨ y.1 + y.2 ≤ l.pa)
  ∧ (∀ (s : State) (q : RemoteReq), s.up = true → s.dev.deviceIdle ≠ 4 →
      ((s.vf q.vf).refusing = true → Happens (.remoteAccess q) s fun t => SameMemory s t
        ∧ t.dev.acks = (.targetReset, 0) :: s.dev.acks)
      ∧ ((s.vf q.vf).refusing = false → outsideWindow (s.vf q.vf) q →
        Happens (.remoteAccess q) s fun t => SameMemory s t
          ∧ t.dev.acks = (.permission, 0) :: s.dev.acks)
      ∧ ((s.vf q.vf).refusing = false → ¬ outsideWindow (s.vf q.vf) q → noFrozen s →
        (∀ x ∈ s.accs, x.waits = false) → Happens (.remoteAccess q) s fun t =>
          t.dev.acks = (.accepted,
            BitVec.ofNat 128 (readLE s.mem ((s.vf q.vf).wbase.toNat + q.off) q.width)) :: s.dev.acks
          ∧ (q.kind = .load → SameMemory s t)
          ∧ (q.kind = .store →
            Holds s t ((s.vf q.vf).wbase.toNat + q.off) (leBytes q.width q.data.toNat))))
  ∧ (∀ (s : State) (a : Acc) (data : Wide), s.accs.find? (fun x => x.id == a.id) = some a →
      a.remote = true → a.after = [] → a.cmd = none → (a.kind = .store ∨ a.kind = .load) →
      a.target ≠ s.dev.self → s.dev.route a.target ≠ 0xFF →
      s.dev.route a.target ∉ s.dev.downPorts →
      Happens (.remoteAck a.id .accepted data) s fun t => SameMemory s t ∧ Performs t a
        ∧ ∀ rid, a.result = some rid → Fed s t { blk := a.blk, slot := a.slot } rid a.lane
            (data.toNat % 2 ^ (8 * a.width)))
  ∧ (∀ (s : State) (dev payload : Nat), s.up = true → s.dev.deviceIdle ≠ 4 → dev ≠ s.dev.self →
      dev < Config.devices → Happens (.fabricForward dev payload) s fun t => SameMemory s t ∧
        if s.dev.route dev = 0xFF then t = s
        else if s.dev.route dev ∈ s.dev.downPorts then t.dev.stuck = s.dev.stuck ++ [(dev, payload)]
        else t.dev.forwarded = (s.dev.route dev, dev, payload) :: s.dev.forwarded)

/-- R218, R219, R221, R224, R244, R246, R249, R257 to R263, R266 to R268: a chunk of an LCP into the scratchpad
lands; a batch whose commands are over completes; the array executes an octet operation, with the latch of
R246, and a spline word, with the coefficients, outputs and gradients that it makes: places on the grid, the
basis, values and slopes, each step one rounding. That a batch reports its first failing command in issue order
is the model's reading (log row 64). -/
def Obligations.EngineEvents : Prop :=
  SplineValues
  ∧ (∀ (s u : State) (c : Cmd) (b : Block) (n : Nat) (ls : List (Nat × Nat × Dword)) (l a : Nat) (g : Dword)
      (pa : Nat), s.cmds.find? (fun x => x.id == c.id) = some c → s.block? c.blk = some b →
      c.state = 1 → c.kind = .lcp false n ls → ls[c.next]? = some (l, a, g) → noFrozen s →
      (∀ x, s.ctx? c.ctx = some x → x.halted = false) → b.spilled = [] →
      s.translate c.core c.ctx g .read = (.phys pa, u) → pa + n ≤ Config.dramBytes →
      s.spanBad pa n = false → allMatched b → (∀ x ∈ s.accs, x.waits = false) →
      Happens (.copyChunk c.id 1) s fun t => t.host = s.host ∧ t.low = s.low
        ∧ (∃ b', t.block? c.blk = some b' ∧ readBytes b'.scratch a n = readBytes s.mem pa n
          ∧ (∀ x, x < a ∨ a + n ≤ x → memGet b'.scratch x = memGet b.scratch x)
          ∧ b'.opbuf = b.opbuf ∧ b'.tiles = b.tiles ∧ b'.tags = b.tags)
        ∧ (∃ c', t.cmds.find? (fun x => x.id == c.id) = some c' ∧ c'.next = c.next + 1
          ∧ c'.state = if c.next + 1 < ls.length then 1 else 3)
        ∧ ∀ x, ¬ cursorBytes s b c x → memGet t.mem x = memGet s.mem x)
  ∧ (∀ (s : State) (r : WarpRef) (b : Block) (w : Warp) (op : EngOp), s.warp? r = some (b, w) →
      w.eng.find? (fun x => x.id == op.id) = some op → op.cls = .copy → op.done = false →
      (∀ c ∈ s.cmds, c.id ∈ op.cmds → c.over = true) → w.heldEntries = [] → w.turn op = true →
      Happens (.batchComplete r op.id) s fun t => SameMemory s t
        ∧ t.cmds = s.cmds.filter (fun c => !op.cmds.contains c.id)
        ∧ ∃ b' w' op', t.warp? r = some (b', w') ∧ w'.eng.find? (fun x => x.id == op.id) = some op'
          ∧ op'.done = true
          ∧ op'.err = (s.cmds.filter fun c => op.cmds.contains c.id).findSome? Cmd.err
          ∧ op'.refused = ((s.cmds.filter fun c => op.cmds.contains c.id).map Cmd.refused).sum
          ∧ b'.rings = match op.arrive with
            | some (ring, stage) => (b.arrive ring stage).rings
            | none => b.rings)
  ∧ (∀ (s : State) (core : Nat) (q : ArrayWord) (rest : List ArrayWord) (b : Block) (fn : Nat) (lam : Word)
      (x : OctetOp) (ops : List OctetOp) (ra rb : Resv) (tile : Nat) (more : List Nat),
      (s.core core).queue = q :: rest → q.work = .matrix fn lam (x :: ops) → s.block? q.blk = some b →
      b.resv? x.ha = some ra → b.resv? x.hb = some rb → b.tilesOf x.hd 1 = tile :: more →
      Happens (.matrixOctetOperation core) s fun t => SameMemory s t
        ∧ (t.core core).latch = some (q.blk, x.hb)
        ∧ (if ops = [] then (t.core core).queue = rest
          else ∃ q', (t.core core).queue = q' :: rest ∧ q'.work = .matrix fn lam ops)
        ∧ ∃ b', t.block? q.blk = some b' ∧ b'.scratch = b.scratch ∧ b'.opbuf = b.opbuf
          ∧ (∀ k, (∀ i n, i < 8 → n < 32 → k ≠ tileKey tile (handleRow x.hd + i) n) →
              sparseGet 0 b'.tiles k = sparseGet 0 b.tiles k)
          ∧ ∀ i n, i < 8 → n < 32 → ∀ kk, matrixK fn ra.etype rb.etype = some kk →
              let old := (sparseGet 0 b.tiles (tileKey tile (handleRow x.hd + i) n)).toNat
              let new := (sparseGet 0 b'.tiles (tileKey tile (handleRow x.hd + i) n)).toNat
              new = (b.octetElem fn lam ra rb x kk i n old).1 % 2 ^ 32
              ∧ (5 ≤ ra.etype → 5 ≤ rb.etype → rb.etype ≤ 6 → (new : Int) =
                  ((if fn = 1 then 0 else (old : Int)) + ((List.range kk).map fun k =>
                    byteVal ra.etype (b.elemA ra x.ha kk i k) * byteVal rb.etype (b.elemB rb x.hb k n)).sum)
                    % 2 ^ 32))
  ∧ (∀ (s : State) (core : Nat) (q : ArrayWord) (rest : List ArrayWord) (b : Block) (x : Spline)
      (op : SplineOp), (s.core core).queue = q :: rest → q.work = .spline op →
      (s.core core).spline = some x → x.blk = q.blk → s.block? q.blk = some b →
      Happens (.splineExecution core) s fun t => SameMemory s t ∧ (t.core core).queue = rest
        ∧ (∃ y, (t.core core).spline = some y ∧ y.blk = x.blk ∧ y.coef = (op.run x b).1.coef
          ∧ y.sets = (op.run x b).1.sets ∧ y.view = x.view)
        ∧ (∃ b', t.block? q.blk = some b' ∧ b'.tiles = (op.run x b).2.1.tiles
          ∧ b'.opbuf = (op.run x b).2.1.opbuf ∧ b'.scratch = b.scratch)
        ∧ (∀ k x0 invh g mode mask, op = .kset k x0 invh g mode mask → k < x.sets.length →
          ∃ x', (t.core core).spline = some x' ∧ x'.coef = x.coef
            ∧ x'.sets[k]? = some { x0, invh, mode, g, mask, below := 0, above := 0 }
            ∧ ∀ j, j ≠ k → x'.sets[j]? = x.sets[j]?)
        ∧ ∀ k clr rid y, op = .kget k true clr rid → x.sets[k]? = some y →
          ∀ w, warpOf s { blk := q.blk, slot := q.slot } = some w → ∀ z ∈ w.results, z.id = rid →
            ∃ w' z', warpOf t { blk := q.blk, slot := q.slot } = some w' ∧ z' ∈ w'.results
              ∧ z'.id = rid ∧ z'.ready = true
              ∧ sparseGet 0 z'.vals 0 = BitVec.ofNat 128 (y.below.toNat + 2 ^ 32 * y.above.toNat))


/-- R72, R108, R112, R120 to R122, R276, R282 to R286: a RAISE round, a barrier, a register copy, a
message, a credit; a tree's input, time-out and result. -/
def Obligations.NetworkEvents : Prop :=
  (∀ (s : State) (blk reg : Nat) (b : Block) (x : Round) (v : Nat) (fl : Flags), reg < 32 →
      s.block? blk = some b → b.rounds.find? (fun y => y.reg == reg) = some x →
      (∀ w ∈ b.warps, w.run = .exited ∨ ∃ p ∈ x.parts, p.blk = blk ∧ p.slot = w.slot) →
      x.error [b.index] = none → x.fold [b.index] = (some v, fl) →
      Happens (.roundComplete (.block blk reg)) s fun t => SameMemory s t
        ∧ (∃ b', t.block? blk = some b' ∧ sparseGet 0 b'.b reg = BitVec.ofNat 32 v
          ∧ (∀ k, k ≠ reg → sparseGet 0 b'.b k = sparseGet 0 b.b k) ∧ ∀ y ∈ b'.rounds, y.reg ≠ reg)
        ∧ ∀ p ∈ x.parts, ∀ w, warpOf s { blk := p.blk, slot := p.slot } = some w →
          ∀ y ∈ w.results, y.id = p.result → ∃ w' y', warpOf t { blk := p.blk, slot := p.slot } = some w'
            ∧ y' ∈ w'.results ∧ y'.id = y.id ∧ y'.ready = true)
  ∧ (∀ (s : State) (blk : Nat) (b : Block), s.block? blk = some b →
      ((∃ w ∈ b.warps, w.run ≠ .exited ∧ w.run ≠ .barrier 2 false) →
        exec (.barrierComplete (.block blk)) s = .next s)
      ∧ ((∃ w ∈ b.warps, w.run = .barrier 2 false) →
        (∀ w ∈ b.warps, w.run = .exited ∨ w.run = .barrier 2 false) →
        Happens (.barrierComplete (.block blk)) s fun t => SameMemory s t ∧
          ∀ slot w, b.warp? slot = some w → w.run = .barrier 2 false →
            ∃ w', warpOf t { blk, slot } = some w' ∧ w'.run = .barrier 2 true ∧ w'.ctl = w.ctl))
  ∧ (∀ (s : State) (grid : Nat) (g : Grid) (ws : List (WarpRef × Warp)), s.grid? grid = some g →
      s.unitWarps g false (List.range g.map.length) = some ws →
      (∃ x ∈ ws, x.2.run = .barrier 4 false) →
      (∀ x ∈ ws, x.2.run = .exited ∨ x.2.run = .barrier 4 false) →
      Happens (.barrierComplete (.grid grid false)) s fun t => SameMemory s t
        ∧ ∃ g', t.grid? grid = some g' ∧ g'.g.log = g.g.log
          ∧ ∀ x ∈ ws, ∀ b, s.block? x.1.blk = some b → g'.g.applied b.core = g.g.log.length)
  ∧ (∀ (s : State) (grid core reg : Nat) (g : Grid) (x : Word), s.grid? grid = some g →
      (∃ b ∈ s.blocks, b.grid = grid ∧ b.core = core ∧ b.trail = false) →
      g.g.log[g.g.applied core]? = some (reg, x) →
      Happens (.registerCopyUpdate grid none core) s fun t => SameMemory s t
        ∧ ∃ g', t.grid? grid = some g' ∧ g'.g.log = g.g.log
          ∧ g'.g.applied core = g.g.applied core + 1 ∧ g'.g.read core reg = x
          ∧ ∀ k, k ≠ reg → g'.g.read core k = g.g.read core k)
  ∧ (∀ (s : State) (m : Message) (g : Grid) (b : Block) (e : ChanEnd),
      s.messages.find? (fun x => x.id == m.id) = some m → m.after = [] →
      s.messages.find? (fun x => x.grid == m.grid && x.trail == m.trail && x.chan == m.chan
        && x.dest == m.dest) = some m →
      s.grid? m.grid = some g → chanAt s m.grid m.dest m.trail m.chan b e → m.words.length = 32 →
      Happens (.messageLanding m.id) s fun t => SameMemory s t
        ∧ t.messages = ((s.messages.filter fun x => x.id != m.id).map fun (x : Message) =>
            { x with after := x.after.filter (· != m.id) })
        ∧ ∃ b' e', t.block? b.id = some b' ∧ b'.chans[m.chan]? = some e' ∧ e'.landed = e.landed + 1
          ∧ e'.credits = e.credits
          ∧ let base := e.desc.landing + 128 * (e.landed % Nat.max 1 e.desc.slots)
            (∀ i x, m.words[i]? = some x → readLE b'.scratch (base + 4 * i) 4 = x.toNat)
            ∧ ∀ a, a < base ∨ base + 128 ≤ a → memGet b'.scratch a = memGet b.scratch a)
  ∧ (∀ (s : State) (x : Credit) (b : Block) (e : ChanEnd),
      s.credits.find? (fun y => y.id == x.id) = some x → chanAt s x.grid x.dest x.trail x.chan b e →
      Happens (.creditReturn x.id) s fun t => SameMemory s t
        ∧ t.credits = s.credits.filter (fun y => y.id != x.id)
        ∧ ∃ b', t.block? b.id = some b' ∧ b'.chans[x.chan]? = some { e with credits := e.credits + 1 }
          ∧ b'.warps = b.warps)
  ∧ (∀ (s : State) (p : TreePkt) (g : Grid) (td : TreeDesc), arriving s p g td →
      let x := g.roundAt p.tree p.round p.pos s.now
      let y : TreeRound := { x with
        inputs := x.inputs ++ [(p.src, p.val)], start := if x.inputs.isEmpty then s.now else x.start }
      let pkts := s.treePkts.filter (fun z => z.id != p.id)
      (x.sent = true → Happens (.treeInput p.id) s fun t => SameMemory s t ∧ t.treePkts = pkts
        ∧ ∃ g', t.grid? p.grid = some g' ∧ g'.trees = g.trees)
      ∧ (x.sent = false → (∃ src ∈ g.expected td p.pos, ∀ z ∈ y.inputs, z.1 ≠ src) →
        Happens (.treeInput p.id) s fun t => SameMemory s t ∧ t.treePkts = pkts
          ∧ ∃ g', t.grid? p.grid = some g' ∧ g'.round? p.tree p.round p.pos = some y)
      ∧ (x.sent = false → (∀ src ∈ g.expected td p.pos, ∃ z ∈ y.inputs, z.1 = src) → agreed g td y →
        Happens (.treeInput p.id) s fun t => SameMemory s t ∧ Forwards s t g td y pkts))
  ∧ (∀ (s : State) (grid tree round pos : Nat) (g : Grid) (td : TreeDesc) (x : TreeRound),
      s.grid? grid = some g → g.desc.trees[tree]? = some td → g.round? tree round pos = some x →
      x.sent = false → x.inputs ≠ [] → x.start + td.limit ≤ s.now → agreed g td x →
      Happens (.treeTimeout grid tree round pos) s fun t =>
        SameMemory s t ∧ Forwards s t g td x s.treePkts)
  ∧ (∀ (s : State) (r : WarpRef) (b : Block) (w : Warp) (g : Grid) (td : TreeDesc) (n : NredWait)
      (more : List NredWait) (x : TreeRound) (v : TreeVal) (rep : BitVec 16),
      s.warp? r = some (b, w) → s.grid? b.grid = some g →
      (g.nreds.filter fun n => n.blk == r.blk && n.slot == r.slot && !n.done) = n :: more →
      g.desc.trees[n.tree]? = some td → (td.allreduce = true ∨ g.rootBlock td = some b.index) →
      g.round? n.tree n.round (g.posOf td (clusterOf (g.coreOf b.index))) = some x → x.gone = false →
      x.result = some (v, rep) → Happens (.treeResult r) s fun t => SameMemory s t
        ∧ ∀ y ∈ w.results, y.id = n.result → ∃ w' y', warpOf t r = some w' ∧ y' ∈ w'.results
          ∧ y'.id = y.id ∧ y'.ready = true ∧ y'.write = true ∧ y'.flags = v.flags
          ∧ y'.event = some (if rep.extractLsb' 8 8 = 0 then 0 else evPartial, rep)
          ∧ ∀ (l : Nat) (z : Word), v.vals[l]? = some z → sparseGet 0 y'.vals l = z.setWidth 128)


/-- R308, R309, R313, R314, R316, R317, R319, R320, R353 to R355: stop records and the host's consumed
number; the watchdog; PREEMPT_OVERRUN; a time slice; eviction and restore of a warp, which waits until its record
is written; a halt; the end of a kill; a matched and a mismatched window; a pair-performed request. The model's
choices in it are core 0xFFFF of a hang notice (log row 11), the place that a stop record and a warp record
have (row 100), which warp an eviction takes and when (row 50), the debugger that a halt attaches (row 37) and
what a rollback drops (row 84). -/
def Obligations.ContextAndPairEvents : Prop :=
  (∀ (s : State) (ctx : Nat) (c : Context) (x : StopRec) (rest : List StopRec), s.ctx? ctx = some c →
      c.stops = x :: rest →
      (2 ^ c.sqLog ≤ (c.written - c.consumed).toNat → exec (.stopRecord ctx) s = .next s)
      ∧ ((c.written - c.consumed).toNat < 2 ^ c.sqLog → noFrozen s → (∀ x ∈ s.accs, x.waits = false) →
        Happens (.stopRecord ctx) s fun t =>
          let pa := c.sqBase + 64 * (((c.written + 1).toNat - 1) % 2 ^ c.sqLog)
          readLE t.mem pa 8 = (c.written + 1).toNat ∧ readLE t.mem (pa + 8) 4 = x.record.toNat
          ∧ readLE t.mem (pa + 16) 8 = x.pc.toNat ∧ readLE t.mem (pa + 24) 8 = x.addr.toNat
          ∧ readLE t.mem (pa + 32) 8 = x.lanes.toNat
          ∧ (∀ a, a < pa ∨ pa + 64 ≤ a → memGet t.mem a = memGet s.mem a)
          ∧ (∃ c', t.ctx? ctx = some c' ∧ c'.stops = rest ∧ c'.written = c.written + 1)
          ∧ t.dev.msi = (ctx / 64, c.vector) :: s.dev.msi))
  ∧ (∀ (s : State) (ctx : Nat) (c : Context) (v : Dword), s.up = true → s.ctx? ctx = some c →
      ctx / 64 < Config.functions → (s.vf (ctx / 64)).posted = [] →
      (s.hostPending (ctx / 64) = [] → Happens (.stopQueueConsumed ctx v) s fun t => SameMemory s t
        ∧ t.ctx? ctx = some
          (if c.consumed.toNat ≤ v.toNat ∧ v.toNat ≤ c.written.toNat then { c with consumed := v } else c))
      ∧ (s.hostPending (ctx / 64) ≠ [] → Happens (.stopQueueConsumed ctx v) s fun t => SameMemory s t
        ∧ t.ctx? ctx = some c ∧ (t.vf (ctx / 64)).posted = [.reg (0x1808 + 16 * (ctx % 64)) v]))
  ∧ (∀ (s : State) (ctx : Nat) (c : Context), s.ctx? ctx = some c → c.watchdog ≠ 0 → c.killing = false →
      c.dead = false → c.progress + c.watchdog * 2 ^ 20 ≤ s.now → s.ctxStuck ctx = false →
      (c.halted = false → Happens (.watchdogExpiry ctx) s fun t => SameMemory s t ∧ t.blocks = s.blocks
        ∧ Notices s t ctx 0x00010000 0 0 ∧ ∃ c', t.ctx? ctx = some c' ∧ c'.progress = s.now)
      ∧ (c.halted = true → exec (.watchdogExpiry ctx) s = .next s))
  ∧ (∀ (s : State) (r : WarpRef) (b : Block) (w : Warp) (g : Grid) (c : Context) (time : Nat),
      s.warp? r = some (b, w) → s.grid? b.grid = some g → s.ctx? g.ctx = some c → c.killing = false →
      c.dead = false → w.pdis = some time → time ≤ s.now → w.results = [] → s.aheadOf b.core r = none →
      (atNext w → Happens (.preemptOverrun r) s fun t => (∀ w', warpOf t r = some w' → w'.run = .exited)
        ∧ ∃ c', t.ctx? g.ctx = some c' ∧ c'.killing = true
          ∧ ∃ x ∈ c'.stops, x.record.extractLsb' 0 8 = 0x22 ∧ x.core = b.core ∧ x.warp = b.place r.slot)
      ∧ (¬ atNext w → exec (.preemptOverrun r) s = .next s))
  ∧ (∀ (s : State) (core ctx time : Nat) (c : Context), s.sliceStart core ctx = some time →
      (∃ x ∈ s.claims core, x.1 ≠ ctx) → (s.core core).expiring ≠ some ctx → s.ctx? ctx = some c →
      c.halted = false →
      (∀ b ∈ s.blocks, b.core = core → s.ctxOf b = ctx → b.guarded = false) →
      time + 2000 * (s.vf (ctx / 64)).slice.toNat ≤ s.now →
      Happens (.timeSliceExpiry core ctx) s fun t => SameMemory s t ∧ t.blocks = s.blocks
        ∧ (t.core core).expiring = some ctx ∧ (t.core core).wanted = true
        ∧ ∃ y ∈ s.claims core, y.1 ≠ ctx ∧ (∀ x ∈ s.claims core, x.1 ≠ ctx → x.2 ≤ y.2)
          ∧ sparseGet 0 (t.core core).slices y.1 = s.now ∧ sparseGet 0 (t.core core).slices ctx = 0)
  ∧ (∀ (s : State) (core : Nat) (i : Incoming) (r : WarpRef) (b : Block) (w : Warp),
      s.warp? r = some (b, w) → s.pressing core = some i → s.warps.filter (s.victim core i) = [(r, b, w)] →
      s.aheadOf core r = none → w.dual = none →
      (∀ x ∈ s.cmds, x.blk = r.blk → x.slot = r.slot → x.state ≠ 0) → noFrozen s →
      (∀ x ∈ s.accs, x.waits = false) →
      Happens (.preemption core false) s fun t => ∃ w', warpOf t r = some w'
        ∧ w'.evicted = true ∧ w'.regs = w.regs ∧ w'.ctl = w.ctl ∧ w'.run = w.run
        ∧ (t.core core).evictions = (s.core core).evictions + 1
        ∧ ∀ pa, s.recordAt b r.slot = some pa → readBytes t.mem pa 0x4500 = w'.recordHead
          ∧ ∀ a, a < pa ∨ pa + 24576 ≤ a → memGet t.mem a = memGet s.mem a)
  ∧ (∀ (s : State) (r : WarpRef) (b : Block) (w : Warp), s.warp? r = some (b, w) → w.evicted = true →
      s.recordWritten b r.slot = true → within ((broughtBack s r).coreUse b.core) coreLimits = true →
      s.mayTake b.core (s.ctxOf b) (s.rank b) = true →
      Happens (.warpRestore r) s fun t => SameMemory s t ∧ ∃ b' w', t.warp? r = some (b', w')
        ∧ b'.spilled = [] ∧ w'.evicted = false ∧ w'.regs = w.regs
        ∧ (s.recordIntact b w = true → w'.born = s.now ∧ w'.run = w.run ∧ w'.ctl = w.ctl)
        ∧ (s.recordIntact b w = false → w.run ≠ .faulting → w.run ≠ .exited → w.results = [] →
          w'.run = .stopped ∧ w'.flt.word.extractLsb' 0 8 = 0x13))
  ∧ (∀ (s : State) (r : WarpRef) (b : Block) (w : Warp), s.warp? r = some (b, w) →
      s.recordWritten b r.slot = false → exec (.warpRestore r) s = .next s)
  ∧ (∀ (s : State) (ctx : Nat), s.up = true → s.debugOk ctx = true → s.ctxUsable ctx = true →
      (∀ k ∈ s.cores, k.ahead = none) → Happens (.debugHalt ctx) s fun t => SameMemory s t
        ∧ (∃ c', t.ctx? ctx = some c' ∧ c'.halted = true ∧ c'.debugger = true)
        ∧ ∀ r b w, s.warp? r = some (b, w) → s.ctxOf b = ctx → w.run ≠ .exited →
          ∃ w', warpOf t r = some w' ∧ w'.halted = true ∧ w'.run = w.run ∧ w'.regs = w.regs
            ∧ w'.ctl = w.ctl)
  ∧ (∀ (s : State) (ctx time : Nat) (c : Context), s.ctx? ctx = some c → c.killing = true → c.dead = false →
      c.killAt = some time → (time ≤ s.now ∨ s.remoteOut ctx = false) →
      Happens (.killWriteTimeout ctx) s fun t => SameMemory s t
        ∧ (∃ c', t.ctx? ctx = some c' ∧ c'.dead = true ∧ c'.key = 0)
        ∧ (∀ b ∈ t.blocks, ∀ g ∈ s.grids, g.ctx = ctx → b.grid ≠ g.id)
        ∧ ∀ a ∈ t.accs, a.ctx = ctx → a.remote = false)
  ∧ (∀ (s : State) (r : WarpRef) (lead trail : Block) (l t : Warp) (x y : StreamWindow)
      (xs ys : List StreamWindow) (e f : StreamEntry) (pa : Nat), copies s r lead trail l t →
      l.store.closed = x :: xs → t.store.closed = y :: ys → x.matched = false →
      (∀ z ∈ xs, z.matched = false) → x.num = y.num → signature x.entries = signature y.entries →
      x.entries = [e] → y.entries = [f] → e.cmd = none → f.cmd = none → e.after = [] → e.pa = some pa →
      e.lower = false → pa + e.width ≤ Config.dramBytes → noFrozen s → (∀ x ∈ s.accs, x.waits = false) →
      Happens (.windowMatch r false) s fun u => Holds s u pa (leBytes e.width e.data.toNat)
        ∧ (∃ l', warpOf u (inBlock lead r) = some l' ∧ l'.regs = l.regs
          ∧ l'.store.closed.map StreamWindow.num = xs.map StreamWindow.num)
        ∧ ∃ t', warpOf u (inBlock trail r) = some t' ∧ t'.regs = t.regs
          ∧ t'.store.closed.map StreamWindow.num = ys.map StreamWindow.num)
  ∧ (∀ (s : State) (r : WarpRef) (lead trail : Block) (l t : Warp) (x y : StreamWindow)
      (xs ys : List StreamWindow) (c d : Checkpoint), copies s r lead trail l t →
      l.store.closed = x :: xs → t.store.closed = y :: ys → x.matched = false →
      (x.num ≠ y.num ∨ signature x.entries ≠ signature y.entries) → l.flt.mayRestart = true →
      l.flt.chkpt = some c → t.flt.chkpt = some d → l.results = [] → t.results = [] →
      Happens (.windowMatch r false) s fun u => SameMemory s u
        ∧ Restarts u (inBlock lead r) l c (x.entries.head?.elim 0 StreamEntry.order)
        ∧ Restarts u (inBlock trail r) t d (y.entries.head?.elim 0 StreamEntry.order))
  ∧ (∀ (s : State) (r : WarpRef) (lead trail : Block) (l t : Warp) (q : PairReq),
      copies s r lead trail l t → l.pairReq = some (q, false) → t.pairReq = some (q, false) →
      q.isCheck = false → l.streamsEmpty = true → t.streamsEmpty = true →
      Happens (.pairPerformed r) s fun u => SameMemory s u
        ∧ warpOf u (inBlock lead r) = some { l with pairReq := some (q, true) }
        ∧ warpOf u (inBlock trail r) = some { t with pairReq := some (q, true) })


/-- R329 to R333, R337, R338, R341: a grant freezes the image and raises the generation, or answers that one is
frozen, and waits while any cut is in progress; a complete cut answers its SNAP; a claim copies its line; the
wain begins and drains granules; a restore copies the lower-tier image and counts every granule as written;
the control block and the release. That the image of a restore is the one that dest names, and a restore with
dest 0 none, is the model's choice (log row 53), as is ignoring a dest that is no multiple of 4,096 (row 54).
-/
def Obligations.GenerationEvents : Prop :=
  (∀ (s : State) (q : SnapReq), s.snaps.find? (fun x => x.granted.isNone) = some q → q.dev = false →
      ((s.vf q.vf).part.frozen = none → s.cutting = false →
        Happens (.generationGrant q.id) s fun t => SameMemory s t
          ∧ (t.vf q.vf).part.gen = (s.vf q.vf).part.gen + 1 ∧ (t.vf q.vf).part.touched = []
          ∧ (t.vf q.vf).part.cut = some { adopted := s.sleepers, start := s.now }
          ∧ (∃ f, (t.vf q.vf).part.frozen = some f ∧ f.gen = (s.vf q.vf).part.gen ∧ f.begun = false
            ∧ f.drain = (s.vf q.vf).part.touched ∧ f.claims = [] ∧ f.copies = []
            ∧ (q.incr = false → f.full = true))
          ∧ ∀ x ∈ t.snaps, x.id = q.id → x.granted = some ((s.vf q.vf).part.gen + 1))
      ∧ (s.cutting = true → exec (.generationGrant q.id) s = .next s)
      ∧ ((s.vf q.vf).part.frozen ≠ none → s.cutting = false →
        Happens (.generationGrant q.id) s fun t => SameMemory s t
          ∧ t.vfs = s.vfs ∧ t.snaps = s.snaps.filter (fun x => x.id != q.id)
          ∧ Answered s t { blk := q.blk, slot := q.slot } q.result 0x01))
  ∧ (∀ (s : State) (q : SnapReq) (g : Dword), s.snaps.find? (fun x => x.id == q.id) = some q →
      q.granted = some g → q.dev = false → s.cutReady q = true →
      Happens (.cutComplete q.id) s fun t => SameMemory s t ∧ (t.vf q.vf).part.cut = none
        ∧ (t.vf q.vf).part.gen = (s.vf q.vf).part.gen ∧ t.snaps = s.snaps.filter (fun x => x.id != q.id)
        ∧ Answered s t { blk := q.blk, slot := q.slot } q.result 0)
  ∧ (∀ (s : State) (a : Acc) (v : Nat) (f : Frozen), newWrite s a v f →
      f.kept (a.pa / 4096 * 4096) = true → (∀ c ∈ f.copies, c.1 ≠ lineOf a.pa) →
      a.pa / 4096 * 4096 ∉ f.claims →
      (f.claims.length < (s.vf v).part.granaryNow → Happens (.granaryClaim a.id) s fun t =>
          SameMemory s t
          ∧ (t.accs = s.accs.map fun x => if x.id == a.id then { x with waits := false } else x)
          ∧ ∃ f', (t.vf v).part.frozen = some f'
          ∧ f'.copies = f.copies ++ [(lineOf a.pa, readBytes s.mem (lineOf a.pa) 128)]
          ∧ a.pa / 4096 * 4096 ∈ f'.claims ∧ f'.drain = f.drain)
      ∧ ((s.vf v).part.granaryNow ≤ f.claims.length → (s.vf v).part.abort = true →
          Happens (.granaryClaim a.id) s fun t => SameMemory s t ∧ (t.vf v).part.frozen = none
            ∧ (t.vf v).part.last = some (f.gen, .aborted, f.full, f.left))
      ∧ ((s.vf v).part.granaryNow ≤ f.claims.length → (s.vf v).part.abort = false →
          Happens (.granaryClaim a.id) s fun t => SameMemory s t ∧ t.vfs = s.vfs
            ∧ ∀ x ∈ t.accs, x.id = a.id → x.waits = true))
  ∧ (∀ (s : State) (v : Nat) (f : Frozen), (s.vf v).part.frozen = some f → f.begun = false →
      (s.vf v).part.cut = none → (s.vf v).part.active ≠ 0 → s.frozenOut v f.gen = false →
      Happens (.wainStart v) s fun t => SameMemory s t ∧
        if f.begin.left = 0 then (t.vf v).part.frozen = none
            ∧ (t.vf v).part.last = some (f.gen, .drained, f.full, 0)
          else ∃ f', (t.vf v).part.frozen = some f' ∧ f'.begun = true ∧ f'.drain = f.drain
            ∧ f'.gen = f.gen)
  ∧ (∀ (s : State) (v g : Nat) (f : Frozen), (s.vf v).part.frozen = some f → f.begun = true →
      f.first = some g → (∀ c ∈ f.copies, c.2.length = 128) →
      Happens (.wainDrainGranule v) s fun t => t.mem = s.mem ∧ t.host = s.host ∧
        let base := (s.vf v).part.active.toNat + (g - (s.vf v).pbase.toNat)
        (∀ i, i < 32 → readBytes t.low (base + 128 * i) 128
            = match f.copies.find? (fun c => c.1 == g + 128 * i) with
              | some c => c.2
              | none => readBytes s.mem (g + 128 * i) 128)
        ∧ (∀ a, a < base ∨ base + 4096 ≤ a → memGet t.low a = memGet s.low a)
        ∧ if (f.drop g).left = 0 then (t.vf v).part.frozen = none
              ∧ (t.vf v).part.drained = some (f.gen, (s.vf v).part.active)
            else (t.vf v).part.frozen = some (f.drop g))
  ∧ (∀ (s : State) (v : Nat), s.up = true → s.vfBusy v = false → s.cutting = false →
      (s.vf v).psize ≠ 0 → (s.vf v).part.dest ≠ 0 →
      Happens (.generationRestore v) s fun t => t.low = s.low ∧ t.host = s.host
        ∧ (t.vf v).part.gen = (s.vf v).part.gen + 1
        ∧ (∃ x, (t.vf v).part.frozen = some x ∧ x.full = true ∧ x.drain =
            (List.range ((s.vf v).psize.toNat / 4096)).map ((s.vf v).pbase.toNat + 4096 * ·))
        ∧ (∀ i, i < (s.vf v).psize.toNat → memGet t.mem ((s.vf v).pbase.toNat + i)
            = memGet s.low ((s.vf v).part.dest.toNat + i))
        ∧ ∀ a, a < (s.vf v).pbase.toNat ∨ (s.vf v).pbase.toNat + (s.vf v).psize.toNat ≤ a →
            memGet t.mem a = memGet s.mem a)
  ∧ (∀ (s : State) (vf off : Nat) (v : Dword), s.up = true → vf < Config.functions →
      Happens (.partitionControlWrite vf off v) s fun t => SameMemory s t
        ∧ (off = 0x00 → (t.vf vf).part.dest =
            if (s.vf vf).part.frozen = none ∧ v.toNat % 4096 = 0 then v else (s.vf vf).part.dest)
        ∧ (off = 0x08 → (t.vf vf).part.abort = v.getLsbD 40 ∧ (t.vf vf).part.share = v.extractLsb' 32 6
          ∧ (t.vf vf).part.granary = if (s.vf vf).part.frozen = none then some (v.extractLsb' 0 28)
              else (s.vf vf).part.granary)
        ∧ (off = 0x18 → (t.vf vf).part.permit = v)
        ∧ (t.vf vf).part.gen = (s.vf vf).part.gen ∧ (t.vf vf).part.frozen = (s.vf vf).part.frozen)
  ∧ (∀ (s : State) (v : Nat) (f : Frozen), s.up = true → (s.vf v).part.frozen = some f →
      Happens (.frozenImageReleaseRequest v) s fun t => SameMemory s t ∧ (t.vf v).part.frozen = none
        ∧ (t.vf v).part.drained = none
        ∧ (t.vf v).part.last = some (f.gen, .released, f.full, f.left))

/-- R342, R344 to R347, R356 to R358: an error record is written to the ring, whose registers system
software writes; a resend and a retrain of a link; a gleaner's read; a corrected write-back; a spare bank;
the in-field test, at which a warp whose DUALST is half performed moves with its restart (R196), and its result.
Which channel and layer an address lies in is the model's reading (log row 9), as are the places of some records
(row 27), the error register's value for a bad n (row 33) and the count of resends for each link (row 44). -/
def Obligations.ReliabilityEvents : Prop :=
  (∀ (s : State) (r : LogRec) (rest : List LogRec), s.dev.logWait = r :: rest → s.dev.logBase ≠ 0 →
      (s.dev.logTail.toNat + 1) % 2 ^ s.dev.logN ≠ s.dev.logHead.toNat →
      Happens .errorLogRecord s fun t => t.mem = s.mem ∧ t.low = s.low ∧ t.dev.logWait = rest
        ∧ t.dev.logTail = BitVec.ofNat 32 ((s.dev.logTail.toNat + 1) % 2 ^ s.dev.logN) ∧
        let at' := s.dev.logBase.toNat + 32 * s.dev.logTail.toNat
        readLE t.host at' 8 = r.seq % 2 ^ 64 ∧ readLE t.host (at' + 8) 8 = r.word % 2 ^ 64
          ∧ readLE t.host (at' + 16) 8 = r.addr.toNat ∧ readLE t.host (at' + 24) 8 = r.cycles % 2 ^ 64
          ∧ ∀ a, a < at' ∨ at' + 32 ≤ a → memGet t.host a = memGet s.host a)
  ∧ (∀ (s : State) (off : Nat) (v : Dword), s.up = true →
      Happens (.errorLogConfigWrite off v) s fun t => SameMemory s t
        ∧ (off = 0x100 → v.toNat % 4096 = 0 →
          t.dev = { reached s with logBase := v, logHead := 0, logTail := 0 })
        ∧ (off = 0x108 → 4 ≤ v.toNat → v.toNat ≤ 20 →
          t.dev = { reached s with logN := v.toNat, logHead := 0, logTail := 0 })
        ∧ (off = 0x108 → (v.toNat < 4 ∨ 20 < v.toNat) → t.dev = { reached s with pfError := 0x108 }))
  ∧ (∀ (s : State) (v : Dword), s.up = true → v.toNat < 2 ^ s.dev.logN →
      Happens (.errorLogHeadWrite v) s fun t => SameMemory s t
        ∧ t.dev = { reached s with logHead := v.setWidth 32 })
  ∧ (∀ (s : State) (d : Domain) (loc : Nat), isLink d loc = true →
      sparseGet 0 s.dev.resends (linkKey d loc) < 8 →
      Happens (.linkRetry d loc) s fun t => SameMemory s t ∧ Logged t 4 d loc
        ∧ sparseGet 0 t.dev.resends (linkKey d loc) = sparseGet 0 s.dev.resends (linkKey d loc) + 1)
  ∧ (∀ (s : State) (d : Domain) (loc : Nat) (ok : Bool), isLink d loc = true →
      8 ≤ sparseGet 0 s.dev.resends (linkKey d loc) →
      Happens (.linkRetrain d loc ok) s fun t => SameMemory s t ∧ Logged t 5 d loc
        ∧ (ok = true → sparseGet 0 t.dev.resends (linkKey d loc) = 0
          ∧ t.dev.downPorts = s.dev.downPorts)
        ∧ (ok = false → d = .fleton → loc ∈ t.dev.downPorts))
  ∧ (∀ (s : State) (chan : Nat), chan < Config.channels → s.dev.deviceIdle = 0 →
      let line := 128 * (chan / 4 + 192 * (chan % 4) + Config.channels * sparseGet 0 s.dev.gleaner chan)
      s.spanBad line 128 = false → Happens (.gleanerRead chan) s fun t => SameMemory s t
        ∧ sparseGet 0 t.dev.gleaner chan = (sparseGet 0 s.dev.gleaner chan + 1) % channelLines
        ∧ (line ∈ s.dev.softLines → Logged t 1 .dram (channelOf line)
          ∧ ∃ c ∈ t.scrubs, c.line = line ∧ c.stale = false))
  ∧ (∀ (s : State) (c : Scrub), s.scrubs.find? (fun x => x.id == c.id) = some c →
      Happens (.scrubWriteback c.id) s fun t => SameMemory s t
        ∧ t.scrubs = s.scrubs.filter (fun x => x.id != c.id)
        ∧ t.dev.softLines = if c.stale then s.dev.softLines else s.dev.softLines.filter (· != c.line))
  ∧ (∀ (s : State) (chan : Nat), chan < Config.channels → sparseGet 0 s.dev.banksUsed (layerOf chan) < 32 →
      Happens (.spareBank chan) s fun t => SameMemory s t ∧ Logged t 0x0C .dram chan
        ∧ sparseGet 0 t.dev.banksUsed (layerOf chan)
          = sparseGet 0 s.dev.banksUsed (layerOf chan) + 1
        ∧ (28 < sparseGet 0 s.dev.banksUsed (layerOf chan) + 1 → t.dev.replace = true))
  ∧ (∀ (s : State) (cluster : Nat), s.mayTest cluster = true →
      Happens (.infieldTest cluster) s fun t => SameMemory s t ∧ Logged t 0x0B .site cluster
        ∧ t.dev.siteOf cluster = s.dev.spareOf (dieOf cluster)
        ∧ t.dev.testing = s.dev.testing ++ [(dieOf cluster, cluster, s.dev.siteOf cluster)]
        ∧ ∀ r b w, s.warp? r = some (b, w) → ∃ w', warpOf t r = some w' ∧ w'.regs = w.regs
          ∧ w'.run = w.run ∧ (w.dual = none → w' = w))
  ∧ (∀ (s : State) (die cluster site : Nat),
      s.dev.testing.find? (fun x => x.1 == die) = some (die, cluster, site) →
      (Happens (.testResult die true) s fun t => SameMemory s t ∧ t.dev.spareOf die = site
        ∧ Logged t 0x0D .site cluster ∧ ∀ c ∈ coresIn cluster, (t.core c).suspect = false)
      ∧ Happens (.testResult die false) s fun t => SameMemory s t ∧ die ∈ t.dev.nospare
        ∧ Logged t 0x0E .site cluster ∧ t.dev.replace = true
        ∧ ∀ c, (t.core c).suspect = (s.core c).suspect)


/-- R364, R366 to R369, R372, R374, R377, R380, R381: what the host does through the windows of the part once
it is up: device memory, function records, resets, contexts, queues, attestation, the debug states and
the other registers. A write through a function's windows waits for the function's earlier ones. The PF's
window, ignored writes and the routes follow the model's readings (log rows 13, 33, 38), as do the address bits
that a refused word keeps (row 35), the debugger that a comparator write attaches (row 37) and a queue's head
at its tail modulo the entries (row 55). -/
def Obligations.HostEvents : Prop :=
  (∀ (s : State) (vf off size : Nat) (v : Dword), s.up = true → vf < Config.functions →
      (s.vf vf).refusing = false → 1 ≤ size → size ≤ 8 → off + size ≤ (s.vf vf).psize.toNat →
      (s.vf vf).pbase.toNat + off + size ≤ Config.dramBytes → settled s vf →
      (∀ x ∈ s.accs, x.waits = false) →
      (noFrozen s → Happens (.hostMemoryAccess vf off size true v) s fun t =>
        Holds s t ((s.vf vf).pbase.toNat + off) (leBytes size v.toNat))
      ∧ Happens (.hostMemoryAccess vf off size false v) s fun t => SameMemory s t
        ∧ t.dev.reply = BitVec.ofNat 64 (readLE s.mem ((s.vf vf).pbase.toNat + off) size))
  ∧ (∀ (s : State) (vf : Nat) (v : Dword), s.up = true → vf < Config.functions →
      (100 ≤ v.toNat → v.toNat ≤ 100000 → Happens (.functionRecordWrite vf 0x78 v) s fun t =>
        SameMemory s t ∧ (t.vf vf).slice = v.setWidth 32)
      ∧ ((v.toNat < 100 ∨ 100000 < v.toNat) → Happens (.functionRecordWrite vf 0x78 v) s fun t =>
        SameMemory s t ∧ t.vfs = s.vfs ∧ t.dev.pfError = BitVec.ofNat 64 (0x10000 + 256 * vf + 0x78))
      ∧ (s.ctxsOf vf = [] → (s.vf vf).ctl.getLsbD 16 = false → v.toNat % 2097152 = 0 →
        (s.vf vf).psize.toNat % 2097152 = 0 → (s.vf vf).wsize.toNat < 4 →
        (s.vf vf).wbase.toNat % 65536 = 0 →
        Happens (.functionRecordWrite vf 0x00 v) s fun t => SameMemory s t ∧ (t.vf vf).pbase = v
          ∧ (v ≠ (s.vf vf).pbase → (t.vf vf).part.gen = 1 ∧ (t.vf vf).part.frozen = none))
      ∧ (s.ctxsOf vf ≠ [] → v ≠ (s.vf vf).pbase →
        Happens (.functionRecordWrite vf 0x00 v) s fun t => SameMemory s t ∧ t.vfs = s.vfs))
  ∧ (∀ (s : State) (vf : Nat) (i : Instr), i ∈ [Instr.functionReset vf, .functionLevelReset vf] →
      s.up = true → vf < Config.functions → s.ctxsOf vf = [] → (s.vf vf).ctl.getLsbD 18 = false →
      Happens i s fun t => SameMemory s t ∧ (t.vf vf).refusing = true
        ∧ (t.vf vf).ctl.getLsbD 16 = false ∧ (t.vf vf).ctl.getLsbD 18 = false ∧ (t.vf vf).devq = []
        ∧ (t.vf vf).part.frozen = none
        ∧ ∀ q, ((t.vf vf).queue q).head = BitVec.ofNat 32
            (((s.vf vf).queue q).tail.toNat % 2 ^ ((s.vf vf).queue q).n))
  ∧ (∀ (s : State) (vf n : Nat) (v : Dword), s.up = true → v.getLsbD 0 = true → vf < Config.functions →
      n < 64 → s.ctxAlive (64 * vf + n) = false → settled s vf → s.lineBusy (v.toNat - 1) 64 = false →
      let a := v.toNat - 1
      let word (i : Nat) : Nat := readLE s.mem (a + 8 * i) 8
      (∀ c, (s.vf vf).ctl.getLsbD 16 = true → (s.vf vf).ctl.getLsbD 18 = false → a % 64 = 0 →
        a + 64 ≤ Config.dramBytes → (s.vf vf).accept (64 * vf + n) ((List.range 8).map word) = some c →
        Happens (.contextCreate vf n v) s fun t => SameMemory s t
          ∧ sparseGet 0 (t.vf vf).table n = v ∧ ∃ c', t.ctx? (64 * vf + n) = some c' ∧ c'.root = word 0
          ∧ c'.key = BitVec.ofNat 64 (word 1) ∧ c'.save = word 2 ∧ c'.fqBase = word 3 / 4096 * 4096
          ∧ c'.fqLog = word 3 % 32 ∧ c'.sqBase = word 4 / 4096 * 4096 ∧ c'.sqLog = word 4 % 32
          ∧ c'.watchdog = word 5 % 65536 ∧ c'.killing = false ∧ c'.dead = false ∧ c'.written = 0
          ∧ c'.consumed = 0 ∧ (c'.privileged = true → (s.vf vf).ctl.getLsbD 19 = true))
      ∧ (((s.vf vf).ctl.getLsbD 16 = false
          ∨ (s.vf vf).accept (64 * vf + n) ((List.range 8).map word) = none) →
        Happens (.contextCreate vf n v) s fun t => SameMemory s t ∧ t.ctxs = s.ctxs
          ∧ sparseGet 0 (t.vf vf).table n = (v &&& ~~~(3 : Dword)) ||| 2))
  ∧ (∀ (s : State) (vf n : Nat) (v : Dword), s.up = true → v.getLsbD 0 = false → vf < Config.functions →
      n < 64 → settled s vf →
      (s.ctxAlive (64 * vf + n) = false → Happens (.contextDestroy vf n v) s fun t => SameMemory s t
        ∧ sparseGet 0 (t.vf vf).table n = 0)
      ∧ (∀ c, s.ctx? (64 * vf + n) = some c → c.killing = false → c.dead = false →
        s.remoteOut (64 * vf + n) = false → Happens (.contextDestroy vf n v) s fun t =>
          sparseGet 0 (t.vf vf).table n = 0
          ∧ (∃ c', t.ctx? (64 * vf + n) = some c' ∧ c'.dead = true ∧ c'.key = 0)
          ∧ ∀ b ∈ t.blocks, ∀ g ∈ s.grids, g.ctx = 64 * vf + n → b.grid ≠ g.id))
  ∧ (∀ (s : State) (vf q : Nat) (v : Dword), s.up = true → vf < Config.functions → q < 15 →
      (s.vf vf).posted = [] →
      (s.hostPending vf = [] → v.extractLsb' 16 48 = 0 → v.extractLsb' 4 2 = 0 → 2 ≤ (v.extractLsb' 0 4).toNat →
        (v.extractLsb' 0 4).toNat ≤ 12 → Happens (.queueConfigWrite vf q v) s fun t => SameMemory s t
          ∧ (t.vf vf).queue q = { (s.vf vf).queue q with ctl := v })
      ∧ (s.hostPending vf = [] → (v.extractLsb' 0 4).toNat < 2 →
        Happens (.queueConfigWrite vf q v) s fun t => SameMemory s t ∧ SameVfs s t)
      ∧ ∀ x : Word, Happens (.queueDoorbell vf q x) s fun t => SameMemory s t
        ∧ t.dev.deviceIdle = 0 ∧ if s.hostPending vf = []
          then (t.vf vf).queue q = { (s.vf vf).queue q with tail := x }
          else (t.vf vf).queue q = (s.vf vf).queue q
            ∧ (t.vf vf).posted = [.reg (0x1010 + 32 * q) (x.setWidth 64)])
  ∧ (∀ (s : State) (who : Nat) (nonce : BitVec 384), s.up = true →
      (who = Config.functions ∨ (who < Config.functions ∧ (s.vf who).ctl.getLsbD 16 = true)) →
      Happens (.attestationRequest who nonce) s fun t => SameMemory s t ∧ t.dev.attest.length = 224
        ∧ leOf (t.dev.attest.take 4) = 1
        ∧ leOf ((t.dev.attest.drop 4).take 4) = (s.dev.debug + 65536 * who) % 2 ^ 32
        ∧ leOf ((t.dev.attest.drop 8).take 8) = s.dev.secVersion.toNat
        ∧ leOf ((t.dev.attest.drop 80).take 48) = nonce.toNat)
  ∧ (∀ (s : State), s.up = true → s.dev.debug ≠ 2 →
      (Happens (.debugStateWrite true) s fun t => SameMemory s t ∧ t.dev.debug = 1)
      ∧ (Happens (.debugStateWrite false) s fun t => SameMemory s t ∧ t.dev.debug = 0
        ∧ (∀ i c, t.ctx? i = some c → c.halted = false) ∧ ∀ b ∈ t.blocks, ∀ w ∈ b.warps, w.halted = false)
      ∧ ∀ c token, s.dev.challenge = some c →
        (Config.tokenVerifies c Config.serial token = true → (∀ c ∈ s.ctxs, c.dead = true) →
          Happens (.debugUnlock token) s fun t => t.dev.debug = 2 ∧ (∀ c ∈ t.ctxs, c.key = 0)
            ∧ ∀ a, memGet t.mem a = if (s.vfAt a).isSome then 0 else memGet s.mem a)
        ∧ (Config.tokenVerifies c Config.serial token = false → s.dev.unlocking = false →
          Happens (.debugUnlock token) s fun t => SameMemory s t ∧ t.dev.debug = s.dev.debug
            ∧ t.ctxs = s.ctxs ∧ t.blocks = s.blocks))
  ∧ (∀ (s : State) (v : Dword), s.up = true →
      (Happens (.registerWrite .pf 0x00000 v) s fun t => SameMemory s t
        ∧ t.dev = { reached s with threshold := v.extractLsb' 0 16 })
      ∧ (Happens (.registerWrite .pf 0x00200 v) s fun t => SameMemory s t
        ∧ t.dev = { reached s with coords := v &&& 0xF1F0F })
      ∧ (∀ vf q, vf < Config.functions → q < 15 → v.toNat % 4096 = 0 → settled s vf →
        Happens (.registerWrite (.vf vf) (0x1000 + 32 * q) v) s fun t => SameMemory s t
          ∧ (t.vf vf).queue q = { (s.vf vf).queue q with base := v })
      ∧ (∀ i, i < Config.devices → v.toNat % 256 < 16 →
        Happens (.registerWrite .pf (0x40000 + i) v) s fun t => SameMemory s t
          ∧ t.dev.route i = v.toNat % 256)
      ∧ ∀ ctx k c, k < 4 → s.ctx? ctx = some c → s.debugOk ctx = true → v.extractLsb' 57 7 = 0 →
        v.getLsbD 1 = false → c.comps.length = 4 →
        Happens (.registerWrite (.comparator ctx) (8 * k) v) s fun t => SameMemory s t
          ∧ ∃ c', t.ctx? ctx = some c' ∧ c'.comps[k]? = some v ∧ c'.debugger = true)

/-- R379, R383 to R385, R387 to R390: power control, idle states, throttling while a cause holds and its release
10 ms after the last, and the thermal stop; part reset and the bring-up sequence, with the firmware image that
the boot ROM accepts and the limits of the steps; the management sideband, whose tolerance gives way to a write
of the PF in the same cycle. The layout of the sideband's replies and the times of a release and a wake are
the model's choice (log rows 14, 40), as are the end of a thermal hold at power-on (row 42), what memory that
no byte was written to reads, at once after power-on (row 3), and firmware as free values (row 6). -/
def Obligations.PowerAndResetEvents : Prop :=
  (∀ (s : State) (v : Dword), s.up = true → Happens (.powerControlWrite v) s fun t => SameMemory s t
      ∧ t.dev.tolerance = v.extractLsb' 0 32 ∧ t.dev.toleranceAt = some s.now
      ∧ t.dev.cap = if 400 ≤ (v.extractLsb' 32 16).toNat ∧ (v.extractLsb' 32 16).toNat ≤ 1800
          then v.extractLsb' 32 16 else s.dev.cap)
  ∧ (∀ (s : State) (c : Nat), s.up = true → c < Config.clusters →
      (50 ≤ s.dev.tolerance.toNat → s.mayI2 c = true → s.dev.idleOf c < 2 →
        Happens (.idleEntry (.cluster c)) s fun t => SameMemory s t ∧ t.dev.idleOf c = 2
          ∧ t.blocks = s.blocks)
      ∧ (1 ≤ s.dev.tolerance.toNat → s.dev.tolerance.toNat < 50 → s.mayI1 c = true →
        s.dev.idleOf c = 0 → Happens (.idleEntry (.cluster c)) s fun t => SameMemory s t
          ∧ t.dev.idleOf c = 1 ∧ t.blocks = s.blocks)
      ∧ (s.dev.tolerance = 0 → exec (.idleEntry (.cluster c)) s = .next s)
      ∧ Happens (.idleExit (.cluster c)) s fun t => SameMemory s t ∧ t.dev.idleOf c = 0
        ∧ t.dev.deviceIdle = 0)
  ∧ (∀ (s : State), s.up = true →
      (s.mayI3 = true → 2000 ≤ s.dev.tolerance.toNat → s.dev.tolerance.toNat < 30000 →
        s.dev.deviceIdle < 3 →
        Happens (.idleEntry .device) s fun t => SameMemory s t ∧ t.dev.deviceIdle = 3)
      ∧ (s.mayI3 = true → 30000 ≤ s.dev.tolerance.toNat → (∀ v ∈ s.vfs, v.ctl.getLsbD 16 = false) →
        s.dev.deviceIdle < 4 →
        Happens (.idleEntry .device) s fun t => SameMemory s t ∧ t.dev.deviceIdle = 4)
      ∧ Happens (.idleExit .device) s fun t => SameMemory s t ∧ t.dev = { s.dev with deviceIdle := 0 })
  ∧ (∀ (s : State) (die : Nat), die < Config.dies →
      (tooHot s die s.now → Happens (.throttle die) s fun t => SameMemory s t
        ∧ sparseGet 0 t.dev.slow die = Nat.min 8 (sparseGet 0 s.dev.slow die + 1)
        ∧ sparseGet 0 t.dev.slowAt die = s.now)
      ∧ (¬ tooHot s die s.now → exec (.throttle die) s = .next s)
      ∧ (coolSince s die →
        Happens (.throttleRelease die) s fun t => SameMemory s t ∧ sparseGet 0 t.dev.slow die = 0)
      ∧ (¬ coolSince s die → exec (.throttleRelease die) s = .next s))
  ∧ (∀ (s : State) (temp : BitVec 8), 115 ≤ temp.toNat → Happens (.thermalStop temp) s fun t =>
      t.mem = s.mem ∧ FreshPart s t ∧ t.dev.thermal = true ∧ t.dev.booting = false ∧ t.up = false)
  ∧ (∀ (s : State) (power : Bool) (i : Instr),
      (i = .partReset power ∨ (i = .sidebandReset ∧ power = false)) →
      Happens i s fun t => FreshPart s t ∧ t.mem = (if power then [] else s.mem)
        ∧ (power = true → t.dev.thermal = false) ∧ t.dev.powerOn = power)
  ∧ (∀ (s : State), s.dev.booting = true →
      (¬ tooLate s → s.dev.boot ≠ 2 → Happens (.bootStep .ok) s fun t => t.dev.boot = s.dev.boot + 1
        ∧ t.dev.bootAt = s.now ∧ t.host = s.host ∧ t.low = s.low
        ∧ t.mem = (if s.dev.boot = 5 ∧ s.dev.powerOn = true then [] else s.mem)
        ∧ (s.dev.boot = 6 → t.up = true ∧ t.dev.challenge.isSome = true
          ∧ t.dev.bootCode = BitVec.ofNat 8 s.dev.image
          ∧ t.dev.secVersion = Config.imageVersion s.dev.image))
      ∧ (¬ tooLate s → s.dev.boot = 2 →
        (Accepted s 0 → Happens (.bootStep .ok) s fun t => SameMemory s t ∧ t.dev.boot = 3 ∧ t.dev.image = 0)
        ∧ (¬ Accepted s 0 → Accepted s 1 →
          Happens (.bootStep .ok) s fun t => SameMemory s t ∧ t.dev.boot = 3 ∧ t.dev.image = 1)
        ∧ (¬ Accepted s 0 → ¬ Accepted s 1 → Happens (.bootStep .ok) s fun t => SameMemory s t
          ∧ t.dev.booting = false ∧ t.dev.bootFailed = true ∧ t.dev.bootCode = 2))
      ∧ (Happens (.bootStep .failed) s fun t => SameMemory s t ∧ t.dev.boot = s.dev.boot
        ∧ t.dev.bootFailed = true ∧ t.dev.booting = false ∧ (s.dev.boot = 2 → t.dev.bootCode = 2))
      ∧ (tooLate s → ∀ i ∈ [Instr.bootStepTimeout, .bootStep .ok], Happens i s fun t => SameMemory s t
        ∧ t.dev.bootFailed = true ∧ t.dev.booting = false)
      ∧ (¬ tooLate s → exec .bootStepTimeout s = .next s))
  ∧ (∀ (s : State) (cap : BitVec 16) (tol : Word),
      (Happens (.sidebandRead .debug) s fun t => SameMemory s t
        ∧ t.dev.reply = BitVec.ofNat 64 s.dev.debug)
      ∧ (Happens (.sidebandRead .health) s fun t => SameMemory s t
        ∧ t.dev.reply.extractLsb' 0 16 = s.dev.threshold)
      ∧ (Happens (.sidebandRead .boot) s fun t => SameMemory s t
        ∧ t.dev.reply.extractLsb' 0 8 = s.dev.bootCode
        ∧ t.dev.reply.extractLsb' 8 8 = s.dev.secVersion)
      ∧ (Happens (.sidebandRead .power) s fun t => SameMemory s t
        ∧ t.dev.reply.extractLsb' 16 16
          = if s.dev.sampled && !s.dev.thermal then Config.powerReading s.now else 0)
      ∧ (Happens (.sidebandWriteCap cap) s fun t => SameMemory s t
        ∧ t.dev.cap = if 400 ≤ cap.toNat ∧ cap.toNat ≤ 1800 then cap else s.dev.cap)
      ∧ (s.dev.toleranceAt ≠ some s.now →
        Happens (.sidebandWriteTolerance tol) s fun t => SameMemory s t ∧ t.dev.tolerance = tol)
      ∧ (s.dev.toleranceAt = some s.now → exec (.sidebandWriteTolerance tol) s = .next s)
      ∧ (Happens .sidebandClearThermalStop s fun t => SameMemory s t
        ∧ t.dev = if s.dev.thermal then { s.dev with thermal := false, bootAt := s.now } else s.dev)
      ∧ Happens .sidebandWake s fun t => SameMemory s t
        ∧ t.dev.deviceIdle = if s.dev.deviceIdle = 4 then 0 else s.dev.deviceIdle)

/-! ## Encoding, the step, reset and the invariant -/

/-- R31, R34, R46 to R49: every instruction that is a word (the first 137 of `Instr`; the others are events)
has an encoding, and the word of an instruction decodes to that instruction, with every operand and every
field at every value; so two instructions have no word in common. -/
def Obligations.DecodeEncodeRoundTrip : Prop :=
  (∀ i : Instr, i.ctorIdx < 137 ↔ (encode i).isSome = true)
  ∧ (∀ (i : Instr) (x : Word), encode i = some x → decode x = .ok i
      ∧ decodeBytes (bytesOfWord x) = .ok (i, []))
  ∧ ∀ (i j : Instr) (x : Word), encode i = some x → encode j = some x → i = j

/-- R33, R46, R51: a word that decodes is the word of the instruction that it decodes to, bit for bit: no
bit is dropped, and a word with a bit set in a reserved field decodes to nothing. The unassigned majors and
the permanently illegal one decode to nothing, and a word that decodes to nothing is ILLEGAL_WORD when it
issues. -/
def Obligations.DecodedWordsHaveTheirEncoding : Prop :=
  (∀ (x : Word) (i : Instr), decode x = .ok i → encode i = some x)
  ∧ (∀ x : Word, majorOf x ∈ unassigned → decode x = .error .unassignedMajor)
  ∧ (∀ x : Word, majorOf x = 0x7F → decode x = .error .permanentlyIllegal)
  ∧ ∀ (x : Word) (e : Reject), decode x = .error e → issued x = .illegalWord x

/-- R30, R31, R34, R46 to R49: a few words, written out from their fields, decode to what they stand for.
-/
def Obligations.SpecWordsDecode : Prop :=
  decode 0x10030102#32 = .ok (.add false (.v 3) (.v 1) (.v 2))
  ∧ decode 0x2A740400#32 = .ok (.movi false (.w 20) 0x400)
  ∧ decode 0x4A080400#32 = .ok (.ldw false (.v 8) (.v 4) 0)
  ∧ decode 0x49787600#32 = .ok (.st false (.w 24) (.w 22) 0)
  ∧ decode 0xD0797C7A#32 = .ok (.aadd true (.w 25) (.w 28) (.w 26))
  ∧ decode 0x28220102#32 = .ok (.cmp false 2 2 (.v 1) (.v 2))
  ∧ decode 0x07640003#32 = .ok (.loop false (.w 4) 3)
  ∧ decode 0x7D000704#32 = .ok (.bkpt false 7)
  ∧ decode 0x08000000#32 = .ok (.exit false 0)
  ∧ decode 0xFFFFFFFF#32 = .error .permanentlyIllegal

/-- R29, R51, R305, and the model's own order of what happens (log row 4): what is due happens first; else
the next warp of the window in progress issues the word it stands at, which runs as the instruction that
it decodes to; where it stands at none, it is passed over; and where nothing is due and no window is in
progress, the next event happens, the warps whose wait has ended noted ahead of a window. -/
def Obligations.AStepRunsTheDecodedWord : Prop :=
  ∀ (s : State),
    (∀ (i : Instr) (rest : List Instr), s.agenda = i :: rest →
      step s = exec i { s with agenda := rest })
    ∧ (∀ (r : WarpRef) (rest : List WarpRef), s.agenda = [] → s.issue = r :: rest →
      (∀ (w : Word) (i : Instr), s.wordAt r = some w → decode w = .ok i →
        step s = exec i { s with issue := rest, cur := r })
      ∧ (∀ (w : Word) (e : Reject), s.wordAt r = some w → decode w = .error e →
        step s = exec (.illegalWord w) { s with issue := rest, cur := r })
      ∧ (s.wordAt r = none → step s = .next { s with issue := rest }))
    ∧ (s.agenda = [] → s.issue = [] → step s = exec s.nextEvent (s.stir s.nextEvent))

/-- R344, R357, R366, R369, R383, R338, R388, R389, R324: what reset leaves: bring-up at its first step, nothing
resident, every function disabled with its record and queues at the values of their tables, the log, health
and power registers at theirs; and every memory in its canonical form. -/
def Obligations.ResetState : Prop :=
  State.reset.memOk
  ∧ State.reset.ctxs = [] ∧ State.reset.grids = [] ∧ State.reset.blocks = []
  ∧ State.reset.launches = [] ∧ State.reset.up = false ∧ State.reset.dev.boot = 1
  ∧ (∀ v : Nat, let f := State.reset.vf v
      f.pbase = 0 ∧ f.psize = 0 ∧ f.cores = 0 ∧ f.slice = 2000 ∧ f.wbase = 0 ∧ f.wsize = 0
      ∧ f.ctl.getLsbD 19 = false ∧ f.ctl.getLsbD 18 = false ∧ f.ctl.getLsbD 17 = false
      ∧ f.ctl.getLsbD 16 = false ∧ f.ctl.extractLsb' 8 3 = 7 ∧ f.ctl.extractLsb' 0 8 = 1
      ∧ f.part.gen = 1 ∧ f.part.dest = 0 ∧ f.part.abort = false ∧ f.part.share = 8
      ∧ f.part.permit = 0 ∧ f.part.frozen = none)
  ∧ (∀ v q : Nat, let k := (State.reset.vf v).queue q
      k.base = 0 ∧ k.ctl.getLsbD 15 = false ∧ k.ctl.extractLsb' 12 3 = 7 ∧ k.ctl.extractLsb' 6 6 = 0
      ∧ k.n = 2 ∧ k.tail = 0 ∧ k.head = 0)
  ∧ State.reset.dev.logBase = 0 ∧ State.reset.dev.logN = 4 ∧ State.reset.dev.logHead = 0
  ∧ State.reset.dev.logTail = 0 ∧ State.reset.dev.replace = false
  ∧ State.reset.dev.threshold = 4096 ∧ State.reset.dev.cap = 1800
  ∧ State.reset.dev.tolerance = 0 ∧ State.reset.dev.debug = 0

/-- Every step keeps the three memories of the model in their canonical form: addresses rising, and no entry
equal to what an unlisted address reads as (the model's own invariant, from which equal memories are equal
data). -/
def Obligations.EveryStepKeepsMemoryCanonical : Prop :=
  ∀ s t : State, s.memOk → step s = .next t → t.memOk

end Claims
end

