-- ==== Sys2Proof/Laws/Issue.lean ====
section
/-!
SUPPORT. What the issue of a word comes to: one lemma for each way in which the checks of R52 end.
-/

namespace Sys2Proof.Machine

theorem State.Stands.s_eq {s : State} {mk : Word → Entry} {c : Ctx} (h : s.Stands mk c) :
    c.s = s := by
  rw [h.ctx]; rfl

theorem State.Stands.r_eq {s : State} {mk : Word → Entry} {c : Ctx} (h : s.Stands mk c) :
    c.r = s.cur := by
  rw [h.ctx]; rfl

theorem State.Stands.ahead_eq {s : State} {mk : Word → Entry} {c : Ctx} (h : s.Stands mk c) :
    c.ahead = false := by
  rw [h.ctx]; rfl

theorem State.Stands.shadow_eq {s : State} {mk : Word → Entry} {c : Ctx} (h : s.Stands mk c) :
    c.shadow = false := by
  rw [h.ctx]; rfl

theorem State.Stands.with_s {s : State} {mk : Word → Entry} {c : Ctx} (h : s.Stands mk c) :
    { c with s := s } = c := by
  have := h.s_eq
  cases c
  simp_all

/-- A word at which the warp stands goes on to items 3 to 9 of R52. -/
theorem runWord_stands {s : State} {mk : Word → Entry} {c : Ctx} (body : Ctx → Eff)
    (h : s.Stands mk c) : runWord s mk body = s.issueWord c (mk c.w.ctl.mode) body := by
  have hm := h.may
  have hh : (if (c.w.run == Run.ready && c.w.flt.skipComp != some c.w.ctl.pc) = true then
      s.comparators c.g.ctx (c.g.packet.image + BitVec.ofNat 64 c.w.ctl.pc) else 0) = 0 := by
    split
    · exact h.noMatch ‹_›
    · rfl
  unfold runWord
  rw [h.warp]
  simp only [h.grid]
  simp only [hm, h.notAhead, hh, Bool.not_true, Bool.false_eq_true, if_false, bne_self_eq_false,
    ← h.ctx]

/-- A word that no check stops takes its effect. -/
theorem runWord_issues {s : State} {mk : Word → Entry} {c : Ctx} (body : Ctx → Eff)
    (h : s.Issues mk c) : runWord s mk body = s.finish c (mk c.w.ctl.mode) body := by
  have hc : c.ctx = c.g.ctx := rfl
  rw [runWord_stands body h.toStands]
  unfold State.issueWord
  simp only [hc, h.legal, h.operands]
  unfold State.twinCheck
  have : (if (c.g.packet.twin && (mk c.w.ctl.mode).twin) = true then s.upsetOf c.r else 0) = 0 := by
    rw [h.r_eq]
    rcases h.noUpset with h | h <;> simp [h]
  simp only [this, beq_self_eq_true, if_true]

/-- What an effect leaves of a word that no check stops. -/
theorem runWord_done {s t : State} {mk : Word → Entry} {c : Ctx} {body : Ctx → Eff}
    (h : s.Issues mk c) (hb : body c = .done t) : runWord s mk body = c.completes mk t := by
  rw [runWord_issues body h]
  simp [State.finish, h.with_s, hb, Ctx.completes, Ctx.mode]

theorem runWord_jump {s t : State} {mk : Word → Entry} {c : Ctx} {body : Ctx → Eff} {pc : Nat}
    {taken : Bool} (h : s.Issues mk c) (hb : body c = .jump t pc taken) :
    runWord s mk body = c.goesTo mk t pc taken := by
  rw [runWord_issues body h]
  simp [State.finish, h.with_s, hb, Ctx.goesTo, Ctx.mode]

theorem runWord_leave {s t : State} {mk : Word → Entry} {c : Ctx} {body : Ctx → Eff}
    (h : s.Issues mk c) (hb : body c = .leave t) : runWord s mk body = t.progress c.ctx := by
  rw [runWord_issues body h]
  simp [State.finish, h.with_s, hb]

theorem runWord_wait {s t : State} {mk : Word → Entry} {c : Ctx} {body : Ctx → Eff} {run : Run}
    (h : s.Issues mk c) (hb : body c = .wait t run) : runWord s mk body = t.park s.cur run := by
  rw [runWord_issues body h]
  simp only [State.finish, h.with_s, hb]
  rw [h.r_eq]

theorem runWord_fault {s : State} {mk : Word → Entry} {c : Ctx} {body : Ctx → Eff} {f : FaultInfo}
    (h : s.Issues mk c) (hb : body c = .fault f) :
    runWord s mk body = s.takeFault s.cur f c.w.ctl.pc := by
  rw [runWord_issues body h]
  simp only [State.finish, h.with_s, hb]
  rw [h.r_eq]

end Sys2Proof.Machine
end

