-- ==== Sys2Proof/Laws/Sparse.lean ====
section
/-!
SUPPORT. Sparse stores and memory: what is read after a write, and that every write keeps the
canonical form.
-/

namespace Sys2Proof.Machine

variable {α : Type}

/-! ## Reads -/

theorem sparseGet_del_same (d : α) (m : Sparse α) (k : Nat) : sparseGet d (sparseDel m k) k = d := by
  induction m with
  | nil => rfl
  | cons x t ih =>
    by_cases h : x.1 = k
    · simpa [sparseDel, h] using ih
    · simpa [sparseDel, sparseGet, h] using ih

theorem sparseGet_del_other (d : α) (m : Sparse α) {k j : Nat} (hj : j ≠ k) :
    sparseGet d (sparseDel m k) j = sparseGet d m j := by
  induction m with
  | nil => rfl
  | cons x t ih =>
    by_cases h : x.1 = k
    · have : x.1 ≠ j := fun e => hj (e.symm.trans h)
      simpa [sparseDel, sparseGet, h, hj.symm] using ih
    · by_cases h2 : x.1 = j
      · simp [sparseDel, sparseGet, h2, hj]
      · simpa [sparseDel, sparseGet, h, h2] using ih

variable [DecidableEq α]

theorem sparseGet_set_same (d : α) (m : Sparse α) (k : Nat) (v : α) :
    sparseGet d (sparseSet d m k v) k = v := by
  induction m with
  | nil => by_cases h : v = d <;> simp [sparseSet, sparseGet, h]
  | cons x t ih =>
    obtain ⟨a, y⟩ := x
    unfold sparseSet
    split
    · rename_i hlt
      have hne : a ≠ k := by omega
      split
      · rename_i hv
        simp [sparseGet, hne, sparseGet_del_same, hv]
      · simp [sparseGet]
    · split
      · split
        · rename_i hv
          simp [sparseGet_del_same, hv]
        · simp [sparseGet]
      · rename_i h1 h2
        have hne : a ≠ k := fun e => h2 e.symm
        simp [sparseGet, hne, ih]

theorem sparseGet_set_other (d : α) (m : Sparse α) {k j : Nat} (v : α) (hj : j ≠ k) :
    sparseGet d (sparseSet d m k v) j = sparseGet d m j := by
  induction m with
  | nil => by_cases h : v = d <;> simp [sparseSet, sparseGet, h, hj.symm]
  | cons x t ih =>
    obtain ⟨a, y⟩ := x
    unfold sparseSet
    split
    · split
      · simp [sparseGet, sparseGet_del_other _ _ hj]
      · simp [sparseGet, hj.symm]
    · split
      · rename_i h
        subst h
        split
        · simp [sparseGet, sparseGet_del_other _ _ hj, hj.symm]
        · simp [sparseGet, hj.symm]
      · simp [sparseGet, ih]

/-! ## The canonical form -/

theorem sparseWfFrom_le {d : α} {lo lo' : Nat} {m : Sparse α} (h : sparseWfFrom d lo m = true)
    (hl : lo' ≤ lo) : sparseWfFrom d lo' m = true := by
  cases m with
  | nil => rfl
  | cons x t =>
    simp only [sparseWfFrom, Bool.and_eq_true, decide_eq_true_eq] at h ⊢
    exact ⟨⟨by omega, h.1.2⟩, h.2⟩

theorem sparseWfFrom_del {d : α} {lo : Nat} {m : Sparse α} (k : Nat)
    (h : sparseWfFrom d lo m = true) : sparseWfFrom d lo (sparseDel m k) = true := by
  induction m generalizing lo with
  | nil => rfl
  | cons x t ih =>
    simp only [sparseWfFrom, Bool.and_eq_true, decide_eq_true_eq] at h
    have ht := ih h.2
    by_cases hk : x.1 = k
    · simpa [sparseDel, hk] using sparseWfFrom_le ht (by omega : lo ≤ x.1 + 1)
    · have e : sparseDel (x :: t) k = x :: sparseDel t k := by simp [sparseDel, hk]
      rw [e]
      simp [sparseWfFrom, h.1.1, h.1.2, ht]

theorem sparseWfFrom_set {d : α} {lo : Nat} {m : Sparse α} {k : Nat} (v : α)
    (h : sparseWfFrom d lo m = true) (hk : lo ≤ k) : sparseWfFrom d lo (sparseSet d m k v) = true := by
  induction m generalizing lo with
  | nil => by_cases hv : v = d <;> simp [sparseSet, sparseWfFrom, hv, hk]
  | cons x t ih =>
    obtain ⟨a, y⟩ := x
    simp only [sparseWfFrom, Bool.and_eq_true, decide_eq_true_eq] at h
    unfold sparseSet
    split
    · split
      · simp [sparseWfFrom, h.1.1, h.1.2, sparseWfFrom_del k h.2]
      · rename_i hlt hv
        have : k + 1 ≤ a := by omega
        simp [sparseWfFrom, hk, hv, this, h.1.2, h.2]
    · split
      · split
        · exact sparseWfFrom_le (sparseWfFrom_del k h.2) (by omega)
        · rename_i hka hv
          subst hka
          simp [sparseWfFrom, hk, hv, h.2]
      · have := ih h.2 (by omega)
        simp [sparseWfFrom, h.1.1, h.1.2, this]

/-- A write keeps the canonical form. -/
theorem sparseWf_set {d : α} {m : Sparse α} (k : Nat) (v : α) (h : sparseWf d m = true) :
    sparseWf d (sparseSet d m k v) = true :=
  sparseWfFrom_set v h (Nat.zero_le _)

/-! ## Memory -/

theorem memGet_memSet (m : Memory) (a b : Nat) (x : Byte) :
    memGet (memSet m a x) b = if b = a then x else memGet m b := by
  by_cases h : b = a
  · subst h
    simp [memGet, memSet, sparseGet_set_same]
  · simp [memGet, memSet, h, sparseGet_set_other _ _ _ h]

theorem Memory.wf_nil : Memory.wf [] = true := rfl

theorem Memory.wf_memSet {m : Memory} (a : Nat) (x : Byte) (h : Memory.wf m = true) :
    Memory.wf (memSet m a x) = true :=
  sparseWf_set a x h

theorem Memory.wf_writeBytes {m : Memory} (a : Nat) (bs : List Byte) (h : Memory.wf m = true) :
    Memory.wf (writeBytes m a bs) = true := by
  induction bs generalizing m a with
  | nil => exact h
  | cons x t ih => exact ih _ (Memory.wf_memSet a x h)

theorem Memory.wf_writeLE {m : Memory} (a n x : Nat) (h : Memory.wf m = true) :
    Memory.wf (writeLE m a n x) = true := by
  induction n generalizing m a x with
  | zero => exact h
  | succ n ih => exact ih _ _ (Memory.wf_memSet a _ h)

/-- Outside the bytes written a byte is read as before, and inside it is the byte written. -/
theorem memGet_writeBytes (m : Memory) (a b : Nat) (bs : List Byte) :
    memGet (writeBytes m a bs) b =
      if a ≤ b ∧ b < a + bs.length then (bs[b - a]?).getD 0 else memGet m b := by
  induction bs generalizing m a with
  | nil => simp [writeBytes]
  | cons x t ih =>
    rw [writeBytes, ih, memGet_memSet]
    by_cases h : b = a
    · subst h
      simp
    · by_cases h2 : a + 1 ≤ b ∧ b < a + 1 + t.length
      · have h3 : a ≤ b ∧ b < a + (x :: t).length := by simp; omega
        have h4 : b - a = (b - (a + 1)) + 1 := by omega
        simp only [h2, h3, and_self, if_true]
        rw [h4, List.getElem?_cons_succ]
      · have h3 : ¬ (a ≤ b ∧ b < a + (x :: t).length) := by simp; omega
        simp only [h2, h3, if_false, h]

theorem memGet_writeLE (m : Memory) (a b n x : Nat) :
    memGet (writeLE m a n x) b =
      if a ≤ b ∧ b < a + n then BitVec.ofNat 8 (x / 256 ^ (b - a)) else memGet m b := by
  induction n generalizing m a x with
  | zero => simp [writeLE]
  | succ n ih =>
    rw [writeLE, ih, memGet_memSet]
    by_cases h : b = a
    · subst h
      simp
    · by_cases h2 : a + 1 ≤ b ∧ b < a + 1 + n
      · have h3 : a ≤ b ∧ b < a + (n + 1) := by omega
        have h4 : b - a = (b - (a + 1)) + 1 := by omega
        simp only [h2, h3, and_self, if_true]
        rw [h4, Nat.pow_succ, Nat.mul_comm, Nat.div_div_eq_div_mul]
      · have h3 : ¬ (a ≤ b ∧ b < a + (n + 1)) := by omega
        simp only [h2, h3, if_false, h]

end Sys2Proof.Machine
end

