-- ==== Sys2Proof/Laws/Memory.lean ====
section
/-!
SUPPORT. The memory operations beyond a write of bytes keep the canonical form: dropping entries, and
the copy of a range between two memories; and with them the operations of a state that write memory.
-/

namespace Sys2Proof.Machine

variable {α : Type} [DecidableEq α]

theorem sparseWfFrom_filter {d : α} {lo : Nat} {m : Sparse α} (p : Nat × α → Bool)
    (h : sparseWfFrom d lo m = true) : sparseWfFrom d lo (m.filter p) = true := by
  induction m generalizing lo with
  | nil => rfl
  | cons x t ih =>
    simp only [sparseWfFrom, Bool.and_eq_true, decide_eq_true_eq] at h
    by_cases hp : p x = true
    · simp [hp, sparseWfFrom, h.1.1, h.1.2, ih h.2]
    · simpa [hp] using sparseWfFrom_le (ih h.2) (by omega : lo ≤ x.1 + 1)

theorem sparseWfFrom_append {d : α} {lo hi : Nat} {m n : Sparse α} (h : sparseWfFrom d lo m = true)
    (hm : ∀ x ∈ m, x.1 < hi) (hn : sparseWfFrom d hi n = true) (hl : lo ≤ hi) :
    sparseWfFrom d lo (m ++ n) = true := by
  induction m generalizing lo with
  | nil => exact sparseWfFrom_le hn hl
  | cons x t ih =>
    simp only [sparseWfFrom, Bool.and_eq_true, decide_eq_true_eq] at h
    have := ih h.2 (fun y hy => hm y (List.mem_cons_of_mem _ hy))
      (by have := hm x List.mem_cons_self; omega)
    simp [sparseWfFrom, h.1.1, h.1.2, this]

theorem sparseWfFrom_ge {d : α} {lo : Nat} {m : Sparse α} (h : sparseWfFrom d lo m = true) :
    ∀ x ∈ m, lo ≤ x.1 := by
  induction m generalizing lo with
  | nil => simp
  | cons x t ih =>
    simp only [sparseWfFrom, Bool.and_eq_true, decide_eq_true_eq] at h
    intro y hy
    rcases List.mem_cons.mp hy with rfl | hy
    · exact h.1.1
    · have := ih h.2 y hy
      omega

/-- A store whose keys all reach a bound is in the form from that bound on. -/
theorem sparseWfFrom_raise {d : α} {lo hi : Nat} {m : Sparse α} (h : sparseWfFrom d lo m = true)
    (hm : ∀ x ∈ m, hi ≤ x.1) : sparseWfFrom d hi m = true := by
  cases m with
  | nil => rfl
  | cons x t =>
    simp only [sparseWfFrom, Bool.and_eq_true, decide_eq_true_eq] at h ⊢
    exact ⟨⟨hm x List.mem_cons_self, h.1.2⟩, h.2⟩

theorem sparseWfFrom_shift {d : α} {lo src dst : Nat} {m : Sparse α} (h : sparseWfFrom d lo m = true)
    (hs : src ≤ lo) :
    sparseWfFrom d (lo - src + dst) (m.map fun x => (x.1 - src + dst, x.2)) = true := by
  induction m generalizing lo with
  | nil => rfl
  | cons x t ih =>
    simp only [sparseWfFrom, Bool.and_eq_true, decide_eq_true_eq] at h
    have ht := ih h.2 (by omega)
    have e : x.1 + 1 - src + dst = x.1 - src + dst + 1 := by omega
    rw [e] at ht
    simp only [List.map_cons, sparseWfFrom, Bool.and_eq_true, decide_eq_true_eq]
    exact ⟨⟨by omega, h.1.2⟩, ht⟩

/-- Dropping entries keeps the canonical form. -/
theorem Memory.wf_filter {m : Memory} (p : Nat × Byte → Bool) (h : Memory.wf m = true) :
    Memory.wf (m.filter p) = true :=
  sparseWfFrom_filter p h

/-- The copy of a range keeps the canonical form of the memory that it goes to. -/
theorem Memory.wf_copyRange {frm dest : Memory} (src dst n : Nat) (hf : Memory.wf frm = true)
    (ht : Memory.wf dest = true) : Memory.wf (copyRange frm dest src dst n) = true := by
  have hmid : sparseWfFrom 0 dst ((frm.filter fun x => decide (src ≤ x.1) && decide (x.1 < src + n)).map
      fun x => (x.1 - src + dst, x.2)) = true := by
    have := sparseWfFrom_shift (dst := dst) (sparseWfFrom_raise (hi := src)
      (Memory.wf_filter (fun x => decide (src ≤ x.1) && decide (x.1 < src + n)) hf)
      (by simp +contextual)) (Nat.le_refl src)
    simpa using this
  have hend : sparseWfFrom 0 (dst + n) (dest.filter fun x => decide (dst + n ≤ x.1)) = true :=
    sparseWfFrom_raise (Memory.wf_filter _ ht) (by simp +contextual)
  have hrest := sparseWfFrom_append hmid
    (hi := dst + n) (by
      intro x hx
      obtain ⟨y, hy, rfl⟩ := List.mem_map.mp hx
      have := (List.mem_filter.mp hy).2
      simp only [Bool.and_eq_true, decide_eq_true_eq] at this
      simp only
      omega) hend (by omega)
  have := sparseWfFrom_append (Memory.wf_filter (fun x => decide (x.1 < dst)) ht)
    (hi := dst) (by simp +contextual) hrest (by omega)
  simpa [copyRange, Memory.wf, sparseWf] using this

/-- What keeps the three memories keeps the invariant. -/
theorem State.memOk_of_eq {s t : State} (h : s.memOk) (hm : t.mem = s.mem) (hh : t.host = s.host)
    (hl : t.low = s.low) : t.memOk := by
  rw [State.memOk, hm, hh, hl]
  exact h

/-! ## What a read corrects or logs, and a claim, change no memory -/

/-- Two states hold the same memories. -/
def State.SameMems (s t : State) : Prop := t.mem = s.mem ∧ t.host = s.host ∧ t.low = s.low

theorem State.SameMems.refl (s : State) : s.SameMems s := ⟨rfl, rfl, rfl⟩

theorem State.SameMems.trans {s t u : State} (h : s.SameMems t) (k : t.SameMems u) : s.SameMems u :=
  ⟨k.1.trans h.1, k.2.1.trans h.2.1, k.2.2.trans h.2.2⟩

theorem State.sameMems_foldl {β : Type} {f : State → β → State} (hf : ∀ (s : State) (x : β), s.SameMems (f s x))
    (l : List β) (s : State) : s.SameMems (l.foldl f s) := by
  induction l generalizing s with
  | nil => exact .refl s
  | cons x t ih => exact (hf s x).trans (ih _)

theorem State.sameMems_updDev (s : State) (f : Device → Device) : s.SameMems (s.updDev f) := ⟨rfl, rfl, rfl⟩

theorem State.sameMems_log (s : State) (kind : Nat) (domain : Domain) (loc ctx : Nat) (addr : Dword) :
    s.SameMems (s.log kind domain loc ctx addr) := s.sameMems_updDev _

theorem State.sameMems_requestReplace (s : State) (domain : Domain) (loc : Nat) :
    s.SameMems (s.requestReplace domain loc) := by
  unfold State.requestReplace
  split
  · exact .refl s
  · exact (s.sameMems_updDev _).trans (State.sameMems_log _ _ _ _ _ _)

theorem State.sameMems_countCorrected (s : State) (chan : Nat) : s.SameMems (s.countCorrected chan) := by
  unfold State.countCorrected
  dsimp only
  split
  · exact (s.sameMems_updDev _).trans (State.sameMems_requestReplace _ _ _)
  · exact s.sameMems_updDev _

theorem State.sameMems_correct (s : State) (ctx line : Nat) : s.SameMems (s.correct ctx line) :=
  ((s.sameMems_log _ _ _ _ _).trans (State.sameMems_countCorrected _ _)).trans ⟨rfl, rfl, rfl⟩

theorem State.sameMems_correctSpan (s : State) (ctx pa n : Nat) : s.SameMems (s.correctSpan ctx pa n) :=
  State.sameMems_foldl (fun s l => s.sameMems_correct ctx l) _ _

/-- A read of device memory changes no memory (R347). -/
theorem State.sameMems_readSpan (s : State) (ctx pa n : Nat) : s.SameMems (s.readSpan ctx pa n) := by
  unfold State.readSpan
  dsimp only
  split
  · exact (s.sameMems_correctSpan ctx pa n).trans (State.sameMems_log _ _ _ _ _ _)
  · exact s.sameMems_correctSpan ctx pa n

/-- What a write does at its slice before it is performed changes no memory (R330). -/
theorem State.sameMems_prepare {s t : State} {v pa : Nat} {gen : Dword} (h : s.prepare v pa gen = some t) :
    s.SameMems t := by
  unfold State.prepare at h
  dsimp only at h
  obtain ⟨q, -, rfl⟩ := Option.map_eq_some_iff.mp h
  split
  · exact (s.sameMems_readSpan _ _ _).trans ⟨rfl, rfl, rfl⟩
  · exact ⟨rfl, rfl, rfl⟩

/-! ## The writers of device memory -/

/-- A write within a line that depends on what it finds, once performed, keeps the invariant. -/
theorem State.memOk_modifyLine {s t : State} {pa n : Nat} {g : List Byte → List Byte} {fresh : Bool}
    {gen : Option Dword} (h : s.memOk) (hw : s.modifyLine pa n g fresh gen = some t) : t.memOk := by
  have step : ∀ u : State, u.mem = s.mem → u.host = s.host → u.low = s.low →
      Memory.wf (writeBytes u.mem pa (g (readBytes s.mem pa n))) = true ∧ Memory.wf u.host = true
        ∧ Memory.wf u.low = true := by
    intro u hm hh hl
    rw [hm, hh, hl]
    exact ⟨Memory.wf_writeBytes pa _ h.1, h.2⟩
  unfold State.modifyLine at hw
  dsimp only at hw
  split at hw
  · cases hw
    exact step s rfl rfl rfl
  · obtain ⟨u, hu, rfl⟩ := Option.map_eq_some_iff.mp hw
    have hs := State.sameMems_prepare hu
    split
    · exact step (u.updVf _ _) hs.1 hs.2.1 hs.2.2
    · exact step u hs.1 hs.2.1 hs.2.2

/-- A write within a line, once performed, keeps the invariant. -/
theorem State.memOk_writeLine {s t : State} {pa : Nat} {bytes : List Byte} {gen : Option Dword}
    (h : s.memOk) (hw : s.writeLine pa bytes gen = some t) : t.memOk := State.memOk_modifyLine h hw

/-- A write of any length, once performed, keeps the invariant. -/
theorem State.memOk_writePhys {s t : State} {pa : Nat} {bytes : List Byte} {gen : Option Dword}
    (h : s.memOk) (hw : s.writePhys pa bytes gen = some t) : t.memOk := by
  unfold State.writePhys at hw
  generalize linePieces (bytes.length / 128 + 2) pa bytes = ps at hw
  induction ps generalizing s with
  | nil => cases hw; exact h
  | cons x xs ih =>
    simp only [List.foldl_cons, Option.bind_some] at hw
    cases hx : s.writeLine x.1 x.2 gen with
    | none =>
      rw [hx] at hw
      have hn : ∀ ys : List (Nat × List Byte), ys.foldl
          (fun (acc : Option State) y => acc.bind fun t => t.writeLine y.1 y.2 gen) none = none := by
        intro ys
        induction ys with
        | nil => rfl
        | cons y ys ihy => simpa using ihy
      rw [hn] at hw
      cases hw
    | some u =>
      rw [hx] at hw
      exact ih (State.memOk_writeLine h hx) hw

end Sys2Proof.Machine
end

