-- ==== Sys2Proof/Laws/PerInstr.lean ====
section
/-!
SUPPORT. Decoding what the encoder wrote, one lemma for each constructor of `Instr` (R31 to R33, R37).
-/

namespace Sys2Proof

/-! ## Fields of a concatenation -/

theorem cat_low {m n k s l : Nat} {hi : BitVec m} {lo : BitVec n} (h : s + l ≤ n) (hk : m + n = k) :
    (cat k hi lo).extractLsb' s l = lo.extractLsb' s l := by
  subst hk
  simp [cat, BitVec.extractLsb'_append_eq_of_add_le h]

theorem cat_high {m n k s l : Nat} {hi : BitVec m} {lo : BitVec n} (h : n ≤ s) (hk : m + n = k) :
    (cat k hi lo).extractLsb' s l = hi.extractLsb' (s - n) l := by
  subst hk
  simp [cat, BitVec.extractLsb'_append_eq_of_le h]

theorem cat_bit_high {m n k s : Nat} {hi : BitVec m} {lo : BitVec n} (h : n ≤ s) (hk : m + n = k) :
    (cat k hi lo).getLsbD s = hi.getLsbD (s - n) := by
  subst hk
  simp [cat, BitVec.getLsbD_append, Nat.not_lt.2 h]

theorem cat_bit_low {m n k s : Nat} {hi : BitVec m} {lo : BitVec n} (h : s < n) (hk : m + n = k) :
    (cat k hi lo).getLsbD s = lo.getLsbD s := by
  subst hk
  simp [cat, BitVec.getLsbD_append, h]

theorem ofBool_bit (b : Bool) : (BitVec.ofBool b).getLsbD 0 = b := by cases b <;> rfl

/-- An operand's byte names that operand (R37). -/
theorem opd_byte (o : Operand) : Operand.ofByte o.byte = o := by
  cases o <;> rename_i i <;> revert i <;> decide

end Sys2Proof

namespace Sys2Proof

set_option Elab.async false
set_option linter.unusedSimpArgs false

/-- The word that the encoder writes for an instruction, if it has one, decodes to that instruction. -/
def Laws.Encoding.Statement (i : Instr) : Prop := ∀ x, encode i = some x → decode x = .ok i

theorem Laws.Encoding.nop (sw : Bool) : Laws.Encoding.Statement (.nop sw) := by
  intro x h
  simp only [encode, Option.some.injEq] at h
  subst h
  simp (disch := decide) [decode, wordOf, cat_low, cat_high, cat_bit_low, cat_bit_high, decodeControl,
    ofBool_bit, opd, opd_byte, -BitVec.getLsbD_eq_getElem]

theorem Laws.Encoding.bra (sw : Bool) (u : Bool) (off : BitVec 19) : Laws.Encoding.Statement (.bra sw u off) := by
  intro x h
  simp only [encode, Option.some.injEq] at h
  subst h
  simp (disch := decide) [decode, wordOf, cat_low, cat_high, cat_bit_low, cat_bit_high, decodeControl,
    ofBool_bit, opd, opd_byte, -BitVec.getLsbD_eq_getElem]

theorem Laws.Encoding.brc (sw : Bool) (u : Bool) (inv : Bool) (pr : BitVec 3) (off : BitVec 19) : Laws.Encoding.Statement (.brc sw u inv pr off) := by
  intro x h
  simp only [encode, Option.some.injEq] at h
  subst h
  simp (disch := decide) [decode, wordOf, cat_low, cat_high, cat_bit_low, cat_bit_high, decodeControl,
    ofBool_bit, opd, opd_byte, -BitVec.getLsbD_eq_getElem]

theorem Laws.Encoding.mark (sw : Bool) (off : BitVec 19) : Laws.Encoding.Statement (.mark sw off) := by
  intro x h
  simp only [encode, Option.some.injEq] at h
  subst h
  simp (disch := decide) [decode, wordOf, cat_low, cat_high, cat_bit_low, cat_bit_high, decodeControl,
    ofBool_bit, opd, opd_byte, -BitVec.getLsbD_eq_getElem]

theorem Laws.Encoding.join (sw : Bool) : Laws.Encoding.Statement (.join sw) := by
  intro x h
  simp only [encode, Option.some.injEq] at h
  subst h
  simp (disch := decide) [decode, wordOf, cat_low, cat_high, cat_bit_low, cat_bit_high, decodeControl,
    ofBool_bit, opd, opd_byte, -BitVec.getLsbD_eq_getElem]

theorem Laws.Encoding.call (sw : Bool) (u : Bool) (inv : Bool) (pr : BitVec 3) (off : BitVec 19) : Laws.Encoding.Statement (.call sw u inv pr off) := by
  intro x h
  simp only [encode, Option.some.injEq] at h
  subst h
  simp (disch := decide) [decode, wordOf, cat_low, cat_high, cat_bit_low, cat_bit_high, decodeControl,
    ofBool_bit, opd, opd_byte, -BitVec.getLsbD_eq_getElem]

theorem Laws.Encoding.ret (sw : Bool) (a : Operand) : Laws.Encoding.Statement (.ret sw a) := by
  intro x h
  simp only [encode, Option.some.injEq] at h
  subst h
  simp (disch := decide) [decode, wordOf, cat_low, cat_high, cat_bit_low, cat_bit_high, decodeControl,
    ofBool_bit, opd, opd_byte, -BitVec.getLsbD_eq_getElem]

theorem Laws.Encoding.loop (sw : Bool) (d : Operand) (len : BitVec 7) : Laws.Encoding.Statement (.loop sw d len) := by
  intro x h
  simp only [encode, Option.some.injEq] at h
  subst h
  simp (disch := decide) [decode, wordOf, cat_low, cat_high, cat_bit_low, cat_bit_high, decodeControl,
    ofBool_bit, opd, opd_byte, -BitVec.getLsbD_eq_getElem]

theorem Laws.Encoding.exit (sw : Bool) (idx : BitVec 8) : Laws.Encoding.Statement (.exit sw idx) := by
  intro x h
  simp only [encode, Option.some.injEq] at h
  subst h
  simp (disch := decide) [decode, wordOf, cat_low, cat_high, cat_bit_low, cat_bit_high, decodeControl,
    ofBool_bit, opd, opd_byte, -BitVec.getLsbD_eq_getElem]

theorem Laws.Encoding.yield (sw : Bool) (cls : BitVec 3) (n : BitVec 4) (off : BitVec 17) : Laws.Encoding.Statement (.yield sw cls n off) := by
  intro x h
  simp only [encode, Option.some.injEq] at h
  subst h
  simp (disch := decide) [decode, wordOf, cat_low, cat_high, cat_bit_low, cat_bit_high, decodeControl,
    ofBool_bit, opd, opd_byte, -BitVec.getLsbD_eq_getElem]

theorem Laws.Encoding.waitc (sw : Bool) (cls : BitVec 3) (n : BitVec 4) : Laws.Encoding.Statement (.waitc sw cls n) := by
  intro x h
  simp only [encode, Option.some.injEq] at h
  subst h
  simp (disch := decide) [decode, wordOf, cat_low, cat_high, cat_bit_low, cat_bit_high, decodeControl,
    ofBool_bit, opd, opd_byte, -BitVec.getLsbD_eq_getElem]

theorem Laws.Encoding.setmode (sw : Bool) (sel : BitVec 4) (val : BitVec 12) : Laws.Encoding.Statement (.setmode sw sel val) := by
  intro x h
  simp only [encode, Option.some.injEq] at h
  subst h
  simp (disch := decide) [decode, wordOf, cat_low, cat_high, cat_bit_low, cat_bit_high, decodeControl,
    ofBool_bit, opd, opd_byte, -BitVec.getLsbD_eq_getElem]

theorem Laws.Encoding.fuse (sw : Bool) (partner : BitVec 5) : Laws.Encoding.Statement (.fuse sw partner) := by
  intro x h
  simp only [encode, Option.some.injEq] at h
  subst h
  simp (disch := decide) [decode, wordOf, cat_low, cat_high, cat_bit_low, cat_bit_high, decodeControl,
    ofBool_bit, opd, opd_byte, -BitVec.getLsbD_eq_getElem]

theorem Laws.Encoding.split (sw : Bool) : Laws.Encoding.Statement (.split sw) := by
  intro x h
  simp only [encode, Option.some.injEq] at h
  subst h
  simp (disch := decide) [decode, wordOf, cat_low, cat_high, cat_bit_low, cat_bit_high, decodeControl,
    ofBool_bit, opd, opd_byte, -BitVec.getLsbD_eq_getElem]

theorem Laws.Encoding.bar (sw : Bool) (scope : BitVec 3) : Laws.Encoding.Statement (.bar sw scope) := by
  intro x h
  simp only [encode, Option.some.injEq] at h
  subst h
  simp (disch := decide) [decode, wordOf, cat_low, cat_high, cat_bit_low, cat_bit_high, decodeControl,
    ofBool_bit, opd, opd_byte, -BitVec.getLsbD_eq_getElem]

theorem Laws.Encoding.trap (sw : Bool) (code : BitVec 16) : Laws.Encoding.Statement (.trap sw code) := by
  intro x h
  simp only [encode, Option.some.injEq] at h
  subst h
  simp (disch := decide) [decode, wordOf, cat_low, cat_high, cat_bit_low, cat_bit_high, decodeControl,
    ofBool_bit, opd, opd_byte, -BitVec.getLsbD_eq_getElem]

theorem Laws.Encoding.add (sw : Bool) (d : Operand) (a : Operand) (b : Operand) : Laws.Encoding.Statement (.add sw d a b) := by
  intro x h
  simp only [encode, Option.some.injEq] at h
  subst h
  simp (disch := decide) [decode, wordOf, cat_low, cat_high, cat_bit_low, cat_bit_high, decodeArith,
    ofBool_bit, opd, opd_byte, -BitVec.getLsbD_eq_getElem]

theorem Laws.Encoding.sub (sw : Bool) (d : Operand) (a : Operand) (b : Operand) : Laws.Encoding.Statement (.sub sw d a b) := by
  intro x h
  simp only [encode, Option.some.injEq] at h
  subst h
  simp (disch := decide) [decode, wordOf, cat_low, cat_high, cat_bit_low, cat_bit_high, decodeArith,
    ofBool_bit, opd, opd_byte, -BitVec.getLsbD_eq_getElem]

theorem Laws.Encoding.mul (sw : Bool) (d : Operand) (a : Operand) (b : Operand) : Laws.Encoding.Statement (.mul sw d a b) := by
  intro x h
  simp only [encode, Option.some.injEq] at h
  subst h
  simp (disch := decide) [decode, wordOf, cat_low, cat_high, cat_bit_low, cat_bit_high, decodeArith,
    ofBool_bit, opd, opd_byte, -BitVec.getLsbD_eq_getElem]

theorem Laws.Encoding.mulh (sw : Bool) (d : Operand) (a : Operand) (b : Operand) : Laws.Encoding.Statement (.mulh sw d a b) := by
  intro x h
  simp only [encode, Option.some.injEq] at h
  subst h
  simp (disch := decide) [decode, wordOf, cat_low, cat_high, cat_bit_low, cat_bit_high, decodeArith,
    ofBool_bit, opd, opd_byte, -BitVec.getLsbD_eq_getElem]

theorem Laws.Encoding.mad (sw : Bool) (d : Operand) (a : Operand) (b : Operand) : Laws.Encoding.Statement (.mad sw d a b) := by
  intro x h
  simp only [encode, Option.some.injEq] at h
  subst h
  simp (disch := decide) [decode, wordOf, cat_low, cat_high, cat_bit_low, cat_bit_high, decodeArith,
    ofBool_bit, opd, opd_byte, -BitVec.getLsbD_eq_getElem]

theorem Laws.Encoding.min (sw : Bool) (d : Operand) (a : Operand) (b : Operand) : Laws.Encoding.Statement (.min sw d a b) := by
  intro x h
  simp only [encode, Option.some.injEq] at h
  subst h
  simp (disch := decide) [decode, wordOf, cat_low, cat_high, cat_bit_low, cat_bit_high, decodeArith,
    ofBool_bit, opd, opd_byte, -BitVec.getLsbD_eq_getElem]

theorem Laws.Encoding.max (sw : Bool) (d : Operand) (a : Operand) (b : Operand) : Laws.Encoding.Statement (.max sw d a b) := by
  intro x h
  simp only [encode, Option.some.injEq] at h
  subst h
  simp (disch := decide) [decode, wordOf, cat_low, cat_high, cat_bit_low, cat_bit_high, decodeArith,
    ofBool_bit, opd, opd_byte, -BitVec.getLsbD_eq_getElem]

theorem Laws.Encoding.abs (sw : Bool) (d : Operand) (a : Operand) : Laws.Encoding.Statement (.abs sw d a) := by
  intro x h
  simp only [encode, Option.some.injEq] at h
  subst h
  simp (disch := decide) [decode, wordOf, cat_low, cat_high, cat_bit_low, cat_bit_high, decodeArith,
    ofBool_bit, opd, opd_byte, -BitVec.getLsbD_eq_getElem]

theorem Laws.Encoding.neg (sw : Bool) (d : Operand) (a : Operand) : Laws.Encoding.Statement (.neg sw d a) := by
  intro x h
  simp only [encode, Option.some.injEq] at h
  subst h
  simp (disch := decide) [decode, wordOf, cat_low, cat_high, cat_bit_low, cat_bit_high, decodeArith,
    ofBool_bit, opd, opd_byte, -BitVec.getLsbD_eq_getElem]

theorem Laws.Encoding.and (sw : Bool) (d : Operand) (a : Operand) (b : Operand) : Laws.Encoding.Statement (.and sw d a b) := by
  intro x h
  simp only [encode, Option.some.injEq] at h
  subst h
  simp (disch := decide) [decode, wordOf, cat_low, cat_high, cat_bit_low, cat_bit_high, decodeArith,
    ofBool_bit, opd, opd_byte, -BitVec.getLsbD_eq_getElem]

theorem Laws.Encoding.or (sw : Bool) (d : Operand) (a : Operand) (b : Operand) : Laws.Encoding.Statement (.or sw d a b) := by
  intro x h
  simp only [encode, Option.some.injEq] at h
  subst h
  simp (disch := decide) [decode, wordOf, cat_low, cat_high, cat_bit_low, cat_bit_high, decodeArith,
    ofBool_bit, opd, opd_byte, -BitVec.getLsbD_eq_getElem]

theorem Laws.Encoding.xor (sw : Bool) (d : Operand) (a : Operand) (b : Operand) : Laws.Encoding.Statement (.xor sw d a b) := by
  intro x h
  simp only [encode, Option.some.injEq] at h
  subst h
  simp (disch := decide) [decode, wordOf, cat_low, cat_high, cat_bit_low, cat_bit_high, decodeArith,
    ofBool_bit, opd, opd_byte, -BitVec.getLsbD_eq_getElem]

theorem Laws.Encoding.not (sw : Bool) (d : Operand) (a : Operand) : Laws.Encoding.Statement (.not sw d a) := by
  intro x h
  simp only [encode, Option.some.injEq] at h
  subst h
  simp (disch := decide) [decode, wordOf, cat_low, cat_high, cat_bit_low, cat_bit_high, decodeArith,
    ofBool_bit, opd, opd_byte, -BitVec.getLsbD_eq_getElem]

theorem Laws.Encoding.shl (sw : Bool) (d : Operand) (a : Operand) (b : Operand) : Laws.Encoding.Statement (.shl sw d a b) := by
  intro x h
  simp only [encode, Option.some.injEq] at h
  subst h
  simp (disch := decide) [decode, wordOf, cat_low, cat_high, cat_bit_low, cat_bit_high, decodeArith,
    ofBool_bit, opd, opd_byte, -BitVec.getLsbD_eq_getElem]

theorem Laws.Encoding.shr (sw : Bool) (d : Operand) (a : Operand) (b : Operand) : Laws.Encoding.Statement (.shr sw d a b) := by
  intro x h
  simp only [encode, Option.some.injEq] at h
  subst h
  simp (disch := decide) [decode, wordOf, cat_low, cat_high, cat_bit_low, cat_bit_high, decodeArith,
    ofBool_bit, opd, opd_byte, -BitVec.getLsbD_eq_getElem]

theorem Laws.Encoding.sar (sw : Bool) (d : Operand) (a : Operand) (b : Operand) : Laws.Encoding.Statement (.sar sw d a b) := by
  intro x h
  simp only [encode, Option.some.injEq] at h
  subst h
  simp (disch := decide) [decode, wordOf, cat_low, cat_high, cat_bit_low, cat_bit_high, decodeArith,
    ofBool_bit, opd, opd_byte, -BitVec.getLsbD_eq_getElem]

theorem Laws.Encoding.addc (sw : Bool) (d : Operand) (a : Operand) (b : Operand) : Laws.Encoding.Statement (.addc sw d a b) := by
  intro x h
  simp only [encode, Option.some.injEq] at h
  subst h
  simp (disch := decide) [decode, wordOf, cat_low, cat_high, cat_bit_low, cat_bit_high, decodeBits,
    ofBool_bit, opd, opd_byte, -BitVec.getLsbD_eq_getElem]

theorem Laws.Encoding.subb (sw : Bool) (d : Operand) (a : Operand) (b : Operand) : Laws.Encoding.Statement (.subb sw d a b) := by
  intro x h
  simp only [encode, Option.some.injEq] at h
  subst h
  simp (disch := decide) [decode, wordOf, cat_low, cat_high, cat_bit_low, cat_bit_high, decodeBits,
    ofBool_bit, opd, opd_byte, -BitVec.getLsbD_eq_getElem]

theorem Laws.Encoding.popc (sw : Bool) (d : Operand) (a : Operand) : Laws.Encoding.Statement (.popc sw d a) := by
  intro x h
  simp only [encode, Option.some.injEq] at h
  subst h
  simp (disch := decide) [decode, wordOf, cat_low, cat_high, cat_bit_low, cat_bit_high, decodeBits,
    ofBool_bit, opd, opd_byte, -BitVec.getLsbD_eq_getElem]

theorem Laws.Encoding.clz (sw : Bool) (d : Operand) (a : Operand) : Laws.Encoding.Statement (.clz sw d a) := by
  intro x h
  simp only [encode, Option.some.injEq] at h
  subst h
  simp (disch := decide) [decode, wordOf, cat_low, cat_high, cat_bit_low, cat_bit_high, decodeBits,
    ofBool_bit, opd, opd_byte, -BitVec.getLsbD_eq_getElem]

theorem Laws.Encoding.brev (sw : Bool) (d : Operand) (a : Operand) : Laws.Encoding.Statement (.brev sw d a) := by
  intro x h
  simp only [encode, Option.some.injEq] at h
  subst h
  simp (disch := decide) [decode, wordOf, cat_low, cat_high, cat_bit_low, cat_bit_high, decodeBits,
    ofBool_bit, opd, opd_byte, -BitVec.getLsbD_eq_getElem]

theorem Laws.Encoding.bfx (sw : Bool) (d : Operand) (a : Operand) (b : Operand) : Laws.Encoding.Statement (.bfx sw d a b) := by
  intro x h
  simp only [encode, Option.some.injEq] at h
  subst h
  simp (disch := decide) [decode, wordOf, cat_low, cat_high, cat_bit_low, cat_bit_high, decodeBits,
    ofBool_bit, opd, opd_byte, -BitVec.getLsbD_eq_getElem]

theorem Laws.Encoding.bfi (sw : Bool) (d : Operand) (a : Operand) (b : Operand) : Laws.Encoding.Statement (.bfi sw d a b) := by
  intro x h
  simp only [encode, Option.some.injEq] at h
  subst h
  simp (disch := decide) [decode, wordOf, cat_low, cat_high, cat_bit_low, cat_bit_high, decodeBits,
    ofBool_bit, opd, opd_byte, -BitVec.getLsbD_eq_getElem]

theorem Laws.Encoding.sel (sw : Bool) (d : Operand) (a : Operand) (b : Operand) : Laws.Encoding.Statement (.sel sw d a b) := by
  intro x h
  simp only [encode, Option.some.injEq] at h
  subst h
  simp (disch := decide) [decode, wordOf, cat_low, cat_high, cat_bit_low, cat_bit_high, decodeBits,
    ofBool_bit, opd, opd_byte, -BitVec.getLsbD_eq_getElem]

theorem Laws.Encoding.cmp (sw : Bool) (cond : BitVec 4) (pd : BitVec 3) (a : Operand) (b : Operand) : Laws.Encoding.Statement (.cmp sw cond pd a b) := by
  intro x h
  simp only [encode, Option.some.injEq] at h
  subst h
  simp (disch := decide) [decode, wordOf, cat_low, cat_high, cat_bit_low, cat_bit_high, decodeBits,
    ofBool_bit, opd, opd_byte, -BitVec.getLsbD_eq_getElem]

theorem Laws.Encoding.mov (sw : Bool) (d : Operand) (a : Operand) : Laws.Encoding.Statement (.mov sw d a) := by
  intro x h
  simp only [encode, Option.some.injEq] at h
  subst h
  simp (disch := decide) [decode, wordOf, cat_low, cat_high, cat_bit_low, cat_bit_high, decodeBits,
    ofBool_bit, opd, opd_byte, -BitVec.getLsbD_eq_getElem]

theorem Laws.Encoding.movi (sw : Bool) (d : Operand) (imm : BitVec 16) : Laws.Encoding.Statement (.movi sw d imm) := by
  intro x h
  simp only [encode, Option.some.injEq] at h
  subst h
  simp (disch := decide) [decode, wordOf, cat_low, cat_high, cat_bit_low, cat_bit_high, decodeBits,
    ofBool_bit, opd, opd_byte, -BitVec.getLsbD_eq_getElem]

theorem Laws.Encoding.movh (sw : Bool) (d : Operand) (imm : BitVec 16) : Laws.Encoding.Statement (.movh sw d imm) := by
  intro x h
  simp only [encode, Option.some.injEq] at h
  subst h
  simp (disch := decide) [decode, wordOf, cat_low, cat_high, cat_bit_low, cat_bit_high, decodeBits,
    ofBool_bit, opd, opd_byte, -BitVec.getLsbD_eq_getElem]

theorem Laws.Encoding.frint (sw : Bool) (d : Operand) (a : Operand) : Laws.Encoding.Statement (.frint sw d a) := by
  intro x h
  simp only [encode, Option.some.injEq] at h
  subst h
  simp (disch := decide) [decode, wordOf, cat_low, cat_high, cat_bit_low, cat_bit_high, decodeBits,
    ofBool_bit, opd, opd_byte, -BitVec.getLsbD_eq_getElem]

theorem Laws.Encoding.cvt (sw : Bool) (d : Operand) (a : Operand) (dty : BitVec 5) : Laws.Encoding.Statement (.cvt sw d a dty) := by
  intro x h
  simp only [encode, Option.some.injEq] at h
  subst h
  simp (disch := decide) [decode, wordOf, cat_low, cat_high, cat_bit_low, cat_bit_high, decodeBits,
    ofBool_bit, opd, opd_byte, -BitVec.getLsbD_eq_getElem]

theorem Laws.Encoding.pack (sw : Bool) (d : Operand) (a : Operand) (b : Operand) : Laws.Encoding.Statement (.pack sw d a b) := by
  intro x h
  simp only [encode, Option.some.injEq] at h
  subst h
  simp (disch := decide) [decode, wordOf, cat_low, cat_high, cat_bit_low, cat_bit_high, decodeBits,
    ofBool_bit, opd, opd_byte, -BitVec.getLsbD_eq_getElem]

theorem Laws.Encoding.unpk (sw : Bool) (d : Operand) (a : Operand) (b : Operand) : Laws.Encoding.Statement (.unpk sw d a b) := by
  intro x h
  simp only [encode, Option.some.injEq] at h
  subst h
  simp (disch := decide) [decode, wordOf, cat_low, cat_high, cat_bit_low, cat_bit_high, decodeBits,
    ofBool_bit, opd, opd_byte, -BitVec.getLsbD_eq_getElem]

theorem Laws.Encoding.msb (sw : Bool) (d : Operand) (a : Operand) (b : Operand) : Laws.Encoding.Statement (.msb sw d a b) := by
  intro x h
  simp only [encode, Option.some.injEq] at h
  subst h
  simp (disch := decide) [decode, wordOf, cat_low, cat_high, cat_bit_low, cat_bit_high, decodeFloat,
    ofBool_bit, opd, opd_byte, -BitVec.getLsbD_eq_getElem]

theorem Laws.Encoding.frcp (sw : Bool) (d : Operand) (a : Operand) : Laws.Encoding.Statement (.frcp sw d a) := by
  intro x h
  simp only [encode, Option.some.injEq] at h
  subst h
  simp (disch := decide) [decode, wordOf, cat_low, cat_high, cat_bit_low, cat_bit_high, decodeFloat,
    ofBool_bit, opd, opd_byte, -BitVec.getLsbD_eq_getElem]

theorem Laws.Encoding.frsq (sw : Bool) (d : Operand) (a : Operand) : Laws.Encoding.Statement (.frsq sw d a) := by
  intro x h
  simp only [encode, Option.some.injEq] at h
  subst h
  simp (disch := decide) [decode, wordOf, cat_low, cat_high, cat_bit_low, cat_bit_high, decodeFloat,
    ofBool_bit, opd, opd_byte, -BitVec.getLsbD_eq_getElem]

theorem Laws.Encoding.fsqrt (sw : Bool) (d : Operand) (a : Operand) : Laws.Encoding.Statement (.fsqrt sw d a) := by
  intro x h
  simp only [encode, Option.some.injEq] at h
  subst h
  simp (disch := decide) [decode, wordOf, cat_low, cat_high, cat_bit_low, cat_bit_high, decodeFloat,
    ofBool_bit, opd, opd_byte, -BitVec.getLsbD_eq_getElem]

theorem Laws.Encoding.fexp2 (sw : Bool) (d : Operand) (a : Operand) : Laws.Encoding.Statement (.fexp2 sw d a) := by
  intro x h
  simp only [encode, Option.some.injEq] at h
  subst h
  simp (disch := decide) [decode, wordOf, cat_low, cat_high, cat_bit_low, cat_bit_high, decodeFloat,
    ofBool_bit, opd, opd_byte, -BitVec.getLsbD_eq_getElem]

theorem Laws.Encoding.flog2 (sw : Bool) (d : Operand) (a : Operand) : Laws.Encoding.Statement (.flog2 sw d a) := by
  intro x h
  simp only [encode, Option.some.injEq] at h
  subst h
  simp (disch := decide) [decode, wordOf, cat_low, cat_high, cat_bit_low, cat_bit_high, decodeFloat,
    ofBool_bit, opd, opd_byte, -BitVec.getLsbD_eq_getElem]

theorem Laws.Encoding.fsinpi (sw : Bool) (d : Operand) (a : Operand) : Laws.Encoding.Statement (.fsinpi sw d a) := by
  intro x h
  simp only [encode, Option.some.injEq] at h
  subst h
  simp (disch := decide) [decode, wordOf, cat_low, cat_high, cat_bit_low, cat_bit_high, decodeFloat,
    ofBool_bit, opd, opd_byte, -BitVec.getLsbD_eq_getElem]

theorem Laws.Encoding.fcospi (sw : Bool) (d : Operand) (a : Operand) : Laws.Encoding.Statement (.fcospi sw d a) := by
  intro x h
  simp only [encode, Option.some.injEq] at h
  subst h
  simp (disch := decide) [decode, wordOf, cat_low, cat_high, cat_bit_low, cat_bit_high, decodeFloat,
    ofBool_bit, opd, opd_byte, -BitVec.getLsbD_eq_getElem]

theorem Laws.Encoding.cmul (sw : Bool) (d : Operand) (a : Operand) (b : Operand) : Laws.Encoding.Statement (.cmul sw d a b) := by
  intro x h
  simp only [encode, Option.some.injEq] at h
  subst h
  simp (disch := decide) [decode, wordOf, cat_low, cat_high, cat_bit_low, cat_bit_high, decodeFloat,
    ofBool_bit, opd, opd_byte, -BitVec.getLsbD_eq_getElem]

theorem Laws.Encoding.cfma (sw : Bool) (d : Operand) (a : Operand) (b : Operand) : Laws.Encoding.Statement (.cfma sw d a b) := by
  intro x h
  simp only [encode, Option.some.injEq] at h
  subst h
  simp (disch := decide) [decode, wordOf, cat_low, cat_high, cat_bit_low, cat_bit_high, decodeFloat,
    ofBool_bit, opd, opd_byte, -BitVec.getLsbD_eq_getElem]

theorem Laws.Encoding.fclass (sw : Bool) (d : Operand) (a : Operand) : Laws.Encoding.Statement (.fclass sw d a) := by
  intro x h
  simp only [encode, Option.some.injEq] at h
  subst h
  simp (disch := decide) [decode, wordOf, cat_low, cat_high, cat_bit_low, cat_bit_high, decodeFloat,
    ofBool_bit, opd, opd_byte, -BitVec.getLsbD_eq_getElem]

theorem Laws.Encoding.rnd (sw : Bool) (d : Operand) : Laws.Encoding.Statement (.rnd sw d) := by
  intro x h
  simp only [encode, Option.some.injEq] at h
  subst h
  simp (disch := decide) [decode, wordOf, cat_low, cat_high, cat_bit_low, cat_bit_high, decodeFloat,
    ofBool_bit, opd, opd_byte, -BitVec.getLsbD_eq_getElem]

theorem Laws.Encoding.fscale (sw : Bool) (d : Operand) (a : Operand) (b : Operand) : Laws.Encoding.Statement (.fscale sw d a b) := by
  intro x h
  simp only [encode, Option.some.injEq] at h
  subst h
  simp (disch := decide) [decode, wordOf, cat_low, cat_high, cat_bit_low, cat_bit_high, decodeFloat,
    ofBool_bit, opd, opd_byte, -BitVec.getLsbD_eq_getElem]

theorem Laws.Encoding.dot4 (sw : Bool) (d : Operand) (a : Operand) (b : Operand) : Laws.Encoding.Statement (.dot4 sw d a b) := by
  intro x h
  simp only [encode, Option.some.injEq] at h
  subst h
  simp (disch := decide) [decode, wordOf, cat_low, cat_high, cat_bit_low, cat_bit_high, decodeFloat,
    ofBool_bit, opd, opd_byte, -BitVec.getLsbD_eq_getElem]

theorem Laws.Encoding.raise (sw : Bool) (d : Operand) (a : Operand) (fn : BitVec 5) : Laws.Encoding.Statement (.raise sw d a fn) := by
  intro x h
  simp only [encode, Option.some.injEq] at h
  subst h
  simp (disch := decide) [decode, wordOf, cat_low, cat_high, cat_bit_low, cat_bit_high, decodeScopedMemory,
    ofBool_bit, opd, opd_byte, -BitVec.getLsbD_eq_getElem]

theorem Laws.Encoding.vote (sw : Bool) (d : Operand) (a : Operand) (fn : BitVec 5) : Laws.Encoding.Statement (.vote sw d a fn) := by
  intro x h
  simp only [encode, Option.some.injEq] at h
  subst h
  simp (disch := decide) [decode, wordOf, cat_low, cat_high, cat_bit_low, cat_bit_high, decodeScopedMemory,
    ofBool_bit, opd, opd_byte, -BitVec.getLsbD_eq_getElem]

theorem Laws.Encoding.shfi (sw : Bool) (d : Operand) (a : Operand) (b : Operand) : Laws.Encoding.Statement (.shfi sw d a b) := by
  intro x h
  simp only [encode, Option.some.injEq] at h
  subst h
  simp (disch := decide) [decode, wordOf, cat_low, cat_high, cat_bit_low, cat_bit_high, decodeScopedMemory,
    ofBool_bit, opd, opd_byte, -BitVec.getLsbD_eq_getElem]

theorem Laws.Encoding.shfx (sw : Bool) (d : Operand) (a : Operand) (b : Operand) : Laws.Encoding.Statement (.shfx sw d a b) := by
  intro x h
  simp only [encode, Option.some.injEq] at h
  subst h
  simp (disch := decide) [decode, wordOf, cat_low, cat_high, cat_bit_low, cat_bit_high, decodeScopedMemory,
    ofBool_bit, opd, opd_byte, -BitVec.getLsbD_eq_getElem]

theorem Laws.Encoding.shfu (sw : Bool) (d : Operand) (a : Operand) (b : Operand) : Laws.Encoding.Statement (.shfu sw d a b) := by
  intro x h
  simp only [encode, Option.some.injEq] at h
  subst h
  simp (disch := decide) [decode, wordOf, cat_low, cat_high, cat_bit_low, cat_bit_high, decodeScopedMemory,
    ofBool_bit, opd, opd_byte, -BitVec.getLsbD_eq_getElem]

theorem Laws.Encoding.shfd (sw : Bool) (d : Operand) (a : Operand) (b : Operand) : Laws.Encoding.Statement (.shfd sw d a b) := by
  intro x h
  simp only [encode, Option.some.injEq] at h
  subst h
  simp (disch := decide) [decode, wordOf, cat_low, cat_high, cat_bit_low, cat_bit_high, decodeScopedMemory,
    ofBool_bit, opd, opd_byte, -BitVec.getLsbD_eq_getElem]

theorem Laws.Encoding.plog (sw : Bool) (fn : BitVec 4) (pd : BitVec 3) (ia : Bool) (pa : BitVec 3) (ib : Bool) (pb : BitVec 3) : Laws.Encoding.Statement (.plog sw fn pd ia pa ib pb) := by
  intro x h
  simp only [encode, Option.some.injEq] at h
  subst h
  simp (disch := decide) [decode, wordOf, cat_low, cat_high, cat_bit_low, cat_bit_high, decodeScopedMemory,
    ofBool_bit, opd, opd_byte, -BitVec.getLsbD_eq_getElem]

theorem Laws.Encoding.ld (sw : Bool) (d : Operand) (a : Operand) (off : BitVec 8) : Laws.Encoding.Statement (.ld sw d a off) := by
  intro x h
  simp only [encode, Option.some.injEq] at h
  subst h
  simp (disch := decide) [decode, wordOf, cat_low, cat_high, cat_bit_low, cat_bit_high, decodeScopedMemory,
    ofBool_bit, opd, opd_byte, -BitVec.getLsbD_eq_getElem]

theorem Laws.Encoding.st (sw : Bool) (d : Operand) (a : Operand) (off : BitVec 8) : Laws.Encoding.Statement (.st sw d a off) := by
  intro x h
  simp only [encode, Option.some.injEq] at h
  subst h
  simp (disch := decide) [decode, wordOf, cat_low, cat_high, cat_bit_low, cat_bit_high, decodeScopedMemory,
    ofBool_bit, opd, opd_byte, -BitVec.getLsbD_eq_getElem]

theorem Laws.Encoding.ldw (sw : Bool) (d : Operand) (a : Operand) (off : BitVec 8) : Laws.Encoding.Statement (.ldw sw d a off) := by
  intro x h
  simp only [encode, Option.some.injEq] at h
  subst h
  simp (disch := decide) [decode, wordOf, cat_low, cat_high, cat_bit_low, cat_bit_high, decodeScopedMemory,
    ofBool_bit, opd, opd_byte, -BitVec.getLsbD_eq_getElem]

theorem Laws.Encoding.stw (sw : Bool) (d : Operand) (a : Operand) (off : BitVec 8) : Laws.Encoding.Statement (.stw sw d a off) := by
  intro x h
  simp only [encode, Option.some.injEq] at h
  subst h
  simp (disch := decide) [decode, wordOf, cat_low, cat_high, cat_bit_low, cat_bit_high, decodeScopedMemory,
    ofBool_bit, opd, opd_byte, -BitVec.getLsbD_eq_getElem]

theorem Laws.Encoding.ldl (sw : Bool) (d : Operand) (a : Operand) (off : BitVec 8) : Laws.Encoding.Statement (.ldl sw d a off) := by
  intro x h
  simp only [encode, Option.some.injEq] at h
  subst h
  simp (disch := decide) [decode, wordOf, cat_low, cat_high, cat_bit_low, cat_bit_high, decodeScopedMemory,
    ofBool_bit, opd, opd_byte, -BitVec.getLsbD_eq_getElem]

theorem Laws.Encoding.stl (sw : Bool) (d : Operand) (a : Operand) (off : BitVec 8) : Laws.Encoding.Statement (.stl sw d a off) := by
  intro x h
  simp only [encode, Option.some.injEq] at h
  subst h
  simp (disch := decide) [decode, wordOf, cat_low, cat_high, cat_bit_low, cat_bit_high, decodeScopedMemory,
    ofBool_bit, opd, opd_byte, -BitVec.getLsbD_eq_getElem]

theorem Laws.Encoding.taglLookup (sw : Bool) (d : Operand) (a : Operand) (region : BitVec 4) : Laws.Encoding.Statement (.taglLookup sw d a region) := by
  intro x h
  simp only [encode, Option.some.injEq] at h
  subst h
  simp (disch := decide) [decode, wordOf, cat_low, cat_high, cat_bit_low, cat_bit_high, decodeScopedMemory,
    ofBool_bit, opd, opd_byte, -BitVec.getLsbD_eq_getElem]

theorem Laws.Encoding.taglRead (sw : Bool) (d : Operand) (a : Operand) (region : BitVec 4) : Laws.Encoding.Statement (.taglRead sw d a region) := by
  intro x h
  simp only [encode, Option.some.injEq] at h
  subst h
  simp (disch := decide) [decode, wordOf, cat_low, cat_high, cat_bit_low, cat_bit_high, decodeScopedMemory,
    ofBool_bit, opd, opd_byte, -BitVec.getLsbD_eq_getElem]

theorem Laws.Encoding.tagw (sw : Bool) (d : Operand) (a : Operand) (region : BitVec 4) : Laws.Encoding.Statement (.tagw sw d a region) := by
  intro x h
  simp only [encode, Option.some.injEq] at h
  subst h
  simp (disch := decide) [decode, wordOf, cat_low, cat_high, cat_bit_low, cat_bit_high, decodeScopedMemory,
    ofBool_bit, opd, opd_byte, -BitVec.getLsbD_eq_getElem]

theorem Laws.Encoding.aadd (sw : Bool) (d : Operand) (a : Operand) (b : Operand) : Laws.Encoding.Statement (.aadd sw d a b) := by
  intro x h
  simp only [encode, Option.some.injEq] at h
  subst h
  simp (disch := decide) [decode, wordOf, cat_low, cat_high, cat_bit_low, cat_bit_high, decodeAtomicSync,
    ofBool_bit, opd, opd_byte, -BitVec.getLsbD_eq_getElem]

theorem Laws.Encoding.amin (sw : Bool) (d : Operand) (a : Operand) (b : Operand) : Laws.Encoding.Statement (.amin sw d a b) := by
  intro x h
  simp only [encode, Option.some.injEq] at h
  subst h
  simp (disch := decide) [decode, wordOf, cat_low, cat_high, cat_bit_low, cat_bit_high, decodeAtomicSync,
    ofBool_bit, opd, opd_byte, -BitVec.getLsbD_eq_getElem]

theorem Laws.Encoding.amax (sw : Bool) (d : Operand) (a : Operand) (b : Operand) : Laws.Encoding.Statement (.amax sw d a b) := by
  intro x h
  simp only [encode, Option.some.injEq] at h
  subst h
  simp (disch := decide) [decode, wordOf, cat_low, cat_high, cat_bit_low, cat_bit_high, decodeAtomicSync,
    ofBool_bit, opd, opd_byte, -BitVec.getLsbD_eq_getElem]

theorem Laws.Encoding.aand (sw : Bool) (d : Operand) (a : Operand) (b : Operand) : Laws.Encoding.Statement (.aand sw d a b) := by
  intro x h
  simp only [encode, Option.some.injEq] at h
  subst h
  simp (disch := decide) [decode, wordOf, cat_low, cat_high, cat_bit_low, cat_bit_high, decodeAtomicSync,
    ofBool_bit, opd, opd_byte, -BitVec.getLsbD_eq_getElem]

theorem Laws.Encoding.aor (sw : Bool) (d : Operand) (a : Operand) (b : Operand) : Laws.Encoding.Statement (.aor sw d a b) := by
  intro x h
  simp only [encode, Option.some.injEq] at h
  subst h
  simp (disch := decide) [decode, wordOf, cat_low, cat_high, cat_bit_low, cat_bit_high, decodeAtomicSync,
    ofBool_bit, opd, opd_byte, -BitVec.getLsbD_eq_getElem]

theorem Laws.Encoding.axor (sw : Bool) (d : Operand) (a : Operand) (b : Operand) : Laws.Encoding.Statement (.axor sw d a b) := by
  intro x h
  simp only [encode, Option.some.injEq] at h
  subst h
  simp (disch := decide) [decode, wordOf, cat_low, cat_high, cat_bit_low, cat_bit_high, decodeAtomicSync,
    ofBool_bit, opd, opd_byte, -BitVec.getLsbD_eq_getElem]

theorem Laws.Encoding.axch (sw : Bool) (d : Operand) (a : Operand) (b : Operand) : Laws.Encoding.Statement (.axch sw d a b) := by
  intro x h
  simp only [encode, Option.some.injEq] at h
  subst h
  simp (disch := decide) [decode, wordOf, cat_low, cat_high, cat_bit_low, cat_bit_high, decodeAtomicSync,
    ofBool_bit, opd, opd_byte, -BitVec.getLsbD_eq_getElem]

theorem Laws.Encoding.acas (sw : Bool) (d : Operand) (a : Operand) (b : Operand) : Laws.Encoding.Statement (.acas sw d a b) := by
  intro x h
  simp only [encode, Option.some.injEq] at h
  subst h
  simp (disch := decide) [decode, wordOf, cat_low, cat_high, cat_bit_low, cat_bit_high, decodeAtomicSync,
    ofBool_bit, opd, opd_byte, -BitVec.getLsbD_eq_getElem]

theorem Laws.Encoding.bind (sw : Bool) (a : Operand) (b : Operand) : Laws.Encoding.Statement (.bind sw a b) := by
  intro x h
  simp only [encode, Option.some.injEq] at h
  subst h
  simp (disch := decide) [decode, wordOf, cat_low, cat_high, cat_bit_low, cat_bit_high, decodeAtomicSync,
    ofBool_bit, opd, opd_byte, -BitVec.getLsbD_eq_getElem]

theorem Laws.Encoding.unbind (sw : Bool) (a : Operand) : Laws.Encoding.Statement (.unbind sw a) := by
  intro x h
  simp only [encode, Option.some.injEq] at h
  subst h
  simp (disch := decide) [decode, wordOf, cat_low, cat_high, cat_bit_low, cat_bit_high, decodeAtomicSync,
    ofBool_bit, opd, opd_byte, -BitVec.getLsbD_eq_getElem]

theorem Laws.Encoding.acq (sw : Bool) (d : Operand) (a : Operand) : Laws.Encoding.Statement (.acq sw d a) := by
  intro x h
  simp only [encode, Option.some.injEq] at h
  subst h
  simp (disch := decide) [decode, wordOf, cat_low, cat_high, cat_bit_low, cat_bit_high, decodeAtomicSync,
    ofBool_bit, opd, opd_byte, -BitVec.getLsbD_eq_getElem]

theorem Laws.Encoding.rel (sw : Bool) (a : Operand) : Laws.Encoding.Statement (.rel sw a) := by
  intro x h
  simp only [encode, Option.some.injEq] at h
  subst h
  simp (disch := decide) [decode, wordOf, cat_low, cat_high, cat_bit_low, cat_bit_high, decodeAtomicSync,
    ofBool_bit, opd, opd_byte, -BitVec.getLsbD_eq_getElem]

theorem Laws.Encoding.fence (sw : Bool) (scope : BitVec 3) (kind : BitVec 2) : Laws.Encoding.Statement (.fence sw scope kind) := by
  intro x h
  simp only [encode, Option.some.injEq] at h
  subst h
  simp (disch := decide) [decode, wordOf, cat_low, cat_high, cat_bit_low, cat_bit_high, decodeAtomicSync,
    ofBool_bit, opd, opd_byte, -BitVec.getLsbD_eq_getElem]

theorem Laws.Encoding.dualst (sw : Bool) (d : Operand) (a : Operand) (b : Operand) : Laws.Encoding.Statement (.dualst sw d a b) := by
  intro x h
  simp only [encode, Option.some.injEq] at h
  subst h
  simp (disch := decide) [decode, wordOf, cat_low, cat_high, cat_bit_low, cat_bit_high, decodeAtomicSync,
    ofBool_bit, opd, opd_byte, -BitVec.getLsbD_eq_getElem]

theorem Laws.Encoding.pref (sw : Bool) (fn : Bool) (a : Operand) (off : BitVec 8) : Laws.Encoding.Statement (.pref sw fn a off) := by
  intro x h
  simp only [encode, Option.some.injEq] at h
  subst h
  simp (disch := decide) [decode, wordOf, cat_low, cat_high, cat_bit_low, cat_bit_high, decodeAtomicSync,
    ofBool_bit, opd, opd_byte, -BitVec.getLsbD_eq_getElem]

theorem Laws.Encoding.lcpIn (sw : Bool) (d : Operand) (a : Operand) (size : BitVec 2) : Laws.Encoding.Statement (.lcpIn sw d a size) := by
  intro x h
  simp only [encode, Option.some.injEq] at h
  subst h
  simp (disch := decide) [decode, wordOf, cat_low, cat_high, cat_bit_low, cat_bit_high, decodeCopyMatrix,
    ofBool_bit, opd, opd_byte, -BitVec.getLsbD_eq_getElem]

theorem Laws.Encoding.lcpOut (sw : Bool) (d : Operand) (a : Operand) (size : BitVec 2) : Laws.Encoding.Statement (.lcpOut sw d a size) := by
  intro x h
  simp only [encode, Option.some.injEq] at h
  subst h
  simp (disch := decide) [decode, wordOf, cat_low, cat_high, cat_bit_low, cat_bit_high, decodeCopyMatrix,
    ofBool_bit, opd, opd_byte, -BitVec.getLsbD_eq_getElem]

theorem Laws.Encoding.tcpIn (sw : Bool) (a : Operand) : Laws.Encoding.Statement (.tcpIn sw a) := by
  intro x h
  simp only [encode, Option.some.injEq] at h
  subst h
  simp (disch := decide) [decode, wordOf, cat_low, cat_high, cat_bit_low, cat_bit_high, decodeCopyMatrix,
    ofBool_bit, opd, opd_byte, -BitVec.getLsbD_eq_getElem]

theorem Laws.Encoding.tcpOut (sw : Bool) (a : Operand) : Laws.Encoding.Statement (.tcpOut sw a) := by
  intro x h
  simp only [encode, Option.some.injEq] at h
  subst h
  simp (disch := decide) [decode, wordOf, cat_low, cat_high, cat_bit_low, cat_bit_high, decodeCopyMatrix,
    ofBool_bit, opd, opd_byte, -BitVec.getLsbD_eq_getElem]

theorem Laws.Encoding.tcpx (sw : Bool) (a : Operand) (b : Operand) : Laws.Encoding.Statement (.tcpx sw a b) := by
  intro x h
  simp only [encode, Option.some.injEq] at h
  subst h
  simp (disch := decide) [decode, wordOf, cat_low, cat_high, cat_bit_low, cat_bit_high, decodeCopyMatrix,
    ofBool_bit, opd, opd_byte, -BitVec.getLsbD_eq_getElem]

theorem Laws.Encoding.seal (sw : Bool) (arrive : Bool) (ring : BitVec 3) (stage : BitVec 3) : Laws.Encoding.Statement (.seal sw arrive ring stage) := by
  intro x h
  simp only [encode, Option.some.injEq] at h
  subst h
  simp (disch := decide) [decode, wordOf, cat_low, cat_high, cat_bit_low, cat_bit_high, decodeCopyMatrix,
    ofBool_bit, opd, opd_byte, -BitVec.getLsbD_eq_getElem]

theorem Laws.Encoding.res (sw : Bool) (d : Operand) (a : Operand) (b : Operand) : Laws.Encoding.Statement (.res sw d a b) := by
  intro x h
  simp only [encode, Option.some.injEq] at h
  subst h
  simp (disch := decide) [decode, wordOf, cat_low, cat_high, cat_bit_low, cat_bit_high, decodeCopyMatrix,
    ofBool_bit, opd, opd_byte, -BitVec.getLsbD_eq_getElem]

theorem Laws.Encoding.rls (sw : Bool) (a : Operand) : Laws.Encoding.Statement (.rls sw a) := by
  intro x h
  simp only [encode, Option.some.injEq] at h
  subst h
  simp (disch := decide) [decode, wordOf, cat_low, cat_high, cat_bit_low, cat_bit_high, decodeCopyMatrix,
    ofBool_bit, opd, opd_byte, -BitVec.getLsbD_eq_getElem]

theorem Laws.Encoding.stga (sw : Bool) (ring : BitVec 3) (stage : BitVec 3) : Laws.Encoding.Statement (.stga sw ring stage) := by
  intro x h
  simp only [encode, Option.some.injEq] at h
  subst h
  simp (disch := decide) [decode, wordOf, cat_low, cat_high, cat_bit_low, cat_bit_high, decodeCopyMatrix,
    ofBool_bit, opd, opd_byte, -BitVec.getLsbD_eq_getElem]

theorem Laws.Encoding.stgw (sw : Bool) (d : Operand) (ring : BitVec 3) (stage : BitVec 3) (inv : Bool) : Laws.Encoding.Statement (.stgw sw d ring stage inv) := by
  intro x h
  simp only [encode, Option.some.injEq] at h
  subst h
  simp (disch := decide) [decode, wordOf, cat_low, cat_high, cat_bit_low, cat_bit_high, decodeCopyMatrix,
    ofBool_bit, opd, opd_byte, -BitVec.getLsbD_eq_getElem]

theorem Laws.Encoding.mma (sw : Bool) (d : Operand) (a : Operand) (b : Operand) : Laws.Encoding.Statement (.mma sw d a b) := by
  intro x h
  simp only [encode, Option.some.injEq] at h
  subst h
  simp (disch := decide) [decode, wordOf, cat_low, cat_high, cat_bit_low, cat_bit_high, decodeCopyMatrix,
    ofBool_bit, opd, opd_byte, -BitVec.getLsbD_eq_getElem]

theorem Laws.Encoding.mmaz (sw : Bool) (d : Operand) (a : Operand) (b : Operand) : Laws.Encoding.Statement (.mmaz sw d a b) := by
  intro x h
  simp only [encode, Option.some.injEq] at h
  subst h
  simp (disch := decide) [decode, wordOf, cat_low, cat_high, cat_bit_low, cat_bit_high, decodeCopyMatrix,
    ofBool_bit, opd, opd_byte, -BitVec.getLsbD_eq_getElem]

theorem Laws.Encoding.mmad (sw : Bool) (d : Operand) (a : Operand) (b : Operand) : Laws.Encoding.Statement (.mmad sw d a b) := by
  intro x h
  simp only [encode, Option.some.injEq] at h
  subst h
  simp (disch := decide) [decode, wordOf, cat_low, cat_high, cat_bit_low, cat_bit_high, decodeCopyMatrix,
    ofBool_bit, opd, opd_byte, -BitVec.getLsbD_eq_getElem]

theorem Laws.Encoding.tmma (sw : Bool) (d : Operand) (a : Operand) (b : Operand) : Laws.Encoding.Statement (.tmma sw d a b) := by
  intro x h
  simp only [encode, Option.some.injEq] at h
  subst h
  simp (disch := decide) [decode, wordOf, cat_low, cat_high, cat_bit_low, cat_bit_high, decodeCopyMatrix,
    ofBool_bit, opd, opd_byte, -BitVec.getLsbD_eq_getElem]

theorem Laws.Encoding.acca (sw : Bool) (d : Operand) (count : BitVec 7) : Laws.Encoding.Statement (.acca sw d count) := by
  intro x h
  simp only [encode, Option.some.injEq] at h
  subst h
  simp (disch := decide) [decode, wordOf, cat_low, cat_high, cat_bit_low, cat_bit_high, decodeCopyMatrix,
    ofBool_bit, opd, opd_byte, -BitVec.getLsbD_eq_getElem]

theorem Laws.Encoding.accf (sw : Bool) (a : Operand) : Laws.Encoding.Statement (.accf sw a) := by
  intro x h
  simp only [encode, Option.some.injEq] at h
  subst h
  simp (disch := decide) [decode, wordOf, cat_low, cat_high, cat_bit_low, cat_bit_high, decodeCopyMatrix,
    ofBool_bit, opd, opd_byte, -BitVec.getLsbD_eq_getElem]

theorem Laws.Encoding.accr (sw : Bool) (d : Operand) (a : Operand) (b : Operand) : Laws.Encoding.Statement (.accr sw d a b) := by
  intro x h
  simp only [encode, Option.some.injEq] at h
  subst h
  simp (disch := decide) [decode, wordOf, cat_low, cat_high, cat_bit_low, cat_bit_high, decodeCopyMatrix,
    ofBool_bit, opd, opd_byte, -BitVec.getLsbD_eq_getElem]

theorem Laws.Encoding.accw (sw : Bool) (d : Operand) (a : Operand) (b : Operand) : Laws.Encoding.Statement (.accw sw d a b) := by
  intro x h
  simp only [encode, Option.some.injEq] at h
  subst h
  simp (disch := decide) [decode, wordOf, cat_low, cat_high, cat_bit_low, cat_bit_high, decodeCopyMatrix,
    ofBool_bit, opd, opd_byte, -BitVec.getLsbD_eq_getElem]

theorem Laws.Encoding.kset (sw : Bool) (a : Operand) (set : BitVec 4) : Laws.Encoding.Statement (.kset sw a set) := by
  intro x h
  simp only [encode, Option.some.injEq] at h
  subst h
  simp (disch := decide) [decode, wordOf, cat_low, cat_high, cat_bit_low, cat_bit_high, decodeArraySystem,
    ofBool_bit, opd, opd_byte, -BitVec.getLsbD_eq_getElem]

theorem Laws.Encoding.kgetRecord (sw : Bool) (d : Operand) (set : BitVec 4) : Laws.Encoding.Statement (.kgetRecord sw d set) := by
  intro x h
  simp only [encode, Option.some.injEq] at h
  subst h
  simp (disch := decide) [decode, wordOf, cat_low, cat_high, cat_bit_low, cat_bit_high, decodeArraySystem,
    ofBool_bit, opd, opd_byte, -BitVec.getLsbD_eq_getElem]

theorem Laws.Encoding.kgetCount (sw : Bool) (d : Operand) (clr : Bool) (set : BitVec 4) : Laws.Encoding.Statement (.kgetCount sw d clr set) := by
  intro x h
  simp only [encode, Option.some.injEq] at h
  subst h
  simp (disch := decide) [decode, wordOf, cat_low, cat_high, cat_bit_low, cat_bit_high, decodeArraySystem,
    ofBool_bit, opd, opd_byte, -BitVec.getLsbD_eq_getElem]
  intro h
  have h2 := congrArg (fun v => v.getLsbD 0) h
  simp (disch := decide) [BitVec.getLsbD_extractLsb', cat_bit_low, cat_bit_high, -BitVec.getLsbD_eq_getElem] at h2

theorem Laws.Encoding.cld (sw : Bool) (a : Operand) (nm1 : BitVec 4) (ra : BitVec 4) : Laws.Encoding.Statement (.cld sw a nm1 ra) := by
  intro x h
  simp only [encode, Option.some.injEq] at h
  subst h
  simp (disch := decide) [decode, wordOf, cat_low, cat_high, cat_bit_low, cat_bit_high, decodeArraySystem,
    ofBool_bit, opd, opd_byte, -BitVec.getLsbD_eq_getElem]

theorem Laws.Encoding.cst (sw : Bool) (a : Operand) (nm1 : BitVec 4) (ra : BitVec 4) : Laws.Encoding.Statement (.cst sw a nm1 ra) := by
  intro x h
  simp only [encode, Option.some.injEq] at h
  subst h
  simp (disch := decide) [decode, wordOf, cat_low, cat_high, cat_bit_low, cat_bit_high, decodeArraySystem,
    ofBool_bit, opd, opd_byte, -BitVec.getLsbD_eq_getElem]

theorem Laws.Encoding.spl (sw : Bool) (d : Operand) (a : Operand) (half : Bool) (acc : Bool) (nm1 : BitVec 5) : Laws.Encoding.Statement (.spl sw d a half acc nm1) := by
  intro x h
  simp only [encode, Option.some.injEq] at h
  subst h
  simp (disch := decide) [decode, wordOf, cat_low, cat_high, cat_bit_low, cat_bit_high, decodeArraySystem,
    ofBool_bit, opd, opd_byte, -BitVec.getLsbD_eq_getElem]

theorem Laws.Encoding.spld (sw : Bool) (d : Operand) (a : Operand) (half : Bool) (acc : Bool) (nm1 : BitVec 5) : Laws.Encoding.Statement (.spld sw d a half acc nm1) := by
  intro x h
  simp only [encode, Option.some.injEq] at h
  subst h
  simp (disch := decide) [decode, wordOf, cat_low, cat_high, cat_bit_low, cat_bit_high, decodeArraySystem,
    ofBool_bit, opd, opd_byte, -BitVec.getLsbD_eq_getElem]

theorem Laws.Encoding.splg (sw : Bool) (d : Operand) (a : Operand) (half : Bool) (zero : Bool) (nm1 : BitVec 5) : Laws.Encoding.Statement (.splg sw d a half zero nm1) := by
  intro x h
  simp only [encode, Option.some.injEq] at h
  subst h
  simp (disch := decide) [decode, wordOf, cat_low, cat_high, cat_bit_low, cat_bit_high, decodeArraySystem,
    ofBool_bit, opd, opd_byte, -BitVec.getLsbD_eq_getElem]

theorem Laws.Encoding.gref (sw : Bool) (set : BitVec 4) : Laws.Encoding.Statement (.gref sw set) := by
  intro x h
  simp only [encode, Option.some.injEq] at h
  subst h
  simp (disch := decide) [decode, wordOf, cat_low, cat_high, cat_bit_low, cat_bit_high, decodeArraySystem,
    ofBool_bit, opd, opd_byte, -BitVec.getLsbD_eq_getElem]

theorem Laws.Encoding.send (sw : Bool) (a : Operand) (half : Bool) (chan : BitVec 4) : Laws.Encoding.Statement (.send sw a half chan) := by
  intro x h
  simp only [encode, Option.some.injEq] at h
  subst h
  simp (disch := decide) [decode, wordOf, cat_low, cat_high, cat_bit_low, cat_bit_high, decodeArraySystem,
    ofBool_bit, opd, opd_byte, -BitVec.getLsbD_eq_getElem]

theorem Laws.Encoding.recv (sw : Bool) (d : Operand) (half : Bool) (chan : BitVec 4) : Laws.Encoding.Statement (.recv sw d half chan) := by
  intro x h
  simp only [encode, Option.some.injEq] at h
  subst h
  simp (disch := decide) [decode, wordOf, cat_low, cat_high, cat_bit_low, cat_bit_high, decodeArraySystem,
    ofBool_bit, opd, opd_byte, -BitVec.getLsbD_eq_getElem]

theorem Laws.Encoding.nred (sw : Bool) (d : Operand) (a : Operand) (tree : BitVec 3) (fn : BitVec 3) : Laws.Encoding.Statement (.nred sw d a tree fn) := by
  intro x h
  simp only [encode, Option.some.injEq] at h
  subst h
  simp (disch := decide) [decode, wordOf, cat_low, cat_high, cat_bit_low, cat_bit_high, decodeArraySystem,
    ofBool_bit, opd, opd_byte, -BitVec.getLsbD_eq_getElem]

theorem Laws.Encoding.snapStart (sw : Bool) (d : Operand) (incr : Bool) (dev : Bool) : Laws.Encoding.Statement (.snapStart sw d incr dev) := by
  intro x h
  simp only [encode, Option.some.injEq] at h
  subst h
  simp (disch := decide) [decode, wordOf, cat_low, cat_high, cat_bit_low, cat_bit_high, decodeArraySystem,
    ofBool_bit, opd, opd_byte, -BitVec.getLsbD_eq_getElem]

theorem Laws.Encoding.snapQuery (sw : Bool) (d : Operand) : Laws.Encoding.Statement (.snapQuery sw d) := by
  intro x h
  simp only [encode, Option.some.injEq] at h
  subst h
  simp (disch := decide) [decode, wordOf, cat_low, cat_high, cat_bit_low, cat_bit_high, decodeArraySystem,
    ofBool_bit, opd, opd_byte, -BitVec.getLsbD_eq_getElem]

theorem Laws.Encoding.snapRelease (sw : Bool) (d : Operand) : Laws.Encoding.Statement (.snapRelease sw d) := by
  intro x h
  simp only [encode, Option.some.injEq] at h
  subst h
  simp (disch := decide) [decode, wordOf, cat_low, cat_high, cat_bit_low, cat_bit_high, decodeArraySystem,
    ofBool_bit, opd, opd_byte, -BitVec.getLsbD_eq_getElem]

theorem Laws.Encoding.launch (sw : Bool) (a : Operand) : Laws.Encoding.Statement (.launch sw a) := by
  intro x h
  simp only [encode, Option.some.injEq] at h
  subst h
  simp (disch := decide) [decode, wordOf, cat_low, cat_high, cat_bit_low, cat_bit_high, decodeArraySystem,
    ofBool_bit, opd, opd_byte, -BitVec.getLsbD_eq_getElem]

theorem Laws.Encoding.idem (sw : Bool) : Laws.Encoding.Statement (.idem sw) := by
  intro x h
  simp only [encode, Option.some.injEq] at h
  subst h
  simp (disch := decide) [decode, wordOf, cat_low, cat_high, cat_bit_low, cat_bit_high, decodeArraySystem,
    ofBool_bit, opd, opd_byte, -BitVec.getLsbD_eq_getElem]

theorem Laws.Encoding.chkpt (sw : Bool) : Laws.Encoding.Statement (.chkpt sw) := by
  intro x h
  simp only [encode, Option.some.injEq] at h
  subst h
  simp (disch := decide) [decode, wordOf, cat_low, cat_high, cat_bit_low, cat_bit_high, decodeArraySystem,
    ofBool_bit, opd, opd_byte, -BitVec.getLsbD_eq_getElem]

theorem Laws.Encoding.pdis (sw : Bool) : Laws.Encoding.Statement (.pdis sw) := by
  intro x h
  simp only [encode, Option.some.injEq] at h
  subst h
  simp (disch := decide) [decode, wordOf, cat_low, cat_high, cat_bit_low, cat_bit_high, decodeArraySystem,
    ofBool_bit, opd, opd_byte, -BitVec.getLsbD_eq_getElem]

theorem Laws.Encoding.pen (sw : Bool) : Laws.Encoding.Statement (.pen sw) := by
  intro x h
  simp only [encode, Option.some.injEq] at h
  subst h
  simp (disch := decide) [decode, wordOf, cat_low, cat_high, cat_bit_low, cat_bit_high, decodeArraySystem,
    ofBool_bit, opd, opd_byte, -BitVec.getLsbD_eq_getElem]

theorem Laws.Encoding.bkpt (sw : Bool) (code : BitVec 8) : Laws.Encoding.Statement (.bkpt sw code) := by
  intro x h
  simp only [encode, Option.some.injEq] at h
  subst h
  simp (disch := decide) [decode, wordOf, cat_low, cat_high, cat_bit_low, cat_bit_high, decodeArraySystem,
    ofBool_bit, opd, opd_byte, -BitVec.getLsbD_eq_getElem]

theorem Laws.Encoding.tlbi (sw : Bool) (d : Operand) (a : Operand) : Laws.Encoding.Statement (.tlbi sw d a) := by
  intro x h
  simp only [encode, Option.some.injEq] at h
  subst h
  simp (disch := decide) [decode, wordOf, cat_low, cat_high, cat_bit_low, cat_bit_high, decodeArraySystem,
    ofBool_bit, opd, opd_byte, -BitVec.getLsbD_eq_getElem]

theorem Laws.Encoding.fhget (sw : Bool) (d : Operand) (wait : Bool) : Laws.Encoding.Statement (.fhget sw d wait) := by
  intro x h
  simp only [encode, Option.some.injEq] at h
  subst h
  simp (disch := decide) [decode, wordOf, cat_low, cat_high, cat_bit_low, cat_bit_high, decodeArraySystem,
    ofBool_bit, opd, opd_byte, -BitVec.getLsbD_eq_getElem]

theorem Laws.Encoding.fhdone (sw : Bool) (d : Operand) (a : Operand) : Laws.Encoding.Statement (.fhdone sw d a) := by
  intro x h
  simp only [encode, Option.some.injEq] at h
  subst h
  simp (disch := decide) [decode, wordOf, cat_low, cat_high, cat_bit_low, cat_bit_high, decodeArraySystem,
    ofBool_bit, opd, opd_byte, -BitVec.getLsbD_eq_getElem]

theorem Laws.Encoding.swr (sw : Bool) (d : Operand) (a : Operand) : Laws.Encoding.Statement (.swr sw d a) := by
  intro x h
  simp only [encode, Option.some.injEq] at h
  subst h
  simp (disch := decide) [decode, wordOf, cat_low, cat_high, cat_bit_low, cat_bit_high, decodeArraySystem,
    ofBool_bit, opd, opd_byte, -BitVec.getLsbD_eq_getElem]

theorem Laws.Encoding.rtt (sw : Bool) (a : Operand) : Laws.Encoding.Statement (.rtt sw a) := by
  intro x h
  simp only [encode, Option.some.injEq] at h
  subst h
  simp (disch := decide) [decode, wordOf, cat_low, cat_high, cat_bit_low, cat_bit_high, decodeArraySystem,
    ofBool_bit, opd, opd_byte, -BitVec.getLsbD_eq_getElem]

theorem Laws.Encoding.illegalWord (w : Word) : Laws.Encoding.Statement (.illegalWord w) := by
  intro x h
  simp [encode] at h

theorem Laws.Encoding.issueWindow (core : Nat) (pipe : Nat) : Laws.Encoding.Statement (.issueWindow core pipe) := by
  intro x h
  simp [encode] at h

theorem Laws.Encoding.promotion (r : WarpRef) : Laws.Encoding.Statement (.promotion r) := by
  intro x h
  simp [encode] at h

theorem Laws.Encoding.variableLatencyResult (r : WarpRef) (id : Nat) : Laws.Encoding.Statement (.variableLatencyResult r id) := by
  intro x h
  simp [encode] at h

theorem Laws.Encoding.instructionFetch (r : WarpRef) : Laws.Encoding.Statement (.instructionFetch r) := by
  intro x h
  simp [encode] at h

theorem Laws.Encoding.runAheadRollback (core : Nat) : Laws.Encoding.Statement (.runAheadRollback core) := by
  intro x h
  simp [encode] at h

theorem Laws.Encoding.sheafPost (core : Nat) : Laws.Encoding.Statement (.sheafPost core) := by
  intro x h
  simp [encode] at h

theorem Laws.Encoding.tableWalk (core : Nat) (ctx : Nat) (va : Nat) (acc : Access) : Laws.Encoding.Statement (.tableWalk core ctx va acc) := by
  intro x h
  simp [encode] at h

theorem Laws.Encoding.tlbiPerformed (id : Nat) : Laws.Encoding.Statement (.tlbiPerformed id) := by
  intro x h
  simp [encode] at h

theorem Laws.Encoding.dispatchQueueEntry (vf : Nat) (q : Nat) : Laws.Encoding.Statement (.dispatchQueueEntry vf q) := by
  intro x h
  simp [encode] at h

theorem Laws.Encoding.dependenceReread (launch : Nat) : Laws.Encoding.Statement (.dependenceReread launch) := by
  intro x h
  simp [encode] at h

theorem Laws.Encoding.blockStart (launch : Nat) (unit : Nat) : Laws.Encoding.Statement (.blockStart launch unit) := by
  intro x h
  simp [encode] at h

theorem Laws.Encoding.gridCompletion (grid : Nat) : Laws.Encoding.Statement (.gridCompletion grid) := by
  intro x h
  simp [encode] at h

theorem Laws.Encoding.sliceAccess (id : Nat) : Laws.Encoding.Statement (.sliceAccess id) := by
  intro x h
  simp [encode] at h

theorem Laws.Encoding.relIncrement (id : Nat) : Laws.Encoding.Statement (.relIncrement id) := by
  intro x h
  simp [encode] at h

theorem Laws.Encoding.remoteAccess (q : RemoteReq) : Laws.Encoding.Statement (.remoteAccess q) := by
  intro x h
  simp [encode] at h

theorem Laws.Encoding.remoteAck (id : Nat) (status : AckStatus) (data : Wide) : Laws.Encoding.Statement (.remoteAck id status data) := by
  intro x h
  simp [encode] at h

theorem Laws.Encoding.fabricForward (dev : Nat) (payload : Nat) : Laws.Encoding.Statement (.fabricForward dev payload) := by
  intro x h
  simp [encode] at h

theorem Laws.Encoding.copyChunk (cmd : Nat) (count : Nat) : Laws.Encoding.Statement (.copyChunk cmd count) := by
  intro x h
  simp [encode] at h

theorem Laws.Encoding.batchComplete (r : WarpRef) (id : Nat) : Laws.Encoding.Statement (.batchComplete r id) := by
  intro x h
  simp [encode] at h

theorem Laws.Encoding.matrixOctetOperation (core : Nat) : Laws.Encoding.Statement (.matrixOctetOperation core) := by
  intro x h
  simp [encode] at h

theorem Laws.Encoding.splineExecution (core : Nat) : Laws.Encoding.Statement (.splineExecution core) := by
  intro x h
  simp [encode] at h

theorem Laws.Encoding.roundComplete (q : RoundRef) : Laws.Encoding.Statement (.roundComplete q) := by
  intro x h
  simp [encode] at h

theorem Laws.Encoding.barrierComplete (q : BarRef) : Laws.Encoding.Statement (.barrierComplete q) := by
  intro x h
  simp [encode] at h

theorem Laws.Encoding.registerCopyUpdate (grid : Nat) (unit : Option Nat) (core : Nat) : Laws.Encoding.Statement (.registerCopyUpdate grid unit core) := by
  intro x h
  simp [encode] at h

theorem Laws.Encoding.messageLanding (id : Nat) : Laws.Encoding.Statement (.messageLanding id) := by
  intro x h
  simp [encode] at h

theorem Laws.Encoding.creditReturn (id : Nat) : Laws.Encoding.Statement (.creditReturn id) := by
  intro x h
  simp [encode] at h

theorem Laws.Encoding.treeInput (id : Nat) : Laws.Encoding.Statement (.treeInput id) := by
  intro x h
  simp [encode] at h

theorem Laws.Encoding.treeTimeout (grid : Nat) (tree : Nat) (round : Nat) (pos : Nat) : Laws.Encoding.Statement (.treeTimeout grid tree round pos) := by
  intro x h
  simp [encode] at h

theorem Laws.Encoding.treeResult (r : WarpRef) : Laws.Encoding.Statement (.treeResult r) := by
  intro x h
  simp [encode] at h

theorem Laws.Encoding.stopRecord (ctx : Nat) : Laws.Encoding.Statement (.stopRecord ctx) := by
  intro x h
  simp [encode] at h

theorem Laws.Encoding.stopQueueConsumed (ctx : Nat) (v : Dword) : Laws.Encoding.Statement (.stopQueueConsumed ctx v) := by
  intro x h
  simp [encode] at h

theorem Laws.Encoding.watchdogExpiry (ctx : Nat) : Laws.Encoding.Statement (.watchdogExpiry ctx) := by
  intro x h
  simp [encode] at h

theorem Laws.Encoding.preemptOverrun (r : WarpRef) : Laws.Encoding.Statement (.preemptOverrun r) := by
  intro x h
  simp [encode] at h

theorem Laws.Encoding.timeSliceExpiry (core : Nat) (ctx : Nat) : Laws.Encoding.Statement (.timeSliceExpiry core ctx) := by
  intro x h
  simp [encode] at h

theorem Laws.Encoding.preemption (core : Nat) (spill : Bool) : Laws.Encoding.Statement (.preemption core spill) := by
  intro x h
  simp [encode] at h

theorem Laws.Encoding.warpRestore (r : WarpRef) : Laws.Encoding.Statement (.warpRestore r) := by
  intro x h
  simp [encode] at h

theorem Laws.Encoding.debugHalt (ctx : Nat) : Laws.Encoding.Statement (.debugHalt ctx) := by
  intro x h
  simp [encode] at h

theorem Laws.Encoding.killWriteTimeout (ctx : Nat) : Laws.Encoding.Statement (.killWriteTimeout ctx) := by
  intro x h
  simp [encode] at h

theorem Laws.Encoding.windowMatch (r : WarpRef) (engine : Bool) : Laws.Encoding.Statement (.windowMatch r engine) := by
  intro x h
  simp [encode] at h

theorem Laws.Encoding.pairPerformed (r : WarpRef) : Laws.Encoding.Statement (.pairPerformed r) := by
  intro x h
  simp [encode] at h

theorem Laws.Encoding.generationGrant (id : Nat) : Laws.Encoding.Statement (.generationGrant id) := by
  intro x h
  simp [encode] at h

theorem Laws.Encoding.cutComplete (id : Nat) : Laws.Encoding.Statement (.cutComplete id) := by
  intro x h
  simp [encode] at h

theorem Laws.Encoding.granaryClaim (id : Nat) : Laws.Encoding.Statement (.granaryClaim id) := by
  intro x h
  simp [encode] at h

theorem Laws.Encoding.wainStart (vf : Nat) : Laws.Encoding.Statement (.wainStart vf) := by
  intro x h
  simp [encode] at h

theorem Laws.Encoding.wainDrainGranule (vf : Nat) : Laws.Encoding.Statement (.wainDrainGranule vf) := by
  intro x h
  simp [encode] at h

theorem Laws.Encoding.generationRestore (vf : Nat) : Laws.Encoding.Statement (.generationRestore vf) := by
  intro x h
  simp [encode] at h

theorem Laws.Encoding.partitionControlWrite (vf : Nat) (off : Nat) (v : Dword) : Laws.Encoding.Statement (.partitionControlWrite vf off v) := by
  intro x h
  simp [encode] at h

theorem Laws.Encoding.errorLogRecord : Laws.Encoding.Statement .errorLogRecord := by
  intro x h
  simp [encode] at h

theorem Laws.Encoding.errorLogConfigWrite (off : Nat) (v : Dword) : Laws.Encoding.Statement (.errorLogConfigWrite off v) := by
  intro x h
  simp [encode] at h

theorem Laws.Encoding.errorLogHeadWrite (v : Dword) : Laws.Encoding.Statement (.errorLogHeadWrite v) := by
  intro x h
  simp [encode] at h

theorem Laws.Encoding.linkRetry (domain : Domain) (loc : Nat) : Laws.Encoding.Statement (.linkRetry domain loc) := by
  intro x h
  simp [encode] at h

theorem Laws.Encoding.linkRetrain (domain : Domain) (loc : Nat) (ok : Bool) : Laws.Encoding.Statement (.linkRetrain domain loc ok) := by
  intro x h
  simp [encode] at h

theorem Laws.Encoding.gleanerRead (chan : Nat) : Laws.Encoding.Statement (.gleanerRead chan) := by
  intro x h
  simp [encode] at h

theorem Laws.Encoding.scrubWriteback (id : Nat) : Laws.Encoding.Statement (.scrubWriteback id) := by
  intro x h
  simp [encode] at h

theorem Laws.Encoding.spareBank (chan : Nat) : Laws.Encoding.Statement (.spareBank chan) := by
  intro x h
  simp [encode] at h

theorem Laws.Encoding.infieldTest (cluster : Nat) : Laws.Encoding.Statement (.infieldTest cluster) := by
  intro x h
  simp [encode] at h

theorem Laws.Encoding.testResult (die : Nat) (pass : Bool) : Laws.Encoding.Statement (.testResult die pass) := by
  intro x h
  simp [encode] at h

theorem Laws.Encoding.hostMemoryAccess (vf : Nat) (off : Nat) (size : Nat) (write : Bool) (v : Dword) : Laws.Encoding.Statement (.hostMemoryAccess vf off size write v) := by
  intro x h
  simp [encode] at h

theorem Laws.Encoding.functionRecordWrite (vf : Nat) (off : Nat) (v : Dword) : Laws.Encoding.Statement (.functionRecordWrite vf off v) := by
  intro x h
  simp [encode] at h

theorem Laws.Encoding.functionReset (vf : Nat) : Laws.Encoding.Statement (.functionReset vf) := by
  intro x h
  simp [encode] at h

theorem Laws.Encoding.functionLevelReset (vf : Nat) : Laws.Encoding.Statement (.functionLevelReset vf) := by
  intro x h
  simp [encode] at h

theorem Laws.Encoding.contextCreate (vf : Nat) (n : Nat) (v : Dword) : Laws.Encoding.Statement (.contextCreate vf n v) := by
  intro x h
  simp [encode] at h

theorem Laws.Encoding.contextDestroy (vf : Nat) (n : Nat) (v : Dword) : Laws.Encoding.Statement (.contextDestroy vf n v) := by
  intro x h
  simp [encode] at h

theorem Laws.Encoding.queueConfigWrite (vf : Nat) (q : Nat) (v : Dword) : Laws.Encoding.Statement (.queueConfigWrite vf q v) := by
  intro x h
  simp [encode] at h

theorem Laws.Encoding.queueDoorbell (vf : Nat) (q : Nat) (v : Word) : Laws.Encoding.Statement (.queueDoorbell vf q v) := by
  intro x h
  simp [encode] at h

theorem Laws.Encoding.attestationRequest (requester : Nat) (nonce : BitVec 384) : Laws.Encoding.Statement (.attestationRequest requester nonce) := by
  intro x h
  simp [encode] at h

theorem Laws.Encoding.debugStateWrite (tenant : Bool) : Laws.Encoding.Statement (.debugStateWrite tenant) := by
  intro x h
  simp [encode] at h

theorem Laws.Encoding.debugUnlock (token : BitVec 768) : Laws.Encoding.Statement (.debugUnlock token) := by
  intro x h
  simp [encode] at h

theorem Laws.Encoding.powerControlWrite (v : Dword) : Laws.Encoding.Statement (.powerControlWrite v) := by
  intro x h
  simp [encode] at h

theorem Laws.Encoding.idleEntry (unit : PowerUnit) : Laws.Encoding.Statement (.idleEntry unit) := by
  intro x h
  simp [encode] at h

theorem Laws.Encoding.idleExit (unit : PowerUnit) : Laws.Encoding.Statement (.idleExit unit) := by
  intro x h
  simp [encode] at h

theorem Laws.Encoding.throttle (die : Nat) : Laws.Encoding.Statement (.throttle die) := by
  intro x h
  simp [encode] at h

theorem Laws.Encoding.throttleRelease (die : Nat) : Laws.Encoding.Statement (.throttleRelease die) := by
  intro x h
  simp [encode] at h

theorem Laws.Encoding.thermalStop (temp : BitVec 8) : Laws.Encoding.Statement (.thermalStop temp) := by
  intro x h
  simp [encode] at h

theorem Laws.Encoding.partReset (powerOn : Bool) : Laws.Encoding.Statement (.partReset powerOn) := by
  intro x h
  simp [encode] at h

theorem Laws.Encoding.bootStep (result : BootResult) : Laws.Encoding.Statement (.bootStep result) := by
  intro x h
  simp [encode] at h

theorem Laws.Encoding.bootStepTimeout : Laws.Encoding.Statement .bootStepTimeout := by
  intro x h
  simp [encode] at h

theorem Laws.Encoding.sidebandRead (what : SidebandItem) : Laws.Encoding.Statement (.sidebandRead what) := by
  intro x h
  simp [encode] at h

theorem Laws.Encoding.sidebandWriteCap (v : BitVec 16) : Laws.Encoding.Statement (.sidebandWriteCap v) := by
  intro x h
  simp [encode] at h

theorem Laws.Encoding.sidebandWriteTolerance (v : Word) : Laws.Encoding.Statement (.sidebandWriteTolerance v) := by
  intro x h
  simp [encode] at h

theorem Laws.Encoding.sidebandReset : Laws.Encoding.Statement .sidebandReset := by
  intro x h
  simp [encode] at h

theorem Laws.Encoding.sidebandClearThermalStop : Laws.Encoding.Statement .sidebandClearThermalStop := by
  intro x h
  simp [encode] at h

theorem Laws.Encoding.sidebandWake : Laws.Encoding.Statement .sidebandWake := by
  intro x h
  simp [encode] at h

theorem Laws.Encoding.registerWrite (win : Window) (off : Nat) (v : Dword) : Laws.Encoding.Statement (.registerWrite win off v) := by
  intro x h
  simp [encode] at h

theorem Laws.Encoding.frozenImageReleaseRequest (vf : Nat) : Laws.Encoding.Statement (.frozenImageReleaseRequest vf) := by
  intro x h
  simp [encode] at h

end Sys2Proof
end

