-- ==== Sys2Proof/Laws/State.lean ====
section
/-!
SUPPORT. One lemma per field for each update of a part of the state.
-/

namespace Sys2Proof.Machine

/-! ## updBlock -/

@[simp] theorem State.updBlock_now (s : State) (id : Nat) (f : Block → Block) : (s.updBlock id f).now = s.now := rfl
@[simp] theorem State.updBlock_nextId (s : State) (id : Nat) (f : Block → Block) : (s.updBlock id f).nextId = s.nextId := rfl
@[simp] theorem State.updBlock_mem (s : State) (id : Nat) (f : Block → Block) : (s.updBlock id f).mem = s.mem := rfl
@[simp] theorem State.updBlock_host (s : State) (id : Nat) (f : Block → Block) : (s.updBlock id f).host = s.host := rfl
@[simp] theorem State.updBlock_low (s : State) (id : Nat) (f : Block → Block) : (s.updBlock id f).low = s.low := rfl
@[simp] theorem State.updBlock_dev (s : State) (id : Nat) (f : Block → Block) : (s.updBlock id f).dev = s.dev := rfl
@[simp] theorem State.updBlock_vfs (s : State) (id : Nat) (f : Block → Block) : (s.updBlock id f).vfs = s.vfs := rfl
@[simp] theorem State.updBlock_ctxs (s : State) (id : Nat) (f : Block → Block) : (s.updBlock id f).ctxs = s.ctxs := rfl
@[simp] theorem State.updBlock_launches (s : State) (id : Nat) (f : Block → Block) : (s.updBlock id f).launches = s.launches := rfl
@[simp] theorem State.updBlock_grids (s : State) (id : Nat) (f : Block → Block) : (s.updBlock id f).grids = s.grids := rfl
@[simp] theorem State.updBlock_blocks (s : State) (id : Nat) (f : Block → Block) : (s.updBlock id f).blocks =
    s.blocks.map fun b => if b.id == id then f b else b := rfl
@[simp] theorem State.updBlock_cores (s : State) (id : Nat) (f : Block → Block) : (s.updBlock id f).cores = s.cores := rfl
@[simp] theorem State.updBlock_clusters (s : State) (id : Nat) (f : Block → Block) : (s.updBlock id f).clusters = s.clusters := rfl
@[simp] theorem State.updBlock_accs (s : State) (id : Nat) (f : Block → Block) : (s.updBlock id f).accs = s.accs := rfl
@[simp] theorem State.updBlock_cmds (s : State) (id : Nat) (f : Block → Block) : (s.updBlock id f).cmds = s.cmds := rfl
@[simp] theorem State.updBlock_messages (s : State) (id : Nat) (f : Block → Block) : (s.updBlock id f).messages = s.messages := rfl
@[simp] theorem State.updBlock_credits (s : State) (id : Nat) (f : Block → Block) : (s.updBlock id f).credits = s.credits := rfl
@[simp] theorem State.updBlock_treePkts (s : State) (id : Nat) (f : Block → Block) : (s.updBlock id f).treePkts = s.treePkts := rfl
@[simp] theorem State.updBlock_snaps (s : State) (id : Nat) (f : Block → Block) : (s.updBlock id f).snaps = s.snaps := rfl
@[simp] theorem State.updBlock_tlbis (s : State) (id : Nat) (f : Block → Block) : (s.updBlock id f).tlbis = s.tlbis := rfl
@[simp] theorem State.updBlock_scrubs (s : State) (id : Nat) (f : Block → Block) : (s.updBlock id f).scrubs = s.scrubs := rfl
@[simp] theorem State.updBlock_cancelled (s : State) (id : Nat) (f : Block → Block) : (s.updBlock id f).cancelled = s.cancelled := rfl
@[simp] theorem State.updBlock_code (s : State) (id : Nat) (f : Block → Block) : (s.updBlock id f).code = s.code := rfl
@[simp] theorem State.updBlock_sram (s : State) (id : Nat) (f : Block → Block) : (s.updBlock id f).sram = s.sram := rfl
@[simp] theorem State.updBlock_upsets (s : State) (id : Nat) (f : Block → Block) : (s.updBlock id f).upsets = s.upsets := rfl
@[simp] theorem State.updBlock_cur (s : State) (id : Nat) (f : Block → Block) : (s.updBlock id f).cur = s.cur := rfl
@[simp] theorem State.updBlock_issue (s : State) (id : Nat) (f : Block → Block) : (s.updBlock id f).issue = s.issue := rfl
@[simp] theorem State.updBlock_packed (s : State) (id : Nat) (f : Block → Block) : (s.updBlock id f).packed = s.packed := rfl
@[simp] theorem State.updBlock_stirred (s : State) (id : Nat) (f : Block → Block) : (s.updBlock id f).stirred = s.stirred := rfl
@[simp] theorem State.updBlock_cursor (s : State) (id : Nat) (f : Block → Block) : (s.updBlock id f).cursor = s.cursor := rfl
@[simp] theorem State.updBlock_agenda (s : State) (id : Nat) (f : Block → Block) : (s.updBlock id f).agenda = s.agenda := rfl

/-! ## updWarp -/

@[simp] theorem State.updWarp_now (s : State) (r : WarpRef) (f : Warp → Warp) : (s.updWarp r f).now = s.now := rfl
@[simp] theorem State.updWarp_nextId (s : State) (r : WarpRef) (f : Warp → Warp) : (s.updWarp r f).nextId = s.nextId := rfl
@[simp] theorem State.updWarp_mem (s : State) (r : WarpRef) (f : Warp → Warp) : (s.updWarp r f).mem = s.mem := rfl
@[simp] theorem State.updWarp_host (s : State) (r : WarpRef) (f : Warp → Warp) : (s.updWarp r f).host = s.host := rfl
@[simp] theorem State.updWarp_low (s : State) (r : WarpRef) (f : Warp → Warp) : (s.updWarp r f).low = s.low := rfl
@[simp] theorem State.updWarp_dev (s : State) (r : WarpRef) (f : Warp → Warp) : (s.updWarp r f).dev = s.dev := rfl
@[simp] theorem State.updWarp_vfs (s : State) (r : WarpRef) (f : Warp → Warp) : (s.updWarp r f).vfs = s.vfs := rfl
@[simp] theorem State.updWarp_ctxs (s : State) (r : WarpRef) (f : Warp → Warp) : (s.updWarp r f).ctxs = s.ctxs := rfl
@[simp] theorem State.updWarp_launches (s : State) (r : WarpRef) (f : Warp → Warp) : (s.updWarp r f).launches = s.launches := rfl
@[simp] theorem State.updWarp_grids (s : State) (r : WarpRef) (f : Warp → Warp) : (s.updWarp r f).grids = s.grids := rfl
@[simp] theorem State.updWarp_cores (s : State) (r : WarpRef) (f : Warp → Warp) : (s.updWarp r f).cores = s.cores := rfl
@[simp] theorem State.updWarp_clusters (s : State) (r : WarpRef) (f : Warp → Warp) : (s.updWarp r f).clusters = s.clusters := rfl
@[simp] theorem State.updWarp_accs (s : State) (r : WarpRef) (f : Warp → Warp) : (s.updWarp r f).accs = s.accs := rfl
@[simp] theorem State.updWarp_cmds (s : State) (r : WarpRef) (f : Warp → Warp) : (s.updWarp r f).cmds = s.cmds := rfl
@[simp] theorem State.updWarp_messages (s : State) (r : WarpRef) (f : Warp → Warp) : (s.updWarp r f).messages = s.messages := rfl
@[simp] theorem State.updWarp_credits (s : State) (r : WarpRef) (f : Warp → Warp) : (s.updWarp r f).credits = s.credits := rfl
@[simp] theorem State.updWarp_treePkts (s : State) (r : WarpRef) (f : Warp → Warp) : (s.updWarp r f).treePkts = s.treePkts := rfl
@[simp] theorem State.updWarp_snaps (s : State) (r : WarpRef) (f : Warp → Warp) : (s.updWarp r f).snaps = s.snaps := rfl
@[simp] theorem State.updWarp_tlbis (s : State) (r : WarpRef) (f : Warp → Warp) : (s.updWarp r f).tlbis = s.tlbis := rfl
@[simp] theorem State.updWarp_scrubs (s : State) (r : WarpRef) (f : Warp → Warp) : (s.updWarp r f).scrubs = s.scrubs := rfl
@[simp] theorem State.updWarp_cancelled (s : State) (r : WarpRef) (f : Warp → Warp) : (s.updWarp r f).cancelled = s.cancelled := rfl
@[simp] theorem State.updWarp_code (s : State) (r : WarpRef) (f : Warp → Warp) : (s.updWarp r f).code = s.code := rfl
@[simp] theorem State.updWarp_sram (s : State) (r : WarpRef) (f : Warp → Warp) : (s.updWarp r f).sram = s.sram := rfl
@[simp] theorem State.updWarp_upsets (s : State) (r : WarpRef) (f : Warp → Warp) : (s.updWarp r f).upsets = s.upsets := rfl
@[simp] theorem State.updWarp_cur (s : State) (r : WarpRef) (f : Warp → Warp) : (s.updWarp r f).cur = s.cur := rfl
@[simp] theorem State.updWarp_issue (s : State) (r : WarpRef) (f : Warp → Warp) : (s.updWarp r f).issue = s.issue := rfl
@[simp] theorem State.updWarp_packed (s : State) (r : WarpRef) (f : Warp → Warp) : (s.updWarp r f).packed = s.packed := rfl
@[simp] theorem State.updWarp_stirred (s : State) (r : WarpRef) (f : Warp → Warp) : (s.updWarp r f).stirred = s.stirred := rfl
@[simp] theorem State.updWarp_cursor (s : State) (r : WarpRef) (f : Warp → Warp) : (s.updWarp r f).cursor = s.cursor := rfl
@[simp] theorem State.updWarp_agenda (s : State) (r : WarpRef) (f : Warp → Warp) : (s.updWarp r f).agenda = s.agenda := rfl

/-! ## updGrid -/

@[simp] theorem State.updGrid_now (s : State) (id : Nat) (f : Grid → Grid) : (s.updGrid id f).now = s.now := rfl
@[simp] theorem State.updGrid_nextId (s : State) (id : Nat) (f : Grid → Grid) : (s.updGrid id f).nextId = s.nextId := rfl
@[simp] theorem State.updGrid_mem (s : State) (id : Nat) (f : Grid → Grid) : (s.updGrid id f).mem = s.mem := rfl
@[simp] theorem State.updGrid_host (s : State) (id : Nat) (f : Grid → Grid) : (s.updGrid id f).host = s.host := rfl
@[simp] theorem State.updGrid_low (s : State) (id : Nat) (f : Grid → Grid) : (s.updGrid id f).low = s.low := rfl
@[simp] theorem State.updGrid_dev (s : State) (id : Nat) (f : Grid → Grid) : (s.updGrid id f).dev = s.dev := rfl
@[simp] theorem State.updGrid_vfs (s : State) (id : Nat) (f : Grid → Grid) : (s.updGrid id f).vfs = s.vfs := rfl
@[simp] theorem State.updGrid_ctxs (s : State) (id : Nat) (f : Grid → Grid) : (s.updGrid id f).ctxs = s.ctxs := rfl
@[simp] theorem State.updGrid_launches (s : State) (id : Nat) (f : Grid → Grid) : (s.updGrid id f).launches = s.launches := rfl
@[simp] theorem State.updGrid_grids (s : State) (id : Nat) (f : Grid → Grid) : (s.updGrid id f).grids =
    s.grids.map fun g => if g.id == id then f g else g := rfl
@[simp] theorem State.updGrid_blocks (s : State) (id : Nat) (f : Grid → Grid) : (s.updGrid id f).blocks = s.blocks := rfl
@[simp] theorem State.updGrid_cores (s : State) (id : Nat) (f : Grid → Grid) : (s.updGrid id f).cores = s.cores := rfl
@[simp] theorem State.updGrid_clusters (s : State) (id : Nat) (f : Grid → Grid) : (s.updGrid id f).clusters = s.clusters := rfl
@[simp] theorem State.updGrid_accs (s : State) (id : Nat) (f : Grid → Grid) : (s.updGrid id f).accs = s.accs := rfl
@[simp] theorem State.updGrid_cmds (s : State) (id : Nat) (f : Grid → Grid) : (s.updGrid id f).cmds = s.cmds := rfl
@[simp] theorem State.updGrid_messages (s : State) (id : Nat) (f : Grid → Grid) : (s.updGrid id f).messages = s.messages := rfl
@[simp] theorem State.updGrid_credits (s : State) (id : Nat) (f : Grid → Grid) : (s.updGrid id f).credits = s.credits := rfl
@[simp] theorem State.updGrid_treePkts (s : State) (id : Nat) (f : Grid → Grid) : (s.updGrid id f).treePkts = s.treePkts := rfl
@[simp] theorem State.updGrid_snaps (s : State) (id : Nat) (f : Grid → Grid) : (s.updGrid id f).snaps = s.snaps := rfl
@[simp] theorem State.updGrid_tlbis (s : State) (id : Nat) (f : Grid → Grid) : (s.updGrid id f).tlbis = s.tlbis := rfl
@[simp] theorem State.updGrid_scrubs (s : State) (id : Nat) (f : Grid → Grid) : (s.updGrid id f).scrubs = s.scrubs := rfl
@[simp] theorem State.updGrid_cancelled (s : State) (id : Nat) (f : Grid → Grid) : (s.updGrid id f).cancelled = s.cancelled := rfl
@[simp] theorem State.updGrid_code (s : State) (id : Nat) (f : Grid → Grid) : (s.updGrid id f).code = s.code := rfl
@[simp] theorem State.updGrid_sram (s : State) (id : Nat) (f : Grid → Grid) : (s.updGrid id f).sram = s.sram := rfl
@[simp] theorem State.updGrid_upsets (s : State) (id : Nat) (f : Grid → Grid) : (s.updGrid id f).upsets = s.upsets := rfl
@[simp] theorem State.updGrid_cur (s : State) (id : Nat) (f : Grid → Grid) : (s.updGrid id f).cur = s.cur := rfl
@[simp] theorem State.updGrid_issue (s : State) (id : Nat) (f : Grid → Grid) : (s.updGrid id f).issue = s.issue := rfl
@[simp] theorem State.updGrid_packed (s : State) (id : Nat) (f : Grid → Grid) : (s.updGrid id f).packed = s.packed := rfl
@[simp] theorem State.updGrid_stirred (s : State) (id : Nat) (f : Grid → Grid) : (s.updGrid id f).stirred = s.stirred := rfl
@[simp] theorem State.updGrid_cursor (s : State) (id : Nat) (f : Grid → Grid) : (s.updGrid id f).cursor = s.cursor := rfl
@[simp] theorem State.updGrid_agenda (s : State) (id : Nat) (f : Grid → Grid) : (s.updGrid id f).agenda = s.agenda := rfl

/-! ## updCtx -/

@[simp] theorem State.updCtx_now (s : State) (id : Nat) (f : Context → Context) : (s.updCtx id f).now = s.now := rfl
@[simp] theorem State.updCtx_nextId (s : State) (id : Nat) (f : Context → Context) : (s.updCtx id f).nextId = s.nextId := rfl
@[simp] theorem State.updCtx_mem (s : State) (id : Nat) (f : Context → Context) : (s.updCtx id f).mem = s.mem := rfl
@[simp] theorem State.updCtx_host (s : State) (id : Nat) (f : Context → Context) : (s.updCtx id f).host = s.host := rfl
@[simp] theorem State.updCtx_low (s : State) (id : Nat) (f : Context → Context) : (s.updCtx id f).low = s.low := rfl
@[simp] theorem State.updCtx_dev (s : State) (id : Nat) (f : Context → Context) : (s.updCtx id f).dev = s.dev := rfl
@[simp] theorem State.updCtx_vfs (s : State) (id : Nat) (f : Context → Context) : (s.updCtx id f).vfs = s.vfs := rfl
@[simp] theorem State.updCtx_ctxs (s : State) (id : Nat) (f : Context → Context) : (s.updCtx id f).ctxs =
    s.ctxs.map fun c => if c.id == id then f c else c := rfl
@[simp] theorem State.updCtx_launches (s : State) (id : Nat) (f : Context → Context) : (s.updCtx id f).launches = s.launches := rfl
@[simp] theorem State.updCtx_grids (s : State) (id : Nat) (f : Context → Context) : (s.updCtx id f).grids = s.grids := rfl
@[simp] theorem State.updCtx_blocks (s : State) (id : Nat) (f : Context → Context) : (s.updCtx id f).blocks = s.blocks := rfl
@[simp] theorem State.updCtx_cores (s : State) (id : Nat) (f : Context → Context) : (s.updCtx id f).cores = s.cores := rfl
@[simp] theorem State.updCtx_clusters (s : State) (id : Nat) (f : Context → Context) : (s.updCtx id f).clusters = s.clusters := rfl
@[simp] theorem State.updCtx_accs (s : State) (id : Nat) (f : Context → Context) : (s.updCtx id f).accs = s.accs := rfl
@[simp] theorem State.updCtx_cmds (s : State) (id : Nat) (f : Context → Context) : (s.updCtx id f).cmds = s.cmds := rfl
@[simp] theorem State.updCtx_messages (s : State) (id : Nat) (f : Context → Context) : (s.updCtx id f).messages = s.messages := rfl
@[simp] theorem State.updCtx_credits (s : State) (id : Nat) (f : Context → Context) : (s.updCtx id f).credits = s.credits := rfl
@[simp] theorem State.updCtx_treePkts (s : State) (id : Nat) (f : Context → Context) : (s.updCtx id f).treePkts = s.treePkts := rfl
@[simp] theorem State.updCtx_snaps (s : State) (id : Nat) (f : Context → Context) : (s.updCtx id f).snaps = s.snaps := rfl
@[simp] theorem State.updCtx_tlbis (s : State) (id : Nat) (f : Context → Context) : (s.updCtx id f).tlbis = s.tlbis := rfl
@[simp] theorem State.updCtx_scrubs (s : State) (id : Nat) (f : Context → Context) : (s.updCtx id f).scrubs = s.scrubs := rfl
@[simp] theorem State.updCtx_cancelled (s : State) (id : Nat) (f : Context → Context) : (s.updCtx id f).cancelled = s.cancelled := rfl
@[simp] theorem State.updCtx_code (s : State) (id : Nat) (f : Context → Context) : (s.updCtx id f).code = s.code := rfl
@[simp] theorem State.updCtx_sram (s : State) (id : Nat) (f : Context → Context) : (s.updCtx id f).sram = s.sram := rfl
@[simp] theorem State.updCtx_upsets (s : State) (id : Nat) (f : Context → Context) : (s.updCtx id f).upsets = s.upsets := rfl
@[simp] theorem State.updCtx_cur (s : State) (id : Nat) (f : Context → Context) : (s.updCtx id f).cur = s.cur := rfl
@[simp] theorem State.updCtx_issue (s : State) (id : Nat) (f : Context → Context) : (s.updCtx id f).issue = s.issue := rfl
@[simp] theorem State.updCtx_packed (s : State) (id : Nat) (f : Context → Context) : (s.updCtx id f).packed = s.packed := rfl
@[simp] theorem State.updCtx_stirred (s : State) (id : Nat) (f : Context → Context) : (s.updCtx id f).stirred = s.stirred := rfl
@[simp] theorem State.updCtx_cursor (s : State) (id : Nat) (f : Context → Context) : (s.updCtx id f).cursor = s.cursor := rfl
@[simp] theorem State.updCtx_agenda (s : State) (id : Nat) (f : Context → Context) : (s.updCtx id f).agenda = s.agenda := rfl

/-! ## updCore -/

@[simp] theorem State.updCore_now (s : State) (id : Nat) (f : Core → Core) : (s.updCore id f).now = s.now := rfl
@[simp] theorem State.updCore_nextId (s : State) (id : Nat) (f : Core → Core) : (s.updCore id f).nextId = s.nextId := rfl
@[simp] theorem State.updCore_mem (s : State) (id : Nat) (f : Core → Core) : (s.updCore id f).mem = s.mem := rfl
@[simp] theorem State.updCore_host (s : State) (id : Nat) (f : Core → Core) : (s.updCore id f).host = s.host := rfl
@[simp] theorem State.updCore_low (s : State) (id : Nat) (f : Core → Core) : (s.updCore id f).low = s.low := rfl
@[simp] theorem State.updCore_dev (s : State) (id : Nat) (f : Core → Core) : (s.updCore id f).dev = s.dev := rfl
@[simp] theorem State.updCore_vfs (s : State) (id : Nat) (f : Core → Core) : (s.updCore id f).vfs = s.vfs := rfl
@[simp] theorem State.updCore_ctxs (s : State) (id : Nat) (f : Core → Core) : (s.updCore id f).ctxs = s.ctxs := rfl
@[simp] theorem State.updCore_launches (s : State) (id : Nat) (f : Core → Core) : (s.updCore id f).launches = s.launches := rfl
@[simp] theorem State.updCore_grids (s : State) (id : Nat) (f : Core → Core) : (s.updCore id f).grids = s.grids := rfl
@[simp] theorem State.updCore_blocks (s : State) (id : Nat) (f : Core → Core) : (s.updCore id f).blocks = s.blocks := rfl
@[simp] theorem State.updCore_cores (s : State) (id : Nat) (f : Core → Core) : (s.updCore id f).cores =
    putBy Core.id (f (s.core id)) s.cores := rfl
@[simp] theorem State.updCore_clusters (s : State) (id : Nat) (f : Core → Core) : (s.updCore id f).clusters = s.clusters := rfl
@[simp] theorem State.updCore_accs (s : State) (id : Nat) (f : Core → Core) : (s.updCore id f).accs = s.accs := rfl
@[simp] theorem State.updCore_cmds (s : State) (id : Nat) (f : Core → Core) : (s.updCore id f).cmds = s.cmds := rfl
@[simp] theorem State.updCore_messages (s : State) (id : Nat) (f : Core → Core) : (s.updCore id f).messages = s.messages := rfl
@[simp] theorem State.updCore_credits (s : State) (id : Nat) (f : Core → Core) : (s.updCore id f).credits = s.credits := rfl
@[simp] theorem State.updCore_treePkts (s : State) (id : Nat) (f : Core → Core) : (s.updCore id f).treePkts = s.treePkts := rfl
@[simp] theorem State.updCore_snaps (s : State) (id : Nat) (f : Core → Core) : (s.updCore id f).snaps = s.snaps := rfl
@[simp] theorem State.updCore_tlbis (s : State) (id : Nat) (f : Core → Core) : (s.updCore id f).tlbis = s.tlbis := rfl
@[simp] theorem State.updCore_scrubs (s : State) (id : Nat) (f : Core → Core) : (s.updCore id f).scrubs = s.scrubs := rfl
@[simp] theorem State.updCore_cancelled (s : State) (id : Nat) (f : Core → Core) : (s.updCore id f).cancelled = s.cancelled := rfl
@[simp] theorem State.updCore_code (s : State) (id : Nat) (f : Core → Core) : (s.updCore id f).code = s.code := rfl
@[simp] theorem State.updCore_sram (s : State) (id : Nat) (f : Core → Core) : (s.updCore id f).sram = s.sram := rfl
@[simp] theorem State.updCore_upsets (s : State) (id : Nat) (f : Core → Core) : (s.updCore id f).upsets = s.upsets := rfl
@[simp] theorem State.updCore_cur (s : State) (id : Nat) (f : Core → Core) : (s.updCore id f).cur = s.cur := rfl
@[simp] theorem State.updCore_issue (s : State) (id : Nat) (f : Core → Core) : (s.updCore id f).issue = s.issue := rfl
@[simp] theorem State.updCore_packed (s : State) (id : Nat) (f : Core → Core) : (s.updCore id f).packed = s.packed := rfl
@[simp] theorem State.updCore_stirred (s : State) (id : Nat) (f : Core → Core) : (s.updCore id f).stirred = s.stirred := rfl
@[simp] theorem State.updCore_cursor (s : State) (id : Nat) (f : Core → Core) : (s.updCore id f).cursor = s.cursor := rfl
@[simp] theorem State.updCore_agenda (s : State) (id : Nat) (f : Core → Core) : (s.updCore id f).agenda = s.agenda := rfl

/-! ## updCluster -/

@[simp] theorem State.updCluster_now (s : State) (id : Nat) (f : Cluster → Cluster) : (s.updCluster id f).now = s.now := rfl
@[simp] theorem State.updCluster_nextId (s : State) (id : Nat) (f : Cluster → Cluster) : (s.updCluster id f).nextId = s.nextId := rfl
@[simp] theorem State.updCluster_mem (s : State) (id : Nat) (f : Cluster → Cluster) : (s.updCluster id f).mem = s.mem := rfl
@[simp] theorem State.updCluster_host (s : State) (id : Nat) (f : Cluster → Cluster) : (s.updCluster id f).host = s.host := rfl
@[simp] theorem State.updCluster_low (s : State) (id : Nat) (f : Cluster → Cluster) : (s.updCluster id f).low = s.low := rfl
@[simp] theorem State.updCluster_dev (s : State) (id : Nat) (f : Cluster → Cluster) : (s.updCluster id f).dev = s.dev := rfl
@[simp] theorem State.updCluster_vfs (s : State) (id : Nat) (f : Cluster → Cluster) : (s.updCluster id f).vfs = s.vfs := rfl
@[simp] theorem State.updCluster_ctxs (s : State) (id : Nat) (f : Cluster → Cluster) : (s.updCluster id f).ctxs = s.ctxs := rfl
@[simp] theorem State.updCluster_launches (s : State) (id : Nat) (f : Cluster → Cluster) : (s.updCluster id f).launches = s.launches := rfl
@[simp] theorem State.updCluster_grids (s : State) (id : Nat) (f : Cluster → Cluster) : (s.updCluster id f).grids = s.grids := rfl
@[simp] theorem State.updCluster_blocks (s : State) (id : Nat) (f : Cluster → Cluster) : (s.updCluster id f).blocks = s.blocks := rfl
@[simp] theorem State.updCluster_cores (s : State) (id : Nat) (f : Cluster → Cluster) : (s.updCluster id f).cores = s.cores := rfl
@[simp] theorem State.updCluster_clusters (s : State) (id : Nat) (f : Cluster → Cluster) : (s.updCluster id f).clusters =
    putBy Cluster.id (f (s.cluster id)) s.clusters := rfl
@[simp] theorem State.updCluster_accs (s : State) (id : Nat) (f : Cluster → Cluster) : (s.updCluster id f).accs = s.accs := rfl
@[simp] theorem State.updCluster_cmds (s : State) (id : Nat) (f : Cluster → Cluster) : (s.updCluster id f).cmds = s.cmds := rfl
@[simp] theorem State.updCluster_messages (s : State) (id : Nat) (f : Cluster → Cluster) : (s.updCluster id f).messages = s.messages := rfl
@[simp] theorem State.updCluster_credits (s : State) (id : Nat) (f : Cluster → Cluster) : (s.updCluster id f).credits = s.credits := rfl
@[simp] theorem State.updCluster_treePkts (s : State) (id : Nat) (f : Cluster → Cluster) : (s.updCluster id f).treePkts = s.treePkts := rfl
@[simp] theorem State.updCluster_snaps (s : State) (id : Nat) (f : Cluster → Cluster) : (s.updCluster id f).snaps = s.snaps := rfl
@[simp] theorem State.updCluster_tlbis (s : State) (id : Nat) (f : Cluster → Cluster) : (s.updCluster id f).tlbis = s.tlbis := rfl
@[simp] theorem State.updCluster_scrubs (s : State) (id : Nat) (f : Cluster → Cluster) : (s.updCluster id f).scrubs = s.scrubs := rfl
@[simp] theorem State.updCluster_cancelled (s : State) (id : Nat) (f : Cluster → Cluster) : (s.updCluster id f).cancelled = s.cancelled := rfl
@[simp] theorem State.updCluster_code (s : State) (id : Nat) (f : Cluster → Cluster) : (s.updCluster id f).code = s.code := rfl
@[simp] theorem State.updCluster_sram (s : State) (id : Nat) (f : Cluster → Cluster) : (s.updCluster id f).sram = s.sram := rfl
@[simp] theorem State.updCluster_upsets (s : State) (id : Nat) (f : Cluster → Cluster) : (s.updCluster id f).upsets = s.upsets := rfl
@[simp] theorem State.updCluster_cur (s : State) (id : Nat) (f : Cluster → Cluster) : (s.updCluster id f).cur = s.cur := rfl
@[simp] theorem State.updCluster_issue (s : State) (id : Nat) (f : Cluster → Cluster) : (s.updCluster id f).issue = s.issue := rfl
@[simp] theorem State.updCluster_packed (s : State) (id : Nat) (f : Cluster → Cluster) : (s.updCluster id f).packed = s.packed := rfl
@[simp] theorem State.updCluster_stirred (s : State) (id : Nat) (f : Cluster → Cluster) : (s.updCluster id f).stirred = s.stirred := rfl
@[simp] theorem State.updCluster_cursor (s : State) (id : Nat) (f : Cluster → Cluster) : (s.updCluster id f).cursor = s.cursor := rfl
@[simp] theorem State.updCluster_agenda (s : State) (id : Nat) (f : Cluster → Cluster) : (s.updCluster id f).agenda = s.agenda := rfl

/-! ## updVf -/

@[simp] theorem State.updVf_now (s : State) (id : Nat) (f : Vf → Vf) : (s.updVf id f).now = s.now := rfl
@[simp] theorem State.updVf_nextId (s : State) (id : Nat) (f : Vf → Vf) : (s.updVf id f).nextId = s.nextId := rfl
@[simp] theorem State.updVf_mem (s : State) (id : Nat) (f : Vf → Vf) : (s.updVf id f).mem = s.mem := rfl
@[simp] theorem State.updVf_host (s : State) (id : Nat) (f : Vf → Vf) : (s.updVf id f).host = s.host := rfl
@[simp] theorem State.updVf_low (s : State) (id : Nat) (f : Vf → Vf) : (s.updVf id f).low = s.low := rfl
@[simp] theorem State.updVf_dev (s : State) (id : Nat) (f : Vf → Vf) : (s.updVf id f).dev = s.dev := rfl
@[simp] theorem State.updVf_vfs (s : State) (id : Nat) (f : Vf → Vf) : (s.updVf id f).vfs =
    putBy Vf.id (f (s.vf id)) s.vfs := rfl
@[simp] theorem State.updVf_ctxs (s : State) (id : Nat) (f : Vf → Vf) : (s.updVf id f).ctxs = s.ctxs := rfl
@[simp] theorem State.updVf_launches (s : State) (id : Nat) (f : Vf → Vf) : (s.updVf id f).launches = s.launches := rfl
@[simp] theorem State.updVf_grids (s : State) (id : Nat) (f : Vf → Vf) : (s.updVf id f).grids = s.grids := rfl
@[simp] theorem State.updVf_blocks (s : State) (id : Nat) (f : Vf → Vf) : (s.updVf id f).blocks = s.blocks := rfl
@[simp] theorem State.updVf_cores (s : State) (id : Nat) (f : Vf → Vf) : (s.updVf id f).cores = s.cores := rfl
@[simp] theorem State.updVf_clusters (s : State) (id : Nat) (f : Vf → Vf) : (s.updVf id f).clusters = s.clusters := rfl
@[simp] theorem State.updVf_accs (s : State) (id : Nat) (f : Vf → Vf) : (s.updVf id f).accs = s.accs := rfl
@[simp] theorem State.updVf_cmds (s : State) (id : Nat) (f : Vf → Vf) : (s.updVf id f).cmds = s.cmds := rfl
@[simp] theorem State.updVf_messages (s : State) (id : Nat) (f : Vf → Vf) : (s.updVf id f).messages = s.messages := rfl
@[simp] theorem State.updVf_credits (s : State) (id : Nat) (f : Vf → Vf) : (s.updVf id f).credits = s.credits := rfl
@[simp] theorem State.updVf_treePkts (s : State) (id : Nat) (f : Vf → Vf) : (s.updVf id f).treePkts = s.treePkts := rfl
@[simp] theorem State.updVf_snaps (s : State) (id : Nat) (f : Vf → Vf) : (s.updVf id f).snaps = s.snaps := rfl
@[simp] theorem State.updVf_tlbis (s : State) (id : Nat) (f : Vf → Vf) : (s.updVf id f).tlbis = s.tlbis := rfl
@[simp] theorem State.updVf_scrubs (s : State) (id : Nat) (f : Vf → Vf) : (s.updVf id f).scrubs = s.scrubs := rfl
@[simp] theorem State.updVf_cancelled (s : State) (id : Nat) (f : Vf → Vf) : (s.updVf id f).cancelled = s.cancelled := rfl
@[simp] theorem State.updVf_code (s : State) (id : Nat) (f : Vf → Vf) : (s.updVf id f).code = s.code := rfl
@[simp] theorem State.updVf_sram (s : State) (id : Nat) (f : Vf → Vf) : (s.updVf id f).sram = s.sram := rfl
@[simp] theorem State.updVf_upsets (s : State) (id : Nat) (f : Vf → Vf) : (s.updVf id f).upsets = s.upsets := rfl
@[simp] theorem State.updVf_cur (s : State) (id : Nat) (f : Vf → Vf) : (s.updVf id f).cur = s.cur := rfl
@[simp] theorem State.updVf_issue (s : State) (id : Nat) (f : Vf → Vf) : (s.updVf id f).issue = s.issue := rfl
@[simp] theorem State.updVf_packed (s : State) (id : Nat) (f : Vf → Vf) : (s.updVf id f).packed = s.packed := rfl
@[simp] theorem State.updVf_stirred (s : State) (id : Nat) (f : Vf → Vf) : (s.updVf id f).stirred = s.stirred := rfl
@[simp] theorem State.updVf_cursor (s : State) (id : Nat) (f : Vf → Vf) : (s.updVf id f).cursor = s.cursor := rfl
@[simp] theorem State.updVf_agenda (s : State) (id : Nat) (f : Vf → Vf) : (s.updVf id f).agenda = s.agenda := rfl

/-! ## updDev -/

@[simp] theorem State.updDev_now (s : State) (f : Device → Device) : (s.updDev f).now = s.now := rfl
@[simp] theorem State.updDev_nextId (s : State) (f : Device → Device) : (s.updDev f).nextId = s.nextId := rfl
@[simp] theorem State.updDev_mem (s : State) (f : Device → Device) : (s.updDev f).mem = s.mem := rfl
@[simp] theorem State.updDev_host (s : State) (f : Device → Device) : (s.updDev f).host = s.host := rfl
@[simp] theorem State.updDev_low (s : State) (f : Device → Device) : (s.updDev f).low = s.low := rfl
@[simp] theorem State.updDev_dev (s : State) (f : Device → Device) : (s.updDev f).dev =
    f s.dev := rfl
@[simp] theorem State.updDev_vfs (s : State) (f : Device → Device) : (s.updDev f).vfs = s.vfs := rfl
@[simp] theorem State.updDev_ctxs (s : State) (f : Device → Device) : (s.updDev f).ctxs = s.ctxs := rfl
@[simp] theorem State.updDev_launches (s : State) (f : Device → Device) : (s.updDev f).launches = s.launches := rfl
@[simp] theorem State.updDev_grids (s : State) (f : Device → Device) : (s.updDev f).grids = s.grids := rfl
@[simp] theorem State.updDev_blocks (s : State) (f : Device → Device) : (s.updDev f).blocks = s.blocks := rfl
@[simp] theorem State.updDev_cores (s : State) (f : Device → Device) : (s.updDev f).cores = s.cores := rfl
@[simp] theorem State.updDev_clusters (s : State) (f : Device → Device) : (s.updDev f).clusters = s.clusters := rfl
@[simp] theorem State.updDev_accs (s : State) (f : Device → Device) : (s.updDev f).accs = s.accs := rfl
@[simp] theorem State.updDev_cmds (s : State) (f : Device → Device) : (s.updDev f).cmds = s.cmds := rfl
@[simp] theorem State.updDev_messages (s : State) (f : Device → Device) : (s.updDev f).messages = s.messages := rfl
@[simp] theorem State.updDev_credits (s : State) (f : Device → Device) : (s.updDev f).credits = s.credits := rfl
@[simp] theorem State.updDev_treePkts (s : State) (f : Device → Device) : (s.updDev f).treePkts = s.treePkts := rfl
@[simp] theorem State.updDev_snaps (s : State) (f : Device → Device) : (s.updDev f).snaps = s.snaps := rfl
@[simp] theorem State.updDev_tlbis (s : State) (f : Device → Device) : (s.updDev f).tlbis = s.tlbis := rfl
@[simp] theorem State.updDev_scrubs (s : State) (f : Device → Device) : (s.updDev f).scrubs = s.scrubs := rfl
@[simp] theorem State.updDev_cancelled (s : State) (f : Device → Device) : (s.updDev f).cancelled = s.cancelled := rfl
@[simp] theorem State.updDev_code (s : State) (f : Device → Device) : (s.updDev f).code = s.code := rfl
@[simp] theorem State.updDev_sram (s : State) (f : Device → Device) : (s.updDev f).sram = s.sram := rfl
@[simp] theorem State.updDev_upsets (s : State) (f : Device → Device) : (s.updDev f).upsets = s.upsets := rfl
@[simp] theorem State.updDev_cur (s : State) (f : Device → Device) : (s.updDev f).cur = s.cur := rfl
@[simp] theorem State.updDev_issue (s : State) (f : Device → Device) : (s.updDev f).issue = s.issue := rfl
@[simp] theorem State.updDev_packed (s : State) (f : Device → Device) : (s.updDev f).packed = s.packed := rfl
@[simp] theorem State.updDev_stirred (s : State) (f : Device → Device) : (s.updDev f).stirred = s.stirred := rfl
@[simp] theorem State.updDev_cursor (s : State) (f : Device → Device) : (s.updDev f).cursor = s.cursor := rfl
@[simp] theorem State.updDev_agenda (s : State) (f : Device → Device) : (s.updDev f).agenda = s.agenda := rfl

/-! ## fresh -/

@[simp] theorem State.fresh_now (s : State) : (s.fresh).now = s.now := rfl
@[simp] theorem State.fresh_nextId (s : State) : (s.fresh).nextId =
    s.nextId + 1 := rfl
@[simp] theorem State.fresh_mem (s : State) : (s.fresh).mem = s.mem := rfl
@[simp] theorem State.fresh_host (s : State) : (s.fresh).host = s.host := rfl
@[simp] theorem State.fresh_low (s : State) : (s.fresh).low = s.low := rfl
@[simp] theorem State.fresh_dev (s : State) : (s.fresh).dev = s.dev := rfl
@[simp] theorem State.fresh_vfs (s : State) : (s.fresh).vfs = s.vfs := rfl
@[simp] theorem State.fresh_ctxs (s : State) : (s.fresh).ctxs = s.ctxs := rfl
@[simp] theorem State.fresh_launches (s : State) : (s.fresh).launches = s.launches := rfl
@[simp] theorem State.fresh_grids (s : State) : (s.fresh).grids = s.grids := rfl
@[simp] theorem State.fresh_blocks (s : State) : (s.fresh).blocks = s.blocks := rfl
@[simp] theorem State.fresh_cores (s : State) : (s.fresh).cores = s.cores := rfl
@[simp] theorem State.fresh_clusters (s : State) : (s.fresh).clusters = s.clusters := rfl
@[simp] theorem State.fresh_accs (s : State) : (s.fresh).accs = s.accs := rfl
@[simp] theorem State.fresh_cmds (s : State) : (s.fresh).cmds = s.cmds := rfl
@[simp] theorem State.fresh_messages (s : State) : (s.fresh).messages = s.messages := rfl
@[simp] theorem State.fresh_credits (s : State) : (s.fresh).credits = s.credits := rfl
@[simp] theorem State.fresh_treePkts (s : State) : (s.fresh).treePkts = s.treePkts := rfl
@[simp] theorem State.fresh_snaps (s : State) : (s.fresh).snaps = s.snaps := rfl
@[simp] theorem State.fresh_tlbis (s : State) : (s.fresh).tlbis = s.tlbis := rfl
@[simp] theorem State.fresh_scrubs (s : State) : (s.fresh).scrubs = s.scrubs := rfl
@[simp] theorem State.fresh_cancelled (s : State) : (s.fresh).cancelled = s.cancelled := rfl
@[simp] theorem State.fresh_code (s : State) : (s.fresh).code = s.code := rfl
@[simp] theorem State.fresh_sram (s : State) : (s.fresh).sram = s.sram := rfl
@[simp] theorem State.fresh_upsets (s : State) : (s.fresh).upsets = s.upsets := rfl
@[simp] theorem State.fresh_cur (s : State) : (s.fresh).cur = s.cur := rfl
@[simp] theorem State.fresh_issue (s : State) : (s.fresh).issue = s.issue := rfl
@[simp] theorem State.fresh_packed (s : State) : (s.fresh).packed = s.packed := rfl
@[simp] theorem State.fresh_stirred (s : State) : (s.fresh).stirred = s.stirred := rfl
@[simp] theorem State.fresh_cursor (s : State) : (s.fresh).cursor = s.cursor := rfl
@[simp] theorem State.fresh_agenda (s : State) : (s.fresh).agenda = s.agenda := rfl

end Sys2Proof.Machine
end

