-- ==== Sys2Proof/Laws/Registers.lean ====
section
/-!
SUPPORT. Registers: the parts of the state that an update of a warp, a block or a grid leaves, and
what an operand reads after a register is written (R110, R112, R114, R115).
-/

namespace Sys2Proof.Machine

/-! ## Parts by name -/

theorem find?_map_same {α : Type} (key : α → Nat) (f : α → α) (k : Nat) (l : List α)
    (hf : ∀ x, key x = k → key (f x) = k) :
    (l.map fun x => if key x == k then f x else x).find? (key · == k)
      = (l.find? (key · == k)).map f := by
  induction l with
  | nil => rfl
  | cons a t ih =>
    by_cases h : key a = k
    · simp [h, hf a h]
    · simpa [h] using ih

theorem find?_map_other {α : Type} (key : α → Nat) (f : α → α) {k j : Nat} (l : List α)
    (hf : ∀ x, key x = k → key (f x) = k) (hj : j ≠ k) :
    (l.map fun x => if key x == k then f x else x).find? (key · == j) = l.find? (key · == j) := by
  induction l with
  | nil => rfl
  | cons a t ih =>
    by_cases h : key a = k
    · have h1 : ¬ k = j := fun e => hj e.symm
      simpa [h, hf a h, h1] using ih
    · by_cases h2 : key a = j
      · simp [h2, hj]
      · simpa [h, h2] using ih

theorem State.block?_updBlock (s : State) (id : Nat) (f : Block → Block) (hf : ∀ b, (f b).id = b.id) :
    (s.updBlock id f).block? id = (s.block? id).map f :=
  find?_map_same Block.id f id s.blocks fun x hx => (hf x).trans hx

theorem State.block?_updBlock_other (s : State) {id j : Nat} (f : Block → Block)
    (hf : ∀ b, (f b).id = b.id) (hj : j ≠ id) : (s.updBlock id f).block? j = s.block? j :=
  find?_map_other Block.id f s.blocks (fun x hx => (hf x).trans hx) hj

theorem Block.warp?_updWarp (b : Block) (slot : Nat) (f : Warp → Warp) (hf : ∀ w, (f w).slot = w.slot) :
    (b.updWarp slot f).warp? slot = (b.warp? slot).map f :=
  find?_map_same Warp.slot f slot b.warps fun x hx => (hf x).trans hx

theorem Block.warp?_updWarp_other (b : Block) {slot j : Nat} (f : Warp → Warp)
    (hf : ∀ w, (f w).slot = w.slot) (hj : j ≠ slot) : (b.updWarp slot f).warp? j = b.warp? j :=
  find?_map_other Warp.slot f b.warps (fun x hx => (hf x).trans hx) hj

theorem State.grid?_updGrid (s : State) (id : Nat) (f : Grid → Grid) (hf : ∀ g, (f g).id = g.id) :
    (s.updGrid id f).grid? id = (s.grid? id).map f :=
  find?_map_same Grid.id f id s.grids fun x hx => (hf x).trans hx

@[simp] theorem State.grid?_updBlock (s : State) (id j : Nat) (f : Block → Block) :
    (s.updBlock id f).grid? j = s.grid? j := rfl

@[simp] theorem State.grid?_updWarp (s : State) (r : WarpRef) (j : Nat) (f : Warp → Warp) :
    (s.updWarp r f).grid? j = s.grid? j := rfl

@[simp] theorem State.block?_updGrid (s : State) (id j : Nat) (f : Grid → Grid) :
    (s.updGrid id f).block? j = s.block? j := rfl

@[simp] theorem State.warp?_updGrid (s : State) (id : Nat) (r : WarpRef) (f : Grid → Grid) :
    (s.updGrid id f).warp? r = s.warp? r := rfl

@[simp] theorem Block.updWarp_id (b : Block) (slot : Nat) (f : Warp → Warp) :
    (b.updWarp slot f).id = b.id := rfl

/-- A warp that is there: its block by its name, and the warp by its slot. -/
theorem State.warp?_some {s : State} {r : WarpRef} {b : Block} {w : Warp} :
    s.warp? r = some (b, w) ↔ s.block? r.blk = some b ∧ b.warp? r.slot = some w := by
  unfold State.warp?
  constructor
  · intro h
    split at h
    · cases h
    · split at h
      · cases h
      · rename_i h1 _ _ h2
        simp only [Option.some.injEq, Prod.mk.injEq] at h
        obtain ⟨rfl, rfl⟩ := h
        exact ⟨h1, h2⟩
  · rintro ⟨h1, h2⟩
    simp [h1, h2]

/-- A warp after its own update. -/
theorem State.warp?_updWarp {s : State} {r : WarpRef} {b : Block} {w : Warp} (f : Warp → Warp)
    (h : s.warp? r = some (b, w)) (hf : ∀ w, (f w).slot = w.slot) :
    (s.updWarp r f).warp? r = some (b.updWarp r.slot f, f w) := by
  rw [State.warp?_some] at h ⊢
  refine ⟨?_, ?_⟩
  · rw [State.updWarp, State.block?_updBlock _ _ _ (fun b => Block.updWarp_id b r.slot f), h.1]
    rfl
  · rw [Block.warp?_updWarp _ _ _ hf, h.2]
    rfl

/-- A warp after an update of its block that keeps the warps. -/
theorem State.warp?_updBlock {s : State} {r : WarpRef} {b : Block} {w : Warp} (f : Block → Block)
    (h : s.warp? r = some (b, w)) (hi : ∀ b, (f b).id = b.id) (hw : (f b).warps = b.warps) :
    (s.updBlock r.blk f).warp? r = some (f b, w) := by
  rw [State.warp?_some] at h ⊢
  refine ⟨?_, ?_⟩
  · rw [State.block?_updBlock _ _ _ hi, h.1]
    rfl
  · unfold Block.warp? at h ⊢
    rw [hw]
    exact h.2

/-! ## Generation tags (R325) -/

/-- An adoption changes the functions' partitions only. -/
theorem State.adopt_vfs (s : State) (v u : Nat) : ∃ m, s.adopt v u = { s with vfs := m } := by
  unfold State.adopt
  split
  · exact ⟨s.vfs, rfl⟩
  · exact ⟨_, rfl⟩

theorem State.shareTags_vfs (s : State) (v : Nat) (us : List Nat) : ∃ m, s.shareTags v us = { s with vfs := m } := by
  unfold State.shareTags
  dsimp only
  split
  · clear * -
    induction us generalizing s with
    | nil => exact ⟨s.vfs, rfl⟩
    | cons u t ih =>
      obtain ⟨m, hm⟩ := s.adopt_vfs v u
      obtain ⟨k, hk⟩ := ih (s.adopt v u)
      exact ⟨k, by rw [List.foldl_cons, hk, hm]⟩
  · exact ⟨s.vfs, rfl⟩

/-- The tags of a scoped write change the functions' partitions only. -/
theorem State.passTags_vfs (s : State) (r : WarpRef) (d : Operand) : ∃ m, s.passTags r d = { s with vfs := m } := by
  unfold State.passTags
  split
  · split
    · split
      · exact s.shareTags_vfs _ _
      · exact ⟨s.vfs, rfl⟩
    · exact ⟨s.vfs, rfl⟩
  · split
    · split
      · exact s.shareTags_vfs _ _
      · exact ⟨s.vfs, rfl⟩
    · exact ⟨s.vfs, rfl⟩
  · exact ⟨s.vfs, rfl⟩

/-! ## Register sets (R112, R114) -/

/-- The writer's core reads the register that it wrote. -/
theorem RegSet.read_write_same (m : RegSet) (core reg : Nat) (x : Word) :
    (m.write core reg x).read core reg = x := by
  simp [RegSet.read, RegSet.write, RegSet.applied, RegSet.at, sparseGet_set_same, List.take_of_length_le]

/-! ## Reading a register after it is written -/

/-- What an operand of a warp reads, the warp and its grid being there. -/
theorem State.operand_eq {s : State} {r : WarpRef} {b : Block} {w : Warp} {g : Grid}
    (h : s.warp? r = some (b, w)) (hg : s.grid? b.grid = some g) (lane : Nat) (o : Operand) :
    s.operand r lane o = readOperand s b g w lane o := by
  simp [State.operand, h, hg]

theorem State.writeOne_there {s : State} {r : WarpRef} {b : Block} {w : Warp} {g : Grid}
    (h : s.warp? r = some (b, w)) (hg : s.grid? b.grid = some g) (lane : Nat) (o : Operand) (x : Word) :
    ∃ b' w' g', (s.writeOne r lane o x).warp? r = some (b', w') ∧ b'.grid = b.grid
      ∧ (s.writeOne r lane o x).grid? b.grid = some g' := by
  have hb := (State.warp?_some.1 h).1
  cases o with
  | v i => exact ⟨_, _, g, State.warp?_updWarp _ h fun _ => by rfl, rfl, hg⟩
  | o i => exact ⟨_, _, g, State.warp?_updWarp _ h fun _ => by rfl, rfl, hg⟩
  | w i => exact ⟨_, _, g, State.warp?_updWarp _ h fun _ => by rfl, rfl, hg⟩
  | b i => exact ⟨_, _, g, State.warp?_updBlock _ h (fun _ => by rfl) rfl, rfl, hg⟩
  | k i =>
    refine ⟨b, w, g.setK b ((g.kSet b).write b.core i.toNat x), ?_, rfl, ?_⟩
    · simpa [State.writeOne, hb] using h
    · simp only [State.writeOne, hb]
      rw [State.grid?_updGrid _ _ _ fun _ => by rfl, hg]
      rfl
  | g i =>
    have hid : ∀ g : Grid, (g.setG b ((g.gSet b).write b.core i.toNat x)).id = g.id := by
      intro g
      unfold Grid.setG
      split <;> rfl
    refine ⟨b, w, g.setG b ((g.gSet b).write b.core i.toNat x), ?_, rfl, ?_⟩
    · simpa [State.writeOne, hb] using h
    · simp only [State.writeOne, hb]
      rw [State.grid?_updGrid _ _ _ hid, hg]
      rfl
  | sp i =>
    unfold State.writeOne
    simp only
    split
    · exact ⟨_, _, g, State.warp?_updWarp _ h fun _ => by rfl, rfl, hg⟩
    · split
      · exact ⟨_, _, g, State.warp?_updWarp _ h fun _ => by rfl, rfl, hg⟩
      · split
        · exact ⟨_, _, g, State.warp?_updWarp _ h fun _ => by rfl, rfl, hg⟩
        · exact ⟨b, w, g, h, rfl, hg⟩

theorem Grid.gSet_setG (g : Grid) (b : Block) (m : RegSet) : (g.setG b m).gSet b = m := by
  unfold Grid.setG Grid.gSet
  split <;> simp_all

theorem Grid.kSet_setK (g : Grid) (b : Block) (m : RegSet) : (g.setK b m).kSet b = m :=
  sparseGet_set_same _ _ _ _

/-- A register of classes 0 to 6 reads what was written to it. -/
theorem State.operand_writeOne_same {s : State} {r : WarpRef} {b : Block} {w : Warp} {g : Grid}
    (h : s.warp? r = some (b, w)) (hg : s.grid? b.grid = some g) (lane : Nat) {o : Operand}
    (ho : o.isReg = true) (x : Word) : (s.writeOne r lane o x).operand r lane o = x := by
  have hb := (State.warp?_some.1 h).1
  cases o with
  | v i =>
    simp only [State.writeOne]
    rw [State.operand_eq (State.warp?_updWarp _ h fun _ => by rfl) hg]
    exact sparseGet_set_same _ _ _ _
  | o i =>
    simp only [State.writeOne]
    rw [State.operand_eq (State.warp?_updWarp _ h fun _ => by rfl) hg]
    exact sparseGet_set_same _ _ _ _
  | w i =>
    simp only [State.writeOne]
    rw [State.operand_eq (State.warp?_updWarp _ h fun _ => by rfl) hg]
    exact sparseGet_set_same _ _ _ _
  | b i =>
    simp only [State.writeOne]
    rw [State.operand_eq (State.warp?_updBlock (fun b => b.setB i.toNat x) h
      (fun _ => rfl) rfl) hg]
    exact sparseGet_set_same _ _ _ _
  | k i =>
    have h1 : (s.writeOne r lane (.k i) x).warp? r = some (b, w) := by
      simpa [State.writeOne, hb] using h
    have h2 : (s.writeOne r lane (.k i) x).grid? b.grid
        = some (g.setK b ((g.kSet b).write b.core i.toNat x)) := by
      simp only [State.writeOne, hb]
      rw [State.grid?_updGrid _ _ _ fun _ => by rfl, hg]
      rfl
    rw [State.operand_eq h1 h2]
    simp [readOperand, Grid.kSet_setK, RegSet.read_write_same]
  | g i =>
    have hid : ∀ g : Grid, (g.setG b ((g.gSet b).write b.core i.toNat x)).id = g.id := by
      intro g
      unfold Grid.setG
      split <;> rfl
    have h1 : (s.writeOne r lane (.g i) x).warp? r = some (b, w) := by
      simpa [State.writeOne, hb] using h
    have h2 : (s.writeOne r lane (.g i) x).grid? b.grid
        = some (g.setG b ((g.gSet b).write b.core i.toNat x)) := by
      simp only [State.writeOne, hb]
      rw [State.grid?_updGrid _ _ _ hid, hg]
      rfl
    rw [State.operand_eq h1 h2]
    simp [readOperand, Grid.gSet_setG, RegSet.read_write_same]
  | sp i => simp [Operand.isReg, Operand.isSp] at ho

/-- A write to a register of classes 0, 2, 3 or 4 leaves what every other register reads. -/
theorem State.operand_writeOne_other {s : State} {r : WarpRef} {b : Block} {w : Warp} {g : Grid}
    (h : s.warp? r = some (b, w)) (hg : s.grid? b.grid = some g) (lane : Nat) {o : Operand}
    (hr : o.isReg = true) (ho : copied o = false) (x : Word) {m : Nat} {p : Operand} (hp : sameReg o p lane m = false) :
    (s.writeOne r lane o x).operand r m p = s.operand r m p := by
  rw [State.operand_eq h hg]
  cases o with
  | v i =>
    simp only [State.writeOne]
    rw [State.operand_eq (State.warp?_updWarp _ h fun _ => by rfl) hg]
    cases p with
    | v j =>
      simp only [readOperand, Warp.setV]
      refine sparseGet_set_other _ _ _ fun e => ?_
      have hi := i.isLt
      have hj := j.isLt
      have h1 : m = lane := by omega
      have h2 : i = j := by
        apply BitVec.eq_of_toNat_eq
        omega
      simp [sameReg, h1, h2] at hp
    | _ => rfl
  | o i =>
    simp only [State.writeOne]
    rw [State.operand_eq (State.warp?_updWarp _ h fun _ => by rfl) hg]
    cases p with
    | o j =>
      simp only [readOperand, Warp.setO]
      refine sparseGet_set_other _ _ _ fun e => ?_
      have hi := i.isLt
      have hj := j.isLt
      have h1 : m / 8 = lane / 8 := by omega
      have h2 : i = j := by
        apply BitVec.eq_of_toNat_eq
        omega
      simp [sameReg, h1, h2] at hp
    | _ => rfl
  | w i =>
    simp only [State.writeOne]
    rw [State.operand_eq (State.warp?_updWarp _ h fun _ => by rfl) hg]
    cases p with
    | w j =>
      simp only [readOperand, Warp.setW]
      refine sparseGet_set_other _ _ _ fun e => ?_
      have h2 : i = j := by
        apply BitVec.eq_of_toNat_eq
        omega
      simp [sameReg, h2] at hp
    | _ => rfl
  | b i =>
    simp only [State.writeOne]
    rw [State.operand_eq (State.warp?_updBlock (fun b => b.setB i.toNat x) h
      (fun _ => rfl) rfl) hg]
    cases p with
    | b j =>
      simp only [readOperand]
      refine sparseGet_set_other _ _ _ fun e => ?_
      have h2 : i = j := by
        apply BitVec.eq_of_toNat_eq
        omega
      simp [sameReg, h2] at hp
    | _ => rfl
  | sp i => simp [Operand.isReg, Operand.isSp] at hr
  | _ => simp [copied] at ho

/-! ## Values at the home (R112) -/

theorem RegSet.at_write_same (m : RegSet) (core reg : Nat) (x : Word) :
    (m.write core reg x).at (m.write core reg x).log.length reg = x := by
  simp [RegSet.write, RegSet.at, List.take_of_length_le]

theorem RegSet.at_write_other (m : RegSet) (core : Nat) {reg j : Nat} (x : Word) (h : j ≠ reg) :
    (m.write core reg x).at (m.write core reg x).log.length j = m.at m.log.length j := by
  have h2 : ¬ reg = j := fun e => h e.symm
  simp [RegSet.write, RegSet.at, List.take_of_length_le, h2]

/-- After a write the writer's core reads every register of the set as its home holds it. -/
theorem RegSet.read_write (m : RegSet) (core reg j : Nat) (x : Word) :
    (m.write core reg x).read core j = (m.write core reg x).at (m.write core reg x).log.length j := by
  simp [RegSet.read, RegSet.write, RegSet.applied, sparseGet_set_same]

theorem State.homeValue_eq {s : State} {r : WarpRef} {b : Block} {w : Warp} {g : Grid}
    (h : s.warp? r = some (b, w)) (hg : s.grid? b.grid = some g) (lane : Nat) (o : Operand) :
    s.homeValue r lane o = match o with
      | .k i => (g.kSet b).at (g.kSet b).log.length i.toNat
      | .g i => (g.gSet b).at (g.gSet b).log.length i.toNat
      | o => readOperand s b g w lane o := by
  cases o <;> simp only [State.homeValue, h, hg]

/-- A register that is no cluster or grid register holds what it reads. -/
theorem State.homeValue_operand (s : State) (r : WarpRef) (lane : Nat) {o : Operand}
    (ho : copied o = false) : s.homeValue r lane o = s.operand r lane o := by
  unfold State.homeValue State.operand
  split
  · rfl
  · split
    · rfl
    · cases o <;> first | rfl | simp [copied] at ho

theorem Grid.setG_id (g : Grid) (b : Block) (m : RegSet) : (g.setG b m).id = g.id := by
  unfold Grid.setG
  split <;> rfl

theorem State.writeOne_k {s : State} {r : WarpRef} {b : Block} {w : Warp} {g : Grid}
    (h : s.warp? r = some (b, w)) (hg : s.grid? b.grid = some g) (lane : Nat) (i : BitVec 5) (x : Word) :
    (s.writeOne r lane (.k i) x).warp? r = some (b, w) ∧ (s.writeOne r lane (.k i) x).grid? b.grid
      = some (g.setK b ((g.kSet b).write b.core i.toNat x)) := by
  have hb := (State.warp?_some.1 h).1
  refine ⟨by simpa [State.writeOne, hb] using h, ?_⟩
  simp only [State.writeOne, hb]
  rw [State.grid?_updGrid _ _ _ fun _ => by rfl, hg]
  rfl

theorem State.writeOne_g {s : State} {r : WarpRef} {b : Block} {w : Warp} {g : Grid}
    (h : s.warp? r = some (b, w)) (hg : s.grid? b.grid = some g) (lane : Nat) (i : BitVec 5) (x : Word) :
    (s.writeOne r lane (.g i) x).warp? r = some (b, w) ∧ (s.writeOne r lane (.g i) x).grid? b.grid
      = some (g.setG b ((g.gSet b).write b.core i.toNat x)) := by
  have hb := (State.warp?_some.1 h).1
  refine ⟨by simpa [State.writeOne, hb] using h, ?_⟩
  simp only [State.writeOne, hb]
  rw [State.grid?_updGrid _ _ _ fun g => Grid.setG_id g b _, hg]
  rfl

/-- A register of classes 0 to 6 holds what was written to it. -/
theorem State.homeValue_writeOne_same {s : State} {r : WarpRef} {b : Block} {w : Warp} {g : Grid}
    (h : s.warp? r = some (b, w)) (hg : s.grid? b.grid = some g) (lane : Nat) {o : Operand}
    (ho : o.isReg = true) (x : Word) : (s.writeOne r lane o x).homeValue r lane o = x := by
  cases o with
  | k i =>
    obtain ⟨h1, h2⟩ := State.writeOne_k h hg lane i x
    rw [State.homeValue_eq h1 h2]
    simp only [Grid.kSet_setK]
    exact RegSet.at_write_same _ _ _ _
  | g i =>
    obtain ⟨h1, h2⟩ := State.writeOne_g h hg lane i x
    rw [State.homeValue_eq h1 h2]
    simp only [Grid.gSet_setG]
    exact RegSet.at_write_same _ _ _ _
  | _ =>
    rw [State.homeValue_operand _ _ _ (by rfl)]
    exact State.operand_writeOne_same h hg lane ho x

theorem Grid.kSet_setG (g : Grid) (b : Block) (m : RegSet) : (g.setG b m).kSet b = g.kSet b := by
  unfold Grid.setG
  split <;> rfl

theorem Grid.gSet_setK (g : Grid) (b : Block) (m : RegSet) : (g.setK b m).gSet b = g.gSet b := rfl

/-- What a special operand reads of a grid, which no register write changes. -/
theorem readSpecial_setK (s : State) (b : Block) (g : Grid) (w : Warp) (lane i : Nat) (m : RegSet) :
    readSpecial s b (g.setK b m) w lane i = readSpecial s b g w lane i := rfl

theorem readSpecial_setG (s : State) (b : Block) (g : Grid) (w : Warp) (lane i : Nat) (m : RegSet) :
    readSpecial s b (g.setG b m) w lane i = readSpecial s b g w lane i := by
  unfold Grid.setG
  split <;> rfl

/-- A write to a register of classes 0 to 6 leaves what every other register and every special operand
holds. -/
theorem State.homeValue_writeOne_other {s : State} {r : WarpRef} {b : Block} {w : Warp} {g : Grid}
    (h : s.warp? r = some (b, w)) (hg : s.grid? b.grid = some g) (lane : Nat) {o : Operand}
    (ho : o.isReg = true) (x : Word) {m : Nat} {p : Operand} (hp : sameReg o p lane m = false) :
    (s.writeOne r lane o x).homeValue r m p = s.homeValue r m p := by
  have easy : copied o = false → (s.writeOne r lane o x).homeValue r m p = s.homeValue r m p := by
    intro he
    cases p with
    | k j =>
      obtain ⟨b', w', g', h1, h2, h3⟩ := State.writeOne_there h hg lane o x
      cases o with
      | v i =>
        rw [State.homeValue_eq h hg, State.homeValue_eq (s := s.writeOne r lane (.v i) x)
          (State.warp?_updWarp _ h fun _ => by rfl) hg]
        rfl
      | o i =>
        rw [State.homeValue_eq h hg, State.homeValue_eq (s := s.writeOne r lane (.o i) x)
          (State.warp?_updWarp _ h fun _ => by rfl) hg]
        rfl
      | w i =>
        rw [State.homeValue_eq h hg, State.homeValue_eq (s := s.writeOne r lane (.w i) x)
          (State.warp?_updWarp _ h fun _ => by rfl) hg]
        rfl
      | b i =>
        rw [State.homeValue_eq h hg, State.homeValue_eq (s := s.writeOne r lane (.b i) x)
          (State.warp?_updBlock (fun b => b.setB i.toNat x) h (fun _ => rfl) rfl) hg]
        rfl
      | sp i => simp [Operand.isReg, Operand.isSp] at ho
      | _ => simp [copied] at he
    | g j =>
      cases o with
      | v i =>
        rw [State.homeValue_eq h hg, State.homeValue_eq (s := s.writeOne r lane (.v i) x)
          (State.warp?_updWarp _ h fun _ => by rfl) hg]
        rfl
      | o i =>
        rw [State.homeValue_eq h hg, State.homeValue_eq (s := s.writeOne r lane (.o i) x)
          (State.warp?_updWarp _ h fun _ => by rfl) hg]
        rfl
      | w i =>
        rw [State.homeValue_eq h hg, State.homeValue_eq (s := s.writeOne r lane (.w i) x)
          (State.warp?_updWarp _ h fun _ => by rfl) hg]
        rfl
      | b i =>
        rw [State.homeValue_eq h hg, State.homeValue_eq (s := s.writeOne r lane (.b i) x)
          (State.warp?_updBlock (fun b => b.setB i.toNat x) h (fun _ => rfl) rfl) hg]
        rfl
      | sp i => simp [Operand.isReg, Operand.isSp] at ho
      | _ => simp [copied] at he
    | _ =>
      rw [State.homeValue_operand _ _ _ (by rfl), State.homeValue_operand _ _ _ (by rfl)]
      exact State.operand_writeOne_other h hg lane ho he x hp
  cases o with
  | k i =>
    obtain ⟨h1, h2⟩ := State.writeOne_k h hg lane i x
    rw [State.homeValue_eq h1 h2, State.homeValue_eq h hg]
    cases p with
    | k j =>
      simp only [Grid.kSet_setK]
      refine RegSet.at_write_other _ _ _ fun e => ?_
      have : i = j := BitVec.eq_of_toNat_eq e.symm
      simp [sameReg, this] at hp
    | _ =>
      simp only [State.writeOne, (State.warp?_some.1 h).1]
      rfl
  | g i =>
    obtain ⟨h1, h2⟩ := State.writeOne_g h hg lane i x
    rw [State.homeValue_eq h1 h2, State.homeValue_eq h hg]
    cases p with
    | g j =>
      simp only [Grid.gSet_setG]
      refine RegSet.at_write_other _ _ _ fun e => ?_
      have : i = j := BitVec.eq_of_toNat_eq e.symm
      simp [sameReg, this] at hp
    | k j => simp only [Grid.kSet_setG]
    | sp j =>
      simp only [State.writeOne, (State.warp?_some.1 h).1, readOperand, readSpecial_setG]
      rfl
    | _ =>
      simp only [State.writeOne, (State.warp?_some.1 h).1]
      rfl
  | sp i => simp [Operand.isReg, Operand.isSp] at ho
  | _ => exact easy (by rfl)

end Sys2Proof.Machine
end

