-- ==== Sys2Proof/Laws/Results.lean ====
section
/-!
SUPPORT. What a result written to a destination leaves in the registers (R56, R115), and what the
completion of a word leaves alone (R99, R102).
-/

namespace Sys2Proof.Machine

/-! ## Completion -/

theorem Warp.complete_slot (w : Warp) (e : Entry) (pc : Nat) (j : Option (Nat × Bool)) (red : Bool)
    (now : Nat) : (w.complete e pc j red now).slot = w.slot := by
  unfold Warp.complete
  rfl

theorem Warp.complete_regs (w : Warp) (e : Entry) (pc : Nat) (j : Option (Nat × Bool)) (red : Bool)
    (now : Nat) : (w.complete e pc j red now).regs = w.regs := by
  unfold Warp.complete
  rfl

/-- A register of classes 0 to 6 reads the same after an update of the warp that keeps its registers. -/
theorem State.operand_updWarp_reg {s : State} {r : WarpRef} {b : Block} {w : Warp} {g : Grid}
    (h : s.warp? r = some (b, w)) (hg : s.grid? b.grid = some g) (f : Warp → Warp)
    (hs : ∀ w, (f w).slot = w.slot) (hr : (f w).regs = w.regs) (lane : Nat) {o : Operand}
    (ho : o.isReg = true) : (s.updWarp r f).operand r lane o = s.operand r lane o := by
  rw [State.operand_eq h hg, State.operand_eq (State.warp?_updWarp _ h hs) hg]
  cases o with
  | sp i => simp [Operand.isReg, Operand.isSp] at ho
  | _ => simp only [readOperand, hr] <;> rfl

@[simp] theorem State.operand_updCtx (s : State) (id : Nat) (f : Context → Context) (r : WarpRef)
    (lane : Nat) (o : Operand) : (s.updCtx id f).operand r lane o = s.operand r lane o := rfl

/-- A register of classes 0 to 6 reads the same once its word has completed. -/
theorem State.operand_complete {s : State} {r : WarpRef} {b : Block} {w : Warp} {g : Grid}
    (h : s.warp? r = some (b, w)) (hg : s.grid? b.grid = some g) (k : Grid) (e : Entry) (pc : Nat)
    (j : Option (Nat × Bool)) (lane : Nat) {o : Operand} (ho : o.isReg = true) :
    (s.complete r k e pc j).operand r lane o = s.operand r lane o := by
  unfold State.complete State.progress
  rw [State.operand_updCtx]
  exact State.operand_updWarp_reg h hg _ (fun w => Warp.complete_slot _ _ _ _ _ _)
    (Warp.complete_regs _ _ _ _ _ _) lane ho

/-! ## Several registers -/

theorem Operand.nth_zero (o : Operand) : o.nth 0 = o := by
  cases o <;> simp [Operand.nth]

theorem Operand.nth_nth (o : Operand) (j k : Nat) : (o.nth j).nth k = o.nth (j + k) := by
  cases o <;> simp [Operand.nth, BitVec.add_assoc, BitVec.ofNat_add]

theorem Operand.nth_isReg (o : Operand) (k : Nat) : (o.nth k).isReg = o.isReg := by
  cases o <;> rfl

/-- Registers up to 16 apart are different. -/
theorem Operand.nth_ne {o : Operand} (ho : o.isReg = true) {j k : Nat} (hj : j < 32) (hk : k < 32)
    (h : j ≠ k) : o.nth j ≠ o.nth k := by
  have key : ∀ (n : Nat) (i : BitVec n), 2 ^ n ≥ 32 → i + BitVec.ofNat n j ≠ i + BitVec.ofNat n k := by
    intro n i hn e
    have e2 := congrArg BitVec.toNat (add_left_cancel e)
    simp only [BitVec.toNat_ofNat] at e2
    rw [Nat.mod_eq_of_lt (by omega), Nat.mod_eq_of_lt (by omega)] at e2
    exact h e2
  cases o with
  | sp i => simp [Operand.isReg, Operand.isSp] at ho
  | v i => exact fun e => key 6 i (by decide) (by simpa [Operand.nth] using e)
  | o i => exact fun e => key 5 i (by decide) (by simpa [Operand.nth] using e)
  | w i => exact fun e => key 5 i (by decide) (by simpa [Operand.nth] using e)
  | b i => exact fun e => key 5 i (by decide) (by simpa [Operand.nth] using e)
  | k i => exact fun e => key 5 i (by decide) (by simpa [Operand.nth] using e)
  | g i => exact fun e => key 5 i (by decide) (by simpa [Operand.nth] using e)

theorem sameReg_nth {o : Operand} (ho : o.isReg = true) {j k : Nat} (hj : j < 32) (hk : k < 32)
    (h : j ≠ k) (l m : Nat) : sameReg (o.nth j) (o.nth k) l m = false := by
  have hne := Operand.nth_ne ho hj hk h
  cases o with
  | sp i => simp [Operand.isReg, Operand.isSp] at ho
  | v i => simp [Operand.nth] at hne; simp [sameReg, Operand.nth, hne]
  | o i => simp [Operand.nth] at hne; simp [sameReg, Operand.nth, hne]
  | w i => simp [Operand.nth] at hne; simp [sameReg, Operand.nth, hne]
  | b i => simp [Operand.nth] at hne; simp [sameReg, Operand.nth, hne]
  | k i => simp [Operand.nth] at hne; simp [sameReg, Operand.nth, hne]
  | g i => simp [Operand.nth] at hne; simp [sameReg, Operand.nth, hne]

/-- The warp and its grid are there. -/
def State.Has (s : State) (r : WarpRef) : Prop :=
  ∃ b w g, s.warp? r = some (b, w) ∧ s.grid? b.grid = some g

theorem State.Has.writeOne {s : State} {r : WarpRef} (h : s.Has r) (lane : Nat) (o : Operand) (x : Word) :
    (s.writeOne r lane o x).Has r := by
  obtain ⟨b, w, g, h1, h2⟩ := h
  obtain ⟨b', w', g', h3, h4, h5⟩ := State.writeOne_there h1 h2 lane o x
  exact ⟨b', w', g', h3, by rw [h4]; exact h5⟩

theorem State.Has.writeRegs {s : State} {r : WarpRef} (h : s.Has r) (lane : Nat) (o : Operand) (n x : Nat) :
    (s.writeRegs r lane o n x).Has r := by
  induction n generalizing s o x with
  | zero => exact h
  | succ n ih => exact ih (h.writeOne _ _ _) _ _

theorem State.Has.home_same {s : State} {r : WarpRef} (h : s.Has r) (lane : Nat) {o : Operand}
    (ho : o.isReg = true) (x : Word) : (s.writeOne r lane o x).homeValue r lane o = x := by
  obtain ⟨b, w, g, h1, h2⟩ := h
  exact State.homeValue_writeOne_same h1 h2 lane ho x

theorem State.Has.home_other {s : State} {r : WarpRef} (h : s.Has r) (lane : Nat) {o : Operand}
    (ho : o.isReg = true) (x : Word) {m : Nat} {p : Operand} (hp : sameReg o p lane m = false) :
    (s.writeOne r lane o x).homeValue r m p = s.homeValue r m p := by
  obtain ⟨b, w, g, h1, h2⟩ := h
  exact State.homeValue_writeOne_other h1 h2 lane ho x hp

/-- Registers that are none of the `n` written hold what they held. -/
theorem State.Has.home_writeRegs_other {s : State} {r : WarpRef} (h : s.Has r) (lane : Nat) {o : Operand}
    (ho : o.isReg = true) (n x : Nat) {m : Nat} {p : Operand}
    (hp : ∀ k, k < n → sameReg (o.nth k) p lane m = false) :
    (s.writeRegs r lane o n x).homeValue r m p = s.homeValue r m p := by
  induction n generalizing s o x with
  | zero => rfl
  | succ n ih =>
    rw [State.writeRegs, ih (h.writeOne _ _ _) (by rw [Operand.nth_isReg]; exact ho)]
    · refine h.home_other lane ho _ ?_
      have := hp 0 (by omega)
      rwa [Operand.nth_zero] at this
    · intro k hk
      rw [Operand.nth_nth]
      exact hp _ (by omega)

/-- Each of `n` written registers holds its part of the value. -/
theorem State.Has.home_writeRegs {s : State} {r : WarpRef} (h : s.Has r) (lane : Nat) {o : Operand}
    (ho : o.isReg = true) {n : Nat} (hn : n ≤ 32) (x : Nat) {k : Nat} (hk : k < n) :
    (s.writeRegs r lane o n x).homeValue r lane (o.nth k) = BitVec.ofNat 32 (x / 2 ^ (32 * k)) := by
  induction n generalizing s o x k with
  | zero => omega
  | succ n ih =>
    rw [State.writeRegs]
    cases k with
    | zero =>
      rw [Operand.nth_zero, State.Has.home_writeRegs_other (h.writeOne _ _ _) lane
        (by rw [Operand.nth_isReg]; exact ho), h.home_same lane ho]
      · simp
      · intro k hk
        have := sameReg_nth ho (j := 1 + k) (k := 0) (by omega) (by omega) (by omega) lane lane
        rwa [Operand.nth_zero, ← Operand.nth_nth] at this
    | succ k =>
      have := ih (h.writeOne lane o (BitVec.ofNat 32 x)) (o := o.nth 1)
        (by rw [Operand.nth_isReg]; exact ho) (by omega) (x / 2 ^ 32) (k := k) (by omega)
      rw [Operand.nth_nth, Nat.add_comm 1 k] at this
      rw [this, Nat.div_div_eq_div_mul, ← Nat.pow_add, Nat.mul_add, Nat.add_comm]

/-- Every register of a set that the warp's core has just written reads as its home holds it. -/
theorem State.Has.settled_writeOne {s : State} {r : WarpRef} (h : s.Has r) (lane : Nat) {o : Operand}
    (ho : o.isReg = true) (x : Word) (m k : Nat) :
    (s.writeOne r lane o x).operand r m (o.nth k) = (s.writeOne r lane o x).homeValue r m (o.nth k) := by
  obtain ⟨b, w, g, h1, h2⟩ := h
  cases o with
  | k i =>
    obtain ⟨h3, h4⟩ := State.writeOne_k h1 h2 lane i x
    rw [State.operand_eq h3 h4, State.homeValue_eq h3 h4]
    simp only [Operand.nth, readOperand, Grid.kSet_setK]
    exact RegSet.read_write _ _ _ _ _
  | g i =>
    obtain ⟨h3, h4⟩ := State.writeOne_g h1 h2 lane i x
    rw [State.operand_eq h3 h4, State.homeValue_eq h3 h4]
    simp only [Operand.nth, readOperand, Grid.gSet_setG]
    exact RegSet.read_write _ _ _ _ _
  | sp i => simp [Operand.isReg, Operand.isSp] at ho
  | _ => exact (State.homeValue_operand _ _ _ rfl).symm

theorem State.Has.settled_writeRegs {s : State} {r : WarpRef} (h : s.Has r) (lane : Nat) {o : Operand}
    (ho : o.isReg = true) {n : Nat} (hn : 0 < n) (x : Nat) (m k : Nat) :
    (s.writeRegs r lane o n x).operand r m (o.nth k)
      = (s.writeRegs r lane o n x).homeValue r m (o.nth k) := by
  induction n generalizing s o x k with
  | zero => omega
  | succ n ih =>
    rw [State.writeRegs]
    cases n with
    | zero => exact h.settled_writeOne lane ho _ m k
    | succ n =>
      -- the registers of a class go round, so the k-th is one counted from the second
      have key : ∃ j, o.nth k = (o.nth 1).nth j := by
        refine ⟨k + 63, ?_⟩
        rw [Operand.nth_nth]
        have e : 1 + (k + 63) = k + 64 := by omega
        rw [e]
        cases o <;> simp [Operand.nth, BitVec.ofNat_add]
      obtain ⟨j, hj⟩ := key
      rw [hj]
      exact ih (h.writeOne _ _ _) (by rw [Operand.nth_isReg]; exact ho) (by omega) _ j

/-- Each of `n` written registers reads its part of the value. -/
theorem State.Has.operand_writeRegs {s : State} {r : WarpRef} (h : s.Has r) (lane : Nat) {o : Operand}
    (ho : o.isReg = true) {n : Nat} (hn : n ≤ 32) (x : Nat) {k : Nat} (hk : k < n) :
    (s.writeRegs r lane o n x).operand r lane (o.nth k) = BitVec.ofNat 32 (x / 2 ^ (32 * k)) := by
  rw [h.settled_writeRegs lane ho (by omega), h.home_writeRegs lane ho hn x hk]

/-- `n` registers that read the parts of a value read the value. -/
theorem State.operandN_of (s : State) (r : WarpRef) (lane : Nat) (o : Operand) (n x : Nat)
    (h : ∀ k, k < n → s.operand r lane (o.nth k) = BitVec.ofNat 32 (x / 2 ^ (32 * k))) :
    s.operandN r lane o n = x % 2 ^ (32 * n) := by
  induction n generalizing o x with
  | zero => simp [State.operandN, Nat.mod_one]
  | succ n ih =>
    have h0 := h 0 (by omega)
    rw [Operand.nth_zero] at h0
    have h1 := ih (o.nth 1) (x / 2 ^ 32) (by
      intro k hk
      rw [Operand.nth_nth, h (1 + k) (by omega), Nat.div_div_eq_div_mul, ← Nat.pow_add]
      congr 3
      omega)
    rw [State.operandN, h0, h1]
    simp only [Nat.mul_zero, Nat.pow_zero, Nat.div_one, BitVec.toNat_ofNat]
    rw [show 32 * (n + 1) = 32 + 32 * n by omega, Nat.pow_add, Nat.mod_mul]

/-! ## Destinations (R115) -/

theorem State.home_lane (s : State) (r : WarpRef) {o : Operand} (ho : o.isReg = true) {l m : Nat}
    (h : sameReg o o l m = true) : s.homeValue r m o = s.homeValue r l o := by
  unfold State.homeValue
  split
  · rfl
  · split
    · rfl
    · cases o with
      | v i => simp [sameReg] at h; simp [h]
      | o i => simp [sameReg] at h; simp [readOperand, h]
      | sp i => simp [Operand.isReg, Operand.isSp] at ho
      | _ => rfl

theorem sameReg_nth_same (o : Operand) (k l m : Nat) :
    sameReg (o.nth k) (o.nth k) l m = sameReg o o l m := by
  cases o <;> simp [sameReg, Operand.nth]

/-- What a run of writes to one destination leaves in a lane whose writes agree. -/
theorem State.Has.home_fold {s : State} {r : WarpRef} (h : s.Has r) {d : Operand} (hd : d.isReg = true)
    {n : Nat} (hn : n ≤ 32) {l v : Nat} (ws : List (Nat × Nat))
    (hv : ∀ x ∈ ws, sameReg d d x.1 l = true → x.2 = v)
    (h0 : (∃ x ∈ ws, sameReg d d x.1 l = true) ∨
      ∀ k, k < n → s.homeValue r l (d.nth k) = BitVec.ofNat 32 (v / 2 ^ (32 * k)))
    {k : Nat} (hk : k < n) :
    (ws.foldl (fun s x => s.writeRegs r x.1 d n x.2) s).homeValue r l (d.nth k)
      = BitVec.ofNat 32 (v / 2 ^ (32 * k)) := by
  induction ws generalizing s with
  | nil =>
    rcases h0 with ⟨x, hx, _⟩ | h0
    · simp at hx
    · exact h0 k hk
  | cons a t ih =>
    rw [List.foldl_cons]
    refine ih (h.writeRegs _ _ _ _) (fun x hx => hv x (List.mem_cons_of_mem _ hx)) ?_
    by_cases ha : sameReg d d a.1 l = true
    · right
      intro j hj
      have hav := hv a (List.mem_cons_self ..) ha
      have hl : sameReg (d.nth j) (d.nth j) a.1 l = true := by rw [sameReg_nth_same]; exact ha
      rw [State.home_lane _ r (by rw [Operand.nth_isReg]; exact hd) hl, h.home_writeRegs _ hd hn _ hj, hav]
    · rcases h0 with ⟨x, hx, hs⟩ | h0
      · rcases List.mem_cons.1 hx with rfl | hx
        · exact absurd hs ha
        · exact .inl ⟨x, hx, hs⟩
      · right
        intro j hj
        rw [h.home_writeRegs_other a.1 hd n a.2]
        · exact h0 j hj
        · intro i hi
          by_cases hij : i = j
          · subst hij
            rw [sameReg_nth_same]
            simpa using ha
          · exact sameReg_nth hd (by omega) (by omega) hij _ _

theorem State.Has.fold {s : State} {r : WarpRef} (h : s.Has r) (d : Operand) (n : Nat)
    (ws : List (Nat × Nat)) : (ws.foldl (fun s x => s.writeRegs r x.1 d n x.2) s).Has r := by
  induction ws generalizing s with
  | nil => exact h
  | cons a t ih => exact ih (h.writeRegs _ _ _ _)

theorem State.Has.settled_fold {s : State} {r : WarpRef} (h : s.Has r) {d : Operand}
    (hd : d.isReg = true) {n : Nat} (hn : 0 < n) {ws : List (Nat × Nat)} (hw : ws ≠ []) (m k : Nat) :
    (ws.foldl (fun s x => s.writeRegs r x.1 d n x.2) s).operand r m (d.nth k)
      = (ws.foldl (fun s x => s.writeRegs r x.1 d n x.2) s).homeValue r m (d.nth k) := by
  rcases List.eq_nil_or_concat ws with rfl | ⟨t, x, rfl⟩
  · exact absurd rfl hw
  · rw [List.concat_eq_append, List.foldl_append]
    exact (h.fold d n t).settled_writeRegs x.1 hd hn x.2 m k

/-- Two lanes that write one register agree (R115). -/
theorem agree_of_disagreeing {d : Operand} (hd : d.isReg = true) {vals : List (Nat × Nat)}
    (h : disagreeing d vals = []) {x y : Nat × Nat} (hx : x ∈ vals) (hy : y ∈ vals)
    (hv : (match d with
      | .v _ => x.1 = y.1 → x.2 = y.2
      | _ => True)) (hs : sameReg d d x.1 y.1 = true) : x.2 = y.2 := by
  have key : ∀ q : Nat → Nat,
      (vals.filter fun x => match vals.find? fun y => q x.1 == q y.1 with
        | some y => y.2 != x.2
        | none => false).map Prod.fst = [] → q x.1 = q y.1 → x.2 = y.2 := by
    intro q hf hxy
    have hf' : ∀ z ∈ vals, ∀ w, vals.find? (fun y => q z.1 == q y.1) = some w → w.2 = z.2 := by
      intro z hz w hw
      have h1 := List.map_eq_nil_iff.1 hf
      rw [List.filter_eq_nil_iff] at h1
      have h2 := h1 z hz
      simpa [hw] using h2
    cases hfx : vals.find? (fun w => q x.1 == q w.1) with
    | none =>
      have := List.find?_eq_none.1 hfx x hx
      simp at this
    | some w => rw [← hf' x hx w hfx, ← hf' y hy w (by rw [← hxy]; exact hfx)]
  cases d with
  | v i =>
    simp [sameReg] at hs
    exact hv hs
  | o i => exact key (fun a => a / 8) h (by simpa [sameReg] using hs)
  | sp i => simp [Operand.isReg, Operand.isSp] at hd
  | _ => exact key (fun _ => 0) h rfl

/-- A register of classes 0 to 6 does not depend on the functions' partitions. -/
theorem State.operand_vfs (s : State) (m : List Vf) (r : WarpRef) (l : Nat) {o : Operand} (ho : o.isReg = true) :
    ({ s with vfs := m } : State).operand r l o = s.operand r l o := by
  cases o with
  | sp i => simp [Operand.isReg, Operand.isSp] at ho
  | _ => rfl

theorem State.homeValue_vfs (s : State) (m : List Vf) (r : WarpRef) (l : Nat) {o : Operand} (ho : o.isReg = true) :
    ({ s with vfs := m } : State).homeValue r l o = s.homeValue r l o := by
  cases o with
  | sp i => simp [Operand.isReg, Operand.isSp] at ho
  | _ => rfl

/-- In a lane with a value each register of the destination reads its part of it, every destination of
classes 0 to 6 alike. -/
theorem State.Has.operand_writeDest {s : State} {r : WarpRef} (h : s.Has r) {d : Operand}
    (hd : d.isReg = true) {n : Nat} (hn : n ≤ 32) {vals : List (Nat × Nat)}
    (ha : disagreeing d vals = []) (hu : ∀ x ∈ vals, ∀ y ∈ vals, x.1 = y.1 → x.2 = y.2)
    {l v : Nat} (hl : (l, v) ∈ vals) {k : Nat} (hk : k < n) :
    (s.writeDest r d n vals).operand r l (d.nth k) = BitVec.ofNat 32 (v / 2 ^ (32 * k)) := by
  have hag : ∀ x ∈ vals, sameReg d d x.1 l = true → x.2 = v := fun x hx hs =>
    agree_of_disagreeing hd ha hx hl (by cases d <;> first | exact hu x hx _ hl | trivial) hs
  have hsub : ∀ x ∈ destVals d vals, x ∈ vals := by
    intro x hx
    unfold destVals at hx
    split at hx
    · exact hx
    · exact hx
    · simp [Operand.isReg, Operand.isSp] at hd
    · exact List.mem_of_mem_take hx
  have hex : ∃ x ∈ destVals d vals, sameReg d d x.1 l = true := by
    have hcons : ∃ x, x ∈ vals.take 1 := by
      cases vals with
      | nil => simp at hl
      | cons a t => exact ⟨a, by simp⟩
    cases d with
    | v i => exact ⟨(l, v), hl, by simp [sameReg]⟩
    | o i => exact ⟨(l, v), hl, by simp [sameReg]⟩
    | sp i => simp [Operand.isReg, Operand.isSp] at hd
    | _ =>
      obtain ⟨x, hx⟩ := hcons
      exact ⟨x, hx, by simp [sameReg]⟩
  have hne : destVals d vals ≠ [] := by
    obtain ⟨x, hx, _⟩ := hex
    exact List.ne_nil_of_mem hx
  obtain ⟨b, w, g, h1, h2⟩ := h.fold d n (destVals d vals)
  unfold State.writeDest
  obtain ⟨_, hp⟩ := State.passTags_vfs (((destVals d vals).foldl (fun s x => s.writeRegs r x.1 d n x.2) s).updWarp r
    fun w => { w with flt := { w.flt with
      marks := clearMarks d n (maskOf (vals.map Prod.fst)) w.flt.marks } }) r (if vals.isEmpty then .sp 0 else d)
  dsimp only
  rw [hp, State.operand_vfs _ _ _ _ (by rw [Operand.nth_isReg]; exact hd)]
  rw [State.operand_updWarp_reg h1 h2 _ (fun _ => by rfl) (by rfl) l (by rw [Operand.nth_isReg]; exact hd)]
  rw [h.settled_fold hd (by omega) hne]
  exact h.home_fold hd hn _ (fun x hx => hag x (hsub x hx)) (.inl hex) hk

/-- The value of a lane, read from its destination. -/
theorem State.Has.operandN_writeDest {s : State} {r : WarpRef} (h : s.Has r) {d : Operand}
    (hd : d.isReg = true) {n : Nat} (hn : n ≤ 32) {vals : List (Nat × Nat)}
    (ha : disagreeing d vals = []) (hu : ∀ x ∈ vals, ∀ y ∈ vals, x.1 = y.1 → x.2 = y.2)
    {l v : Nat} (hl : (l, v) ∈ vals) :
    (s.writeDest r d n vals).operandN r l d n = v % 2 ^ (32 * n) :=
  State.operandN_of _ _ _ _ _ _ fun _ hk => h.operand_writeDest hd hn ha hu hl hk

/-- A destination that passes its checks agrees (R115). -/
theorem disagreeing_of_destFault {d : Operand} {vals : List (Nat × Nat)}
    (h : destFault d vals = none) : disagreeing d vals = [] := by
  unfold destFault at h
  simp only at h
  split at h
  · cases h
  · rename_i hb
    simpa using hb

/-- Registers that are none of the destination's hold what they held. -/
theorem State.Has.home_writeDest_other {s : State} {r : WarpRef} (h : s.Has r) {d : Operand}
    (hd : d.isReg = true) (n : Nat) (vals : List (Nat × Nat)) {m : Nat} {p : Operand}
    (hpr : p.isReg = true)
    (hp : ∀ x ∈ vals, ∀ k, k < n → sameReg (d.nth k) p x.1 m = false) :
    (s.writeDest r d n vals).homeValue r m p = s.homeValue r m p := by
  have hsub : ∀ x ∈ destVals d vals, x ∈ vals := by
    intro x hx
    unfold destVals at hx
    split at hx
    · exact hx
    · exact hx
    · simp [Operand.isReg, Operand.isSp] at hd
    · exact List.mem_of_mem_take hx
  have key : ∀ (ws : List (Nat × Nat)) (s : State), s.Has r → (∀ x ∈ ws, x ∈ vals) →
      (ws.foldl (fun s x => s.writeRegs r x.1 d n x.2) s).homeValue r m p = s.homeValue r m p := by
    intro ws
    induction ws with
    | nil => intro _ _ _; rfl
    | cons a t ih =>
      intro s hs hw
      rw [List.foldl_cons, ih _ (hs.writeRegs _ _ _ _) fun x hx => hw x (List.mem_cons_of_mem _ hx)]
      exact hs.home_writeRegs_other _ hd n _ (hp a (hw a (List.mem_cons_self ..)))
  obtain ⟨b, w, g, h1, h2⟩ := h.fold d n (destVals d vals)
  unfold State.writeDest
  obtain ⟨_, ht⟩ := State.passTags_vfs (((destVals d vals).foldl (fun s x => s.writeRegs r x.1 d n x.2) s).updWarp r
    fun w => { w with flt := { w.flt with
      marks := clearMarks d n (maskOf (vals.map Prod.fst)) w.flt.marks } }) r (if vals.isEmpty then .sp 0 else d)
  dsimp only
  rw [ht, State.homeValue_vfs _ _ _ _ hpr, ← key _ s h hsub]
  generalize (destVals d vals).foldl (fun s x => s.writeRegs r x.1 d n x.2) s = t at h1 h2
  rw [State.homeValue_eq h1 h2, State.homeValue_eq (State.warp?_updWarp _ h1 fun _ => by rfl) h2]
  cases p with
  | sp i => simp [Operand.isReg, Operand.isSp] at hpr
  | _ => rfl

end Sys2Proof.Machine
end

