-- ==== Sys2Proof/Tests/Slice0.lean ====
section
/-!
SUPPORT. Tests: words of the spec against the decoder, ill-formed instructions, single steps on small
states with results worked out from the spec, and for every claim with hypotheses states that meet them.
-/

namespace Sys2Proof.Tests

open Sys2Proof Sys2Proof.Machine Sys2Proof.Claims

set_option Elab.async false

/-! ## Decoding: words written out in the spec -/

/-- A word of the spec decodes to an instruction, and is its encoding. -/
def reads (x : Word) (i : Instr) : Bool := decode x == .ok i && encode i == some x

/-- R98, R99 to R109: control. -/
theorem test_decode_control :
    reads 0x00000000 (.nop false) && reads 0x80000000 (.nop true) && reads 0x06007F00 (.ret false (.w 31))
      && reads 0x07640003 (.loop false (.w 4) 3) && reads 0x08000000 (.exit false 0)
      && reads 0x0A002200 (.waitc false 1 1) && reads 0x0F000012 (.trap false 0x12)
      && reads 0x0E004000 (.bar false 2) = true := by decide

/-- R136 to R153: lane arithmetic. -/
theorem test_decode_arithmetic :
    reads 0x10030102 (.add false (.v 3) (.v 1) (.v 2)) && reads 0x1214080C (.mul false (.v 20) (.v 8) (.v 12))
      && reads 0x13030102 (.mulh false (.v 3) (.v 1) (.v 2)) && reads 0x17020100 (.abs false (.v 2) (.v 1))
      && reads 0x19010203 (.and false (.v 1) (.v 2) (.v 3)) && reads 0x1C010200 (.not false (.v 1) (.v 2))
      && reads 0x1D010203 (.shl false (.v 1) (.v 2) (.v 3)) && reads 0x20010203 (.addc false (.v 1) (.v 2) (.v 3))
      && reads 0x22010200 (.popc false (.v 1) (.v 2)) && reads 0x25010260 (.bfx false (.v 1) (.v 2) (.w 0))
      && reads 0x28220102 (.cmp false 2 2 (.v 1) (.v 2)) && reads 0x27030102 (.sel false (.v 3) (.v 1) (.v 2))
      && reads 0x2A07FFFF (.movi false (.v 7) (-1)) && reads 0x2B074B80 (.movh false (.v 7) 0x4B80)
      && reads 0x2C020100 (.frint false (.v 2) (.v 1)) && reads 0x2F050460 (.unpk false (.v 5) (.v 4) (.w 0))
      && reads 0x3C020103 (.fscale false (.v 2) (.v 1) (.v 3)) && reads 0xB1020300 (.frcp true (.v 2) (.v 3))
      = true := by decide

/-- R127 to R130: words on scopes and lanes. -/
theorem test_decode_scoped :
    reads 0x40781801 (.raise false (.w 24) (.v 24) 1) && reads 0x41610302 (.vote false (.w 1) (.v 3) 2)
      && reads 0x43040267 (.shfx false (.v 4) (.v 2) (.w 7))
      && reads 0x4602010B (.plog false 0 2 false 1 true 3) = true := by decide

/-- R184 to R196: memory. -/
theorem test_decode_memory :
    reads 0x4A080400 (.ldw false (.v 8) (.v 4) 0) && reads 0x49787600 (.st false (.w 24) (.w 22) 0)
      && reads 0xD0797C7A (.aadd true (.w 25) (.w 28) (.w 26))
      && reads 0x5D141012 (.dualst false (.v 20) (.v 16) (.v 18)) = true := by decide

/-- R311, R318, R351: CTL. -/
theorem test_decode_ctl :
    reads 0x7D000000 (.idem false) && reads 0x7D000001 (.chkpt false) && reads 0x7D000704 (.bkpt false 7)
      = true := by decide

/-- R51: unassigned and illegal majors, a reserved field, reserved sub-ops. -/
theorem test_decode_refuses :
    decode 0x3E000000 = .error .unassignedMajor ∧ decode 0xFFFFFFFF = .error .permanentlyIllegal
      ∧ decode 0x00000001 = .error .reservedField ∧ decode 0x7D000005 = .error .reservedSubop
      ∧ decode 0x7E000005 = .error .reservedSubop := by decide

/-- R29: the first byte of a word is its low byte. -/
theorem test_bytes_of_a_word :
    decodeTableWord 32 0x10030102 = some (.add false (.v 3) (.v 1) (.v 2))
      ∧ bytesOfWord 0x10030102 = [0x02, 0x01, 0x03, 0x10] := by decide

/-! ## Ill-formed instructions, one for each check -/

/-- R102, R42, R108, R145, R148, R127, R128, R130: a code that its entry reserves. -/
theorem test_reserved_codes_are_ill_formed :
    Instr.wellFormed (.loop false (.w 4) 0) = false ∧ Instr.wellFormed (.loop false (.w 4) 65) = false
      ∧ Instr.wellFormed (.setmode false 0 0) = false ∧ Instr.wellFormed (.bar false 1) = false
      ∧ Instr.wellFormed (.cmp false 9 2 (.v 1) (.v 2)) = false
      ∧ Instr.wellFormed (.cvt false (.v 1) (.v 2) 15) = false
      ∧ Instr.wellFormed (.raise false (.w 0) (.v 0) 7) = false
      ∧ Instr.wellFormed (.vote false (.w 0) (.v 0) 5) = false
      ∧ Instr.wellFormed (.plog false 3 1 false 1 false 1) = false
      ∧ Instr.wellFormed (.yield false 4 0 0) = false ∧ Instr.wellFormed (.waitc false 4 0) = false
      ∧ Instr.wellFormed (.fence false 5 0) = false ∧ Instr.wellFormed (.acca false (.w 0) 0) = false
      ∧ Instr.wellFormed (.nred false (.v 0) (.v 0) 0 3) = false
      ∧ Instr.wellFormed (.lcpIn false (.v 0) (.v 2) 3) = false
      ∧ Instr.wellFormed (.seal false false 1 0) = false := by decide

/-- R39: a special operand that does not exist, and a read-only one as a destination. -/
theorem test_special_operands_are_checked :
    Instr.wellFormed (.add false (.v 1) (.sp 27) (.v 2)) = false
      ∧ Instr.wellFormed (.add false (.sp 1) (.v 1) (.v 2)) = false
      ∧ Instr.wellFormed (.add false (.sp 20) (.sp 1) (.v 2)) = true := by decide

/-- R45: p0 is no destination. -/
theorem test_p0_is_no_destination :
    Instr.wellFormed (.cmp false 0 0 (.v 1) (.v 2)) = false
      ∧ Instr.wellFormed (.plog false 0 0 false 1 false 2) = false := by decide

/-! ## Small states -/

/-- The warp that the tests issue words of. -/
def me : WarpRef := { blk := 1, slot := 0 }

/-- One warp of 8 lanes, alone in its grid, in a privileged context, at image offset 64 of 128. -/
def one : State := { State.reset.launchSolo 0 with issue := [], cur := me }

/-- Changes to its parts. -/
def warp (s : State) (f : Warp → Warp) : State := s.updWarp me f
def block (s : State) (f : Block → Block) : State := s.updBlock 1 f
def grid (s : State) (f : Grid → Grid) : State := s.updGrid 1 f
def pack (s : State) (f : Packet → Packet) : State := grid s fun g => { g with packet := f g.packet }
def desc (s : State) (f : Desc → Desc) : State := grid s fun g => { g with desc := f g.desc }
def context (s : State) (f : Context → Context) : State := s.updCtx 1 f
def ctl (s : State) (f : WarpCtl → WarpCtl) : State := warp s fun w => { w with ctl := f w.ctl }
def role (s : State) (r : Role) : State := warp s fun w => { w with role := r }

/-- A register of a lane set, and a register set in every lane. -/
def put (s : State) (l : Nat) (o : Operand) (x : Word) : State := s.writeOne me l o x
def fill (s : State) (o : Operand) (f : Nat → Word) : State :=
  (List.range 8).foldl (fun s l => put s l o (f l)) s

/-- MODE: gd, ty, rd and sat. -/
def mode (s : State) (x : Word) : State := ctl s fun c => { c with mode := x }

/-- The word that `mk` describes meets no check of R52 at the state, and its context has `P`. -/
def Meets (s : State) (mk : Word → Entry) (P : Ctx → Bool) : Bool :=
  match s.warp? s.cur with
  | none => false
  | some (b, w) => match s.grid? b.grid with
    | none => false
    | some g =>
      let c := mkCtx s s.cur b w g (mk w.ctl.mode)
      w.mayIssue && (s.aheadOf b.core s.cur).isNone
        && (!(w.run == .ready && w.flt.skipComp != some w.ctl.pc)
          || decide (s.comparators g.ctx (g.packet.image + BitVec.ofNat 64 w.ctl.pc) = 0))
        && ((mk w.ctl.mode).staticFault w g (s.privileged g.ctx)).isNone
        && step9 w (w.marksOf b g) (mk w.ctl.mode) (c.markLanes (mk w.ctl.mode)) == .go
        && (!g.packet.twin || s.upsetOf s.cur == 0)
        && P c

/-- The word stands, whatever items 3 to 9 of R52 say of it. -/
def Reached (s : State) (mk : Word → Entry) (P : Ctx → Bool) : Bool :=
  match s.warp? s.cur with
  | none => false
  | some (b, w) => match s.grid? b.grid with
    | none => false
    | some g =>
      let c := mkCtx s s.cur b w g (mk w.ctl.mode)
      w.mayIssue && (s.aheadOf b.core s.cur).isNone
        && (!(w.run == .ready && w.flt.skipComp != some w.ctl.pc)
          || decide (s.comparators g.ctx (g.packet.image + BitVec.ofNat 64 w.ctl.pc) = 0))
        && P c

theorem noMatch_of {q : Bool} {p : Prop} [Decidable p] (h : (!q || decide p) = true) (hq : q = true) : p := by
  rw [hq] at h
  exact of_decide_eq_true h

theorem reaches {s : State} {mk : Word → Entry} {P : Ctx → Prop} [DecidablePred P]
    (h : Reached s mk (fun c => decide (P c)) = true) : ∃ c, s.Stands mk c ∧ P c := by
  unfold Reached at h
  split at h
  · cases h
  · rename_i b w hw
    split at h
    · cases h
    · rename_i g hg
      obtain ⟨h, h4⟩ := Bool.and_eq_true_iff.1 h
      obtain ⟨h, h3⟩ := Bool.and_eq_true_iff.1 h
      obtain ⟨h1, h2⟩ := Bool.and_eq_true_iff.1 h
      exact ⟨_, ⟨hw, hg, h1, Option.isNone_iff_eq_none.1 h2, noMatch_of h3, rfl⟩, of_decide_eq_true h4⟩

theorem has {s : State} {mk : Word → Entry} {P : Ctx → Prop} [DecidablePred P]
    (h : Meets s mk (fun c => decide (P c)) = true) : ∃ c, s.Issues mk c ∧ P c := by
  unfold Meets at h
  split at h
  · cases h
  · rename_i b w hw
    split at h
    · cases h
    · rename_i g hg
      obtain ⟨h, h7⟩ := Bool.and_eq_true_iff.1 h
      obtain ⟨h, h6⟩ := Bool.and_eq_true_iff.1 h
      obtain ⟨h, h5⟩ := Bool.and_eq_true_iff.1 h
      obtain ⟨h, h4⟩ := Bool.and_eq_true_iff.1 h
      obtain ⟨h, h3⟩ := Bool.and_eq_true_iff.1 h
      obtain ⟨h1, h2⟩ := Bool.and_eq_true_iff.1 h
      have hs : s.Stands mk (mkCtx s s.cur b w g (mk w.ctl.mode)) :=
        ⟨hw, hg, h1, Option.isNone_iff_eq_none.1 h2, noMatch_of h3, rfl⟩
      exact ⟨_, ⟨hs, Option.isNone_iff_eq_none.1 h4, eq_of_beq h5, by
        simpa [mkCtx] using h6⟩, of_decide_eq_true h7⟩

/-! ## States that meet the hypotheses of the claims

One theorem, or a few, for each claim: its hypotheses, met together; where its clauses divide the values of
an input, at the values where they meet. -/

/-! ### Lane arithmetic -/

/-- The conditions of `Gives` on a lane word. -/
def laneMeets (s : State) (i : Instr) : Bool :=
  match laneForm i with
  | none => false
  | some x => Meets s x.entry fun c => decide (x.dest.isReg = true ∧ destFault x.dest (x.values c) = none)

theorem lane {s : State} {i : Instr} (h : laneMeets s i = true) :
    ∃ x c, laneForm i = some x ∧ s.Issues x.entry c ∧ x.dest.isReg = true
      ∧ destFault x.dest (x.values c) = none := by
  unfold laneMeets at h
  split at h
  · cases h
  · rename_i x hx
    obtain ⟨c, hc, hd⟩ := has h
    exact ⟨x, c, hx, hc, hd⟩

theorem lanes {s : State} {is : List Instr} (h : is.all (laneMeets s) = true) :
    ∀ i ∈ is, ∃ x c, laneForm i = some x ∧ s.Issues x.entry c ∧ x.dest.isReg = true
      ∧ destFault x.dest (x.values c) = none :=
  fun i hi => lane (List.all_eq_true.1 h i hi)

/-- The words of a claim, on v3, v1 and v2. -/
def intWords : List Instr :=
  [.add false (.v 3) (.v 1) (.v 2), .sub false (.v 3) (.v 1) (.v 2), .mul false (.v 3) (.v 1) (.v 2),
    .mad false (.v 3) (.v 1) (.v 2), .msb false (.v 3) (.v 1) (.v 2), .abs false (.v 3) (.v 1),
    .neg false (.v 3) (.v 1), .mulh false (.v 3) (.v 1) (.v 2), .min false (.v 3) (.v 1) (.v 2),
    .max false (.v 3) (.v 1) (.v 2)]
def bitWords : List Instr :=
  [.and false (.v 3) (.v 1) (.v 2), .or false (.v 3) (.v 1) (.v 2), .xor false (.v 3) (.v 1) (.v 2),
    .not false (.v 3) (.v 1), .shl false (.v 3) (.v 1) (.v 2), .shr false (.v 3) (.v 1) (.v 2),
    .sar false (.v 3) (.v 1) (.v 2), .popc false (.v 3) (.v 1), .clz false (.v 3) (.v 1),
    .brev false (.v 3) (.v 1), .bfx false (.v 3) (.v 1) (.w 0), .bfi false (.v 3) (.v 1) (.w 0),
    .mov false (.v 3) (.v 1), .movi false (.v 3) 5, .movh false (.v 3) 5, .sel false (.v 3) (.v 1) (.v 2)]
def floatWords : List Instr :=
  [.frint false (.v 3) (.v 1), .fscale false (.v 3) (.v 1) (.v 2), .fclass false (.v 3) (.v 1),
    .cmul false (.v 4) (.v 0) (.v 2), .cfma false (.v 4) (.v 0) (.v 2), .rnd false (.v 3),
    .cvt false (.v 3) (.v 1) 4]
def byteWords : List Instr :=
  [.dot4 false (.v 3) (.v 1) (.v 2), .pack false (.v 3) (.v 1) (.v 2)]

/-- LaneWordsComplete, LaneResultIsRead, IntegerArithmeticIsExact, BitwiseWordsWorkOnEachBit,
ShiftsFillAndDrop, BitFieldWords, MovesAndSelect: under s32. -/
theorem meets_integer_words : ∀ i ∈ intWords ++ bitWords, ∃ x c, laneForm i = some x ∧ one.Issues x.entry c
    ∧ x.dest.isReg = true ∧ destFault x.dest (x.values c) = none := lanes (by decide)

/-- LaneWordsComplete, LaneResultIsRead: under f32, and under s8x4. -/
theorem meets_float_words : ∀ i ∈ floatWords, ∃ x c, laneForm i = some x
    ∧ (mode one 0x40).Issues x.entry c ∧ x.dest.isReg = true ∧ destFault x.dest (x.values c) = none :=
  lanes (by decide)
theorem meets_byte_words : ∀ i ∈ byteWords, ∃ x c, laneForm i = some x
    ∧ (mode one 0xC0).Issues x.entry c ∧ x.dest.isReg = true ∧ destFault x.dest (x.values c) = none :=
  lanes (by decide)

/-- LaneWordsComplete: FRCP to FCOSPI, with every lane in C and with none. -/
theorem meets_late_words : ∀ i ∈ [Instr.frcp false (.v 3) (.v 1), .frsq false (.v 3) (.v 1),
      .fsqrt false (.v 3) (.v 1), .fexp2 false (.v 3) (.v 1), .flog2 false (.v 3) (.v 1),
      .fsinpi false (.v 3) (.v 1), .fcospi false (.v 3) (.v 1)],
    (∃ x, lateForm i = some x ∧ ∃ c, (mode one 0x40).Issues x.entry c ∧ c.lanes ≠ [])
      ∧ ∃ x, lateForm i = some x ∧ ∃ c, (mode one 0x48).Issues x.entry c ∧ c.lanes = [] := by
  simp only [List.forall_mem_cons, List.not_mem_nil, false_implies, implies_true, and_true]
  exact ⟨⟨⟨_, rfl, has (by decide)⟩, _, rfl, has (by decide)⟩, ⟨⟨_, rfl, has (by decide)⟩, _, rfl, has (by decide)⟩,
    ⟨⟨_, rfl, has (by decide)⟩, _, rfl, has (by decide)⟩, ⟨⟨_, rfl, has (by decide)⟩, _, rfl, has (by decide)⟩,
    ⟨⟨_, rfl, has (by decide)⟩, _, rfl, has (by decide)⟩, ⟨⟨_, rfl, has (by decide)⟩, _, rfl, has (by decide)⟩,
    ⟨_, rfl, has (by decide)⟩, _, rfl, has (by decide)⟩

/-- NaNGivesTheCanonicalNaN: a NaN in v1 under f32. -/
theorem meets_nan : ∀ i ∈ intWords.take 5 ++ [.min false (.v 3) (.v 1) (.v 2), .max false (.v 3) (.v 1) (.v 2)],
    ∃ x c, laneForm i = some x ∧ (put (mode one 0x40) 0 (.v 1) 0x7F800001).Issues x.entry c
      ∧ x.dest.isReg = true ∧ destFault x.dest (x.values c) = none := lanes (by decide)
theorem meets_nan_operand : ∃ c, (put (mode one 0x40) 0 (.v 1) 0x7F800001).Issues
      (fun m => entry3 false m tyNum true (.v 3) (.v 1) (.v 2)) c
    ∧ ty c = 4 ∧ (Fmt.f32.decode (el c 0 (.v 1) 0)).isNan = true := has (by decide)
theorem meets_nan_accumulator : ∃ c, (put (mode one 0x40) 0 (.v 3) 0x7F800001).Issues
      (fun m => entry3 true m tyNum true (.v 3) (.v 1) (.v 2)) c
    ∧ ty c = 4 ∧ (Fmt.f32.decode (el c 0 (.v 3) 0)).isNan = true := has (by decide)

/-- RoundingKeepsRepresentableValues: the least subnormal of f32; and a magnitude of one unit. -/
theorem meets_representable : 1 < 2 ^ Fmt.f32.width ∧ Fmt.f32.decode 1 ≠ .nan ∧ (1 : Nat) ≠ 0 := by decide

/-- LaneWordFrame, SpecialDestinations: %zero, %mode, %pred and %status as destinations. -/
theorem meets_special_destinations : ∀ d ∈ [Operand.sp 0, .sp 12, .sp 13, .sp 20],
    ∃ x, laneForm (.add false d (.v 1) (.v 2)) = some x ∧ x.dest = d
      ∧ ∃ c, one.Issues x.entry c ∧ destFault x.dest (x.values c) = none := by
  simp only [List.forall_mem_cons, List.not_mem_nil, false_implies, implies_true, and_true]
  exact ⟨⟨_, rfl, rfl, has (by decide)⟩, ⟨_, rfl, rfl, has (by decide)⟩, ⟨_, rfl, rfl, has (by decide)⟩,
    _, rfl, rfl, has (by decide)⟩

/-- LaneWordFrame: %cyclo as a source. -/
theorem meets_latch : .sp 14 ∈ (Instr.add false (.v 3) (.sp 14) (.v 2)).srcs
    ∧ ∃ x, laneForm (.add false (.v 3) (.sp 14) (.v 2)) = some x
      ∧ ∃ c, one.Issues x.entry c ∧ destFault x.dest (x.values c) = none := ⟨by decide, _, rfl, has (by decide)⟩

/-- SpecialDestinations: CMP and PLOG to p0. -/
theorem meets_p0 :
    (∃ c, one.Stands (compares false 8 0 (.v 1) (.v 2)) c ∧ ty c ≤ 5)
      ∧ ∃ c, one.Stands (plogEntry false 2 0 false 1 false 2) c ∧ True :=
  ⟨reaches (by decide), reaches (by decide)⟩

/-- The words of an integer claim under a type that they do not accept (BitFieldWords to CarryChain). -/
theorem meets_wrong_type : ∃ x, laneForm (.popc false (.v 3) (.v 1)) = some x
    ∧ ∃ c, (mode one 0x40).Stands x.entry c ∧ ty c ∉ [0, 1, 2, 3] := ⟨_, rfl, reaches (by decide)⟩

/-- CarryChain: the sums agree in a w register, and disagree in one. -/
theorem meets_carry :
    (∃ c, one.Issues (carries false (.w 3) (.v 1) (.v 2)) c ∧ destFault (.w 3) (c.lanes.map fun l =>
        (l, ((c.opd l (.v 1)).toNat + (c.opd l (.v 2)).toNat + carryIn c l) % 2 ^ 32)) = none
      ∧ destFault (.w 3) (c.lanes.map fun l =>
        (l, ((c.opd l (.v 1)).toNat + 2 ^ 33 - (c.opd l (.v 2)).toNat - carryIn c l) % 2 ^ 32)) = none)
    ∧ ∃ c, (put one 0 (.v 1) 1).Issues (carries false (.w 3) (.v 1) (.v 2)) c
      ∧ destFault (.w 3) (c.lanes.map fun l =>
        (l, ((c.opd l (.v 1)).toNat + (c.opd l (.v 2)).toNat + carryIn c l) % 2 ^ 32)) ≠ none
      ∧ destFault (.w 3) (c.lanes.map fun l =>
        (l, ((c.opd l (.v 1)).toNat + 2 ^ 33 - (c.opd l (.v 2)).toNat - carryIn c l) % 2 ^ 32)) ≠ none :=
  ⟨has (by decide), has (by decide)⟩

/-- CompareWritesItsPredicate: integers, and under f32 a NaN, −0 against +0 and the bits alone. -/
theorem meets_compare :
    (∃ c, one.Issues (compares false 8 7 (.v 1) (.v 2)) c ∧ 0 ∈ c.lanes ∧ ty c ∈ tyInt)
    ∧ (∃ c, (put (mode one 0x40) 7 (.v 2) 0x7FC00000).Issues (compares false 2 7 (.v 1) (.v 2)) c
      ∧ 7 ∈ c.lanes ∧ nanIn c 7 (.v 1) (.v 2) = true)
    ∧ (∃ c, (put (mode one 0x40) 7 (.v 2) 0x80000000).Issues (compares false 0 7 (.v 1) (.v 2)) c
      ∧ 7 ∈ c.lanes ∧ nanIn c 7 (.v 1) (.v 2) = false ∧ tyFmt (ty c) = some .f32)
    ∧ ∃ c, (mode one 0x40).Issues (compares false 8 7 (.v 1) (.v 2)) c ∧ 7 ∈ c.lanes :=
  ⟨has (by decide), has (by decide), has (by decide), has (by decide)⟩

/-- UnpackChecksItsIndex: the last element of h16x2, and one past it. -/
theorem meets_unpack :
    (∃ c, (fill (mode one 0x60) (.v 2) fun _ => 1).Issues (unpacks false (.v 3) (.v 1) (.v 2)) c
      ∧ (∀ l ∈ c.lanes, (c.opd l (.v 2)).toNat < tyCount (ty c))
      ∧ destFault (.v 3) (c.spread (c.lanes.map fun l =>
        (l, widen (ty c) (elem (c.opd l (.v 1)).toNat (c.opd l (.v 2)).toNat (wd c))))) = none)
    ∧ ∃ c, (put (mode one 0x60) 7 (.v 2) 2).Issues (unpacks false (.v 3) (.v 1) (.v 2)) c
      ∧ ∃ l ∈ c.lanes, tyCount (ty c) ≤ (c.opd l (.v 2)).toNat := ⟨has (by decide), has (by decide)⟩

/-- LaneWordChecksInOrder: v63 under a budget of 64 passes, and under 48 it is beyond; an odd pair; a type
that the word does not accept. -/
theorem meets_checks :
    checks3 tyNum 0 64 (.v 63) (.v 1) (.v 2) = none
      ∧ (checks3 tyNum 0 48 (.v 48) (.v 1) (.v 2)).map FaultInfo.code = some 0x09
      ∧ (checks3 tyNum 0x20 64 (.v 3) (.v 0) (.v 2)).map FaultInfo.code = some 0x02
      ∧ (checks3 tyNum 0xC0 64 (.v 3) (.v 0) (.v 2)).map FaultInfo.code = some 0x01 := by decide
theorem meets_standing : ∃ x, laneForm (.add false (.v 3) (.v 0) (.v 2)) = some x
    ∧ ∃ c, (mode one 0x20).Stands x.entry c ∧ (checks3 tyNum c.mode c.w.budget (.v 3) (.v 0) (.v 2)).isSome :=
  ⟨_, rfl, reaches (by decide)⟩

/-! ### Faults -/

/-- The test warp with v1 pending. -/
def pendingV1 : State := warp one fun w => { w with pend := [.v 1] }

/-- PendingRegisterFaults. -/
theorem meets_pending : ∃ x, laneForm (.add false (.v 3) (.v 1) (.v 2)) = some x
    ∧ ∃ c, pendingV1.Stands x.entry c
      ∧ (x.entry c.w.ctl.mode).staticFault c.w c.g (pendingV1.privileged c.g.ctx) = none
      ∧ c.w.marksOf c.b c.g = [] ∧ c.w.results.all (fun y => !y.round) = true
      ∧ ∃ u ∈ (x.entry c.w.ctl.mode).uses, ∃ k, k < u.regs ∧ (u.read || u.write) = true
        ∧ ∃ r ∈ c.w.pend, (u.o.nth k).reg? = some r := ⟨_, rfl, reaches (by decide)⟩

/-- A result that a test warp has outstanding: 7 for v5 of lane 0. -/
def aResult : Result :=
  { id := 2, pc := 60, dst := some (.v 5), regs := 1, lanes := 1, uni := false, vals := [(0, 7)], need := 0,
    due := 0, ready := true, round := false, after := (0, 0), loops := [], draw := 0, flags := 0, late := false, event := none,
    write := true, pend := [.v 5], judged := false, marked := 0, store := 0, pair := none, discard := false }

/-- FaultsAreRecorded: a warp of a living context, without and with a result outstanding. -/
theorem meets_recorded :
    (∃ b w g k, one.warp? me = some (b, w) ∧ one.grid? b.grid = some g ∧ one.ctx? g.ctx = some k
      ∧ w.results = [] ∧ k.killing = false ∧ k.dead = false ∧ k.debugger = false)
    ∧ (∃ b w, (warp one fun w => { w with results := [aResult] }).warp? me = some (b, w) ∧ w.results ≠ [])
    ∧ (faultAt fcRange 1).fatal = false ∧ (faultAt fcPage 0).fatal = true :=
  ⟨⟨_, _, _, _, rfl, rfl, rfl, rfl, rfl, rfl, rfl⟩, ⟨_, _, rfl, by decide⟩, by decide, by decide⟩

/-! ### Control -/

/-- p1 in lane 0 alone, and a stack of 16 rejoin entries, or with a path entry for 68 on top. -/
def mixed : State := put one 0 (.sp 13) 3
def rejoins (n : Nat) : List StackEntry := List.replicate n { path := false, pc := 72, mask := 1 }
def stack (s : State) (xs : List StackEntry) : State := ctl s fun c => { c with stack := xs }

theorem no_target {n : Nat} {c : Ctx} {off : BitVec n}
    (h : ¬ (0 ≤ (c.w.ctl.pc : Int) + 4 * off.toInt ∧ (c.w.ctl.pc : Int) + 4 * off.toInt < c.g.desc.size)) :
    ∀ pc, ¬ target c off pc := by
  rintro pc ⟨h1, h2⟩
  omega

/-- BranchesGoWhereTheirLanesGo: the last word of the image as the target; no lane, every lane and one lane
that takes it; a stack with room, with room in its top entry alone, and with none. -/
theorem meets_branches :
    (∃ c, one.Issues (braEntry false false) c ∧ target c 15#19 124)
    ∧ (∃ c, one.Issues (brcEntry false false false 1) c ∧ target c 1#19 68 ∧ taking c false 1 = 0)
    ∧ (∃ c, one.Issues (brcEntry false false true 1) c ∧ target c 1#19 68 ∧ taking c true 1 ≠ 0
        ∧ staying c true 1 = 0)
    ∧ (∃ c, (stack mixed (rejoins 15)).Issues (brcEntry false false false 1) c ∧ target c 1#19 68
        ∧ taking c false 1 ≠ 0 ∧ staying c false 1 ≠ 0 ∧ c.w.ctl.stack.length < 16)
    ∧ (∃ c, (stack mixed (rejoins 16)).Issues (brcEntry false false false 1) c ∧ target c 1#19 68
        ∧ taking c false 1 ≠ 0 ∧ staying c false 1 ≠ 0 ∧ c.w.ctl.stack = rejoins 16)
    ∧ ∃ c, mixed.Issues (brcEntry false true false 1) c ∧ target c 1#19 68 ∧ taking c false 1 ≠ 0
        ∧ staying c false 1 ≠ 0 := by
  simp only [target]
  exact ⟨has (by decide), has (by decide), has (by decide), has (by decide), has (by decide), has (by decide)⟩
theorem meets_room : room (rejoins 15) 68 ∧ ¬ room (rejoins 16) 68
    ∧ room ({ path := true, pc := 68, mask := 1 } :: rejoins 15) 68 := by
  refine ⟨.inl (by decide), ?_, .inr ⟨_, _, rfl, rfl, rfl⟩⟩
  rintro (h | ⟨e, rest, h, h', -⟩)
  · exact absurd h (by decide)
  · cases h
    exact absurd h' (by decide)

/-- One word past the image, and one word before it. -/
theorem meets_no_target : (∃ c, one.Issues (braEntry false false) c ∧ ∀ pc, ¬ target c 16#19 pc)
    ∧ (∃ c, one.Issues (brcEntry false false false 1) c ∧ ∀ pc, ¬ target c (-17#19) pc)
    ∧ (∃ c, one.Issues (callEntry false false false 0) c ∧ ∀ pc, ¬ target c 16#19 pc)
    ∧ (∃ c, one.Issues (markEntry false) c ∧ ∀ pc, ¬ target c 16#19 pc)
    ∧ ∃ c, one.Issues (yieldEntry false 0 0 16) c ∧ ∀ pc, ¬ target c 16#17 pc := by
  have far {n : Nat} {off : BitVec n} {mk : Word → Entry} (h : Meets one mk (fun c => decide
      (¬ (0 ≤ (c.w.ctl.pc : Int) + 4 * off.toInt ∧ (c.w.ctl.pc : Int) + 4 * off.toInt < c.g.desc.size)))
        = true) : ∃ c, one.Issues mk c ∧ ∀ pc, ¬ target c off pc := by
    obtain ⟨c, hc, h⟩ := has h
    exact ⟨c, hc, no_target h⟩
  exact ⟨far (by decide), far (by decide), far (by decide), far (by decide), far (by decide)⟩

/-- MarkAndJoinUseTheStack: 15 entries and 16; one entry and none. -/
theorem meets_mark : (∃ c, (stack one (rejoins 15)).Issues (markEntry false) c ∧ target c 1#19 68
      ∧ c.w.ctl.stack.length < 16)
    ∧ (∃ c, (stack one (rejoins 16)).Issues (markEntry false) c ∧ target c 1#19 68
      ∧ 16 ≤ c.w.ctl.stack.length)
    ∧ (∃ c, (stack one (rejoins 1)).Issues (joinEntry false) c
      ∧ c.w.ctl.stack = { path := false, pc := 72, mask := 1 } :: [])
    ∧ ∃ c, one.Issues (joinEntry false) c ∧ c.w.ctl.stack = [] := by
  simp only [target]
  exact ⟨has (by decide), has (by decide), has (by decide), has (by decide)⟩

/-- CallAndReturn: depths 0, 63 and 64; return addresses 124, 126 and 128; w31 pending. -/
def deep (n : Nat) (x : Word) : State := put (ctl one fun c => { c with depth := n }) 0 (.w 31) x
theorem meets_call :
    (∃ c, one.Issues (callEntry false false false 1) c ∧ target c 1#19 68 ∧ taking c false 1 = 0)
    ∧ (∃ c, (deep 63 0).Issues (callEntry false false false 0) c ∧ target c 1#19 68
      ∧ taking c false 0 ≠ 0 ∧ staying c false 0 = 0 ∧ c.w.ctl.depth < 64)
    ∧ (∃ c, (deep 64 0).Issues (callEntry false false false 0) c ∧ target c 1#19 68
      ∧ taking c false 0 ≠ 0 ∧ staying c false 0 = 0 ∧ 64 ≤ c.w.ctl.depth)
    ∧ (∃ c, mixed.Issues (callEntry false false false 1) c ∧ target c 1#19 68
      ∧ taking c false 1 ≠ 0 ∧ staying c false 1 ≠ 0)
    ∧ ∃ c, (warp one fun w => { w with pend := [.w 31] }).Stands (callEntry false false false 0) c
      ∧ (callEntry false false false 0 c.w.ctl.mode).staticFault c.w c.g true = none
      ∧ c.w.marksOf c.b c.g = [] ∧ c.w.results.all (fun y => !y.round) = true ∧ Reg.w 31 ∈ c.w.pend := by
  simp only [target]
  exact ⟨has (by decide), has (by decide), has (by decide), has (by decide), reaches (by decide)⟩
theorem meets_return :
    (∃ c, (deep 1 124).Issues (retEntry false (.w 31)) c ∧ 0 < c.w.ctl.depth
      ∧ (c.one (.w 31)).toNat % 4 = 0 ∧ (c.one (.w 31)).toNat < c.g.desc.size)
    ∧ (∃ c, one.Issues (retEntry false (.w 31)) c ∧ c.w.ctl.depth = 0)
    ∧ (∃ c, (deep 1 126).Issues (retEntry false (.w 31)) c ∧ 0 < c.w.ctl.depth
      ∧ (c.one (.w 31)).toNat % 4 ≠ 0)
    ∧ ∃ c, (deep 1 128).Issues (retEntry false (.w 31)) c ∧ 0 < c.w.ctl.depth
      ∧ c.g.desc.size ≤ (c.one (.w 31)).toNat :=
  ⟨has (by decide), has (by decide), has (by decide), has (by decide)⟩

/-- LoopsCount: counts 0 and 1, an outer level with the same end, two levels; the last word of a body with
one and with two iterations left. -/
def level (stop left : Nat) : LoopLevel := { start := 60, stop, left }
def looping (xs : List LoopLevel) (n : Word) : State :=
  put (ctl one fun c => { c with loops := xs }) 0 (.w 4) n
theorem meets_loop :
    (∃ c, (looping [] 0).Issues (loopEntry false (.w 4) 3) c ∧ c.one (.w 4) = 0)
    ∧ (∃ c, (looping [level 80 2] 1).Issues (loopEntry false (.w 4) 3) c ∧ c.one (.w 4) ≠ 0
      ∧ c.w.ctl.loops.length < 2 ∧ ∀ l ∈ c.w.ctl.loops, c.w.ctl.pc + 4 + 4 * (3#7).toNat ≤ l.stop)
    ∧ (∃ c, (looping [level 80 2, level 80 2] 1).Issues (loopEntry false (.w 4) 3) c ∧ c.one (.w 4) ≠ 0
      ∧ 2 ≤ c.w.ctl.loops.length)
    ∧ (∃ c, one.Issues (fun _ => { sw := false, ahead := .run }) c ∧ c.w.ctl.loops = [])
    ∧ (∃ c, (looping [level 72 1] 0).Issues (fun _ => { sw := false, ahead := .run }) c
      ∧ c.w.ctl.loops = [level 72 1] ∧ c.w.ctl.pc + 4 ≠ 72)
    ∧ (∃ c, (looping [level 68 2] 0).Issues (fun _ => { sw := false, ahead := .run }) c
      ∧ c.w.ctl.loops = [level 68 2] ∧ c.w.ctl.pc + 4 = 68)
    ∧ ∃ c, (looping [level 68 1] 0).Issues (fun _ => { sw := false, ahead := .run }) c
      ∧ c.w.ctl.loops = [level 68 1] ∧ c.w.ctl.pc + 4 = 68 :=
  ⟨has (by decide), has (by decide), has (by decide), has (by decide), has (by decide), has (by decide),
    has (by decide)⟩

/-- SetmodeWritesSelectedFields. -/
theorem meets_setmode : ∃ c, one.Issues (setmodeEntry false 0xF 0xD41) c ∧ True := has (by decide)

/-- WaitcAndYieldReport: a counter of 1 against N = 0, and against N = 1 or with a done operation. -/
def engOp (id : Nat) (cls : EngClass) (done : Bool) : EngOp :=
  { id, cls, done, flags := 0x10, err := none, refused := 0, skipped := 0, cmds := [], arrive := none }
def counting (done : Bool) : State := warp one fun w => { w with eng := [engOp 5 .matrix done] }
theorem meets_waitc :
    (∃ c, (counting false).Issues (waitcEntry false 1 0) c ∧ 0 < c.w.counter (engClass 1))
    ∧ (∃ c, (counting false).Issues (waitcEntry false 1 1) c ∧ c.w.counter (engClass 1) ≤ 1)
    ∧ (∃ c, (counting true).Issues (waitcEntry false 1 0) c ∧ c.w.counter (engClass 1) ≤ 0
      ∧ ∀ x ∈ (c.w.eng.filter fun x => x.cls == engClass 1), x.err = none)
    ∧ (∃ c, (counting false).Issues (yieldEntry false 1 0 1) c ∧ target c 1#17 68
      ∧ 0 < c.w.counter (engClass 1))
    ∧ ∃ c, (counting true).Issues (yieldEntry false 1 0 2) c ∧ target c 2#17 72
      ∧ c.w.counter (engClass 1) ≤ 0
      ∧ ∀ x ∈ (c.w.eng.filter fun x => x.cls == engClass 1), x.err = none := by
  simp only [target]
  exact ⟨has (by decide), has (by decide), has (by decide), has (by decide), has (by decide)⟩

/-- A second warp in slot 1. -/
def second : Warp := Warp.start 1 .vector 8 64 64 [8] 0
def two (f : Warp → Warp) : State := block one fun b => { b with slots := 2, warps := b.warps ++ [f second] }
/-- Two layouts. -/
def layered : State := desc one fun d => { d with layouts := d.layouts ++ [{ entry := 72, groups := [
  { warps := 0, width := 8, budget := 16 }, { warps := 0, width := 8, budget := 16 },
  { warps := 1, width := 8, budget := 16 }] }] }

/-- ExitRetiresOrRestarts: not the last warp; the last warp with index 0 and with a successor; not
converged; an index beyond; an index against an earlier one. -/
theorem meets_exit :
    (∃ c, (two id).Issues (exitEntry false) c ∧ mayExit c 0 ∧ ¬ lastWarp c)
    ∧ (∃ c, one.Issues (exitEntry false) c ∧ mayExit c 0 ∧ lastWarp c)
    ∧ ∃ c, layered.Issues (exitEntry false) c ∧ mayExit c 1 ∧ lastWarp c
      ∧ ∃ l, c.g.desc.layouts[(1 : BitVec 8).toNat]? = some l := by
  have good {s : State} {i : BitVec 8} {Q : Ctx → Prop} [DecidablePred Q]
      (h : Meets s (exitEntry false) (fun c => decide ((c.w.ctl.active = fullMask c.w.width
        ∧ c.w.ctl.stack = []) ∧ i.toNat < c.g.desc.layouts.length ∧ c.b.exitIdx = none
        ∧ (c.w.pend = [] ∧ c.w.results = [] ∧ c.w.idle = true) ∧ c.w.openBatch = []
        ∧ c.g.packet.redundant = false ∧ c.s.cmds = [] ∧ Q c)) = true) :
      ∃ c, s.Issues (exitEntry false) c ∧ mayExit c i ∧ Q c := by
    obtain ⟨c, hc, h1, h2, h3, h4, h5, h6, h7, hq⟩ := has h
    exact ⟨c, hc, ⟨⟨h1.1, by simp [h1.2]⟩, h2, by simp [h3], h4, h5, h6, by simp [h7]⟩, hq⟩
  simp only [lastWarp]
  refine ⟨good (by decide), good (by decide), ?_⟩
  obtain ⟨c, hc, h1, h2, h3⟩ := good (s := layered) (i := 1)
    (Q := fun c => (∀ w ∈ c.b.warps, w.slot ≠ c.r.slot → w.run = .exited)
      ∧ (c.g.desc.layouts[(1 : BitVec 8).toNat]?).isSome = true) (by decide)
  exact ⟨c, hc, h1, h2, Option.isSome_iff_exists.1 h3⟩
theorem meets_exit_faults :
    (∃ c, (ctl one fun c => { c with active := 0x7F }).Issues (exitEntry false) c ∧ ¬ whole c)
    ∧ (∃ c, one.Issues (exitEntry false) c ∧ whole c ∧ c.g.desc.layouts.length ≤ (1 : BitVec 8).toNat)
    ∧ ∃ c, (block layered fun b => { b with exitIdx := some 1 }).Issues (exitEntry false) c ∧ whole c
      ∧ (0 : BitVec 8).toNat < c.g.desc.layouts.length ∧ c.b.exitIdx = some 1 := by
  simp only [whole]
  exact ⟨has (by decide), has (by decide), has (by decide)⟩

/-- SplitHalvesAWarp: 16 lanes in slot 0, with slots 1 and 2 free. -/
def wide : State := block (warp one fun w => { w with
    width := 16, ctl := { w.ctl with active := 0xFFFF, tOct := [0, 8] } }) fun b => { b with slots := 3 }
theorem meets_split : ∃ c, wide.Issues (splitEntry false) c ∧ c.w.width ∈ [16, 32, 64]
    ∧ c.w.ctl.active = fullMask c.w.width ∧ c.w.ctl.stack = [] ∧ c.w.ctl.loops = [] ∧ quiet c.w
    ∧ c.s.accsOf c.r = [] ∧ c.b.freeSlots wide.now ≠ []
    ∧ insertNat c.r.slot (c.b.freeSlots wide.now) = 0 :: 1 :: [2] := by
  simp only [quiet]
  exact has (by decide)

/-- FuseJoinsTwoWarps: a partner that has not come, and one that has. -/
theorem meets_fuse :
    (∃ c w, (two id).Issues (splitEntry false) c ∧ c.w.run = .ready ∧ (1#5).toNat ≠ c.r.slot
      ∧ c.b.warp? (1#5).toNat = some w ∧ c.w.ctl.active = fullMask c.w.width ∧ c.w.ctl.stack = []
      ∧ c.w.ctl.loops = [] ∧ w.run = .ready)
    ∧ ∃ c w, (two fun w => { w with run := .fuse 0 }).Issues (splitEntry false) c ∧ c.w.run = .ready
      ∧ (1#5).toNat ≠ c.r.slot ∧ c.b.warp? (1#5).toNat = some w ∧ c.w.ctl.active = fullMask c.w.width
      ∧ c.w.ctl.stack = [] ∧ c.w.ctl.loops = [] ∧ w.run = .fuse c.r.slot ∧ w.role = c.w.role
      ∧ w.width = c.w.width ∧ c.w.width ∈ [8, 16, 32] ∧ c.unevenRound c.r.slot (1#5).toNat = false
      ∧ c.atRest c.w = true ∧ c.atRest w = true := by
  constructor
  · obtain ⟨c, hc, h⟩ := has (s := two id) (mk := splitEntry false) (P := fun c => c.w.run = .ready
      ∧ (1#5).toNat ≠ c.r.slot ∧ c.b.warp? (1#5).toNat = some second ∧ c.w.ctl.active = fullMask c.w.width
      ∧ c.w.ctl.stack = [] ∧ c.w.ctl.loops = []) (by decide)
    exact ⟨c, _, hc, h.1, h.2.1, h.2.2.1, h.2.2.2.1, h.2.2.2.2.1, h.2.2.2.2.2, rfl⟩
  · obtain ⟨c, hc, h⟩ := has (s := two fun w => { w with run := .fuse 0 }) (mk := splitEntry false)
      (P := fun c => c.w.run = .ready
      ∧ (1#5).toNat ≠ c.r.slot ∧ c.b.warp? (1#5).toNat = some { second with run := .fuse 0 }
      ∧ c.w.ctl.active = fullMask c.w.width
      ∧ c.w.ctl.stack = [] ∧ c.w.ctl.loops = [] ∧ Run.fuse 0 = .fuse c.r.slot ∧ Role.vector = c.w.role
      ∧ 8 = c.w.width ∧ c.w.width ∈ [8, 16, 32] ∧ c.unevenRound c.r.slot (1#5).toNat = false
      ∧ c.atRest c.w = true ∧ c.atRest { second with run := .fuse 0 } = true) (by decide)
    obtain ⟨h1, h2, h3, h4, h5, h6, h7, h8, h9, h10, h11, h12, h13⟩ := h
    exact ⟨c, _, hc, h1, h2, h3, h4, h5, h6, h7, h8, h9, h10, h11, h12, h13⟩

/-- BarriersTrapsAndIllegalWords. -/
theorem meets_barriers :
    (∃ c, one.Issues (barEntry false 2) c ∧ c.w.run = .ready ∧ whole c)
    ∧ (∃ c, (warp one fun w => { w with run := .barrier 2 true }).Issues (barEntry false 2) c
      ∧ c.w.run = .barrier 2 true)
    ∧ (∃ c, one.Issues (plainEntry false) c ∧ (one.ctx? c.g.ctx).isSome = true)
    ∧ ∃ c, one.Stands (fun _ => { sw := false, codes := false }) c ∧ True := by
  simp only [whole]
  exact ⟨has (by decide), has (by decide), has (by decide), reaches (by decide)⟩

/-- RegionsOpenAndClose: outside a PDIS region, and inside one. -/
theorem meets_regions :
    (∃ c, one.Issues (skipEntry false) c ∧ whole c)
    ∧ (∃ c, one.Issues (exitEntry false) c ∧ whole c ∧ quiet c.w ∧ c.g.packet.redundant = false)
    ∧ (∃ c, one.Issues (regionEntry false) c ∧ c.w.pdis = none ∧ (one.core c.b.core).wanted = false
      ∧ one.dev.testWanted.contains (clusterOf c.b.core) = false)
    ∧ ∃ c, (warp one fun w => { w with pdis := some 9 }).Issues (regionEntry false) c ∧ c.w.pdis ≠ none := by
  simp only [whole, quiet]
  exact ⟨has (by decide), has (by decide), has (by decide), has (by decide)⟩

/-- The physical window of a privileged context, from byte 8,192 of device memory on. -/
def window : Dword := 0x0100000000002000
/-- An address of 64 bits in a register pair of every lane. -/
def pair (s : State) (o : Operand) (f : Nat → Dword) : State :=
  fill (fill s o fun l => (f l).setWidth 32) (o.nth 1) fun l => (f l).extractLsb' 32 32

/-- LaunchQueuesItsPacket. -/
def launching : State := pair one (.w 4) fun _ => window
theorem meets_launch : ∃ c, launching.Issues (launchEntry false (.w 4)) c
    ∧ c.g.packet.redundant = false ∧ (c.pair64 (.w 4)).toNat % 64 = 0
    ∧ (launching.translate c.b.core c.ctx (c.pair64 (.w 4)) .read).1 = .phys 8192
    ∧ (launching.vf c.g.vf).devq.length < 64 ∧ c.released = true := has (by decide)

/-! ### Scoped registers -/

theorem agreeing_iff {fn : Nat} {xs : List Word} :
    agreeing fn xs ↔ (fn != 0 || xs.all (· == xs.headD 0)) = true := by
  by_cases h : fn = 0 <;> simp [agreeing, h]

/-- RaiseCombinesItsLanes: lanes that agree, and one that does not; a round that opens. -/
theorem meets_raise :
    (∃ c, one.Issues (raiseEntry false (.w 3) (.v 1) 0) c ∧ orderless 0 c.mode
      ∧ agreeing 0 (c.lanes.map fun l => c.opd l (.v 1)) ∧ c.lanes ≠ [])
    ∧ (∃ c, (put one 7 (.v 1) 1).Issues (raiseEntry false (.w 3) (.v 1) 0) c ∧ orderless 0 c.mode
      ∧ ¬ agreeing 0 (c.lanes.map fun l => c.opd l (.v 1)))
    ∧ (∃ c, one.Issues (raiseEntry false (.o 3) (.v 1) 1) c ∧ orderless 1 c.mode
      ∧ c.w.width ∈ [8, 16, 32, 64])
    ∧ ∃ c, one.Issues (raiseEntry false (.b 3) (.v 1) 6) c ∧ orderless 6 c.mode ∧ whole c ∧ c.lanes ≠ []
      ∧ c.b.rounds.length < 8 := by
  simp only [orderless, agreeing_iff, whole]
  exact ⟨has (by decide), has (by decide), has (by decide), has (by decide)⟩

/-- VoteCountsItsLanes: to a w register under gd = p0 and under gd = ~p0. -/
theorem meets_vote : (∃ c, one.Issues (voteEntry false (.w 1) (.v 3) 2) c ∧ modeGd c.mode ≠ 8)
    ∧ ∃ c, (mode one 8).Issues (voteEntry false (.w 1) (.v 3) 2) c ∧ modeGd c.mode = 8 :=
  ⟨has (by decide), has (by decide)⟩

/-- ShufflesAndPredicateLogic. -/
theorem meets_shuffles : (∃ c, one.Issues (fun _ => shfEntry false (.v 4) (.v 2) (.w 7)) c ∧ True)
    ∧ (∃ c, one.Stands (fun _ => shfEntry false (.w 4) (.v 2) (.w 7)) c ∧ True)
    ∧ ∃ c, one.Issues (plogEntry false 2 7 false 1 true 3) c ∧ True :=
  ⟨has (by decide), reaches (by decide), has (by decide)⟩

/-! ### Memory words -/

/-- Every lane's address: one of each 16 bytes from the window on. -/
def addr (k : Nat) (l : Nat) : Dword := window + BitVec.ofNat 64 (k * l)
def pointing : State := pair (pair one (.v 4) (addr 16)) (.v 6) fun l => addr 16 (l + 8)
def mapped (w : Nat) (ts : List LaneAddr) : Bool :=
  ts.all fun x => x.va.toNat % w == 0 && match x.t with
    | .phys _ => true
    | _ => false

theorem mapped_reaches {s : State} {c : Ctx} {acc : Access} {w : Nat} {as : List (Nat × Dword)}
    (h : mapped w (looked s c acc as).1 = true) : Reaches s c acc w as := by
  intro x hx
  have := List.all_eq_true.1 h x hx
  simp only [Bool.and_eq_true, beq_iff_eq] at this
  refine ⟨this.1, .inl ?_⟩
  have h2 := this.2
  split at h2
  · exact ⟨_, by assumption⟩
  · cases h2

/-- The conditions of a word whose addresses `as` are in device memory. -/
theorem reaching {s : State} {mk : Word → Entry} {acc : Access} {w : Nat} {as : Ctx → List (Nat × Dword)}
    {P : Ctx → Prop} [DecidablePred P]
    (h : Meets s mk (fun c => decide (mapped w (looked s c acc (as c)).1 = true ∧ P c)) = true) :
    ∃ c, s.Issues mk c ∧ Reaches s c acc w (as c) ∧ P c := by
  obtain ⟨c, hc, h1, h2⟩ := has h
  exact ⟨c, hc, mapped_reaches h1, h2⟩

/-- No line of the addresses lies in the read cache. -/
def uncached (s : State) (c : Ctx) (as : List (Nat × Dword)) : Bool :=
  (looked s c .read as).1.all fun x => !(afterLook s c .read as).lineIn c.b.core (physOf x.t)

theorem uncached_iff {s : State} {c : Ctx} {as : List (Nat × Dword)} : uncached s c as = true ↔
    ∀ x ∈ (looked s c .read as).1, (afterLook s c .read as).lineIn c.b.core (physOf x.t) = false := by
  simp [uncached, List.all_eq_true]

/-- The warp of a redundant pair. -/
def redundant (s : State) : State := pack s fun p => { p with redundant := true }

/-- LoadsAndStoresIssueAccesses: loads whose lines are in no cache, a misaligned load. -/
theorem meets_loads :
    (∃ c, pointing.Issues (fun m => ldEntry false (.v 8) (.v 4) m) c
      ∧ Reaches pointing c .read 4 (c.addrs (.v 4) ((1#8).toInt * 4)) ∧ regs c = 1
      ∧ ∀ x ∈ (looked pointing c .read (c.addrs (.v 4) ((1#8).toInt * 4))).1,
        (afterLook pointing c .read (c.addrs (.v 4) ((1#8).toInt * 4))).lineIn c.b.core (physOf x.t) = false)
    ∧ (∃ c, pointing.Issues (fun m => ldwEntry false (.v 8) (.v 4) m) c
      ∧ Reaches pointing c .read 16 (c.addrs (.v 4) ((255#8).toInt * 16)) ∧ regs c = 1
      ∧ ∀ x ∈ (looked pointing c .read (c.addrs (.v 4) ((255#8).toInt * 16))).1,
        (afterLook pointing c .read (c.addrs (.v 4) ((255#8).toInt * 16))).lineIn c.b.core (physOf x.t) = false)
    ∧ ∃ c, (put pointing 3 (.v 4) 0x2032).Issues (fun m => ldEntry false (.v 8) (.v 4) m) c
      ∧ (c.addrs (.v 4) 0).find? (fun y => y.2.toNat % (4 * regs c) != 0) = some (3, window + 0x32) := by
  simp only [← uncached_iff]
  exact ⟨reaching (by decide +kernel), reaching (by decide +kernel), has (by decide +kernel)⟩

/-- Stores of a warp on its own, with nothing unacknowledged, and of a redundant pair. -/
theorem meets_stores :
    (∃ c, pointing.Issues (fun m => stEntry false (.v 8) (.v 4) m) c
      ∧ Reaches pointing c .write 4 (c.addrs (.v 4) 0) ∧ regs c = 1 ∧ c.g.packet.redundant = false
      ∧ roomForAcks pointing (looked pointing c .write (c.addrs (.v 4) 0)).1)
    ∧ (∃ c, pointing.Issues (fun m => stwEntry false (.v 8) (.v 4) m) c
      ∧ Reaches pointing c .write 16 (c.addrs (.v 4) 0) ∧ c.g.packet.redundant = false
      ∧ roomForAcks pointing (looked pointing c .write (c.addrs (.v 4) 0)).1)
    ∧ (∃ c, (redundant pointing).Issues (fun m => stEntry false (.v 8) (.v 4) m) c
      ∧ Reaches (redundant pointing) c .write 4 (c.addrs (.v 4) 0) ∧ regs c = 1
      ∧ c.g.packet.redundant = true
      ∧ c.w.slackFor c.b.trail (looked (redundant pointing) c .write (c.addrs (.v 4) 0)).1.length = true)
    ∧ ∃ c, (redundant pointing).Issues (fun m => stwEntry false (.v 8) (.v 4) m) c
      ∧ Reaches (redundant pointing) c .write 16 (c.addrs (.v 4) 0) ∧ c.g.packet.redundant = true
      ∧ c.w.slackFor c.b.trail (looked (redundant pointing) c .write (c.addrs (.v 4) 0)).1.length = true := by
  simp only [roomForAcks]
  exact ⟨reaching (by decide +kernel), reaching (by decide +kernel), reaching (by decide +kernel),
    reaching (by decide +kernel)⟩
/-- A misaligned address in lane 3, of a warp on its own and of a redundant pair. -/
def crooked : State := put pointing 3 (.v 4) 0x2032
theorem meets_misaligned_stores :
    (∃ c, crooked.Issues (fun m => stEntry false (.v 8) (.v 4) m) c ∧ regs c = 1
      ∧ (c.addrs (.v 4) 0).find? (fun y => y.2.toNat % 4 != 0) = some (3, window + 0x32)
      ∧ c.g.packet.redundant = false)
    ∧ (∃ c, (redundant crooked).Issues (fun m => stEntry false (.v 8) (.v 4) m) c ∧ regs c = 1
      ∧ (c.addrs (.v 4) 0).find? (fun y => y.2.toNat % 4 != 0) = some (3, window + 0x32)
      ∧ c.g.packet.redundant = true ∧ c.w.slackFor c.b.trail (c.addrs (.v 4) 0).length = true)
    ∧ (∃ c, crooked.Issues (fun m => stwEntry false (.v 8) (.v 4) m) c
      ∧ (c.addrs (.v 4) 0).find? (fun y => y.2.toNat % 16 != 0) = some (3, window + 0x32)
      ∧ c.g.packet.redundant = false)
    ∧ ∃ c, crooked.Issues (fun m => dualstEntry false (.v 8) (.v 6) (.v 4) m) c ∧ regs c = 1
      ∧ (((c.addrs (.v 6) 0).zip (c.addrs (.v 4) 0)).flatMap fun x => [x.1, x.2]).find?
        (fun y => y.2.toNat % 4 != 0) = some (3, window + 0x32)
      ∧ c.g.packet.redundant = false :=
  ⟨has (by decide +kernel), has (by decide +kernel), has (by decide +kernel), has (by decide +kernel)⟩

/-- DUALST, 4 KiB apart. -/
def dual : State := pair (pair one (.v 4) (addr 16)) (.v 6) fun l => addr 16 l + 0x1000
def dualAddrs (c : Ctx) : List (Nat × Dword) :=
  ((c.addrs (.v 4) 0).zip (c.addrs (.v 6) 0)).flatMap fun x => [x.1, x.2]
def dualHalf (s : State) (c : Ctx) (k : Nat) : List LaneAddr :=
  ((looked s c .write (dualAddrs c)).1.zipIdx.filter fun x => x.2 % 2 == k).map Prod.fst
theorem meets_dualst :
    (∃ c, dual.Issues (fun m => dualstEntry false (.v 8) (.v 4) (.v 6) m) c
      ∧ Reaches dual c .write 4 (dualAddrs c) ∧ regs c = 1 ∧ c.g.packet.redundant = false
      ∧ roomForAcks dual (dualHalf dual c 0 ++ dualHalf dual c 1))
    ∧ ∃ c, (redundant dual).Issues (fun m => dualstEntry false (.v 8) (.v 4) (.v 6) m) c
      ∧ Reaches (redundant dual) c .write 4 (dualAddrs c) ∧ regs c = 1 ∧ c.g.packet.redundant = true
      ∧ c.w.slackFor c.b.trail (dualHalf (redundant dual) c 0 ++ dualHalf (redundant dual) c 1).length = true := by
  simp only [roomForAcks]
  exact ⟨reaching (by decide +kernel), reaching (by decide +kernel)⟩

/-- AtomicsAndSyncIssueAccesses: an atomic of every kind, with a destination and with none; REL and ACQ. -/
def syncing : State := pair pointing (.w 8) fun _ => window
def atomicsOf (d : Operand) : List Instr :=
  [.aadd false d (.v 4) (.v 2), .amin false d (.v 4) (.v 2), .amax false d (.v 4) (.v 2),
    .aand false d (.v 4) (.v 2), .aor false d (.v 4) (.v 2), .axor false d (.v 4) (.v 2),
    .axch false d (.v 4) (.v 2), .acas false d (.v 4) (.v 2)]
theorem meets_atomics : ∀ i ∈ atomicsOf (.v 8),
    ∃ fn tys, atomicForm i = some (fn, tys) ∧ ∃ c,
      syncing.Issues (fun m => atomicEntry false m fn tys (.v 8) (.v 4) (.v 2)) c
      ∧ Reaches syncing c .write 4 (c.addrs (.v 4) 0) ∧ regs c = 1 ∧ c.g.packet.redundant = false := by
  simp only [atomicsOf, List.forall_mem_cons, List.not_mem_nil, false_implies, implies_true, and_true]
  exact ⟨⟨_, _, rfl, reaching (by decide +kernel)⟩, ⟨_, _, rfl, reaching (by decide +kernel)⟩,
    ⟨_, _, rfl, reaching (by decide +kernel)⟩, ⟨_, _, rfl, reaching (by decide +kernel)⟩,
    ⟨_, _, rfl, reaching (by decide +kernel)⟩, ⟨_, _, rfl, reaching (by decide +kernel)⟩,
    ⟨_, _, rfl, reaching (by decide +kernel)⟩, _, _, rfl, reaching (by decide +kernel)⟩
theorem meets_reduction : ∃ c, syncing.Issues (fun m => atomicEntry false m .add [0, 1, 2, 3, 4, 5, 6, 7]
      (.sp 0) (.v 4) (.v 2)) c
    ∧ Reaches syncing c .write 4 (c.addrs (.v 4) 0) ∧ regs c = 1 ∧ c.g.packet.redundant = false
    ∧ roomForAcks syncing (looked syncing c .write (c.addrs (.v 4) 0)).1 := by
  simp only [roomForAcks]
  exact reaching (by decide +kernel)
theorem meets_sync :
    (∃ c, syncing.Issues (fun m => relEntry false (.w 8) m) c
      ∧ Reaches syncing c .write 8 [(c.lane0, c.pair64 (.w 8))] ∧ (c.pair64 (.w 8)).toNat % 8 = 0
      ∧ c.g.packet.redundant = false
      ∧ roomForAcks syncing (looked syncing c .write [(c.lane0, c.pair64 (.w 8))]).1)
    ∧ ∃ c, syncing.Issues (fun m => acqEntry false (.w 10) (.w 8) m) c
      ∧ Reaches syncing c .read 8 [(c.lane0, c.pair64 (.w 8))] ∧ (c.pair64 (.w 8)).toNat % 8 = 0 := by
  simp only [roomForAcks]
  exact ⟨reaching (by decide +kernel), reaching (by decide +kernel)⟩

/-- ScratchpadLoadsAndStores: a window of 128 bytes; the last word of it, one past it, and a misaligned one
before that. -/
def scratched (l : Nat) (x : Word) : State := put (block one fun b => { b with scratchSize := 128 }) l (.v 4) x
theorem meets_scratchpad :
    (∃ c, (scratched 7 124).Issues (ldlEntry false (.v 8) (.v 4)) c ∧ c.lanes ≠ []
      ∧ ∀ x ∈ c.localAddrs (.v 4) 0 (4 * regs c), x.2 % (4 * regs c) = 0
        ∧ x.2 + 4 * regs c ≤ c.b.scratchSize)
    ∧ (∃ c, (scratched 7 124).Issues (stlEntry false (.v 8) (.v 4)) c
      ∧ ∀ x ∈ c.localAddrs (.v 4) 0 (4 * regs c), x.2 % (4 * regs c) = 0
        ∧ x.2 + 4 * regs c ≤ c.b.scratchSize)
    ∧ (∃ c, (scratched 7 126).Issues (stlEntry false (.v 8) (.v 4)) c
      ∧ (c.localAddrs (.v 4) 0 (4 * regs c)).find? (fun y => y.2 % (4 * regs c) != 0) = some (7, 126))
    ∧ ∃ c, (scratched 7 128).Issues (ldlEntry false (.v 8) (.v 4)) c
      ∧ (∀ x ∈ c.localAddrs (.v 4) 0 (4 * regs c), x.2 % (4 * regs c) = 0)
      ∧ (c.localAddrs (.v 4) 0 (4 * regs c)).find? (fun y => c.b.scratchSize < y.2 + 4 * regs c)
        = some (7, 128) := ⟨has (by decide +kernel), has (by decide +kernel), has (by decide +kernel), has (by decide +kernel)⟩

/-- TagWords: a region of 8 lines in one set; its last slot, and one past it; one lane that writes an entry
that the slot may hold, and one that it may not. -/
def region : Region := { offset := 0, size := 1024, line := 128 }
def tagged (slot : Word) (e : Dword) : State :=
  put (put (put (block one fun b => { b with scratchSize := 1024, regions := [region] }) 0 (.v 3) slot) 0 (.v 4)
    (e.setWidth 32)) 0 (.v 5) (e.extractLsb' 32 32)
def first (s : State) : State := ctl s fun c => { c with active := 1 }
theorem meets_tags :
    (∃ c, (tagged 7 0).Issues (taglEntry false (.v 8) (.v 4)) c ∧ c.lanes ≠ [] ∧ modeGd c.mode ≠ 8
      ∧ c.b.regions[(0 : BitVec 4).toNat]? = some region ∧ region.line ≠ 0)
    ∧ (∃ c, (tagged 7 0).Issues (tagrEntry false (.v 8) (.v 3)) c ∧ c.lanes ≠ []
      ∧ ∀ l ∈ c.lanes, (c.opd l (.v 3)).toNat < region.slots)
    ∧ (∃ c, (tagged 8 0).Issues (tagrEntry false (.v 8) (.v 3)) c
      ∧ ∃ l ∈ c.lanes, region.slots ≤ (c.opd l (.v 3)).toNat)
    ∧ (∃ c, (first (tagged 7 0x1001)).Issues (tagwEntry false (.v 3) (.v 4)) c ∧ c.lanes = [0]
      ∧ region.entryOk (c.opd 0 (.v 3)).toNat (BitVec.ofNat 64 (c.val 0 (.v 4) 2)) = true
      ∧ c.b.tags = [] ∧ region.slots % region.ways = 0 ∧ region.offset % 128 = 0 ∧ region.line % 128 = 0)
    ∧ ∃ c, (first (tagged 8 0x1001)).Issues (tagwEntry false (.v 3) (.v 4)) c ∧ c.lanes = [0]
      ∧ region.entryOk (c.opd 0 (.v 3)).toNat (BitVec.ofNat 64 (c.val 0 (.v 4) 2)) = false :=
  ⟨has (by decide +kernel), has (by decide +kernel), has (by decide +kernel), has (by decide +kernel), has (by decide +kernel)⟩

/-- BindingsFencesAndPrefetches: a range of 128 bytes with its object; fences behind nothing, and behind a
store. -/
def anAcc : Acc :=
  { id := 2, grid := 1, blk := 1, slot := 0, core := 0, ctx := 1, kind := .store, va := window, pa := 0x2000,
    remote := false, width := 4, data := 5, lane := 0, result := none, cmd := none, twin := none, pc := 60,
    placed := false, after := [], gen := none, waits := false, host := none, far := false, seen := false }
def storing : State := { one with accs := [anAcc], nextId := 3 }
def bound : State := put (put (pair syncing (.w 12) fun _ => window) 0 (.w 14) 128) 0 (.w 15) 1
theorem meets_binding : ∃ c, bound.Issues (fun m => bindEntry false (.w 8) (.w 12) m) c
    ∧ Reaches bound c .write 8 [(c.lane0, c.pair64 (.w 8))]
    ∧ Reaches (afterLook bound c .write [(c.lane0, c.pair64 (.w 8))]) c .present 1
      [(c.lane0, window), (c.lane0, window + 127)]
    ∧ c.b.bindings.length < 64 ∧ bound.bindingsOf c.ctx < 4096 ∧ (c.pair64 (.w 8)).toNat % 8 = 0
    ∧ c.pair64 (.w 12) = window ∧ (c.one (.w 14)).toNat = 128 ∧ c.one (.w 15) = 1 ∧ c.b.bindings = [] := by
  obtain ⟨c, hc, h1, h2, h3⟩ := has (s := bound) (mk := fun m => bindEntry false (.w 8) (.w 12) m)
    (P := fun c => mapped 8 (looked bound c .write [(c.lane0, c.pair64 (.w 8))]).1 = true
      ∧ mapped 1 (looked (afterLook bound c .write [(c.lane0, c.pair64 (.w 8))]) c .present
          [(c.lane0, window), (c.lane0, window + 127)]).1 = true
      ∧ c.b.bindings.length < 64 ∧ bound.bindingsOf c.ctx < 4096 ∧ (c.pair64 (.w 8)).toNat % 8 = 0
      ∧ c.pair64 (.w 12) = window ∧ (c.one (.w 14)).toNat = 128 ∧ c.one (.w 15) = 1 ∧ c.b.bindings = [])
    (by decide +kernel)
  exact ⟨c, hc, mapped_reaches h1, mapped_reaches h2, h3⟩

/-- Fences behind nothing and behind a store, of a warp on its own and of a redundant pair, one of them
with a TLBI outstanding and cluster scope; UNBIND and PREF. -/
theorem meets_fences :
    (∃ c, one.Issues (fenceEntry false 2 2) c ∧ c.w.tlbis = [] ∧ c.g.packet.redundant = false
      ∧ c.fenceSet true true false = [])
    ∧ (∃ c, storing.Issues (fenceEntry false 2 2) c ∧ c.w.tlbis = [] ∧ c.g.packet.redundant = false
      ∧ c.fenceSet true true false ≠ [])
    ∧ (∃ c, (warp one fun w => { w with tlbis := [7] }).Issues (fenceEntry false 2 1) c
      ∧ (2#3).toNat < 3 ∧ c.g.packet.redundant = false ∧ c.fenceSet true false false = [])
    ∧ (∃ c, (redundant one).Issues (fenceEntry false 2 2) c ∧ c.w.tlbis = []
      ∧ (redundant one).producing (redundant one).cur = false ∧ c.fenceSet true true false = [])
    ∧ (∃ c, syncing.Issues (unbindEntry false (.w 8)) c ∧ (c.pair64 (.w 8)).toNat % 8 = 0)
    ∧ ∃ c, pointing.Issues (prefEntry false (.v 4)) c ∧ True :=
  ⟨has (by decide +kernel), has (by decide +kernel), has (by decide +kernel), has (by decide +kernel),
    has (by decide +kernel), has (by decide +kernel)⟩

/-! ### Engine words -/

/-- A COPY warp with a record of one row of four words in w8 to w15, for a window of 1,024 bytes, and an
extension in w4 to w7 that names device 1. -/
def regs8 : List (Nat × Word) :=
  [(8, 0x2000), (9, 0x01000000), (10, 0x10004), (11, 16), (12, 0), (13, 0x10004), (14, 0), (15, 8), (4, 1)]
def copying : State := regs8.foldl (fun s x => put s 0 (.w (BitVec.ofNat 5 x.1)) x.2)
  (role (block pointing fun b => { b with scratchSize := 1024 }) .copy)
def batch (n : Nat) : State := warp copying fun w => { w with openBatch := List.range n }

/-- CopyWordsQueueTheirCommands: batches of 254 and 255 commands. -/
theorem meets_lcp :
    (∃ c, (batch 254).Issues (fun _ => lcpEntry false (.v 2) (.v 4) 2) c ∧ lcpGood c 16 (.v 2) (.v 4)
      ∧ modeGd c.mode ≠ 8 ∧ c.w.openBatch.length < 255 ∧ roomForCommand (batch 254))
    ∧ ∃ c, (batch 255).Issues (fun _ => lcpEntry false (.v 2) (.v 4) 2) c ∧ lcpGood c 16 (.v 2) (.v 4)
      ∧ modeGd c.mode ≠ 8 ∧ 255 ≤ c.w.openBatch.length := by
  simp only [lcpGood, roomForCommand]
  exact ⟨has (by decide +kernel), has (by decide +kernel)⟩
theorem meets_tcp :
    (∃ c, (batch 254).Issues (fun _ => tcpEntry false (.w 8)) c
      ∧ (TRec.parse (c.record (.w 8))).fault (c.record (.w 8)) c.b true c.absent = none
      ∧ (TRec.parse (c.record (.w 8))).mask = 0 ∧ (TRec.parse (c.record (.w 8))).sparse = false
      ∧ c.w.openBatch.length < 255 ∧ roomForCommand (batch 254))
    ∧ (∃ c, (role one .copy).Issues (fun _ => tcpEntry false (.w 8)) c
      ∧ (TRec.parse (c.record (.w 8))).fault (c.record (.w 8)) c.b false c.absent = some fcRange)
    ∧ ∃ c, copying.Issues (tcpxEntry false (.w 8) (.w 4)) c
      ∧ (TRec.parse (c.record (.w 8))).fault (c.record (.w 8)) c.b true c.absent = none
      ∧ (TRec.parse (c.record (.w 8))).kind ≠ 3 ∧ (TRec.parse (c.record (.w 8))).base = window
      ∧ extensionOk (c.record (.w 4)) (TRec.parse (c.record (.w 8))).fmt = true ∧ c.w.counter .net < 63 := by
  simp only [roomForCommand]
  exact ⟨has (by decide +kernel), has (by decide +kernel), has (by decide +kernel)⟩
/-- A ring of one stage that expects two arrivals. -/
def ringed (left : Nat) : State := block copying fun b =>
  { b with rings := [{ expect := 2, stages := [{ phase := false, left }] }] }
theorem meets_seal :
    (∃ c, (ringed 1).Issues (sealEntry false true 0 0) c ∧ c.b.hasStage (0#3).toNat (0#3).toNat = true
      ∧ c.w.counter .copy < 63)
    ∧ ∃ c, (ringed 1).Issues (sealEntry false true 0 1) c ∧ c.b.hasStage (0#3).toNat (1#3).toNat = false :=
  ⟨has (by decide +kernel), has (by decide +kernel)⟩

/-- ReservationsAndStages: a reservation of 256 bytes beside one, in a window of 512. -/
def resv : Resv := { idx := 0, tag := 5, base := 0, size := 256, record := 0x00001000 }
def buffered : State := put (put (put (block one fun b => { b with opbufSize := 512, resvs := [resv] })
  0 (.w 4) 0x00001000) 0 (.w 5) 256) 0 (.w 6) 0x05000000
theorem meets_res :
    (∃ c, buffered.Issues (resEntry false (.w 7) (.w 4) (.w 5)) c ∧ (c.one (.w 5)).toNat ≠ 0
      ∧ (c.one (.w 5)).toNat % 16 = 0 ∧ recordOk (c.one (.w 4)) (c.one (.w 5)).toNat = true
      ∧ buffered.resvsOn c.b.core < 32 ∧ lowestFree 32 (c.b.resvs.map Resv.idx) 1
      ∧ fits c.b (c.one (.w 5)).toNat 256 ∧ ∀ h, h < 256 → h % 256 = 0 → ¬ fits c.b (c.one (.w 5)).toNat h)
    ∧ (∃ c, (put buffered 0 (.w 5) 8).Issues (resEntry false (.w 7) (.w 4) (.w 5)) c
      ∧ (c.one (.w 5)).toNat % 16 ≠ 0)
    ∧ (∃ c, buffered.Issues (freeEntry false (.w 6)) c ∧ c.b.resv? (c.one (.w 6)) = some resv
      ∧ buffered.inUse c.b { resvs := [resv.idx], tiles := [] } = false)
    ∧ ∃ c, buffered.Issues (freeEntry false (.w 5)) c ∧ c.b.resv? (c.one (.w 5)) = none := by
  simp only [lowestFree, fits]
  refine ⟨?_, has (by decide +kernel), has (by decide +kernel), has (by decide +kernel)⟩
  obtain ⟨c, hc, h1, h2, h3, h4, h5, h6, h7⟩ := has (s := buffered)
    (mk := resEntry false (.w 7) (.w 4) (.w 5)) (P := fun c => (c.one (.w 5)).toNat = 256
      ∧ recordOk (c.one (.w 4)) 256 = true ∧ buffered.resvsOn c.b.core < 32
      ∧ c.b.resvs.map Resv.idx = [0] ∧ (256 + 256 ≤ c.b.opbufSize)
      ∧ (∀ r ∈ c.b.resvs, 256 + 256 ≤ r.base ∨ r.base + r.size ≤ 256) ∧ c.b.resvs = [resv]) (by decide +kernel)
  refine ⟨c, hc, by omega, by omega, by rw [h1]; exact h2, h3, by rw [h4]; decide, by rw [h1]; exact ⟨h5, h6⟩, ?_⟩
  rintro h hlt hmod ⟨-, hr⟩
  rw [h7, h1] at hr
  have := hr resv (List.mem_singleton_self _)
  simp [resv] at this
  omega

/-- A stage with one and with two arrivals to come; its phase as the word asks, and the other. -/
theorem meets_stages :
    (∃ c, (ringed 1).Issues (regionEntry false) c
      ∧ c.b.rings[(0#3).toNat]? = some { expect := 2, stages := [{ phase := false, left := 1 }] })
    ∧ (∃ c, (ringed 2).Issues (regionEntry false) c
      ∧ c.b.rings[(0#3).toNat]? = some { expect := 2, stages := [{ phase := false, left := 2 }] })
    ∧ (∃ c, (ringed 1).Issues (stgwEntry false (.sp 0)) c ∧ c.w.run = .ready
      ∧ c.b.hasStage 0 0 = true ∧ c.b.phase 0 0 = ((c.one (.sp 0)).getLsbD 0 != false))
    ∧ ∃ c, (ringed 1).Issues (stgwEntry false (.sp 0)) c ∧ c.w.run = .ready
      ∧ c.b.hasStage 0 0 = true ∧ c.b.phase 0 0 ≠ ((c.one (.sp 0)).getLsbD 0 != true) :=
  ⟨has (by decide +kernel), has (by decide +kernel), has (by decide +kernel), has (by decide +kernel)⟩

/-- AccumulatorWords: one allocation of two tiles in a budget of four, and its handle in w6: row 31, to
the last column. -/
def alloc : Alloc := { idx := 0, tag := 5, count := 2, first := 0 }
def tiled : State := put (put (block one fun b => { b with tileBudget := 4, allocs := [alloc] })
  0 (.w 6) 0x0500011F) 0 (.w 7) 24
theorem meets_accumulators :
    (∃ c, tiled.Issues (accaEntry false (.w 8) 2) c ∧ lowestFree 64 (c.b.allocs.map Alloc.idx) 1
      ∧ c.b.allocs.foldl (fun k x => k + x.count) 0 + (2#7).toNat ≤ c.b.tileBudget)
    ∧ (∃ c, tiled.Issues (freeEntry false (.w 6)) c ∧ c.b.alloc? (c.one (.w 6)) = some alloc
      ∧ tiled.inUse c.b { resvs := [], tiles := (List.range alloc.count).map (alloc.first + ·) } = false)
    ∧ (∃ c, tiled.Issues (freeEntry false (.w 7)) c ∧ c.b.alloc? (c.one (.w 7)) = none)
    ∧ (∃ c, tiled.Issues (accrEntry false (.v 1) (.w 6) (.w 7)) c ∧ c.outLanes ≠ [] ∧ modeGd c.mode ≠ 8
      ∧ (∀ l ∈ c.outLanes, c.opd l (.w 6) = 0x0500011F) ∧ c.b.alloc? 0x0500011F = some alloc
      ∧ alloc.holds 0x0500011F = true
      ∧ (∀ l ∈ c.outLanes, 32 * handleRow 0x0500011F + (c.opd l (.w 7)).toNat + l < 1024)
      ∧ c.heldBy { resvs := [], tiles := [alloc.first + handleTile 0x0500011F] } = false)
    ∧ ∃ c, tiled.Issues (accwEntry false (.v 1) (.w 6) (.w 7)) c
      ∧ ∀ l ∈ c.outLanes, ∀ m ∈ c.outLanes, (c.opd l (.w 7)).toNat + l = (c.opd m (.w 7)).toNat + m → l = m := by
  have low {c : Ctx} (h : c.b.allocs.map Alloc.idx = [0]) : lowestFree 64 (c.b.allocs.map Alloc.idx) 1 := by
    rw [h, lowestFree]
    decide
  refine ⟨?_, has (by decide +kernel), has (by decide +kernel), has (by decide +kernel), has (by decide +kernel)⟩
  obtain ⟨c, hc, h1, h2⟩ := has (s := tiled) (mk := accaEntry false (.w 8) 2)
    (P := fun c => c.b.allocs.map Alloc.idx = [0]
      ∧ c.b.allocs.foldl (fun k x => k + x.count) 0 + (2#7).toNat ≤ c.b.tileBudget) (by decide +kernel)
  exact ⟨c, hc, low h1, h2⟩

/-- A MATRIX warp with operands A and B and an accumulator of eight tiles: handles in o2, w5 and w6, and a
reservation of 16 rows of 128 bytes in w7. -/
def handles : List (Operand × Word) :=
  [(.w 4, 0x05000000), (.o 4, 0x05000000), (.w 5, 0x06010000), (.w 6, 0x05000000), (.w 8, 0x07020000)]
def operands (ra rb : Word) : State := handles.foldl (fun s x => put s 0 x.1 x.2) (role (block one fun b =>
  { b with
    opbufSize := 4096, tileBudget := 8, allocs := [{ alloc with count := 8 }]
    resvs := [{ resv with record := ra }, { idx := 1, tag := 6, base := 256, size := 1024, record := rb },
      { idx := 2, tag := 7, base := 1280, size := 2048, record := 0x00008008 }] }) .matrix)
def intOps : State := operands 0x2005 0x2005
def floatOps : State := operands 0x2000 0x4000

/-- ArrayWordsQueue: MMA of s8 operands, MMAD of f16 operands; an A operand that is no reservation. -/
theorem meets_matrix :
    (∃ c, intOps.Issues (mmaEntry false 0 (.w 6) (.w 4) (.w 5)) c ∧ c.act = List.range 8
      ∧ octetFault c.b 0 { octet := 0, hd := c.opd 0 (.w 6), ha := c.opd 0 (.w 4), hb := c.opd 0 (.w 5) } = none
      ∧ c.w.counter .matrix < 63 ∧ (intOps.core c.b.core).queue.length < 16 ∧ intOps.cmds = [])
    ∧ (∃ c, floatOps.Issues (mmaEntry false 2 (.w 6) (.o 4) (.w 5)) c ∧ c.act = List.range 8
      ∧ octetFault c.b 2 { octet := 0, hd := c.opd 0 (.w 6), ha := c.opd 0 (.o 4), hb := c.opd 0 (.w 5) } = none)
    ∧ ∃ c, intOps.Issues (mmaEntry false 1 (.w 6) (.w 9) (.w 5)) c ∧ c.act = List.range 8
      ∧ octetFault c.b 1 { octet := 0, hd := c.opd 0 (.w 6), ha := c.opd 0 (.w 9), hb := c.opd 0 (.w 5) }
        = some fcHandle := ⟨has (by decide +kernel), has (by decide +kernel), has (by decide +kernel)⟩

/-- KSET of G = 29 and of G = 30; CLD, SPL, GREF; KGET. -/
def knots (g : Word) : State := put (put intOps 0 (.w 13) 0x3F800000) 0 (.w 14) g
theorem meets_spline :
    (∃ c x y, (knots 29).Issues (fun _ => x.entry) c ∧ splineForm c (.kset false (.w 12) 3) = some x
      ∧ c.spline = some y ∧ x.check y = none ∧ roomInArray (knots 29) c .spline (x.op.names c.b))
    ∧ (∃ c x y, (knots 30).Issues (fun _ => x.entry) c ∧ splineForm c (.kset false (.w 12) 3) = some x
      ∧ c.spline = some y ∧ x.check y = some fcRange)
    ∧ (∃ c x y, intOps.Issues (fun _ => x.entry) c ∧ splineForm c (.cld false (.w 8) 0 15) = some x
      ∧ c.spline = some y ∧ x.check y = none ∧ roomInArray intOps c .spline (x.op.names c.b))
    ∧ (∃ c x y, intOps.Issues (fun _ => x.entry) c ∧ splineForm c (.spl false (.w 6) (.w 8) false false 15) = some x
      ∧ c.spline = some y ∧ x.check y = none ∧ roomInArray intOps c .spline (x.op.names c.b))
    ∧ (∃ c x y, intOps.Issues (fun _ => x.entry) c ∧ splineForm c (.gref false 0) = some x
      ∧ c.spline = some y ∧ x.check y = none ∧ roomInArray intOps c .spline (x.op.names c.b))
    ∧ ∃ c y, intOps.Issues (fun _ => kgetEntry false (.w 16)) c ∧ c.spline = some y
      ∧ (intOps.core c.b.core).queue.length < 16 := by
  have room {s : State} (hs : s.cmds = []) {c : Ctx} {n : Names} (h : c.w.counter .spline < 63)
      (hq : (s.core c.b.core).queue.length < 16) : roomInArray s c .spline n := ⟨h, hq, by simp [hs]⟩
  refine ⟨?_, ?_, ?_, ?_, ?_, ?_⟩
  · obtain ⟨c, hc, h1, h2, h3, h4⟩ := has (s := knots 29)
      (mk := fun _ => splineEntry false [{ Use.src (.w 12) 4 with ok := true }])
      (P := fun c => c.spline = some (Spline.claimed 1)
        ∧ (if knotOk (recWord c (.w 12)) (3 : BitVec 4).toNat (Spline.claimed 1) then none else some fcRange) = none
        ∧ c.w.counter .spline < 63 ∧ ((knots 29).core c.b.core).queue.length < 16) (by decide +kernel)
    exact ⟨c, _, _, hc, rfl, h1, h2, room rfl h3 h4⟩
  · obtain ⟨c, hc, h1, h2⟩ := has (s := knots 30)
      (mk := fun _ => splineEntry false [{ Use.src (.w 12) 4 with ok := true }])
      (P := fun c => c.spline = some (Spline.claimed 1)
        ∧ (if knotOk (recWord c (.w 12)) (3 : BitVec 4).toNat (Spline.claimed 1) then none else some fcRange)
          = some fcRange) (by decide +kernel)
    exact ⟨c, _, _, hc, rfl, h1, h2⟩
  · obtain ⟨c, hc, h1, h2, h3, h4⟩ := has (s := intOps) (mk := fun _ => splineEntry false [Use.wide (.w 8) 1])
      (P := fun c => c.spline = some (Spline.claimed 1)
        ∧ cellsFault c.b (c.one (.w 8)) (15 : BitVec 4).toNat ((0 : BitVec 4).toNat + 1) = none
        ∧ c.w.counter .spline < 63 ∧ (intOps.core c.b.core).queue.length < 16) (by decide +kernel)
    exact ⟨c, _, _, hc, rfl, h1, h2, room rfl h3 h4⟩
  · obtain ⟨c, hc, h1, h2, h3, h4⟩ := has (s := intOps)
      (mk := fun _ => splineEntry false [Use.wide (.w 6) 1, Use.wide (.w 8) 1])
      (P := fun c => c.spline = some (Spline.claimed 1)
        ∧ samplesFault c.b (c.one (.w 6)) (c.one (.w 8)) none false ((15 : BitVec 5).toNat + 1) = none
        ∧ c.w.counter .spline < 63 ∧ (intOps.core c.b.core).queue.length < 16) (by decide +kernel)
    exact ⟨c, _, _, hc, rfl, h1, h2, room rfl h3 h4⟩
  · obtain ⟨c, hc, h1, h3, h4⟩ := has (s := intOps) (mk := fun _ => splineEntry false [])
      (P := fun c => c.spline = some (Spline.claimed 1)
        ∧ c.w.counter .spline < 63 ∧ (intOps.core c.b.core).queue.length < 16) (by decide +kernel)
    exact ⟨c, _, _, hc, rfl, h1, by decide +kernel, room rfl h3 h4⟩
  · obtain ⟨c, hc, h1, h2⟩ := has (s := intOps) (mk := fun _ => kgetEntry false (.w 16))
      (P := fun c => c.spline = some (Spline.claimed 1) ∧ (intOps.core c.b.core).queue.length < 16)
      (by decide +kernel)
    exact ⟨c, _, hc, h1, h2⟩

/-! ### Messages, snapshots and handler words -/

/-- One channel of two slots to the block itself, and one tree. -/
def chan (credits landed : Nat) : ChanEnd :=
  { desc := { landing := 0, slots := 2, peer := 0 }, credits, landed, taken := 0, asked := 0, sent := 0 }
def joined (credits landed : Nat) : State :=
  block (desc one fun d => { d with trees := [{ root := 0, fanin := 2, allreduce := true, timeout := 1 }] }) fun b =>
    { b with chans := [chan credits landed], scratchSize := 256 }

/-- MessageWords: one credit; one message and none; an open tree. -/
theorem meets_send : ∃ c, (joined 1 0).Issues (sendEntry false (.v 1)) c ∧ c.g.packet.redundant = false
    ∧ c.g.map ≠ [] ∧ c.b.chans[(0 : BitVec 4).toNat]? = some (chan 1 0) ∧ c.w.counter .net < 63 :=
  has (by decide)
theorem meets_recv :
    (∃ c, (joined 1 1).Issues (recvEntry false (.v 1)) c ∧ c.w.run = .ready
      ∧ c.b.chans[(0 : BitVec 4).toNat]? = some (chan 1 1) ∧ (∀ w ∈ c.b.warps, ∀ t, w.run ≠ .recv 0 t)
      ∧ (joined 1 1).twin? c.b = none ∧ c.acquiring = false ∧ halfLanes c false ≠ [])
    ∧ ∃ c, (joined 1 0).Issues (recvEntry false (.v 1)) c ∧ c.w.run = .ready
      ∧ c.b.chans[(0 : BitVec 4).toNat]? = some (chan 1 0) ∧ c.g.map ≠ [] := by
  refine ⟨?_, has (by decide)⟩
  obtain ⟨c, hc, h1, h2, h3, h4, h5⟩ := has (s := joined 1 1) (mk := recvEntry false (.v 1))
    (P := fun c => c.w.run = .ready ∧ c.b.chans[(0 : BitVec 4).toNat]? = some (chan 1 1)
      ∧ (∀ w ∈ c.b.warps, w.run = .ready) ∧ (joined 1 1).twin? c.b = none ∧ c.acquiring = false
      ∧ halfLanes c false ≠ []) (by decide)
  exact ⟨c, hc, h1, h2, fun w hw t => by rw [h3 w hw]; exact Run.noConfusion, h4, h5⟩
theorem meets_nred : ∃ c, (joined 1 0).Issues (nredEntry false (.v 2) (.v 1) 0 0) c
    ∧ c.g.desc.trees[(0 : BitVec 3).toNat]? = some { root := 0, fanin := 2, allreduce := true, timeout := 1 }
    ∧ c.openRounds (0 : BitVec 3).toNat < 2 := has (by decide)

/-- SnapshotWords: with permission and without. -/
def permitted : State := one.updVf 0 fun v => { v with part := { v.part with permit := 2 } }
theorem meets_snap :
    (∃ c, permitted.Issues (fun _ => snapEntry false (.w 4)) c ∧ permitted.maySnap c.g.vf c.ctx = true
      ∧ permitted.privileged c.ctx = true ∧ c.g.packet.redundant = false)
    ∧ (∃ c, one.Issues (fun _ => snapEntry false (.w 4)) c ∧ one.maySnap c.g.vf c.ctx = false)
    ∧ ∃ c, (context permitted fun c => { c with privileged := false }).Issues (fun _ => snapEntry false (.w 4)) c
      ∧ (context permitted fun c => { c with privileged := false }).privileged c.ctx = false :=
  ⟨has (by decide), has (by decide), has (by decide)⟩

/-- HandlerWords: TLBI of context 1 and of one that does not exist. -/
theorem meets_tlbi :
    (∃ c, (put one 0 (.w 3) 1).Issues (sysEntry false (.w 3) (.w 4)) c
      ∧ (c.one (.w 3)).extractLsb' 18 14 = 0
      ∧ (put one 0 (.w 3) 1).ctxAlive ((c.one (.w 3)).extractLsb' 0 16).toNat = true)
    ∧ ∃ c, (put one 0 (.w 3) 2).Issues (sysEntry false (.w 3) (.w 4)) c
      ∧ (put one 0 (.w 3) 2).ctxAlive ((c.one (.w 3)).extractLsb' 0 16).toNat = false :=
  ⟨has (by decide), has (by decide)⟩

/-- FHDONE of a sheaf that is claimed, and of none; FHGET of an empty and of a filled intake. -/
def sheaf : Sheaf :=
  { id := 1, ctx := 1, core := 0, source := 0, blk := 1, slot := 0, pc := 60, pages := [], place := some 0x3000,
    cancelled := false, claimed := true }
def handling : State := pair (context one fun c => { c with sheaves := [sheaf] }) (.w 4) fun _ => 0x0100000000003000
theorem meets_fhdone :
    (∃ c, handling.Issues (sysEntry false (.w 3) (.w 4)) c ∧ handling.claimedAt (c.pair64 (.w 4)) = some sheaf
      ∧ sheaf.cancelled = false ∧ c.one (.w 3) = 0 ∧ c.writesDone = true)
    ∧ ∃ c, one.Issues (sysEntry false (.w 3) (.w 4)) c ∧ one.claimedAt (c.pair64 (.w 4)) = none :=
  ⟨has (by decide +kernel), has (by decide +kernel)⟩
theorem meets_fhget :
    (∃ c, one.Issues (fhgetEntry false (.w 4)) c ∧ (one.cluster (clusterOf c.b.core)).intake = [])
    ∧ ∃ c, (one.updCluster 0 fun k => { k with intake := [(1, 0x3000)] }).Issues (fhgetEntry false (.w 4)) c
      ∧ ((one.updCluster 0 fun k => { k with intake := [(1, 0x3000)] }).cluster (clusterOf c.b.core)).intake
        = [(1, 0x3000)] ∧ (0x3000 : Nat) < 2 ^ 42 := ⟨has (by decide), has (by decide)⟩

/-- RTT and SWR of the stopped warp in slot 1: MODE, and the last lane register of its last lane. -/
def stopped : State := two fun w => { w with run := .stopped }
def naming (x : Dword) : State := put (put (put stopped 0 (.w 4) (x.setWidth 32)) 0 (.w 5) (x.extractLsb' 32 32)) 0 (.w 3) 5
def other : WarpRef := { blk := 1, slot := 1 }
theorem repairs {x : Dword} {c : Ctx} (hx : x.extractLsb' 0 32 = 1) (hs : (x.extractLsb' 32 5).toNat = 1)
    (hv : c.g.vf = 0) (hcur : (naming x).cur = me) (ht : (naming x).target 1 0 1
      = ((naming x).warp? other).map fun y => (other, y.1, y.2))
    {b : Block} {w : Warp} (hw : (naming x).warp? other = some (b, w)) (hr : w.run = .stopped)
    (he : w.evicted = false) (hk : ∃ k, (naming x).ctx? 1 = some k ∧ k.killing = false) :
    Repairs (naming x) c x other b w := by
  have h1 : (x.extractLsb' 0 16).toNat = 1 := by
    have : x.extractLsb' 0 16 = (x.extractLsb' 0 32).extractLsb' 0 16 := by
      simp [BitVec.extractLsb'_extractLsb'_of_le]
    rw [this, hx]; rfl
  have h2 : (x.extractLsb' 16 16).toNat = 0 := by
    have : x.extractLsb' 16 16 = (x.extractLsb' 0 32).extractLsb' 16 16 := by
      simp [BitVec.extractLsb'_extractLsb'_of_le]
    rw [this, hx]; rfl
  rw [hw] at ht
  exact ⟨by rw [h1, h2, hs]; exact ht, hw, .inl hr, he, by rw [hcur]; decide, by rw [h1, hv], by rw [h1]; exact hk⟩
theorem meets_rtt : ∃ c b w, (naming 0x100000001).Issues (rttEntry false (.w 4)) c
    ∧ c.pair64 (.w 4) = 0x100000001 ∧ Repairs (naming 0x100000001) c (c.pair64 (.w 4)) other b w
    ∧ (c.pair64 (.w 4)).extractLsb' 37 3 = 0 ∧ (c.pair64 (.w 4)).extractLsb' 41 23 = 0 := by
  obtain ⟨c, hc, h1, h2⟩ := has (s := naming 0x100000001) (mk := rttEntry false (.w 4))
    (P := fun c => c.pair64 (.w 4) = 0x100000001 ∧ c.g.vf = 0) (by decide)
  exact ⟨c, _, _, hc, h1, by rw [h1]; exact repairs (by decide) (by decide) h2 rfl rfl rfl rfl rfl ⟨_, rfl, rfl⟩,
    by rw [h1]; decide, by rw [h1]; decide⟩
theorem meets_swr : ∀ x ∈ [(0x010100000001 : Dword), 0x01FF040100000001],
    ∃ c b w g, (naming x).Issues (sysEntry false (.w 3) (.w 4)) c ∧ c.pair64 (.w 4) = x
      ∧ Repairs (naming x) c (c.pair64 (.w 4)) other b w ∧ (naming x).grid? b.grid = some g
      ∧ x.extractLsb' 37 3 = 0 ∧ x.extractLsb' 44 4 = 0
      ∧ swrOk w g.desc.size (x.extractLsb' 40 4).toNat (x.extractLsb' 48 16).toNat (c.one (.w 3)) = true := by
  have go {x : Dword} {b : Block} {w : Warp} {g : Grid}
      (h : Meets (naming x) (sysEntry false (.w 3) (.w 4)) (fun c => decide (c.pair64 (.w 4) = x ∧ c.g.vf = 0
        ∧ c.one (.w 3) = 5)) = true) (hr : ∀ c : Ctx, c.g.vf = 0 → Repairs (naming x) c x other b w)
      (hg : (naming x).grid? b.grid = some g) (h1 : x.extractLsb' 37 3 = 0) (h2 : x.extractLsb' 44 4 = 0)
      (h3 : swrOk w g.desc.size (x.extractLsb' 40 4).toNat (x.extractLsb' 48 16).toNat 5 = true) :
      ∃ c b w g, (naming x).Issues (sysEntry false (.w 3) (.w 4)) c ∧ c.pair64 (.w 4) = x
        ∧ Repairs (naming x) c (c.pair64 (.w 4)) other b w ∧ (naming x).grid? b.grid = some g
        ∧ x.extractLsb' 37 3 = 0 ∧ x.extractLsb' 44 4 = 0
        ∧ swrOk w g.desc.size (x.extractLsb' 40 4).toNat (x.extractLsb' 48 16).toNat (c.one (.w 3)) = true := by
    obtain ⟨c, hc, e1, e2, e3⟩ := has h
    exact ⟨c, b, w, g, hc, e1, by rw [e1]; exact hr c e2, hg, h1, h2, by rw [e3]; exact h3⟩
  simp only [List.forall_mem_cons, List.not_mem_nil, false_implies, implies_true, and_true]
  refine ⟨go (by decide) (fun c hv => repairs (by decide) (by decide) hv rfl rfl rfl rfl rfl ⟨_, rfl, rfl⟩) rfl
      (by decide) (by decide) (by decide),
    go (by decide) (fun c hv => repairs (by decide) (by decide) hv rfl rfl rfl rfl rfl ⟨_, rfl, rfl⟩) rfl
      (by decide) (by decide) (by decide)⟩

/-- The words of handler blocks outside a privileged context. -/
def plain : State := context one fun c => { c with privileged := false }
theorem meets_unprivileged : ∃ c, plain.Stands (sysEntry false (.w 3) (.w 4)) c
    ∧ plain.privileged c.g.ctx = false ∧ ∀ u ∈ (sysEntry false (.w 3) (.w 4) c.mode).uses, u.ok = true :=
  reaches (by decide)
/-- A reserved sub-op of SYS. -/
theorem meets_reserved_subop : majorOf 0x7E000005 = 0x7E ∧ 5 ≤ ((0x7E000005 : Word).extractLsb' 0 5).toNat := by
  decide


/-! ### Events: scheduling and the dispatcher -/

theorem isOk {ε α : Type} {x : Except ε α} (h : (match x with | .ok _ => true | .error _ => false) = true) :
    ∃ v, x = .ok v := by
  cases x with
  | ok v => exact ⟨v, rfl⟩
  | error e => cases h
theorem isError {α : Type} {x : Except Nat α} {n : Nat}
    (h : (match x with | .error m => m == n | .ok _ => false) = true) : x = .error n := by
  cases x with
  | ok v => cases h
  | error e => simpa using h
theorem isSome {α : Type} {o : Option α} {P : α → Prop} [DecidablePred P]
    (h : o.any (fun x => decide (P x)) = true) : ∃ x, o = some x ∧ P x := by
  cases o with
  | none => cases h
  | some x => exact ⟨x, rfl, by simpa using h⟩
theorem isPhys {s : State} {core ctx : Nat} {va : Dword} {acc : Access} {pa : Nat}
    (h : (s.translate core ctx va acc).1 = .phys pa) :
    s.translate core ctx va acc = (.phys pa, (s.translate core ctx va acc).2) := by rw [← h]
theorem noVfs {s : State} (h : s.vfs = []) : noFrozen s := by
  intro v hv
  rw [h] at hv
  cases hv

/-- Page tables at 64 KiB that map the first GiB to itself. -/
def table (m : Memory) : Memory :=
  [(0x10000, 0x11001), (0x11000, 0x12001), (0x12000, 0x1F)].foldl (fun m x => writeLE m x.1 8 x.2) m
def paged : State := { context one fun c => { c with root := 0x10000 } with mem := table one.mem }

/-- SchedulingEvents: a warp ready for 4,095 and for 4,096 cycles; a result that is complete. -/
theorem meets_promotion : ∀ n ∈ [4095, 4096], ∃ b w, ({ one with now := n } : State).warp? me = some (b, w)
    ∧ isReady { one with now := n } (me, b, w) ∧ (w.since + 4096 ≤ n ↔ n = 4096) := by
  simp only [List.forall_mem_cons, List.not_mem_nil, false_implies, implies_true, and_true, isReady]
  exact ⟨⟨_, _, rfl, ⟨rfl, rfl, by decide, by decide⟩, by decide⟩,
    ⟨_, _, rfl, ⟨rfl, rfl, by decide, by decide⟩, by decide⟩⟩
def returning : State := warp one fun w => { w with results := [aResult] }
theorem meets_result : ∃ b w g, returning.warp? me = some (b, w) ∧ returning.grid? b.grid = some g
    ∧ w.run = .ready ∧ w.evicted = false ∧ w.results.find? (fun y => y.id == aResult.id) = some aResult
    ∧ plainResult returning aResult 5 :=
  ⟨_, _, _, rfl, rfl, rfl, rfl, by decide, by unfold plainResult; decide⟩
def unfetched : State := warp paged fun w => { w with fetch := none }
theorem meets_fetch : ∃ b w pa u, unfetched.warp? me = some (b, w)
    ∧ w.wantsFetch (unfetched.imageOf b) = true
    ∧ unfetched.comparators (unfetched.ctxOf b) (nextVa unfetched b w) = 0
    ∧ unfetched.aheadOf b.core me = none
    ∧ unfetched.translate b.core (unfetched.ctxOf b) (nextVa unfetched b w &&& ~~~63#64) .fetch = (.phys pa, u)
    ∧ pa + 64 ≤ Config.dramBytes ∧ unfetched.spanBad pa 64 = false ∧ (unfetched.core b.core).icache = []
    ∧ unfetched.code = [] :=
  ⟨_, _, 4160, _, rfl, by decide +kernel, by decide +kernel, by decide +kernel, isPhys (by decide +kernel),
    by decide, by decide +kernel, by decide +kernel, rfl⟩
def aWarp : Warp := Warp.start 0 .vector 8 64 64 [0] 0
def running : State := one.updCore 0 fun k => { k with
  ahead := some { blk := 1, slot := 0, saved := aWarp, sheaf := 1, words := 513, poison := [] } }
theorem meets_rollback : ∃ a b w, (running.core 0).ahead = some a ∧ 513 ≤ a.words ∧ a.saved.slot = a.slot
    ∧ running.warp? { blk := a.blk, slot := a.slot } = some (b, w) :=
  ⟨_, _, _, rfl, by decide, rfl, rfl⟩
def unposted : State := context one fun c => { c with
  fqBase := 0x8000, sheaves := [{ sheaf with place := none, claimed := false }] }
theorem meets_post : ∃ x, unposted.nextSheaf 0 = some (x, 0x8000) ∧ noFrozen unposted
    ∧ unposted.lineBusy 0x8000 256 = false :=
  ⟨_, rfl, noVfs rfl, by decide +kernel⟩
theorem meets_walk : ∃ e : Tlb, 2 ^ 30 - 1 < 2 ^ 57 ∧ Access.write ≠ .fetch ∧ untranslated paged 0 1 (2 ^ 30 - 1)
    ∧ paged.walk 1 (2 ^ 30 - 1) = .leaf e :=
  ⟨{ ctx := 1, va := 0, size := 2 ^ 30, pa := 0, r := true, w := true, x := true, lower := false, node := false },
    by decide, by decide, by unfold untranslated; decide, by decide +kernel⟩
/-- A TLBI behind nothing, and behind a store that went through an entry that it covers. -/
def aTlbi : TlbiReq :=
  { id := 4, ctx := 1, va := 0, all := true, exec := false, accs := [], own := [], purged := false }
theorem meets_tlbi_performed : ∀ s ∈ [one, storing],
    ({ s with tlbis := [aTlbi] } : State).tlbis.find? (fun x => x.id == aTlbi.id)
    = some aTlbi ∧ aTlbi.accs = [] ∧ aTlbi.own = [] ∧ ({ s with tlbis := [aTlbi] } : State).heldReach aTlbi = false
    ∧ (({ s with tlbis := [aTlbi] } : State).translated aTlbi = [] ↔ s.accs = []) := by decide

/-- A function with core 0 whose queue 0 names in host memory a packet at `va`; the packet, at 8,192, asks
for a grid of `n` blocks of an image of one warp at 4,096; the map, at 16,384, holds 0. -/
def queued (va n : Nat) : State :=
  let s := paged.updVf 0 fun v => { v with
    ctl := 0x10701, cores := 1, psize := 0x40000000
    queues := [(0, { base := 0, ctl := 0xF042, tail := 1, head := 0 })] }
  { s with
    host := writeLE [] 0 8 va
    mem := [(0x2000, 0x1000), (0x2008, 0x100010000 + n), (0x2010, 0x3000), (0x2018, 1), (0x2060, 0x4000),
      (0x1008, 1), (0x1024, 64), (0x1028, 128)].foldl (fun m x => writeLE m x.1 8 x.2) s.mem }
def packetBytes (s : State) : List Byte := readBytes s.mem 0x2000 128

/-- DispatcherEvents: a packet that is accepted, one of no blocks, one at an address that is no multiple
of 64. -/
theorem meets_entry : ∃ va d map met, entryRead (queued 0x2000 1) 0 0 1 va (packetBytes (queued 0x2000 1))
    ∧ (queued 0x2000 1).checkLaunch 0 1 (packetBytes (queued 0x2000 1)) = .ok (d, map, met) := by
  obtain ⟨⟨d, map, met⟩, h⟩ : ∃ v, (queued 0x2000 1).checkLaunch 0 1 (packetBytes (queued 0x2000 1)) = .ok v :=
    isOk (by decide +kernel)
  obtain ⟨bs, hb⟩ : ∃ v, (queued 0x2000 1).dispatcherRead 1 0x2000 128 = .ok v := isOk (by decide +kernel)
  refine ⟨0x2000, d, map, met, ⟨rfl, by decide +kernel, by decide, ?_⟩, h⟩
  have : (match (queued 0x2000 1).dispatcherRead 1 0x2000 128 with
    | .ok bs => bs == packetBytes (queued 0x2000 1) | .error _ => false) = true := by decide +kernel
  rw [hb] at this
  show (queued 0x2000 1).dispatcherRead 1 0x2000 128 = _
  rw [hb, eq_of_beq this]
theorem meets_entry_refused :
    entryRead (queued 0x2000 0) 0 0 1 0x2000 (packetBytes (queued 0x2000 0))
    ∧ (queued 0x2000 0).checkLaunch 0 1 (packetBytes (queued 0x2000 0)) = .error 1
    ∧ packetOk (packetBytes (queued 0x2000 0)) = false := by
  obtain ⟨bs, hb⟩ : ∃ v, (queued 0x2000 0).dispatcherRead 1 0x2000 128 = .ok v := isOk (by decide +kernel)
  refine ⟨⟨rfl, by decide +kernel, by decide, ?_⟩, isError (by decide +kernel), by decide +kernel⟩
  have : (match (queued 0x2000 0).dispatcherRead 1 0x2000 128 with
    | .ok bs => bs == packetBytes (queued 0x2000 0) | .error _ => false) = true := by decide +kernel
  rw [hb] at this
  show (queued 0x2000 0).dispatcherRead 1 0x2000 128 = _
  rw [hb, eq_of_beq this]
theorem meets_entry_misaligned : ∃ va, ((queued 0x2008 1).vf 0).posted = []
    ∧ (queued 0x2008 1).entry 0 0 = some (va, 1) ∧ va.toNat % 64 ≠ 0 :=
  ⟨0x2008, rfl, by decide +kernel, by decide⟩
/-- Launches that wait for the word at 24,576 to reach 1. -/
def aLaunch (met : Bool) : Launch :=
  { id := 9, vf := 0, queue := 0, ctx := 1, desc := soloDesc, map := [(0, 0)], met, grid := 10, waiting := [0]
    packet := { soloPacket with deps := [(0x6000, 1)] } }
def depending (x : Nat) (met : Bool) : State :=
  { paged with launches := [aLaunch met], mem := writeLE paged.mem 0x6000 8 x }
theorem meets_reread : ∀ x ∈ [0, 1, 2 ^ 63], ∃ value : Dword → Dword,
    (depending x false).launches.find? (fun y => y.id == 9) = some (aLaunch false) ∧ (aLaunch false).met = false
    ∧ (depending x false).ctxUsable (aLaunch false).ctx = true
    ∧ (∀ d ∈ (aLaunch false).packet.deps, (depending x false).depWord (aLaunch false).ctx d.1 = some (value d.1))
    ∧ (x < 2 ^ 63 ↔ ∀ d ∈ (aLaunch false).packet.deps, (value d.1).getLsbD 63 = false) := by
  have go {x : Nat} (h : (depending x false).depWord 1 0x6000 = some (BitVec.ofNat 64 x))
      (h1 : (depending x false).launches.find? (fun y => y.id == 9) = some (aLaunch false))
      (h2 : (depending x false).ctxUsable 1 = true)
      (h3 : x < 2 ^ 63 ↔ (BitVec.ofNat 64 x).getLsbD 63 = false) : ∃ value : Dword → Dword,
      (depending x false).launches.find? (fun y => y.id == 9) = some (aLaunch false) ∧ (aLaunch false).met = false
      ∧ (depending x false).ctxUsable (aLaunch false).ctx = true
      ∧ (∀ d ∈ (aLaunch false).packet.deps, (depending x false).depWord (aLaunch false).ctx d.1 = some (value d.1))
      ∧ (x < 2 ^ 63 ↔ ∀ d ∈ (aLaunch false).packet.deps, (value d.1).getLsbD 63 = false) :=
    ⟨fun _ => BitVec.ofNat 64 x, h1, rfl, h2, by simpa [aLaunch] using h, by simpa [aLaunch] using h3⟩
  simp only [List.forall_mem_cons, List.not_mem_nil, false_implies, implies_true, and_true]
  exact ⟨go (by decide +kernel) (by decide) (by decide) (by decide),
    go (by decide +kernel) (by decide) (by decide) (by decide),
    go (by decide +kernel) (by decide) (by decide) (by decide)⟩
theorem meets_start : (depending 1 true).launches.find? (fun x => x.id == 9) = some (aLaunch true)
    ∧ (aLaunch true).met = true ∧ 0 ∈ (aLaunch true).waiting
    ∧ (depending 1 true).ctxUsable (aLaunch true).ctx = true
    ∧ (depending 1 true).fits (aLaunch true) ((aLaunch true).together 0) = true
    ∧ ∀ c ∈ (aLaunch true).coresOf ((aLaunch true).together 0),
      (depending 1 true).mayTake c (aLaunch true).ctx (aLaunch true).packet.priority = true := by decide +kernel
def finished : State := { grid one fun g => { g with retired := [(0, false)] } with blocks := [] }
theorem meets_completion : ∃ g, finished.grid? 1 = some g ∧ g.finished = true ∧ finished.gridQuiet g = true :=
  ⟨_, rfl, by decide +kernel, by decide +kernel⟩

/-! ### Events: accesses, engines and the network -/

def acc (k : AccKind) (res : Option Nat) (pa : Nat) : Acc := { anAcc with kind := k, result := res, pa, width := 8 }
def accessing (k : AccKind) (res : Option Nat) (pa : Nat) : State :=
  { returning with accs := [acc k res pa], nextId := 9 }
/-- AccessEvents: a load, a write and an ACQ in the last 8 bytes of device memory; a remote access inside
the window of function 0, one byte past it, and after a reset; an answer. -/
def lastWord : Nat := Config.dramBytes - 8
theorem meets_slice :
    (∃ a b w, ready (accessing .load (some 2) lastWord) a ∧ a.kind = .load ∧ a.far = false
      ∧ a.result = some 2
      ∧ (accessing .load (some 2) lastWord).warp? { blk := a.blk, slot := a.slot } = some (b, w) ∧ allMatched b
      ∧ ((accessing .load (some 2) lastWord).core a.core).cache = []
      ∧ (accessing .load (some 2) lastWord).spanBad a.pa a.width = false)
    ∧ (∃ a, ready (accessing .store none lastWord) a ∧ a.kind.writes = true
      ∧ noFrozen (accessing .store none lastWord))
    ∧ (∃ a, ready (accessing .relInc none 0) a ∧ a.kind.writes = true ∧ a.kind = .relInc
      ∧ noFrozen (accessing .relInc none 0))
    ∧ ∃ a b w, ready (accessing .acq (some 2) 0) a ∧ a.kind = .acq ∧ a.result = some 2
      ∧ (accessing .acq (some 2) 0).warp? { blk := a.blk, slot := a.slot } = some (b, w) := by
  simp only [ready, allMatched]
  exact ⟨⟨acc .load (some 2) lastWord, _, _, ⟨rfl, rfl, rfl, by decide, by decide⟩, rfl, rfl, rfl, rfl, by decide,
      rfl, by decide⟩,
    ⟨acc .store none lastWord, ⟨rfl, rfl, rfl, by decide, by decide⟩, rfl, noVfs rfl⟩,
    ⟨acc .relInc none 0, ⟨rfl, rfl, rfl, by decide, by decide⟩, rfl, rfl, noVfs rfl⟩,
    acc .acq (some 2) 0, _, _, ⟨rfl, rfl, rfl, by decide, by decide⟩, rfl, rfl, rfl⟩
def exporting (refusing : Bool) : State :=
  one.updVf 0 fun v => { v with ctl := 0x10701, wbase := 0x4000, wsize := 0x1003, refusing }
def request (off : Nat) (kind : RemoteKind) : RemoteReq := { vf := 0, off, width := 4, kind, ty := 0, data := 7 }
theorem meets_remote : (∀ f ∈ [false, true], (exporting f).up = true ∧ (exporting f).dev.deviceIdle ≠ 4
      ∧ ((exporting f).vf 0).refusing = f ∧ (exporting f).accs = [])
    ∧ ¬ outsideWindow ((exporting false).vf 0) (request 0xFFC .store)
    ∧ ¬ outsideWindow ((exporting false).vf 0) (request 0xFFC .load)
    ∧ outsideWindow ((exporting false).vf 0) (request 0xFFD .store)
    ∧ ∀ v ∈ (exporting false).vfs, v.part.frozen = none := by
  simp only [outsideWindow]
  decide
def away : Acc := { anAcc with kind := .load, result := some 2, remote := true, va := 0x8004000000000000 }
def answering : State :=
  { returning with
    accs := [away]
    dev := { returning.dev with routes := [(1, 4)] } }
theorem meets_ack : ∃ a, answering.accs.find? (fun x => x.id == a.id) = some a ∧ a.remote = true ∧ a.after = []
    ∧ a.cmd = none ∧ a.kind = .load ∧ a.target ≠ answering.dev.self ∧ answering.dev.route a.target ≠ 0xFF
    ∧ answering.dev.route a.target ∉ answering.dev.downPorts := ⟨away, by decide⟩
theorem meets_forward : ∀ ports ∈ [[], [4]], let s : State := { one with dev := { one.dev with
      routes := [(1, 4)], downPorts := ports } }
    s.up = true ∧ s.dev.deviceIdle ≠ 4 ∧ 1 ≠ s.dev.self ∧ 1 < Config.devices ∧ s.dev.route 1 = 4
      ∧ s.dev.route 2 = 0xFF := by decide

/-- EngineEvents: the first of two and the last chunk of an LCP; a batch that arrives at a ring; an octet
operation of MMA; KSET. -/
def cmd (next : Nat) : Cmd :=
  { id := 5, blk := 1, slot := 0, core := 0, ctx := 1, state := 1, target := 0, next, accepted := [],
    skipped := 0, sheaf := none, err := none, refused := 0, writes := 0, part := []
    kind := .lcp false 16 [(0, 0, window), (1, 16, window + 16)] }
def moving (next : Nat) : State := { copying with cmds := [cmd next] }
theorem meets_chunk : ∀ n ∈ [0, 1], ∃ u l a g pa, (moving n).cmds.find? (fun x => x.id == (cmd n).id) = some (cmd n)
    ∧ (∃ b, (moving n).block? (cmd n).blk = some b ∧ b.spilled = [] ∧ allMatched b)
    ∧ ([(0, 0, window), (1, 16, window + 16)] : List (Nat × Nat × Dword))[(cmd n).next]? = some (l, a, g)
    ∧ noFrozen (moving n) ∧ (∀ x, (moving n).ctx? (cmd n).ctx = some x → x.halted = false)
    ∧ (moving n).translate (cmd n).core (cmd n).ctx g .read = (.phys pa, u) ∧ pa + 16 ≤ Config.dramBytes
    ∧ (moving n).spanBad pa 16 = false ∧ (moving n).accs = [] := by
  have noHalt {n : Nat} (h : ((moving n).ctx? 1).any (fun x => decide (x.halted = false)) = true) :
      ∀ x, (moving n).ctx? 1 = some x → x.halted = false := by
    intro x hx
    rw [hx] at h
    simpa using h
  simp only [allMatched, List.forall_mem_cons, List.not_mem_nil, false_implies, implies_true, and_true]
  exact ⟨⟨_, _, _, _, 0x2000, by decide +kernel, isSome (by decide +kernel), rfl, noVfs (by decide +kernel),
      noHalt (by decide +kernel), isPhys (by decide +kernel), by decide, by decide, by decide +kernel⟩,
    _, _, _, _, 0x2010, by decide +kernel, isSome (by decide +kernel), rfl, noVfs (by decide +kernel),
      noHalt (by decide +kernel), isPhys (by decide +kernel), by decide, by decide, by decide +kernel⟩
def sealed : State :=
  { warp (ringed 1) fun w => { w with eng := [{ engOp 6 .copy false with cmds := [5], arrive := some (0, 0) }] } with
    cmds := [{ cmd 2 with state := 3 }] }
def anOp : EngOp := { engOp 6 .copy false with cmds := [5], arrive := some (0, 0) }
theorem meets_batch : ∃ x : Block × Warp, sealed.warp? me = some x
    ∧ x.2.eng.find? (fun x => x.id == anOp.id) = some anOp ∧ anOp.cls = .copy ∧ anOp.done = false
    ∧ (∀ c ∈ sealed.cmds, c.id ∈ anOp.cmds → c.over = true) ∧ x.2.heldEntries = [] ∧ x.2.turn anOp = true :=
  isSome (by decide +kernel)
def arrayWord (work : ArrayWork) : ArrayWord := { blk := 1, slot := 0, op := some 7, work, flags := 0, begun := false }
def anOctet : OctetOp := { octet := 0, hd := 0x05000000, ha := 0x05000000, hb := 0x06010000 }
def computing (work : ArrayWork) : State := intOps.updCore 0 fun k => { k with
  queue := [arrayWord work], spline := some (Spline.claimed 1) }
theorem meets_octet : ∃ q b ra rb tile more, ((computing (.matrix 0 0 [anOctet])).core 0).queue = [q]
    ∧ q.work = .matrix 0 0 [anOctet] ∧ (computing (.matrix 0 0 [anOctet])).block? q.blk = some b
    ∧ b.resv? anOctet.ha = some ra ∧ b.resv? anOctet.hb = some rb ∧ b.tilesOf anOctet.hd 1 = tile :: more :=
  ⟨_, _, _, _, _, _, rfl, rfl, rfl, rfl, rfl, rfl⟩
def aKset : SplineOp := .kset 3 0 0x3F800000 29 0 0
theorem meets_spline_word : ∃ q b x, ((computing (.spline aKset)).core 0).queue = [q] ∧ q.work = .spline aKset
    ∧ ((computing (.spline aKset)).core 0).spline = some x ∧ x.blk = q.blk
    ∧ (computing (.spline aKset)).block? q.blk = some b ∧ 3 < x.sets.length :=
  ⟨_, _, _, rfl, rfl, rfl, rfl, rfl, by decide⟩

/-- NetworkEvents: a RAISE round of a warp that contributes 5 by ADD; barriers; a register copy behind by
one write. -/
def part : Contribution :=
  { blk := 1, block := 0, slot := 0, result := 2, fn := 1, ty := 0, val := some 5, flags := 0, pc := 60 }
def raising : State := block one fun b => { b with rounds := [{ reg := 3, parts := [part] }] }
theorem meets_round : ∃ b x, raising.block? 1 = some b ∧ b.rounds.find? (fun y => y.reg == 3) = some x
    ∧ (∀ w ∈ b.warps, w.run = .exited ∨ ∃ p ∈ x.parts, p.blk = 1 ∧ p.slot = w.slot)
    ∧ x.error [b.index] = none ∧ x.fold [b.index] = (some 5, 0) :=
  ⟨_, _, rfl, rfl, by decide, by decide, by decide +kernel⟩
def waitingAt (scope : BitVec 3) (r : Run) : State :=
  block (two fun w => { w with run := r }) fun b => b.updWarp 0 fun w => { w with run := .barrier scope false }
theorem meets_barrier :
    (∃ b, (waitingAt 2 .ready).block? 1 = some b ∧ ∃ w ∈ b.warps, w.run ≠ .exited ∧ w.run ≠ .barrier 2 false)
    ∧ ∃ b, (waitingAt 2 .exited).block? 1 = some b ∧ (∃ w ∈ b.warps, w.run = .barrier 2 false)
      ∧ ∀ w ∈ b.warps, w.run = .exited ∨ w.run = .barrier 2 false :=
  ⟨⟨_, rfl, by decide⟩, _, rfl, by decide, by decide⟩
theorem meets_grid_barrier : ∃ g ws, (waitingAt 4 .exited).grid? 1 = some g
    ∧ (waitingAt 4 .exited).unitWarps g false (List.range g.map.length) = some ws
    ∧ (∃ x ∈ ws, x.2.run = .barrier 4 false) ∧ ∀ x ∈ ws, x.2.run = .exited ∨ x.2.run = .barrier 4 false :=
  ⟨_, _, rfl, rfl, by decide, by decide⟩
def shared : State := grid one fun g => { g with g := { log := [(2, 7)], copies := [], marks := [], rounds := [] } }
theorem meets_copy : ∃ g, shared.grid? 1 = some g
    ∧ (∃ b ∈ shared.blocks, b.grid = 1 ∧ b.core = 0 ∧ b.trail = false)
    ∧ g.g.log[g.g.applied 0]? = some (2, 7) := ⟨_, rfl, by decide, rfl⟩
def aMessage : Message :=
  { id := 4, grid := 1, trail := false, chan := 0, dest := 0, words := List.replicate 32 9, blk := 1, slot := 0,
    op := 7, after := [] }
def sent : State := { joined 1 1 with messages := [aMessage] }
theorem meets_landing : ∃ b g, sent.messages.find? (fun x => x.id == aMessage.id) = some aMessage
    ∧ aMessage.after = []
    ∧ sent.messages.find? (fun x => x.grid == aMessage.grid && x.trail == aMessage.trail
        && x.chan == aMessage.chan && x.dest == aMessage.dest) = some aMessage
    ∧ sent.grid? aMessage.grid = some g
    ∧ chanAt sent aMessage.grid aMessage.dest aMessage.trail aMessage.chan b (chan 1 1)
    ∧ aMessage.words.length = 32 := ⟨_, _, rfl, rfl, rfl, rfl, ⟨rfl, rfl, rfl⟩, rfl⟩
def aCredit : Credit := { id := 4, grid := 1, trail := false, chan := 0, dest := 0 }
theorem meets_credit : ∃ b, ({ joined 0 0 with credits := [aCredit] } : State).credits.find?
      (fun y => y.id == aCredit.id) = some aCredit
    ∧ chanAt { joined 0 0 with credits := [aCredit] } aCredit.grid aCredit.dest aCredit.trail aCredit.chan b
      (chan 0 0) := ⟨_, rfl, rfl, rfl, rfl⟩
/-- A tree over one block, and over two blocks of one cluster. -/
def aTree : TreeDesc := { root := 0, fanin := 2, allreduce := false, timeout := 1 }
def aValue : TreeVal := { vals := List.replicate 32 5, fn := 0, ty := 0, missing := 0, flags := 0, gen := 0 }
def aRound (inputs : List (TreeSrc × TreeVal)) (sent : Bool) (result : Option (TreeVal × BitVec 16)) : TreeRound :=
  { tree := 0, round := 0, pos := 0, inputs, start := 0, sent, result, gone := false }
def aPacket : TreePkt := { id := 4, grid := 1, tree := 0, round := 0, pos := 0, src := .core 0 0, val := aValue }
def reducing (blocks : Nat) (trees : List TreeRound) : State :=
  { grid (desc one fun d => { d with trees := [aTree] }) fun g =>
      { g with map := (List.range blocks).map fun i => (i, 0), trees } with
    treePkts := [aPacket], now := 2 ^ 24 }
theorem meets_tree_input :
    (∃ g, arriving (reducing 1 [aRound [] true none]) aPacket g aTree ∧ (g.roundAt 0 0 0 (2 ^ 24)).sent = true)
    ∧ (∃ g, arriving (reducing 2 []) aPacket g aTree ∧ (g.roundAt 0 0 0 (2 ^ 24)).sent = false
      ∧ ∃ src ∈ g.expected aTree 0, ∀ z ∈ [((aPacket.src, aPacket.val) : TreeSrc × TreeVal)], z.1 ≠ src)
    ∧ ∃ g, arriving (reducing 1 []) aPacket g aTree ∧ (g.roundAt 0 0 0 (2 ^ 24)).sent = false
      ∧ (∀ src ∈ g.expected aTree 0, ∃ z ∈ [((aPacket.src, aPacket.val) : TreeSrc × TreeVal)], z.1 = src)
      ∧ agreed g aTree (aRound [(aPacket.src, aPacket.val)] false none) := by
  simp only [arriving, agreed]
  exact ⟨⟨_, ⟨rfl, rfl, rfl, rfl⟩, by decide⟩, ⟨_, ⟨rfl, rfl, rfl, rfl⟩, by decide, by decide +kernel⟩,
    _, ⟨rfl, rfl, rfl, rfl⟩, by decide, by decide +kernel, by decide +kernel⟩
theorem meets_tree_timeout : ∃ g x, (reducing 2 [aRound [(.core 0 0, aValue)] false none]).grid? 1 = some g
    ∧ g.desc.trees[0]? = some aTree ∧ g.round? 0 0 0 = some x ∧ x.sent = false ∧ x.inputs ≠ []
    ∧ x.start + aTree.limit ≤ 2 ^ 24 ∧ agreed g aTree x := by
  simp only [agreed]
  exact ⟨_, _, rfl, rfl, rfl, rfl, by decide, by decide +kernel, by decide +kernel⟩
def anNred : NredWait :=
  { blk := 1, slot := 0, result := 2, tree := 0, round := 0, pc := 60, taken := some true, done := false }
def reduced : State := warp (grid (reducing 1 [aRound [] true (some (aValue, 0x0100))]) fun g =>
  { g with nreds := [anNred] }) fun w => { w with results := [aResult] }
theorem meets_tree_result : ∃ b w g x, reduced.warp? me = some (b, w) ∧ reduced.grid? b.grid = some g
    ∧ (g.nreds.filter fun n => n.blk == me.blk && n.slot == me.slot && !n.done) = [anNred]
    ∧ g.desc.trees[anNred.tree]? = some aTree ∧ g.rootBlock aTree = some b.index
    ∧ g.round? anNred.tree anNred.round (g.posOf aTree (clusterOf (g.coreOf b.index))) = some x
    ∧ x.gone = false ∧ x.result = some (aValue, 0x0100) :=
  ⟨_, _, _, _, rfl, rfl, rfl, rfl, by decide, rfl, rfl, rfl⟩

/-! ### Events: contexts, pairs and generations -/

/-- ContextAndPairEvents: a queue of 16 records with 15 of them written, and full; consumed numbers. -/
def notice : StopRec :=
  { core := 0xFFFF, record := 5, pc := 60, addr := 0, lanes := 0, block := 0, warp := 0, cycles := 0 }
def stopping (written : Dword) : State := context one fun c => { c with stops := [notice], written }
theorem meets_stop_record :
    (∃ c, (stopping 15).ctx? 1 = some c ∧ c.stops = [notice] ∧ (c.written - c.consumed).toNat < 2 ^ c.sqLog
      ∧ noFrozen (stopping 15) ∧ (stopping 15).accs = [])
    ∧ ∃ c, (stopping 16).ctx? 1 = some c ∧ c.stops = [notice] ∧ 2 ^ c.sqLog ≤ (c.written - c.consumed).toNat :=
  ⟨⟨_, rfl, rfl, by decide, noVfs rfl, rfl⟩, _, rfl, rfl, by decide⟩
/-- The same behind a host write that waits. -/
def behindHost (s : State) : State := { s with accs := [{ anAcc with host := some 0 }] }
theorem meets_consumed : ∀ v ∈ [(16 : Nat), 17], ∃ c, (stopping 16).up = true ∧ (stopping 16).ctx? 1 = some c
    ∧ 1 / 64 < Config.functions ∧ ((stopping 16).vf (1 / 64)).posted = [] ∧ (stopping 16).hostPending (1 / 64) = []
    ∧ (behindHost (stopping 16)).hostPending (1 / 64) ≠ [] ∧ (v ≤ c.written.toNat ↔ v = 16) := by
  simp only [List.forall_mem_cons, List.not_mem_nil, false_implies, implies_true, and_true]
  exact ⟨⟨_, rfl, rfl, by decide, rfl, rfl, by decide, by decide⟩, _, rfl, rfl, by decide, rfl, rfl, by decide,
    by decide⟩
def watched (halted : Bool) : State := { context one fun c => { c with watchdog := 1, halted } with now := 2 ^ 20 }
theorem meets_watchdog : ∀ h ∈ [false, true], ∃ c, (watched h).ctx? 1 = some c ∧ c.watchdog ≠ 0
    ∧ c.killing = false ∧ c.dead = false ∧ c.progress + c.watchdog * 2 ^ 20 ≤ (watched h).now
    ∧ (watched h).ctxStuck 1 = false ∧ c.halted = h := by
  simp only [List.forall_mem_cons, List.not_mem_nil, false_implies, implies_true, and_true]
  exact ⟨⟨_, rfl, by decide, rfl, rfl, by decide, by decide, rfl⟩, _, rfl, by decide, rfl, rfl, by decide, by decide,
    rfl⟩
/-- At its next word, and halted there. -/
def overrun (halted : Bool) : State := { warp one fun w => { w with pdis := some 9, halted } with now := 9 }
theorem meets_overrun : ∀ h ∈ [false, true], ∃ b w g c, (overrun h).warp? me = some (b, w)
    ∧ (overrun h).grid? b.grid = some g ∧ (overrun h).ctx? g.ctx = some c ∧ c.killing = false ∧ c.dead = false
    ∧ w.pdis = some 9 ∧ 9 ≤ (overrun h).now ∧ w.results = [] ∧ (overrun h).aheadOf b.core me = none
    ∧ (atNext w ↔ h = false) := by
  simp only [List.forall_mem_cons, List.not_mem_nil, false_implies, implies_true, and_true]
  refine ⟨⟨_, _, _, _, rfl, rfl, rfl, rfl, rfl, rfl, by decide, rfl, by decide, iff_of_true ?_ trivial⟩,
    _, _, _, _, rfl, rfl, rfl, rfl, rfl, rfl, by decide, rfl, by decide, iff_of_false ?_ (by decide)⟩
  · exact ⟨rfl, by decide, by decide, by decide, by decide, fun l => Run.noConfusion⟩
  · exact fun h => absurd h.1 (by decide)
/-- A launch of context 2 for all of a core's scratchpad, which is met and waits for core 0, where context 1 has run 4 million cycles. -/
def contended : State :=
  { desc one fun d => { d with scratch := 128 } with
    launches := [{ aLaunch true with ctx := 2, desc := { soloDesc with scratch := 1048576 } }]
    now := 2000 * 2000
    ctxs := one.ctxs ++ [Context.start 2 true] }
theorem meets_slice_end : ∃ time c, contended.sliceStart 0 1 = some time ∧ contended.claims 0 = [(2, 0)]
    ∧ (contended.core 0).expiring = none ∧ contended.ctx? 1 = some c ∧ c.halted = false
    ∧ (∀ b ∈ contended.blocks, b.core = 0 → contended.ctxOf b = 1 → b.guarded = false)
    ∧ time + 2000 * (contended.vf (1 / 64)).slice.toNat ≤ contended.now :=
  ⟨_, _, rfl, by decide +kernel, rfl, rfl, rfl, by decide +kernel, by decide +kernel⟩
/-- The slice of context 1 there has expired, and the core has no room for both blocks. -/
def pressed : State := contended.updCore 0 fun k => { k with expiring := some 1 }
theorem meets_preemption : ∃ i b w, pressed.warp? me = some (b, w) ∧ pressed.pressing 0 = some i
    ∧ pressed.warps.filter (pressed.victim 0 i) = [(me, b, w)]
    ∧ pressed.aheadOf 0 me = none ∧ w.dual = none ∧ pressed.cmds = [] ∧ noFrozen pressed
    ∧ pressed.accs = [] := by
  obtain ⟨i, h⟩ : ∃ i, pressed.pressing 0 = some i := Option.isSome_iff_exists.1 (by decide +kernel)
  obtain ⟨x, h1, h2⟩ := isSome (o := pressed.warp? me) (P := fun x => x.2.dual = none
    ∧ (pressed.pressing 0).any (fun i => pressed.warps.filter (pressed.victim 0 i) == [(me, x.1, x.2)]) = true)
    (by decide +kernel)
  rw [h] at h2
  exact ⟨i, x.1, x.2, h1, h, eq_of_beq h2.2, by decide +kernel, h2.1, rfl, noVfs rfl, rfl⟩
def gone : State := warp one fun w => { w with evicted := true }
/-- The context's save area outside device memory, and at 64 KiB, where the first byte behind the record's head
is not the one that was written. -/
def recordless : State := context gone fun c => { c with save := Config.dramBytes }
def marredAt : Nat := 0x10000 + recordOffset 0 0 + 0x4500
def marred : State :=
  { context gone fun c => { c with save := 0x10000 } with mem := [(marredAt, Config.recordByte 0x4500 0 + 1)] }
theorem meets_restore : ∃ b w, recordless.warp? me = some (b, w) ∧ w.evicted = true
    ∧ recordless.recordWritten b me.slot = true
    ∧ within ((broughtBack recordless me).coreUse b.core) coreLimits = true
    ∧ recordless.mayTake b.core (recordless.ctxOf b) (recordless.rank b) = true
    ∧ recordless.recordIntact b w = true :=
  ⟨_, _, rfl, rfl, by decide +kernel, by decide +kernel, by decide +kernel, by decide +kernel⟩
theorem first_byte {m : Memory} {a k saved n : Nat} (h : readBytes m a (n + 1) = freeBytes saved k (n + 1)) :
    memGet m a = Config.recordByte k saved := by
  rw [readBytes, freeBytes, List.range_succ_eq_map, List.map_cons] at h
  exact List.head_eq_of_cons_eq h
theorem marred_record {s : State} {b : Block} {w : Warp} {pa : Nat} (ha : s.recordAt b w.slot = some pa)
    (h : memGet s.mem (pa + 0x4500) ≠ Config.recordByte 0x4500 w.saved) : s.recordIntact b w = false := by
  rw [State.recordIntact, ha]
  exact Bool.and_eq_false_imp.2 fun he => absurd (first_byte (n := 2815) (eq_of_beq he)) h
theorem meets_restore_refused : ∃ b w, marred.warp? me = some (b, w) ∧ w.evicted = true
    ∧ marred.recordWritten b me.slot = true
    ∧ within ((broughtBack marred me).coreUse b.core) coreLimits = true
    ∧ marred.mayTake b.core (marred.ctxOf b) (marred.rank b) = true
    ∧ marred.recordIntact b w = false ∧ w.run ≠ .faulting ∧ w.run ≠ .exited ∧ w.results = [] := by
  refine ⟨_, _, rfl, rfl, by decide +kernel, by decide +kernel, by decide +kernel,
    marred_record (pa := 0x10000 + recordOffset 0 0) (by decide +kernel) ?_, by decide, by decide, rfl⟩
  have : memGet marred.mem marredAt = Config.recordByte 0x4500 0 + 1 := by
    show sparseGet 0 [(marredAt, _)] marredAt = _
    simp [sparseGet]
  show memGet marred.mem marredAt ≠ Config.recordByte 0x4500 0
  rw [this]
  bv_omega
/-- A write of the part in the record waits at its slice. -/
def unwritten : State :=
  { context gone fun c => { c with save := 0x10000 } with accs := [{ anAcc with pa := marredAt, waits := true }] }
theorem meets_unwritten : ∃ b w, unwritten.warp? me = some (b, w) ∧ unwritten.recordWritten b me.slot = false :=
  ⟨_, _, rfl, by decide +kernel⟩
def debugged : State := { one.updVf 0 fun v => { v with ctl := 0x30701 } with dev := { one.dev with debug := 1 } }
theorem meets_halt : debugged.up = true ∧ debugged.debugOk 1 = true ∧ debugged.ctxUsable 1 = true
    ∧ ∀ k ∈ debugged.cores, k.ahead = none := by decide
/-- A kill whose time has come; one with no remote write left. -/
def dying (t : Nat) : State := { context one fun c => { c with killing := true, killAt := some t } with now := 9 }
theorem meets_kill : (∃ c, (dying 9).ctx? 1 = some c ∧ c.killing = true ∧ c.dead = false ∧ c.killAt = some 9
      ∧ 9 ≤ (dying 9).now)
    ∧ ∃ c, (dying 10).ctx? 1 = some c ∧ c.killing = true ∧ c.dead = false ∧ c.killAt = some 10
      ∧ (dying 10).remoteOut 1 = false := ⟨⟨_, rfl, rfl, rfl, rfl, by decide⟩, _, rfl, rfl, rfl, rfl, by decide⟩
/-- Two copies of a warp; the leading one changed by `f`, the trailing one by `g`. -/
def twins (f g : Warp → Warp) : State :=
  { one with blocks := one.blocks.flatMap fun b => [{ b with warps := b.warps.map f },
      { b with id := 2, trail := true, core := 24, warps := b.warps.map g }] }
def windowOf (n data : Nat) : StreamWindow :=
  { num := n, matched := false
    entries := [{ id := 5, after := [], addr := window, pa := some 0x2000, lower := false, width := 4
                  data := BitVec.ofNat 128 data, cmd := none, pc := 60 }] }
def checkpoint : Checkpoint :=
  { regs := { v := [], o := [], w := [], p := [] }, pc := 60, mode := 0, status := 0, draw := 0
    word := 0, addr := 0, lanes := 0, lateFlags := 0
    active := 255, depth := 0, loops := [], stack := []
    winStore := 1, winEngine := 1, first := 1 }
def holding (n data : Nat) (w : Warp) : Warp :=
  { w with
    store := { w.store with closed := [windowOf n data] }
    flt := { w.flt with ckpc := 60, retry := 2, chkpt := some checkpoint } }
theorem meets_match : let s := twins (holding 3 7) (holding 3 7)
    ∃ lead trail l t, copies s me lead trail l t ∧ l.store.closed = [windowOf 3 7]
      ∧ t.store.closed = [windowOf 3 7] ∧ noFrozen s ∧ s.accs = []
      ∧ 0x2000 + 4 ≤ Config.dramBytes :=
  ⟨_, _, _, _, ⟨rfl, by decide, rfl, rfl, rfl, rfl⟩, rfl, rfl, noVfs rfl, rfl, by decide⟩
theorem meets_mismatch : ∀ d ∈ [((3, 8) : Nat × Nat), (4, 7)], let s := twins (holding 3 7) (holding d.1 d.2)
    ((windowOf 3 7).num ≠ (windowOf d.1 d.2).num
      ∨ signature (windowOf 3 7).entries ≠ signature (windowOf d.1 d.2).entries)
    ∧ ∃ lead trail l t, copies s me lead trail l t ∧ l.store.closed = [windowOf 3 7]
      ∧ t.store.closed = [windowOf d.1 d.2] ∧ l.flt.mayRestart = true ∧ l.flt.chkpt = some checkpoint
      ∧ t.flt.chkpt = some checkpoint ∧ l.results = [] ∧ t.results = [] := by
  simp only [List.forall_mem_cons, List.not_mem_nil, false_implies, implies_true, and_true]
  exact ⟨⟨by decide +kernel, _, _, _, _, ⟨rfl, by decide, rfl, rfl, rfl, rfl⟩, rfl, rfl, rfl, rfl, rfl, rfl, rfl⟩,
    by decide +kernel, _, _, _, _, ⟨rfl, by decide, rfl, rfl, rfl, rfl⟩, rfl, rfl, rfl, rfl, rfl, rfl, rfl⟩
def asking (w : Warp) : Warp := { w with pairReq := some ({ op := 0x50, args := [] }, false) }
theorem meets_pair : ∃ lead trail l t, copies (twins asking asking) me lead trail l t
    ∧ l.pairReq = some ({ op := 0x50, args := [] }, false) ∧ t.pairReq = some ({ op := 0x50, args := [] }, false)
    ∧ PairReq.isCheck { op := 0x50, args := [] } = false
    ∧ l.streamsEmpty = true ∧ t.streamsEmpty = true :=
  ⟨_, _, _, _, ⟨rfl, by decide, rfl, rfl, rfl, rfl⟩, rfl, rfl, rfl, rfl, rfl⟩

/-- GenerationEvents: a grant where no image is frozen, and where one is; a cut; claims with room, and with
none and each setting of abort; the wain; restore; the control block; a release. -/
def image (begun : Bool) (claims : List Nat) : Frozen :=
  { gen := 1, full := true, begun, drain := [], next := 0, stop := 0x40000000, claims, copies := []
    badCopies := [], softCopies := [] }
def generations (f : Option Frozen) (abort : Bool) (grant : Option Dword) : State :=
  { (returning.updVf 0 fun v => { v with
      psize := 0x40000000, part := { v.part with
        gen := 2, frozen := f, abort, granaryNow := 1, active := 0x1000, dest := 0x1000 } }) with
    snaps := [{ id := 4, blk := 1, slot := 0, vf := 0, result := 2, dev := false, incr := false, granted := grant }]
    accs := [{ anAcc with gen := some 2 }] }
/-- The same with a cut that every unit has taken part in. -/
def cutWith (grant : Option Dword) : State := (generations (image false []) false grant).updVf 0 fun v =>
  { v with part := { v.part with cut := some { adopted := List.range unitCount, start := 0 } } }
def cutTaken : State := cutWith (some 2)
theorem meets_grant :
    (∃ q, (generations none false none).snaps.find? (fun x => x.granted.isNone) = some q ∧ q.dev = false
      ∧ ((generations none false none).vf q.vf).part.frozen = none
      ∧ (generations none false none).cutting = false)
    ∧ (∃ q, (generations (image true []) false none).snaps.find? (fun x => x.granted.isNone) = some q
      ∧ q.dev = false ∧ ((generations (image true []) false none).vf q.vf).part.frozen ≠ none
      ∧ (generations (image true []) false none).cutting = false)
    ∧ (∃ q, (cutWith none).snaps.find? (fun x => x.granted.isNone) = some q ∧ q.dev = false
      ∧ (cutWith none).cutting = true)
    ∧ ∃ q, cutTaken.snaps.find? (fun x => x.id == 4) = some q
      ∧ q.granted = some 2 ∧ q.dev = false ∧ cutTaken.cutReady q = true ∧ cutTaken.cutting = true :=
  ⟨⟨_, rfl, rfl, rfl, rfl⟩, ⟨_, rfl, rfl, by decide, rfl⟩, ⟨_, rfl, rfl, by decide +kernel⟩,
    _, rfl, rfl, rfl, by decide +kernel, by decide +kernel⟩
theorem meets_claim : ∀ x ∈ [(([] : List Nat), false), ([0x5000], true), ([0x5000], false)],
    let s := generations (image true x.1) x.2 none
    ∃ a f, newWrite s a 0 f ∧ f.kept (a.pa / 4096 * 4096) = true ∧ (∀ c ∈ f.copies, c.1 ≠ lineOf a.pa)
      ∧ a.pa / 4096 * 4096 ∉ f.claims ∧ (f.claims.length < (s.vf 0).part.granaryNow ↔ x.1 = [])
      ∧ (s.vf 0).part.abort = x.2 := by
  simp only [newWrite, List.forall_mem_cons, List.not_mem_nil, false_implies, implies_true, and_true]
  exact ⟨⟨{ anAcc with gen := some 2 }, _, ⟨rfl, rfl, rfl, rfl, rfl, rfl, rfl⟩, by decide, by decide, by decide,
      by decide, rfl⟩,
    ⟨{ anAcc with gen := some 2 }, _, ⟨rfl, rfl, rfl, rfl, rfl, rfl, rfl⟩, by decide, by decide, by decide,
      by decide, rfl⟩,
    { anAcc with gen := some 2 }, _, ⟨rfl, rfl, rfl, rfl, rfl, rfl, rfl⟩, by decide, by decide, by decide,
      by decide, rfl⟩
theorem meets_wain :
    (∃ f, ((generations (image false []) false none).vf 0).part.frozen = some f ∧ f.begun = false
      ∧ ((generations (image false []) false none).vf 0).part.cut = none
      ∧ ((generations (image false []) false none).vf 0).part.active ≠ 0
      ∧ (generations (image false []) false none).frozenOut 0 f.gen = false)
    ∧ ∃ f g, ((generations (image true []) false none).vf 0).part.frozen = some f ∧ f.begun = true
      ∧ f.first = some g ∧ ∀ c ∈ f.copies, c.2.length = 128 :=
  ⟨⟨_, rfl, rfl, rfl, by decide, by decide⟩, _, _, rfl, rfl, rfl, by decide⟩
theorem meets_generation_restore : let s : State := { generations none false none with blocks := [] }
    s.up = true ∧ s.vfBusy 0 = false ∧ s.cutting = false ∧ (s.vf 0).psize ≠ 0
      ∧ (s.vf 0).part.dest ≠ 0 := by decide
theorem meets_partition_control : (generations none false none).up = true ∧ 0 < Config.functions
    ∧ ((generations none false none).vf 0).part.frozen = none
    ∧ ((generations (image true []) false none).vf 0).part.frozen = some (image true [])
    ∧ (generations (image true []) false none).up = true := by decide

/-! ### Events: reliability, the host, power and reset -/

/-- The part with other device-wide registers. -/
def dev (f : Device → Device) : State := { one with dev := f one.dev }
/-- ReliabilityEvents: the last free slot of the ring of 16; configuration values at the ends of their ranges;
7 and 8 resends; the last channel, whose gleaner comes to a soft line; the 28th and 29th bank; a test. -/
def aLog : LogRec := { seq := 1, kind := 1, domain := 0, location := 0, ctx := 0, count := 1, addr := 0, cycles := 0 }
theorem meets_log : ∀ tail ∈ [(0 : Word), 14], let s := dev fun d => { d with
      logWait := [aLog], logBase := 0x4000, logTail := tail }
    s.dev.logWait = [aLog] ∧ s.dev.logBase ≠ 0 ∧ (s.dev.logTail.toNat + 1) % 2 ^ s.dev.logN ≠ s.dev.logHead.toNat := by
  simp only [List.forall_mem_cons, List.not_mem_nil, false_implies, implies_true, and_true]
  decide
theorem meets_log_registers : one.up = true ∧ (0x1000#64).toNat % 4096 = 0 ∧ (15#64).toNat < 2 ^ one.dev.logN
    ∧ 4 ≤ (4#64).toNat ∧ (20#64).toNat ≤ 20 ∧ (3#64).toNat < 4 ∧ 20 < (21#64).toNat := by decide
theorem meets_links : sparseGet 0 (dev fun d => { d with resends := [(linkKey .torus 5, 7)] }).dev.resends
      (linkKey .torus 5) < 8 ∧ isLink .torus 191 = true ∧ isLink .fleton 15 = true ∧ isLink .ucie 7 = true
    ∧ 8 ≤ sparseGet 0 (dev fun d => { d with resends := [(linkKey .fleton 5, 8)] }).dev.resends
      (linkKey .fleton 5) := by decide
theorem meets_gleaner : let s := dev fun d => { d with softLines := [128 * (Config.channels - 1)] }
    Config.channels - 1 < Config.channels ∧ s.dev.deviceIdle = 0
    ∧ (let chan := Config.channels - 1
      let line := 128 * (chan / 4 + 192 * (chan % 4) + Config.channels * sparseGet 0 s.dev.gleaner chan)
      line ∈ s.dev.softLines ∧ s.spanBad line 128 = false) := by decide
def aScrub : Scrub := { id := 4, line := 0, stale := false }
theorem meets_scrub : ({ one with scrubs := [aScrub] } : State).scrubs.find? (fun x => x.id == 4) = some aScrub := by
  decide
theorem meets_bank : ∀ n ∈ [27, 28], let s := dev fun d => { d with banksUsed := [(0, n)] }
    0 < Config.channels ∧ sparseGet 0 s.dev.banksUsed (layerOf 0) < 32
    ∧ (28 < sparseGet 0 s.dev.banksUsed (layerOf 0) + 1 ↔ n = 28) := by decide
theorem meets_test : one.mayTest 191 = true
    ∧ (dev fun d => { d with testing := [(2, 9, 9)] }).dev.testing.find? (fun x => x.1 == 2) = some (2, 9, 9) := by
  decide +kernel

/-- HostEvents: the last byte and the whole last word of a partition; the ends of the slice's range; contexts
and descriptors; queue words; the debug states; registers. -/
def owned (f : Vf → Vf) : State := one.updVf 0 fun v => f { v with psize := 0x200000, ctl := 0x90701 }
theorem meets_host_memory : (owned id).up = true ∧ 0 < Config.functions ∧ ((owned id).vf 0).refusing = false
    ∧ 0x1FFFFF + 1 ≤ ((owned id).vf 0).psize.toNat ∧ 0x1FFFF8 + 8 ≤ ((owned id).vf 0).psize.toNat
    ∧ ((owned id).vf 0).pbase.toNat + 0x1FFFF8 + 8 ≤ Config.dramBytes
    ∧ settled (owned id) 0
    ∧ (∀ v ∈ (owned id).vfs, v.part.frozen = none) ∧ (owned id).accs = [] :=
  ⟨by decide, by decide, by decide, by decide, by decide, by decide, ⟨rfl, rfl⟩, by decide, rfl⟩
theorem meets_record : one.up = true ∧ Config.functions - 1 < Config.functions ∧ (99#64).toNat < 100 ∧ 100 ≤ (100#64).toNat
    ∧ (100000#64).toNat ≤ 100000 ∧ 100000 < (100001#64).toNat ∧ one.ctxsOf 5 = []
    ∧ (one.vf 5).psize.toNat % 2097152 = 0 ∧ (one.vf 5).wsize.toNat < 4 ∧ (one.vf 5).wbase.toNat % 65536 = 0
    ∧ (one.vf 5).ctl.getLsbD 16 = false ∧ (0x200000#64).toNat % 2097152 = 0 ∧ one.ctxsOf 0 ≠ []
    ∧ 0x200000#64 ≠ (one.vf 0).pbase ∧ (one.vf 5).ctl.getLsbD 18 = false := by decide
/-- A descriptor at 64 KiB whose save area, queues and tables lie in a partition of 8 GiB. -/
def describing (fq : Nat) : State :=
  let s := owned fun v => { v with psize := 0x200000000 }
  let cells : List (Nat × Nat) :=
    [(0x10010, 0x1000), (0x10018, 0x140000000 + fq), (0x10020, 0x150000004), (0x10028, 0x10001)]
  { s with mem := cells.foldl (fun m x => writeLE m x.1 8 x.2) s.mem }
def wordsAt (s : State) (a : Nat) : List Nat := (List.range 8).map fun i => readLE s.mem (a + 8 * i) 8
theorem meets_create : (describing 4).up = true ∧ (0x10001#64).getLsbD 0 = true ∧ 2 < 64
    ∧ (describing 4).ctxAlive (64 * 0 + 2) = false ∧ ((describing 4).vf 0).ctl.getLsbD 16 = true
    ∧ ((describing 4).vf 0).ctl.getLsbD 18 = false ∧ 0x10000 % 64 = 0 ∧ 0x10000 + 64 ≤ Config.dramBytes
    ∧ settled (describing 4) 0 ∧ (describing 4).lineBusy ((0x10001#64).toNat - 1) 64 = false
    ∧ (∃ c, ((describing 4).vf 0).accept 2 (wordsAt (describing 4) 0x10000) = some c ∧ c.privileged = true)
    ∧ ((describing 3).vf 0).accept 2 (wordsAt (describing 3) 0x10000) = none :=
  ⟨by decide, by decide, by decide, by decide, by decide, by decide, by decide, by decide, ⟨rfl, rfl⟩,
    by decide +kernel, isSome (by decide +kernel), by decide +kernel⟩
theorem meets_destroy : one.up = true ∧ settled one 0 ∧ (0#64).getLsbD 0 = false ∧ one.ctxAlive (64 * 0 + 2) = false
    ∧ one.remoteOut (64 * 0 + 1) = false ∧ ∃ c, one.ctx? (64 * 0 + 1) = some c ∧ c.killing = false ∧ c.dead = false :=
  ⟨by decide, ⟨rfl, rfl⟩, by decide, by decide, by decide, _, rfl, rfl, rfl⟩
theorem meets_queue_config : one.up = true ∧ 14 < 15 ∧ (0xF002#64).extractLsb' 16 48 = 0
    ∧ (0xF002#64).extractLsb' 4 2 = 0 ∧ 2 ≤ ((0xF002#64).extractLsb' 0 4).toNat
    ∧ ((0xF00C#64).extractLsb' 0 4).toNat ≤ 12 ∧ ((0xF001#64).extractLsb' 0 4).toNat < 2 := by decide
/-- A doorbell with no host write ahead of it, and with one. -/
theorem meets_doorbell : settled one 0 ∧ ((behindHost one).vf 0).posted = []
    ∧ (behindHost one).hostPending 0 ≠ [] := ⟨⟨rfl, rfl⟩, by decide⟩
theorem meets_attest : (owned id).up = true ∧ 0 < Config.functions ∧ ((owned id).vf 0).ctl.getLsbD 16 = true := by decide
theorem meets_debug : one.up = true ∧ one.dev.debug ≠ 2
    ∧ ∀ c ∈ (context one fun c => { c with dead := true }).ctxs, c.dead = true := by decide
/-- A challenge is out; a token verifies or does not, and the clauses say what follows either way. -/
theorem meets_unlock : ∃ c, (dev fun d => { d with challenge := some 7 }).dev.challenge = some c
    ∧ (dev fun d => { d with challenge := some 7 }).dev.unlocking = false
    ∧ ∀ token, Config.tokenVerifies c Config.serial token = true
      ∨ Config.tokenVerifies c Config.serial token = false :=
  ⟨_, rfl, rfl, fun token => by cases Config.tokenVerifies 7 Config.serial token <;> simp⟩
theorem meets_registers : debugged.up = true ∧ (0x2000#64).toNat % 4096 = 0 ∧ (15#64).toNat % 256 < 16
    ∧ debugged.debugOk 1 = true ∧ (0x41#64).extractLsb' 57 7 = 0 ∧ (0x41#64).getLsbD 1 = false
    ∧ ∃ c, debugged.ctx? 1 = some c ∧ c.comps.length = 4 :=
  ⟨by decide, by decide, by decide, by decide, by decide, by decide, _, rfl, rfl⟩

/-- PowerAndResetEvents: tolerances at the edges of the idle states; throttling at its 20 million cycles; 115
degrees; each step of bring-up. -/
def tolerant (n : Nat) : State :=
  { dev fun d => { d with tolerance := BitVec.ofNat 32 n } with now := 4096 }
/-- Idle for 4,096 cycles; the host link for 1 ms. -/
theorem meets_idle : (∀ n ∈ [50, 2000], 50 ≤ (tolerant n).dev.tolerance.toNat ∧ (tolerant n).mayI2 5 = true
      ∧ (tolerant n).dev.idleOf 5 < 2)
    ∧ (∀ n ∈ [1, 49], 1 ≤ (tolerant n).dev.tolerance.toNat ∧ (tolerant n).dev.tolerance.toNat < 50
      ∧ (tolerant n).mayI1 5 = true ∧ (tolerant n).dev.idleOf 5 = 0)
    ∧ (tolerant 0).dev.tolerance = 0 ∧ (tolerant 0).up = true ∧ 5 < Config.clusters := by decide
def asleep (n : Nat) : State :=
  { State.reset with
    now := 2000000
    dev := { Device.reset with
      boot := 7, tolerance := BitVec.ofNat 32 n, idle := (List.range Config.clusters).map fun c => (c, 2) } }
theorem meets_device_idle : (∀ n ∈ [2000, 29999, 30000], (asleep n).up = true ∧ (asleep n).mayI3 = true
      ∧ (asleep n).dev.tolerance.toNat = n ∧ (asleep n).dev.deviceIdle < 3)
    ∧ ∀ v ∈ (asleep 30000).vfs, v.ctl.getLsbD 16 = false := by decide +kernel
/-- What a sensor shows is free: a die is too hot or is not, has been cool for 10 ms or has not, and the clauses
say what follows either way; it has not where it was throttled since. -/
def throttled (now : Nat) : State := { dev fun d => { d with slow := [(2, 3)], slowAt := [(2, 1)] } with now }
theorem meets_throttle : 2 < Config.dies ∧ (∀ now, tooHot (throttled now) 2 now ∨ ¬ tooHot (throttled now) 2 now)
    ∧ (∀ now, coolSince (throttled now) 2 ∨ ¬ coolSince (throttled now) 2)
    ∧ ¬ coolSince (throttled 20000000) 2 ∧ 115 ≤ (115 : BitVec 8).toNat := by
  refine ⟨by decide, fun _ => Classical.em _, fun _ => Classical.em _, fun h => ?_, by decide⟩
  exact absurd (show 1 + 20000000 ≤ 20000000 from h.1) (by decide)
/-- A step that is within its limit at its last cycle and past it at the next; an image that the boot ROM accepts
or does not. -/
def bringing (n now : Nat) : State := { dev fun d => { d with boot := n, bootAt := 0 } with now }
theorem meets_boot : ∀ x ∈ [((1 : Nat), (50 : Nat)), (2, 300), (3, 2000), (6, 200)],
    (bringing x.1 0).dev.booting = true ∧ ¬ tooLate (bringing x.1 (2000000 * x.2))
    ∧ tooLate (bringing x.1 (2000000 * x.2 + 1)) := by
  simp only [tooLate]
  decide
theorem meets_image : ∀ image, Accepted (bringing 2 0) image ∨ ¬ Accepted (bringing 2 0) image :=
  fun _ => Classical.em _
/-- The tolerance last written by the PF in this cycle, or not. -/
theorem meets_tolerance : (dev fun d => { d with toleranceAt := some one.now }).dev.toleranceAt = some one.now
    ∧ one.dev.toleranceAt ≠ some one.now := by decide

/-! ### Encoding, the step and the invariant -/

/-- DecodeEncodeRoundTrip, DecodedWordsHaveTheirEncoding. -/
theorem meets_encoding : (∃ x, encode (.sel true (.v 63) (.w 31) (.v 0)) = some x)
    ∧ decode 0x10030102 = .ok (.add false (.v 3) (.v 1) (.v 2)) ∧ majorOf 0x3E000000 ∈ unassigned
    ∧ majorOf 0xDF000000 ∈ unassigned ∧ majorOf 0xFF123456 = 0x7F ∧ decode 0x00000001 = .error .reservedField :=
  ⟨⟨_, rfl⟩, by decide⟩

/-- AStepRunsTheDecodedWord: something due; a word that decodes, one that does not, and none; nothing. -/
def solo (w : Word) : State := State.reset.launchSolo w
theorem meets_step :
    ({ one with agenda := [.errorLogRecord] } : State).agenda = [.errorLogRecord]
    ∧ (solo 0x10030102).agenda = [] ∧ (solo 0x10030102).issue = [me] ∧ (solo 0x10030102).wordAt me = some 0x10030102
    ∧ decode 0x10030102 = .ok (.add false (.v 3) (.v 1) (.v 2))
    ∧ (solo 1).issue = [me] ∧ (solo 1).wordAt me = some 1 ∧ decode 1 = .error .reservedField
    ∧ (warp (solo 1) fun w => { w with fetch := none }).issue = [me]
    ∧ (warp (solo 1) fun w => { w with fetch := none }).wordAt me = none
    ∧ one.agenda = [] ∧ one.issue = [] := by decide

/-- EveryStepKeepsMemoryCanonical: a store that its slice performs next. -/
theorem meets_memory : ∃ t, ({ storing with agenda := [.sliceAccess 2] } : State).memOk
    ∧ step { storing with agenda := [.sliceAccess 2] } = .next t ∧ readLE t.mem 0x2000 4 = 5 := by
  refine ⟨_, by unfold State.memOk; decide +kernel, rfl, by decide +kernel⟩

/-! ## Single steps, with results worked out from the spec -/

/-- Worked encodings of R53. -/
theorem test_worked_encodings : reads 0x02C80002 (.brc false true true 1 2) && reads 0x08000003 (.exit false 3)
    && reads 0x940528E1 (.mad true (.v 5) (.v 40) (.sp 1)) && reads 0x108362DF (.add false (.b 3) (.w 2) (.g 31))
    = true := by decide

/-- The code that the word leaves in %fault of a warp alone. -/
def code (w : Word) (f : State → State) : Option (BitVec 8) :=
  match step (f (solo w)) with
  | .next t => (warpOf t me).map fun x => x.flt.word.extractLsb' 0 8
  | _ => none
/-- The word, in an ordinary context, kills it with that code in its stop record. -/
def stops (w : Word) (x : BitVec 8) : Bool :=
  match step (context (solo w) fun c => { c with privileged := false }) with
  | .next t => (t.ctx? 1).any fun c => c.killing && c.stops.any fun (y : StopRec) => y.record.extractLsb' 0 8 == x
  | _ => false

/-- R53, words that fail at issue: ILLEGAL_INSTRUCTION is 1, ILLEGAL_OPERAND 2, PERMISSION 0x11. -/
theorem test_words_that_fail :
    ([0x3E000000, 0x0B100000, 0x0B020F00, 0x7D000005, 0x2D0301EF, 0x0E000000, 0x7E000009, 0xFFFFFFFF] : List Word).all
      (fun w => code w id == some 1)
    && ([0x10E30102, 0x10FB0102, 0x7E000001] : List Word).all (fun w => code w id == some 2)
    && stops 0x7E660101 0x11 && code 0x0E004000 id == some 0
    && (code 0x10E30102 (fun s => mode s 0xC0) == some 1) = true := by decide +kernel

/-- What the instruction leaves. -/
def leaves (i : Instr) (s : State) (f : State → Bool) : Bool :=
  match exec i s with
  | .next t => f t
  | _ => false
/-- The value and the flags that it leaves in v3 of lane 0 for v1 = x and v2 = y, under MODE = m. -/
def gives (i : Instr) (m x y v fl : Word) : Bool :=
  leaves i (mode (put (put one 0 (.v 1) x) 0 (.v 2) y) m) fun t =>
    t.operand me 0 (.v 3) == v && t.operand me 0 (.sp 20) == fl
def bin (f : Bool → Operand → Operand → Operand → Instr) : Instr := f false (.v 3) (.v 1) (.v 2)

/-- R136, R64: a sum that wraps, and one that saturates and sets SAT; R138: the high half of −1 · −1. -/
theorem test_integer_words :
    gives (bin .add) 0 0x7FFFFFFF 1 0x80000000 0 && gives (bin .add) 0x800 0x7FFFFFFF 1 0x7FFFFFFF 0x20
      && gives (bin .sub) 0x810 0 1 0 0x20 && gives (bin .mul) 0 0x10000 0x10000 0 0
      && gives (bin .mulh) 0 0xFFFFFFFF 0xFFFFFFFF 0 0 && gives (bin .mulh) 0x10 0xFFFFFFFF 0xFFFFFFFF 0xFFFFFFFE 0
      && gives (bin .min) 0 0xFFFFFFFF 1 0xFFFFFFFF 0 && gives (bin .min) 0x10 0xFFFFFFFF 1 1 0
      && gives (.neg false (.v 3) (.v 1)) 0 0x80000000 0 0x80000000 0
      && gives (.abs false (.v 3) (.v 1)) 0x800 0x80000000 0 0x7FFFFFFF 0x20 = true := by decide +kernel
/-- R141 to R143. -/
theorem test_bit_words :
    gives (bin .and) 0 0xFF00FF00 0x0FF00FF0 0x0F000F00 0 && gives (bin .xor) 0 0xFF00FF00 0x0FF00FF0 0xF0F0F0F0 0
      && gives (bin .shl) 0 1 31 0x80000000 0 && gives (bin .shl) 0 1 32 0 0
      && gives (bin .sar) 0 0x80000000 32 0xFFFFFFFF 0 && gives (bin .shr) 0 0x80000000 31 1 0
      && gives (.popc false (.v 3) (.v 1)) 0 0xF000000F 0 8 0 && gives (.clz false (.v 3) (.v 1)) 0 0 0 32 0
      && gives (.brev false (.v 3) (.v 1)) 0 1 0 0x80000000 0 = true := by decide +kernel
/-- R59 to R62, R136: 1 + 2⁻²⁴ ties to even, inexact, and rounds up under RUP; ∞ − ∞ gives the canonical NaN and
sets NV; the largest f32 doubled overflows. -/
theorem test_float_words :
    gives (bin .add) 0x40 0x3F800000 0x33800000 0x3F800000 0x10 && gives (bin .add) 0x340 0x3F800000 0x33800000 0x3F800001 0x10
      && gives (bin .sub) 0x40 0x7F800000 0x7F800000 0x7FC00000 1
      && gives (bin .add) 0x40 0x7F7FFFFF 0x7F7FFFFF 0x7F800000 0x14
      && gives (bin .add) 0x140 0x7F7FFFFF 0x7F7FFFFF 0x7F7FFFFF 0x14
      && gives (bin .min) 0x40 0x80000000 0 0x80000000 0 && gives (bin .mul) 0x40 0x3FC00000 0xC0000000 0xC0400000 0
      && gives (.frint false (.v 3) (.v 1)) 0x40 0x40200000 0 0x40000000 0x10 = true := by decide +kernel

/-- R136, R33: a destination that is also a source, and lanes that a guard leaves out: p1 of lanes 0 and 1 is 1. -/
theorem test_add_in_place : leaves (.add false (.v 1) (.v 1) (.v 1)) (put one 5 (.v 1) 21) (fun t =>
    t.operand me 5 (.v 1) == 42) = true := by decide +kernel
theorem test_guard : leaves (.add false (.v 1) (.v 1) (.v 1))
    (mode (put (put (put one 0 (.sp 13) 2) 0 (.v 1) 3) 1 (.v 1) 4) 1) (fun t =>
      t.operand me 0 (.v 1) == 6 && t.operand me 1 (.v 1) == 4) = true := by decide +kernel

/-- R144, R145: a carry out of lane 0 alone; a comparison of −1 with 1, signed and unsigned. -/
theorem test_carry : leaves (bin .addc) (put (put one 0 (.v 1) 0xFFFFFFFF) 0 (.v 2) 1) (fun t =>
    t.operand me 0 (.v 3) == 0 && (t.operand me 0 (.sp 13)).getLsbD 7 && !(t.operand me 1 (.sp 13)).getLsbD 7)
    = true := by decide +kernel
theorem test_cmp : (List.zip [(0x00 : Word), 0x10] [true, false]).all (fun x =>
    leaves (.cmp false 2 2 (.v 1) (.v 2)) (mode (put (put one 0 (.v 1) 0xFFFFFFFF) 0 (.v 2) 1) x.1) fun t =>
      (t.operand me 0 (.sp 13)).getLsbD 2 == x.2) = true := by decide +kernel

/-- R98, R100, R102, R103: the pc moves by one word, by the branch's distance, and back to a body. -/
theorem test_branches : leaves (.nop false) one (fun t => (warpOf t me).any fun w => w.ctl.pc == 68)
    && leaves (.bra false true (-2)) one (fun t => (warpOf t me).any fun w => w.ctl.pc == 56)
    && leaves (.brc false false false 1 3) (put one 0 (.sp 13) 2) (fun t => (warpOf t me).any fun w =>
      w.ctl.active == 0xFE && w.ctl.pc == 68 && w.ctl.stack.length == 1) = true := by decide +kernel
theorem test_call_and_return : leaves (.call false true false 0 4) one (fun t => (warpOf t me).any fun w =>
      w.ctl.pc == 80 && w.ctl.depth == 1 && t.operand me 0 (.w 31) == 68)
    && leaves (.ret false (.w 31)) (deep 1 96) (fun t => (warpOf t me).any fun w =>
      w.ctl.pc == 96 && w.ctl.depth == 0) = true := by decide +kernel

/-- R127, R128: the sum of 1 to 8, and a count of odd values. -/
theorem test_scoped : leaves (.raise false (.w 3) (.v 1) 1) (fill one (.v 1) fun l => BitVec.ofNat 32 (l + 1))
      (fun t => t.operand me 0 (.w 3) == 36)
    && leaves (.raise false (.o 3) (.v 1) 3) (fill one (.v 1) fun l => BitVec.ofNat 32 (l + 1))
      (fun t => t.operand me 7 (.o 3) == 8) = true := by decide +kernel

/-- R184, R185: a store issues an access for each lane, and its slice performs it. -/
theorem test_store : leaves (.st false (.v 8) (.v 4) 0) pointing (fun t => t.accs.length == 8
      && (t.accs.map fun (a : Acc) => a.pa) == (List.range 8).map fun l => 0x2000 + 16 * l) = true := by
  decide +kernel
theorem test_atomic : leaves (.sliceAccess 2) { one with
    mem := writeLE one.mem 0x2000 8 0xFFFFFFFF
    accs := [{ anAcc with kind := .atomic .add 1, width := 4, data := 2 }] } (fun t =>
      readLE t.mem 0x2000 8 == 1) = true := by decide +kernel
/-- R109, R306, R307: TRAP 0x12 stops the warp, with its record. -/
theorem test_trap : leaves (.trap false 0x12) one (fun t => (warpOf t me).any fun w =>
    w.run == .stopped && w.ctl.pc == 64) = true := by decide +kernel
/-- R200: RES of 256 bytes names the window behind the one in use. -/
theorem test_res : leaves (.res false (.w 7) (.w 4) (.w 5)) buffered (fun t =>
    (t.block? 1).any fun b => b.resvs.length == 2 && (b.resvs.map Resv.base) == [0, 256]) = true := by decide +kernel
/-- R76: a load, a store, an atomic and PREF of a MATRIX warp raise ROLE, which is 8. -/
theorem test_roles : ([.ld false (.v 8) (.v 4) 0, .stw false (.v 8) (.v 4) 0, .aadd false (.v 8) (.v 4) (.v 2),
    .pref false false (.v 4) 0] : List Instr).all (fun i => leaves i (role pointing .matrix) fun t =>
      (warpOf t me).any fun w => w.flt.word.extractLsb' 0 8 == 8) = true := by decide +kernel
/-- R134: a SPLIT with S = 1 merges the flags of the warp's late results into %status. -/
theorem test_split_status : leaves (.split true) (warp wide fun w => { w with lateFlags := 0x10 }) (fun t =>
    (warpOf t me).any fun w => w.ctl.status.extractLsb' 0 8 == 0x10) = true := by decide +kernel

end Sys2Proof.Tests
end

section
/-!
SUPPORT. What keeps the memories canonical. `State.memOk.f` says that the operation `f` of a state keeps
`State.memOk`, and is applied to the proof for the state that `f` starts from, so that a proof reads as the
operation does: `h.dropAcc.updCtx` for `(s.dropAcc id).updCtx …`. Here are the steps that every such proof
takes: a record update, a condition, a fold, a pair, and an outcome that carries a state.
-/

namespace Sys2Proof.Machine

variable {s t : State} {c : Ctx} {β : Type}

namespace State.memOk

/-- A record update of another field keeps the memories. -/
theorem same (h : s.memOk) (hm : t.mem = s.mem := by with_reducible rfl)
    (hh : t.host = s.host := by with_reducible rfl) (hl : t.low = s.low := by with_reducible rfl) : t.memOk :=
  State.memOk_of_eq h hm hh hl

theorem of_sameMems (h : s.memOk) (hs : s.SameMems t) : t.memOk := State.memOk_of_eq h hs.1 hs.2.1 hs.2.2

theorem ite {p : Prop} [Decidable p] (h : s.memOk) (k : t.memOk) : (if p then s else t).memOk :=
  iteInduction (fun _ => h) fun _ => k

theorem ite_snd {p : Prop} [Decidable p] {x y : β × State} (hx : x.2.memOk) (hy : y.2.memOk) :
    (if p then x else y).2.memOk := by
  split
  exacts [hx, hy]

theorem fst {p : State × β} {x : β} (h : p.1.memOk) (e : p = (t, x)) : t.memOk :=
  (congrArg (fun p : State × β => p.1.memOk) e).mp h

theorem snd {p : β × State} {x : β} (h : p.2.memOk) (e : p = (x, t)) : t.memOk :=
  (congrArg (fun p : β × State => p.2.memOk) e).mp h

theorem foldl {f : State → β → State} {l : List β} (h : s.memOk)
    (hf : ∀ {u : State} {x : β}, u.memOk → (f u x).memOk) : (l.foldl f s).memOk := by
  induction l generalizing s with
  | nil => exact h
  | cons x xs ih => exact ih (hf h)

end State.memOk

/-! ## Outcomes that carry a state -/

/-- A performed access leaves canonical memories. -/
def Performed.memOk : Performed → Prop
  | .done t | .waits t => t.memOk
  | .noMemory _ => True

/-- A unit of a copy leaves canonical memories. -/
def UnitOut.memOk : UnitOut → Prop
  | .next t | .stop t => t.memOk
  | .noMemory _ => True

/-- A performed entry of a stream leaves canonical memories. -/
def EntryOut.memOk : EntryOut → Prop
  | .done t | .waits t => t.memOk
  | .noMemory _ => True

/-- The effect of a word carries canonical memories, where it carries a state. -/
def Eff.memOk : Eff → Prop
  | .done t | .jump t _ _ | .wait t _ | .leave t | .page _ _ t => t.memOk
  | .fault _ => True

/-- A chunk of a copy or a fetch leaves canonical memories, unless it names missing memory. -/
def ExceptOk : Except Nat State → Prop
  | .ok t => t.memOk
  | .error _ => True

/-- The next state of an outcome, where there is one, has canonical memories. -/
def OutOk : Out → Prop
  | .next t => t.memOk
  | _ => True

/-- The meaning of a word, tried on canonical memories, carries canonical memories. -/
def KeepsMemories (body : Ctx → Eff) : Prop := ∀ c : Ctx, c.s.memOk → (body c).memOk

theorem Performed.memOk.ite {p : Prop} [Decidable p] {x y : Performed} (hx : x.memOk) (hy : y.memOk) :
    (if p then x else y).memOk := iteInduction (fun _ => hx) fun _ => hy

theorem UnitOut.memOk.ite {p : Prop} [Decidable p] {x y : UnitOut} (hx : x.memOk) (hy : y.memOk) :
    (if p then x else y).memOk := iteInduction (fun _ => hx) fun _ => hy

theorem EntryOut.memOk.ite {p : Prop} [Decidable p] {x y : EntryOut} (hx : x.memOk) (hy : y.memOk) :
    (if p then x else y).memOk := iteInduction (fun _ => hx) fun _ => hy

theorem Eff.memOk.ite {p : Prop} [Decidable p] {x y : Eff} (hx : x.memOk) (hy : y.memOk) :
    (if p then x else y).memOk := iteInduction (fun _ => hx) fun _ => hy

theorem ExceptOk.ite {p : Prop} [Decidable p] {x y : Except Nat State} (hx : ExceptOk x) (hy : ExceptOk y) :
    ExceptOk (if p then x else y) := iteInduction (fun _ => hx) fun _ => hy

theorem OutOk.ite {p : Prop} [Decidable p] {x y : Out} (hx : OutOk x) (hy : OutOk y) :
    OutOk (if p then x else y) := iteInduction (fun _ => hx) fun _ => hy

theorem Performed.memOk.of_done {x : Performed} (h : x.memOk) (e : x = .done t) : t.memOk :=
  (congrArg Performed.memOk e).mp h

theorem Performed.memOk.of_waits {x : Performed} (h : x.memOk) (e : x = .waits t) : t.memOk :=
  (congrArg Performed.memOk e).mp h

theorem UnitOut.memOk.of_next {x : UnitOut} (h : x.memOk) (e : x = .next t) : t.memOk :=
  (congrArg UnitOut.memOk e).mp h

theorem UnitOut.memOk.of_stop {x : UnitOut} (h : x.memOk) (e : x = .stop t) : t.memOk :=
  (congrArg UnitOut.memOk e).mp h

theorem EntryOut.memOk.of_done {x : EntryOut} (h : x.memOk) (e : x = .done t) : t.memOk :=
  (congrArg EntryOut.memOk e).mp h

theorem EntryOut.memOk.of_waits {x : EntryOut} (h : x.memOk) (e : x = .waits t) : t.memOk :=
  (congrArg EntryOut.memOk e).mp h

theorem Eff.memOk.of_done {x : Eff} (h : x.memOk) (e : x = .done t) : t.memOk :=
  (congrArg Eff.memOk e).mp h

theorem Eff.memOk.of_jump {x : Eff} {pc k} (h : x.memOk) (e : x = .jump t pc k) : t.memOk :=
  (congrArg Eff.memOk e).mp h

theorem Eff.memOk.of_page {x : Eff} {ps f} (h : x.memOk) (e : x = .page ps f t) : t.memOk :=
  (congrArg Eff.memOk e).mp h

theorem Performed.memOk.out {x : Performed} (h : x.memOk) : OutOk x.out := by
  cases x with
  | done t => exact h
  | waits t => exact h
  | noMemory a => trivial

end Sys2Proof.Machine
end

section
/-!
SUPPORT. Record updates, logs, tags and the writes of the part keep the memories canonical.
-/

namespace Sys2Proof.Machine

variable {s t : State} {c : Ctx} {β : Type}

namespace State.memOk

/-! ## Updates of one record -/

theorem updBlock {id : Nat} {f : Block → Block} (h : s.memOk) : (s.updBlock id f).memOk := h
theorem updWarp {r : WarpRef} {f : Warp → Warp} (h : s.memOk) : (s.updWarp r f).memOk := h
theorem updGrid {id : Nat} {f : Grid → Grid} (h : s.memOk) : (s.updGrid id f).memOk := h
theorem updCtx {id : Nat} {f : Context → Context} (h : s.memOk) : (s.updCtx id f).memOk := h
theorem updCore {c : Nat} {f : Core → Core} (h : s.memOk) : (s.updCore c f).memOk := h
theorem updCluster {c : Nat} {f : Cluster → Cluster} (h : s.memOk) : (s.updCluster c f).memOk := h
theorem updVf {v : Nat} {f : Vf → Vf} (h : s.memOk) : (s.updVf v f).memOk := h
theorem updDev {f : Device → Device} (h : s.memOk) : (s.updDev f).memOk := h
theorem fresh (h : s.memOk) : s.fresh.memOk := h
theorem wake (h : s.memOk) : s.wake.memOk := h
theorem onLink (h : s.memOk) : s.onLink.memOk := h

theorem log {k d l c a} (h : s.memOk) : (s.log k d l c a).memOk :=
  h.of_sameMems (s.sameMems_log _ _ _ _ _)

theorem requestReplace {d l} (h : s.memOk) : (s.requestReplace d l).memOk :=
  h.of_sameMems (s.sameMems_requestReplace _ _)

theorem countCorrected {k} (h : s.memOk) : (s.countCorrected k).memOk := h.of_sameMems (s.sameMems_countCorrected _)

theorem correctSpan {c a n} (h : s.memOk) : (s.correctSpan c a n).memOk :=
  h.of_sameMems (s.sameMems_correctSpan _ _ _)

theorem readSpan {c a n} (h : s.memOk) : (s.readSpan c a n).memOk :=
  h.of_sameMems (s.sameMems_readSpan _ _ _)

theorem readSram {u o k c p} (h : s.memOk) : (s.readSram u o k c p).2.memOk := by
  unfold State.readSram
  extract_lets hits t
  have ht : t.memOk := h.foldl log
  exact ite_snd h ht.same

theorem writeSram {u o p} (h : s.memOk) : (s.writeSram u o p).memOk := .ite h h.same
theorem shiftSram {u o} (h : s.memOk) : (s.shiftSram u o).memOk := .ite h.writeSram h.writeSram.same

theorem peekSram {u o k c b} (h : s.memOk) : (s.peekSram u o k c b).2.memOk := by
  unfold State.peekSram
  extract_lets bad t
  exact ite_snd h (.ite h.readSram h.readSram.same)

theorem adopt {v u} (h : s.memOk) : (s.adopt v u).memOk := by
  unfold State.adopt
  split
  · exact h
  · exact h.updVf

theorem exchangeTags {c a} (h : s.memOk) : (s.exchangeTags c a).memOk := by
  unfold State.exchangeTags
  split
  · exact h
  · exact .ite h.adopt.adopt h

theorem shareTags {v us} (h : s.memOk) : (s.shareTags v us).memOk := .ite (h.foldl adopt) h
theorem takeTag {v u g} (h : s.memOk) : (s.takeTag v u g).memOk := .ite h.adopt h
theorem exchangeSpan {c a n} (h : s.memOk) : (s.exchangeSpan c a n).memOk := h.foldl exchangeTags

theorem prepare {v a g} (h : s.memOk) (ht : s.prepare v a g = some t) : t.memOk :=
  h.of_sameMems (State.sameMems_prepare ht)

theorem markWords {l} (h : s.memOk) : (s.markWords l).memOk := .ite h h.updDev

theorem partPiece {c a bs g ho l} (h : s.memOk) : (s.partPiece c a bs g ho l).memOk := by
  unfold State.partPiece
  extract_lets a wait
  have hw : wait.memOk := h
  split
  · exact hw
  · split
    next ht => exact (State.memOk_writePhys h ht).markWords
    next => exact hw

theorem partWrite {c a bs g ho l} (h : s.memOk) : (s.partWrite c a bs g ho l).memOk := by
  unfold State.partWrite
  split
  next t ht =>
    split at ht
    · cases ht
    · exact (State.memOk_writePhys h ht).markWords
  next => exact h.foldl partPiece

theorem coreWrite {k c a bs l} (h : s.memOk) : (s.coreWrite k c a bs l).memOk := h.exchangeSpan.partWrite

end State.memOk

end Sys2Proof.Machine
end

section
/-!
SUPPORT. Translation, faults, kills, registers and results keep the memories canonical.
-/

namespace Sys2Proof.Machine

variable {s t : State} {c : Ctx} {β : Type}

namespace State.memOk

theorem walked {k c a ls tb} (h : s.memOk) : (s.walked k c a ls tb).memOk :=
  h.foldl fun h => h.exchangeTags.readSpan

theorem readTlbs {k c a b} (h : s.memOk) : (s.readTlbs k c a b).memOk := by
  unfold State.readTlbs
  split
  · exact h
  extract_lets hit keep own
  split
  next bad s1 e1 =>
    have h1 : s1.memOk := h.readSram.snd e1
    extract_lets s2
    have h2 : s2.memOk := .ite h1 (.ite h1.updCore h1.updCore)
    refine .ite h2 ?_
    split
    next bad s3 e3 =>
      have h3 : s3.memOk := h2.readSram.snd e3
      exact .ite h3 h3.updCluster

theorem leafOf {k c a b} (h : s.memOk) : (s.leafOf k c a b).2.memOk := by
  unfold State.leafOf
  extract_lets s1 c' k' own install
  have h1 : s1.memOk := h.readTlbs
  have hi : ∀ {u x}, u.memOk → (install x u).memOk := fun h => .ite (.ite h.updCore h) h.updCore
  clear_value install s1
  split
  · exact h1
  split
  · exact hi h1
  · dsimp only
    split
    · exact hi h1.walked.updCluster
    · exact h1.walked

theorem translate {k c va acc} (h : s.memOk) : (s.translate k c va acc).2.memOk := by
  unfold State.translate
  refine ite_snd (ite_snd h h) (ite_snd h ?_)
  extract_lets a priv
  refine ite_snd h ?_
  split
  next w s1 e =>
    have h1 : s1.memOk := h.leafOf.snd e
    split
    · exact h1
    · exact h1
    · exact ite_snd h1 (ite_snd h1 h1)

theorem translateAll {k c acc l} (h : s.memOk) : (s.translateAll k c acc l).2.memOk := by
  induction l generalizing s with
  | nil => exact h
  | cons x xs ih => exact ih h.translate

theorem dropAcc {i} (h : s.memOk) : (s.dropAcc i).memOk := h
theorem dropAccs {p} (h : s.memOk) : (s.dropAccs p).memOk := h.foldl dropAcc
theorem pushStop {c r} (h : s.memOk) : (s.pushStop c r).memOk := h.updCtx
theorem progress {c} (h : s.memOk) : (s.progress c).memOk := h.updCtx

theorem completionUpdate {g c d f x} (h : s.memOk) : (s.completionUpdate g c d f x).memOk := by
  unfold State.completionUpdate
  split
  · extract_lets a s1
    have h1 : s1.memOk := by
      unfold s1
      split
      · exact .ite h.takeTag h
      · exact h
    exact h1.fresh.same
  · exact h.pushStop

theorem finishKill {c} (h : s.memOk) : (s.finishKill c).memOk := by
  unfold State.finishKill
  exact ((h.foldl completionUpdate).foldl completionUpdate).dropAccs.same

theorem kill {c d} (h : s.memOk) : (s.kill c d).memOk := by
  unfold State.kill
  split
  · exact h
  split
  · exact h
  extract_lets s1 gids bids held s2 s3 s4 s5 s6 s7
  have h4 : s4.memOk := (h.pushStop.foldl dropAcc : s2.memOk).same (t := s3) |>.dropAccs
  have h5 : s5.memOk := h4.foldl fun {u x} h => by
    split
    · exact h.partWrite
    · exact h
  have h7 : s7.memOk := h5.same (t := s6) |>.updCtx
  exact .ite h7 h7.finishKill

theorem saveToArea {c k n} (h : s.memOk) : (s.saveToArea c k n).memOk := by
  unfold State.saveToArea
  split
  · exact h
  · exact h.fresh.coreWrite

theorem noteFault {r f pc} (h : s.memOk) : (s.noteFault r f pc).memOk := by
  unfold State.noteFault
  split
  · exact h
  · exact .ite h.updWarp h.updWarp.pushStop

theorem recordFault {r f pc} (h : s.memOk) : (s.recordFault r f pc).memOk := by
  unfold State.recordFault
  split
  · exact h
  · exact .ite h.noteFault.kill h.noteFault

theorem takeFault {r f pc} (h : s.memOk) : (s.takeFault r f pc).memOk := by
  unfold State.takeFault
  split
  · exact h
  · exact .ite h.recordFault h.updWarp

theorem invalidate {k p} (h : s.memOk) : (s.invalidate k p).memOk := h.updCore
theorem allocate {k c va pa} (h : s.memOk) : (s.allocate k c va pa).memOk := h.writeSram.updCore
theorem noteLine {k c va pa} (h : s.memOk) : (s.noteLine k c va pa).memOk := .ite h.updCore h

/-! ## Registers of a warp -/

theorem writeOne {r l o x} (h : s.memOk) : (s.writeOne r l o x).memOk := by
  unfold State.writeOne
  repeat' split
  all_goals exact h

theorem writeRegs {r l o n x} (h : s.memOk) : (s.writeRegs r l o n x).memOk := by
  induction n generalizing s x o with
  | zero => exact h
  | succ n ih =>
    rw [State.writeRegs]
    exact ih h.writeOne

theorem addMarks {r ms} (h : s.memOk) : (s.addMarks r ms).memOk :=
  h.foldl fun {u m} h => by
    split <;> exact h

theorem passTags {r d} (h : s.memOk) : (s.passTags r d).memOk := by
  unfold State.passTags
  repeat' split
  exacts [h.shareTags, h, h, h.shareTags, h, h, h]

theorem writeDest {r d n vs} (h : s.memOk) : (s.writeDest r d n vs).memOk :=
  (h.foldl writeRegs).updWarp.passTags

/-! ## Accesses and results -/

theorem issueAcc {a b l} (h : s.memOk) : (s.issueAcc a b l).memOk := h
theorem issueEngine {a} (h : s.memOk) : (s.issueEngine a).memOk := h
theorem feed {r i l v b} (h : s.memOk) : (s.feed r i l v b).memOk := h.updWarp

theorem settle {r} (h : s.memOk) : (s.settle r).memOk := by
  unfold State.settle
  split
  · exact h
  split
  · split
    · exact h.recordFault
    · exact h
  · exact .ite h.updWarp h.updWarp

theorem mirror {r b x} (h : s.memOk) : (s.mirror r b x).memOk := by
  unfold State.mirror
  split
  · exact .ite h h.updWarp.updWarp
  · exact h

theorem deliver {r i} (h : s.memOk) : (s.deliver r i).memOk := by
  unfold State.deliver
  split
  · exact h
  split
  · exact h
  split
  · exact h
  split
  · exact h.updWarp.mirror.takeFault.settle
  · exact .ite h.updWarp.mirror.writeDest.addMarks.settle h.updWarp.mirror.settle
  · exact h.updWarp.mirror.settle

theorem sendAck {a d} (h : s.memOk) : (s.sendAck a d).memOk := h.updDev
theorem invalidateBound {b a} (h : s.memOk) : (s.invalidateBound b a).memOk := h.invalidate

theorem fetchLine {k c va pa} (h : s.memOk) : (s.fetchLine k c va pa).memOk := by
  unfold State.fetchLine
  exact h.allocate.same

theorem placeLate {a bs} (h : s.memOk) : (s.placeLate a bs).memOk := h.updCore

theorem performLoad {a} (h : s.memOk) : (s.performLoad a).memOk := by
  unfold State.performLoad
  extract_lets r line present
  split
  next upset s1 e =>
    have h1 : s1.memOk := by
      split at e
      · exact h.readSram.snd e
      · exact h.snd e
    extract_lets s2 bad bytes bytes s3
    have h2 : s2.memOk := .ite h1 h1.invalidate
    have h3 : s3.memOk :=
      .ite (.noteLine (.ite h2 h2.readSpan)) (.ite h2.readSpan h2.readSpan.fetchLine)
    split
    · exact h3.feed
    · exact h3

theorem keepBad {u a} (h : t.memOk) : (t.keepBad u a).memOk := by
  unfold State.keepBad
  extract_lets t1
  exact .ite h.correctSpan (.ite h.correctSpan.log h.correctSpan.log.updDev)
end State.memOk

end Sys2Proof.Machine
end

section
/-!
SUPPORT. A performed access and the issue of a word (R52) keep the memories canonical.
-/

namespace Sys2Proof.Machine

variable {s t : State} {c : Ctx} {β : Type}

namespace State.memOk

/-- The one access that changes a memory is a write, and it does so through `State.modifyLine`. -/
theorem performLocal {a} (h : s.memOk) : (s.performLocal a).memOk := by
  unfold State.performLocal
  split
  · trivial
  extract_lets behind s1 bad s2 v s3 r s4 old bytes frozen bad'
  have h1 : s1.memOk := .ite h h.exchangeTags
  split
  · exact dropAcc (.ite h1.invalidate h1)
  · exact .ite h1 (.ite h1.readSpan.sendAck.dropAcc h1.performLoad.dropAcc)
  · have h3 : s3.memOk := by
      unfold s3
      split <;> exact h1.readSpan
    have h4 : s4.memOk := by
      unfold s4
      split <;> exact h3
    exact .ite h1 h4.dropAcc
  · refine .ite h1 ?_
    split
    · exact h1
    next t ht =>
      extract_lets t1 t2 t3 t4 t5
      have h1 : t1.memOk := .ite (State.memOk_modifyLine h1 ht).markWords (State.memOk_modifyLine h1 ht).keepBad
      have h2 : t2.memOk := .ite h1.invalidate (.ite h1.placeLate h1)
      have h3 : t3.memOk := by
        unfold t3
        split <;> exact h2
      have h4 : t4.memOk := by
        unfold t4
        split <;> exact h3
      have h5 : t5.memOk := .ite h4.sendAck h4
      exact h5.dropAcc

theorem performAcc {i} (h : s.memOk) : (s.performAcc i).memOk := by
  unfold State.performAcc
  split
  · exact h
  · exact .ite h h.performLocal

theorem deliverAhead {r i} (h : s.memOk) : (s.deliverAhead r i).memOk := by
  unfold State.deliverAhead
  split
  · exact h
  split
  · exact h
  · exact h.deliver

theorem settleAhead {r} (h : s.memOk) : (s.settleAhead r).memOk := by
  unfold State.settleAhead
  refine foldl (foldl h.updWarp fun {u i} hu => ?_) deliverAhead
  have hp := hu.performAcc (i := i)
  split
  next e => exact hp.of_done e
  · exact hu

/-! ## The issue of a word -/

theorem pushResult {r x} (h : s.memOk) : (s.pushResult r x).memOk := h
theorem pushOp {r c i l a k} (h : s.memOk) : (s.pushOp r c i l a k).memOk := h
theorem updOp {r i f} (h : s.memOk) : (s.updOp r i f).memOk := h
theorem complete {r g e pc j} (h : s.memOk) : (s.complete r g e pc j).memOk := h
theorem park {r x} (h : s.memOk) : (s.park r x).memOk := h
theorem restart {r k c a} (h : s.memOk) : (s.restart r k c a).memOk := h.log.updWarp.settle

theorem addSheaf {k c i r pc ps} (h : s.memOk) : (s.addSheaf k c i r pc ps).1.memOk := by
  unfold State.addSheaf
  split
  · exact h
  · dsimp only
    split <;> exact h

theorem aheadStop {k} (h : s.memOk) : (s.aheadStop k).memOk := h

theorem aheadPages {k c a ps} (h : s.memOk) : (s.aheadPages k c a ps).memOk := by
  unfold State.aheadPages
  split
  · exact h
  · exact .ite h.updCtx.aheadStop h.updCtx

theorem aheadNext {c e rs x y j} (h : s.memOk) : (s.aheadNext c e rs x y j).memOk :=
  h.settleAhead.updCore.updWarp

theorem aheadWord {c e a body} (hb : KeepsMemories body) (hc : c.s.memOk) (h : s.memOk) :
    (s.aheadWord c e a body).memOk := by
  unfold State.aheadWord
  extract_lets core regs bad unsure lanes poisonIn good finish c'
  split
  · exact h.aheadStop
  · exact h.aheadNext
  · exact h.aheadNext
  · exact h.aheadNext
  · exact h.aheadNext
  · split
    · exact h.aheadNext
    split
    · exact h.aheadStop
    split
    · exact h.aheadNext
    have hf : ∀ {c m u}, State.memOk u → (finish c m u).memOk := fun {c m u} hu => by
      have hd := hb { c with s := u, lanes := c.lanes.filter fun l => !m.getLsbD l } hu
      unfold finish
      split
      next e => exact (hd.of_done e).aheadNext
      next e => exact (hd.of_jump e).aheadNext
      · exact hu
      · exact hu.aheadStop
    have hd := hb c' hc
    split
    next e => exact hf (hd.of_page e).aheadPages
    · exact hf h

theorem pageFault {c e ps f body} (hb : KeepsMemories body) (h : s.memOk) :
    (s.pageFault c e ps f body).memOk := by
  unfold State.pageFault
  split
  · exact h.park
  extract_lets va
  split
  next s1 ids new he =>
    have h1 : s1.memOk := by
      have h1 := h.addSheaf (k := c.b.core) (c := c.ctx) (i := 0) (r := c.r) (pc := va) (ps := ps)
      rw [he] at h1
      exact h1
    extract_lets held
    split
    · extract_lets a s2 s3 listed
      have h3 : s3.memOk := h1
      have hd : ∀ ls, (body { c with s := s3, lanes := ls, ahead := true }).memOk := fun ls => hb _ h3
      clear_value s3
      refine .ite h3.aheadStop (.ite h3.aheadNext ?_)
      split
      · split
        next e => exact ((hd _).of_done e).aheadNext
        · exact h3.aheadStop
      · split
        next e => exact ((hd _).of_done e).aheadNext
        · exact h3.aheadStop
      · split
        next e => exact ((hd _).of_done e).aheadNext
        · exact h3.aheadStop
      · exact h3.aheadNext
      · exact h3.aheadNext
      · exact h3.aheadStop
    · exact h1

theorem twinCheck {c e} (h : s.memOk) : (s.twinCheck c e).2.memOk := by
  unfold State.twinCheck
  extract_lets n s1 s2
  have h1 : s1.memOk := h.same
  have h2 : s2.memOk := h1.log.updCore
  exact ite_snd h (ite_snd h1.log (ite_snd h1 (ite_snd h2 h2)))

theorem logConsumed {k c a i} (h : s.memOk) : (s.logConsumed k c a i).memOk := .ite h.log.log h.log

theorem finish {c e body} (hb : KeepsMemories body) (h : s.memOk) : (s.finish c e body).memOk := by
  have hd : (body { c with s := s }).memOk := hb _ h
  unfold State.finish
  generalize body { c with s := s } = p at hd
  cases p with
  | done t => exact complete hd
  | jump t pc k => exact complete hd
  | fault f => exact h.takeFault
  | wait t x => exact park hd
  | leave t => exact progress hd
  | page ps f t => exact pageFault hb hd

theorem issueWord {c e body} (hb : KeepsMemories body) (h : s.memOk) : (s.issueWord c e body).memOk := by
  unfold State.issueWord
  extract_lets pc va
  split
  · exact h.takeFault
  split
  · exact takeFault (.ite h.logConsumed h)
  next m _ =>
    cases m with
    | none => exact h.restart
    | some x => exact h.logConsumed.restart
  · exact h.park
  · have ht := h.twinCheck (c := c) (e := e)
    split
    next e => exact (ht.snd e).takeFault
    next e => exact (ht.snd e).restart
    next e => exact (ht.snd e).finish hb

theorem runWord {mk body} (hb : KeepsMemories body) (h : s.memOk) : (runWord s mk body).memOk := by
  unfold Machine.runWord
  split
  · exact h
  split
  · exact h
  split
  · exact h
  extract_lets e c va hit
  have hc : c.s.memOk := h
  clear_value hit
  split
  · refine .ite h (.ite h.aheadStop ?_)
    split
    · exact h.aheadWord hb hc
    · exact h.aheadStop
  · exact .ite h.takeFault (h.issueWord hb)

end State.memOk

end Sys2Proof.Machine
end

section
/-!
SUPPORT. The redundant pair, the end of a block and the scratchpad words keep the memories canonical.
-/

namespace Sys2Proof.Machine

variable {s t : State} {c : Ctx} {β : Type}

namespace State.memOk

/-! ## The redundant pair -/

theorem cancelCmds {r n} (h : s.memOk) : (s.cancelCmds r n).memOk := by
  unfold State.cancelCmds
  exact h.dropAccs.same

theorem rollWarp {r w m n} (h : s.memOk) : (s.rollWarp r w m n).memOk := by
  unfold State.rollWarp
  split
  · exact (h.cancelCmds.foldl dropAcc).updWarp
  · exact h

theorem rollback {l t' i a p} (h : s.memOk) : (s.rollback l t' i a p).memOk := by
  unfold State.rollback
  extract_lets l t'
  split
  · refine .ite h.log.rollWarp.rollWarp.settle.settle (.ite h (kill (h.log.foldl fun {u r} hu => ?_)))
    split
    · exact hu.updWarp.noteFault
    · exact hu
  · exact h

theorem mismatch {b i a} (h : s.memOk) : (s.mismatch b i a).memOk := by
  unfold State.mismatch
  split
  · exact .ite h.rollback h.rollback
  · exact h

theorem takeCheckpoint {b r pc n} (h : s.memOk) : (s.takeCheckpoint b r pc n).memOk :=
  h.updWarp.saveToArea

theorem put {d n vs f} (h : s.memOk) : (c.put s d n vs f).memOk := by
  unfold Ctx.put
  extract_lets vs
  split
  · trivial
  · exact h.writeDest.updWarp

theorem meet {b} {take : State → Eff} (hk : ∀ {u : State}, u.memOk → (take u).memOk) (h : c.s.memOk) :
    (c.meet b take).memOk := by
  unfold Ctx.meet
  refine .ite h (.ite h ?_)
  split
  · exact hk h
  · extract_lets mine s1
    have h1 : s1.memOk := h
    split
    · exact h
    split
    · exact h
    · exact .ite (hk h1) h1.mismatch

theorem replayed {o d n} (h : c.s.memOk) : (c.replayed o d n).memOk := by
  unfold Ctx.replayed
  extract_lets s1 x
  split <;> exact h

theorem replay {q e n d m} (h : c.s.memOk) : (c.replay q e n d m).memOk := by
  unfold Ctx.replay
  refine .ite ?_ (.ite h.mismatch (.ite h.mismatch h))
  split
  · exact h
  · exact h.replayed

theorem agreed {q n perform} (hk : KeepsMemories perform) (h : c.s.memOk) : (c.agreed q n perform).memOk := by
  unfold Ctx.agreed
  extract_lets lead known s1
  have hd := hk { c with s := s1, pair := some n, shadow := c.b.trail } h
  split
  next e =>
    have ht := hd.of_done e
    clear_value known
    refine .ite ?_ ht
    split <;> exact ht
  · exact h
  · exact hd

theorem paired {q d n perform} (hk : KeepsMemories perform) (h : c.s.memOk) :
    (c.paired q d n perform).memOk := by
  unfold Ctx.paired
  refine .ite (hk c h) (.ite h (.ite h ?_))
  split
  · exact h.replay
  · refine .ite (.ite (meet takeCheckpoint h) h) ?_
    split
    · exact h
    · exact h.agreed hk
    · exact h

/-! ## The end of a block -/

theorem dropUnread {b} (h : s.memOk) : (s.dropUnread b).memOk := by
  unfold State.dropUnread
  split
  · exact h.foldl fun hu => hu.foldl fun hv => hv
  · exact h

theorem retireBlock {b} (h : s.memOk) : (s.retireBlock b).memOk := by
  unfold State.retireBlock
  exact h.dropUnread.updCore.updGrid.same

theorem retireWarp {r i d} (h : s.memOk) : (s.retireWarp r i d).memOk := by
  unfold State.retireWarp
  extract_lets s1
  have h1 : s1.memOk := h
  clear_value s1
  split
  · exact h1
  · exact .ite (.ite h1.retireBlock h1.updBlock) h1

theorem sealBatch {r a b} (h : s.memOk) : (s.sealBatch r a b).memOk := by
  unfold State.sealBatch
  split
  · exact h
  · exact h.fresh.pushOp.updWarp

/-! ## The scratchpad and the operand buffer -/

theorem readSoft {b i p} (h : s.memOk) : (s.readSoft b i p).memOk := .ite h (h.updBlock.foldl log)
theorem readPlaces {b i ps} (h : s.memOk) : (s.readPlaces b i ps).2.memOk := .ite h.readSoft.log h.readSoft
theorem later {d n vs} (h : c.s.memOk) : (c.later d n vs).memOk := .ite h h.pushResult

theorem accElems {a b k} (hk : ∀ es, (k es).memOk) (h : c.s.memOk) : (c.accElems a b k).memOk := by
  unfold Ctx.accElems
  extract_lets lanes x differ
  refine .ite h (.ite trivial ?_)
  split
  · trivial
  · exact .ite trivial (.ite trivial (.ite h (hk _)))

end State.memOk

theorem Eff.memOk.localCheck {w as} {k : Eff} (hk : k.memOk) : (c.localCheck w as k).memOk :=
  .ite trivial (.ite trivial hk)
theorem laneEff_keeps {d n f} : KeepsMemories (laneEff d n f) := fun _ h => h.put
theorem lateEff_keeps {d n f} : KeepsMemories (lateEff d n f) := fun _ h => .ite h h.pushResult
theorem ldlEff_keeps {d a o} : KeepsMemories (ldlEff d a o) := fun _ h =>
  .localCheck (.ite h (.pushResult (h.readSoft.foldl .log)))

theorem stlEff_keeps {d a o} : KeepsMemories (stlEff d a o) := fun _ h => .localCheck h.updBlock
theorem taglLookupEff_keeps {d a r} : KeepsMemories (taglLookupEff d a r) := fun c h => by
  unfold taglLookupEff
  refine .ite h ?_
  split
  · trivial
  · exact h.later

theorem taglReadEff_keeps {d a r} : KeepsMemories (taglReadEff d a r) := fun c h => by
  unfold taglReadEff
  refine .ite h ?_
  split
  · trivial
  · exact .ite trivial h.later

theorem tagwEff_keeps {d a r} : KeepsMemories (tagwEff d a r) := fun c h => by
  unfold tagwEff
  refine .ite h ?_
  split
  · trivial
  · exact .ite trivial h.updBlock

theorem resEff_keeps {d a z} : KeepsMemories (resEff d a z) := fun c h => by
  unfold resEff
  extract_lets r z
  refine .ite trivial ?_
  split
  · exact .ite h h.updBlock.put
  · trivial

theorem rlsEff_keeps {a} : KeepsMemories (rlsEff a) := fun c h => by
  unfold rlsEff
  split
  · trivial
  · exact .ite h h.updBlock

theorem accaEff_keeps {d n} : KeepsMemories (accaEff d n) := fun c h => by
  unfold accaEff
  extract_lets used
  split
  · trivial
  · exact .ite trivial h.updBlock.put

theorem accfEff_keeps {a} : KeepsMemories (accfEff a) := fun c h => by
  unfold accfEff
  split
  · trivial
  · exact .ite h h.updBlock

theorem accrEff_keeps {d a b} : KeepsMemories (accrEff d a b) := fun _ h =>
  h.accElems fun _ => .ite h h.readPlaces.pushResult

theorem accwEff_keeps {d a b} : KeepsMemories (accwEff d a b) := fun _ h => h.accElems fun _ => h.updBlock

end Sys2Proof.Machine
end

section
/-!
SUPPORT. The control, device-memory and copy words keep the memories canonical.
-/

namespace Sys2Proof.Machine

variable {s t : State} {c : Ctx} {β : Type}

/-! ## Control words -/

theorem braEff_keeps {o} : KeepsMemories (braEff o) := fun c h => by
  unfold braEff
  split
  · trivial
  · exact h

theorem brcEff_keeps {u i p o} : KeepsMemories (brcEff u i p o) := fun c h => by
  unfold brcEff
  split
  · trivial
  · refine .ite trivial (.ite h (.ite h ?_))
    split
    · trivial
    · exact h.updWarp

theorem markEff_keeps {o} : KeepsMemories (markEff o) := fun c h => by
  unfold markEff
  split
  · trivial
  · exact .ite trivial h.updWarp

theorem joinEff_keeps : KeepsMemories joinEff := fun c h => by
  unfold joinEff
  split
  · trivial
  · exact h.updWarp

theorem callEff_keeps {i p o} : KeepsMemories (callEff i p o) := fun c h => by
  unfold callEff
  split
  · trivial
  · exact .ite trivial (.ite h (.ite trivial h.writeDest.updWarp))

theorem retEff_keeps {a} : KeepsMemories (retEff a) := fun _ h => .ite trivial (.ite trivial h.updWarp)
theorem loopEff_keeps {d n} : KeepsMemories (loopEff d n) := fun _ h =>
  .ite h (.ite trivial (.ite trivial h.updWarp))

theorem exitEff_keeps {i} : KeepsMemories (exitEff i) := fun c h => by
  unfold exitEff
  extract_lets red s1 s2
  have h2 : s2.memOk := .ite h.updBlock h.updBlock.sealBatch
  clear_value s2
  refine .ite trivial (.ite trivial (.ite trivial (.ite h ?_)))
  split
  · exact h2
  · exact .ite h2 (.ite h2.updWarp (.ite h2 (.ite h2 h2.retireWarp)))

theorem State.memOk.report {k n} (h : c.s.memOk) : (c.report k n).1.memOk := by
  unfold Ctx.report
  extract_lets ops done ids flags s1 refused skipped ev
  have h1 : s1.memOk := h
  clear_value s1
  split
  · exact h1
  split
  · exact h1
  · exact h1.updWarp

theorem waitcEff_keeps {k n} : KeepsMemories (waitcEff k n) := fun c h => by
  unfold waitcEff
  refine .ite h ?_
  split
  next e => exact (h.report.fst e).takeFault
  next e => exact h.report.fst e

theorem yieldEff_keeps {k n o} : KeepsMemories (yieldEff k n o) := fun c h => by
  unfold yieldEff
  split
  · trivial
  refine .ite h ?_
  split
  next e => exact (h.report.fst e).takeFault
  next e => exact .ite (h.report.fst e) (h.report.fst e)

theorem State.memOk.renumber {b m n} (h : s.memOk) : (s.renumber b m n).memOk := h
theorem splitEff_keeps {sw} : KeepsMemories (splitEff sw) := fun c h => by
  unfold splitEff
  refine .ite trivial (.ite trivial (.ite trivial (.ite h ?_)))
  split
  · exact h.updBlock.renumber
  · trivial

theorem fuseEff_keeps {sw p} : KeepsMemories (fuseEff sw p) := fun c h => by
  unfold fuseEff
  refine .ite trivial (.ite trivial ?_)
  split
  · exact h
  split
  · exact .ite trivial (.ite h h.updBlock.renumber)
  · exact h

theorem barEff_keeps {k} : KeepsMemories (barEff k) := fun c h => by
  unfold barEff
  split
  · exact h
  · exact .ite trivial (.ite trivial h)

theorem launchEff_keeps {a} : KeepsMemories (launchEff a) := fun c h => by
  unfold launchEff
  extract_lets va
  refine .ite trivial ?_
  split
  next t s1 e =>
    have h1 : s1.memOk := h.translate.snd e
    extract_lets t'
    clear_value t'
    split
    · trivial
    · exact h1
    · exact .ite h1 (State.memOk.paired (c := { c with s := s1 }) (fun _ h => .ite h h.updVf) h1)

theorem idemEff_keeps : KeepsMemories idemEff := fun _ h => .ite trivial h.updWarp
theorem chkptEff_keeps : KeepsMemories chkptEff := fun _ h =>
  .ite trivial (.ite h (.ite h.takeCheckpoint (h.meet .takeCheckpoint)))

theorem pdisEff_keeps : KeepsMemories pdisEff := fun _ h => .ite trivial (.ite h h.updWarp)
theorem penEff_keeps : KeepsMemories penEff := fun _ h => .ite trivial h.updWarp

/-! ## Device memory words -/

theorem State.memOk.reach {w acc m as k} (hk : ∀ (c : Ctx) (ts : List LaneAddr), c.s.memOk → (k c ts).memOk)
    (h : c.s.memOk) : (c.reach w acc m as k).memOk := by
  unfold Ctx.reach
  split
  next ts s1 e =>
    have h1 : s1.memOk := h.translateAll.snd e
    split
    · trivial
    · exact h1
    · exact hk _ _ h1

theorem State.memOk.issueLoad {a} (h : s.memOk) : (s.issueLoad a).memOk := .ite h.performLoad h.issueAcc
theorem State.memOk.readBehind {a} (h : s.memOk) : (s.readBehind a).memOk := h

theorem State.memOk.issueStore {a b l} (h : s.memOk) : (s.issueStore a b l).memOk :=
  .ite h.readBehind.updCore.issueAcc h.issueAcc

theorem loadBy_keeps {acc d a o w n} : KeepsMemories (loadBy acc d a o w n) := fun _ h =>
  h.reach fun _ _ h => .foldl (.ite h h.pushResult) .issueLoad

theorem loadEff_keeps {d a o w n} : KeepsMemories (loadEff d a o w n) := loadBy_keeps

theorem State.memOk.touch {w as} (h : c.s.memOk) : (c.touch w as).memOk :=
  h.reach fun _ _ h => h.foldl .issueLoad

theorem State.memOk.pushEntry {w x} (h : s.memOk) : (c.pushEntry w s x).memOk := h

theorem State.memOk.store {l m w} (h : c.s.memOk) : (c.store l m w).memOk := by
  unfold Ctx.store
  extract_lets writes dual put s1 ids tr s2
  have h1 : s1.memOk := h.foldl .issueStore
  have h2 : s2.memOk := h1.foldl .issueStore
  exact .ite (h.foldl .pushEntry) (.ite h (State.memOk.ite h2.updWarp h2))

theorem storeEff_keeps {d a o w n} : KeepsMemories (storeEff d a o w n) := fun _ h =>
  .ite h.touch (.ite h (h.reach fun _ _ h => h.store))

theorem dualstEff_keeps {d a b} : KeepsMemories (dualstEff d a b) := fun _ h =>
  .ite h.touch (.ite h (h.reach fun _ _ h => h.store))

theorem State.memOk.atomics {f d b ts} (h : c.s.memOk) : (c.atomics f d b ts).memOk := by
  unfold Ctx.atomics
  exact State.memOk.foldl (.ite h.pushResult h) fun h =>
    .ite (.ite h h.invalidate) (State.memOk.issueAcc (.ite h h.invalidate))

theorem atomicEff_keeps {f d a b} : KeepsMemories (atomicEff f d a b) := fun c h =>
  .ite (.ite h.touch (loadBy_keeps c h))
    (h.reach fun _ _ h => .ite h (.ite h (h.paired fun _ h => h.atomics)))

theorem bindEff_keeps {a b} : KeepsMemories (bindEff a b) := fun _ h =>
  .ite trivial (.ite trivial (.ite trivial
    (h.reach fun _ _ h => h.reach fun _ _ h => State.memOk.ite h h.updBlock)))

theorem unbindEff_keeps {a} : KeepsMemories (unbindEff a) := fun _ h => .ite trivial h.updBlock
theorem relEff_keeps {a} : KeepsMemories (relEff a) := fun _ h =>
  .ite trivial (h.reach fun _ _ h => .ite h (h.paired fun _ h => .ite h (h.foldl .issueAcc)))

theorem acqEff_keeps {d a} : KeepsMemories (acqEff d a) := fun _ h =>
  .ite trivial (h.reach fun _ _ h => h.pushResult.foldl .issueAcc)

theorem fenceEff_keeps {k n} : KeepsMemories (fenceEff k n) := fun c h => by
  unfold fenceEff
  extract_lets rel acq sys wide s1 set x
  have h1 : s1.memOk := .ite h.updWarp h
  exact .ite h (.ite (State.memOk.ite h1.invalidate h1) h1.issueAcc)

theorem State.memOk.prefetch {k i b a} (h : s.memOk) : (s.prefetch k i b a).memOk := by
  unfold State.prefetch
  refine .ite h ?_
  split
  next t e =>
    have ht : t.memOk := h.translate.snd e
    exact .ite ht (.ite ht.noteLine.exchangeTags.readSpan ht.noteLine.exchangeTags.readSpan.fetchLine)
  next e => exact h.translate.snd e

theorem prefEff_keeps {b a o} : KeepsMemories (prefEff b a o) := fun _ h => h.foldl .prefetch

/-! ## Copies -/

theorem State.memOk.join {b k} (h : c.s.memOk) : (c.join b k).memOk := .ite (.ite h trivial) (.ite h h)
theorem lcpEff_keeps {b d a z} : KeepsMemories (lcpEff b d a z) := fun _ h =>
  .ite trivial (.ite trivial (.ite trivial h.join))

theorem tcpEff_keeps {b a} : KeepsMemories (tcpEff b a) := fun c h => by
  unfold tcpEff
  extract_lets r
  split
  · trivial
  · exact .ite trivial h.join

theorem tcpxEff_keeps {a b} : KeepsMemories (tcpxEff a b) := fun c h => by
  unfold tcpxEff
  extract_lets r x
  split
  · trivial
  · exact .ite trivial (.ite h h)

theorem sealEff_keeps {b i j} : KeepsMemories (sealEff b i j) := fun _ h => .ite trivial (.ite h h.sealBatch)
theorem stgaEff_keeps {i j} : KeepsMemories (stgaEff i j) := fun _ h => .ite trivial h.updBlock
theorem stgwEff_keeps {d i j b} : KeepsMemories (stgwEff d i j b) := fun c h => by
  unfold stgwEff
  split
  · exact h
  · exact h
  · exact .ite trivial (.ite h h)

end Sys2Proof.Machine
end

section
/-!
SUPPORT. The copy engine, the slices and the fabric keep the memories canonical.
-/

namespace Sys2Proof.Machine

variable {s t : State} {c : Ctx} {β : Type}

namespace State.memOk

/-! ## The copy engine -/

theorem updCmd {i f} (h : s.memOk) : (s.updCmd i f).memOk := h
theorem landIn {c f} (h : s.memOk) : (s.landIn c f).memOk := h.foldl fun hu => by
  refine updBlock (.ite hu ?_)
  split
  · exact hu.shareTags
  · exact hu

theorem landUnit {c b u d m} (h : s.memOk) : (s.landUnit c b u d m).memOk := by
  unfold State.landUnit
  split
  · split
    · exact h.landIn
    · exact h
  · exact h
  · exact .ite h.landIn (.ite h.landIn h.landIn.updCmd)

theorem landed {i} (h : s.memOk) : (s.landed i).memOk := by
  unfold State.landed
  split
  · exact h
  split
  · exact .ite h.landIn h
  · exact h

theorem reachOf {c a k} (h : s.memOk) : (s.reachOf c a k).2.memOk := h.translate

theorem slotReach {c b r l a k} (h : s.memOk) : (s.slotReach c b r l a k).2.memOk := by
  unfold State.slotReach
  split
  · exact h
  refine ite_snd h.reachOf ?_
  split
  · exact h
  split
  next e => exact (h.leafOf.snd e).updBlock
  next e => exact (h.leafOf.snd e).reachOf

theorem engineReach {c b a k} (h : s.memOk) : (s.engineReach c b a k).2.memOk := by
  unfold State.engineReach
  split
  · exact ite_snd h.slotReach h.reachOf
  · exact h.reachOf

theorem failCmd {i k a} (h : s.memOk) : (s.failCmd i k a).memOk := h

theorem holdCmd {c p} (h : s.memOk) : (s.holdCmd c p).memOk := by
  have hs := h.addSheaf (k := c.core) (c := c.ctx) (i := 2) (r := c.ref) (pc := 0) (ps := [p])
  unfold State.holdCmd
  split
  next e =>
    have h1 := hs.fst e
    split
    · exact h1
    · exact h1.updCmd

theorem unitIn {c b x} (h : s.memOk) : (s.unitIn c b x).memOk := by
  unfold State.unitIn
  extract_lets u go va n span out read
  refine .ite h.landUnit.updCmd ?_
  split
  next rm s1 e1 =>
    have h1 : s1.memOk := by
      split at e1
      · exact h.engineReach.snd e1
      · exact h.snd e1
    split
    next rv s2 e2 =>
      have h2 : s2.memOk := h1.engineReach.snd e2
      split
      · exact h2
      · exact h2
      · exact h2.holdCmd
      · exact h2.holdCmd
      · exact h2
      · exact h2
      · extract_lets waits bad
        split
        next lo pa e3 =>
        split
        next lom pam e4 =>
        extract_lets far1 far2 v m
        have hr : ∀ {u : State} {l p k}, u.memOk → (read u l p k).memOk := fun hu =>
          .ite hu hu.exchangeTags.readSpan
        have hf : far2.memOk := .ite (hr (hr h2)) (hr h2)
        exact .ite trivial (.ite trivial (.ite h2 (.ite hf.failCmd hf.landUnit.updCmd)))

theorem unitOut {c b r x} (h : s.memOk) : (s.unitOut c b r x).memOk := by
  unfold State.unitOut
  extract_lets ps n
  split
  next v part e1 =>
    extract_lets go
    refine .ite h ?_
    split
    next bad s1 e1 =>
      have h1 : s1.memOk := h.readPlaces.snd e1
      refine .ite h1 ?_
      split
      next rv s2 e2 =>
        have h2 : s2.memOk := h1.engineReach.snd e2
        extract_lets send
        have ht : ∀ {p l}, (send p l).memOk := fun {p l} => by
          refine .ite ?_ (.ite h2 h2)
          split
          · exact h2
          · exact .ite h2 h2
        split
        · exact h2
        · exact h2.holdCmd
        · exact ht
        · exact ht
        · exact .ite ht ⟨h2.1, h2.2.1, Memory.wf_writeLE _ _ _ h2.2.2⟩

theorem copyUnit {i} (h : s.memOk) : (s.copyUnit i).memOk := by
  unfold State.copyUnit
  split
  · exact h
  split
  · exact h
  · exact .ite h (.ite h (.ite h.unitOut h.unitIn))

theorem copyUnits {i n} (h : s.memOk) : (s.copyUnits i n).memOk := by
  induction n generalizing s with
  | zero => exact h
  | succ n ih =>
    unfold State.copyUnits
    split
    next e => exact ih (h.copyUnit.of_next e)
    next => exact h.copyUnit

theorem begin {c b} (h : s.memOk) : (s.begin c b).memOk := by
  unfold State.begin
  split
  · exact .ite h.updCmd h
  · exact h
  · exact h

theorem saveCursors {c} (h : s.memOk) : (s.saveCursors c).memOk := by
  unfold State.saveCursors
  split
  · exact h.coreWrite
  · exact h

theorem closeBehind {c} (h : s.memOk) : (s.closeBehind c).memOk := h

theorem endChunk {i r} (h : s.memOk) : (s.endChunk i r).memOk := by
  unfold State.endChunk
  split
  · exact h
  · exact .ite h (landed (.ite h.closeBehind h))

theorem copyChunk {i n} (h : s.memOk) : ExceptOk (s.copyChunk i n) := by
  unfold State.copyChunk
  split
  · exact h
  split
  · exact h
  · extract_lets red halted s1 left
    have h1 : s1.memOk := .ite h.begin h
    clear_value red halted s1 left
    refine .ite h ?_
    have hu := h1.copyUnits (i := i) (n := n.min (left + 1))
    split
    next => trivial
    next e => exact State.memOk.ite (hu.of_next e).endChunk.saveCursors.progress (hu.of_next e).endChunk.saveCursors
    next e => exact State.memOk.ite (hu.of_stop e).endChunk.saveCursors.progress (hu.of_stop e).endChunk.saveCursors

theorem execCopyChunk {i n} (h : s.memOk) : OutOk (execCopyChunk i n s) := by
  have hc := h.copyChunk (i := i) (n := n)
  unfold Machine.execCopyChunk
  generalize s.copyChunk i n = p at hc
  cases p with
  | ok t => exact hc
  | error a => trivial

theorem remoteData {a d} (h : s.memOk) : (s.remoteData a d).memOk := by
  unfold State.remoteData
  split
  · exact h
  split
  · exact h
  · exact .ite h.issueEngine h.landUnit.updCmd.landed

theorem completeBatch {r i} (h : s.memOk) : (s.completeBatch r i).memOk := by
  unfold State.completeBatch
  split
  · exact h
  split
  · exact h
  · refine .ite h ?_
    split <;> exact h

/-! ## The slices and the fabric -/

theorem execSliceAccess {i} (h : s.memOk) : OutOk (execSliceAccess i s) := h.performAcc.out
theorem execRelIncrement {i} (h : s.memOk) : OutOk (execRelIncrement i s) := .ite h.performAcc.out h

theorem serve {q} (h : s.memOk) : (s.serve q).memOk := by
  unfold State.serve
  extract_lets v a src s1
  split
  · exact h.sendAck
  · have h1 : s1.memOk := h
    have hp := h1.performLocal (a := a)
    split
    next e => exact hp.of_done e
    next e => exact hp.of_waits e
    · exact h1

theorem execRemoteAccess {q} (h : s.memOk) : OutOk (execRemoteAccess q s) := State.memOk.ite h h.wake.serve

theorem ackDone {a d b} (h : s.memOk) : (s.ackDone a d b).memOk := by
  unfold State.ackDone
  extract_lets r s1 s2 s3
  have h1 : s1.memOk := by
    refine .ite ?_ h
    split
    · exact h.invalidateBound
    · exact h
  have h2 : s2.memOk := by
    unfold s2
    split <;> exact h1
  have h3 : s3.memOk := by
    unfold s3
    split
    · exact h2
    · exact .ite h2 (.ite h2 h2.remoteData)
  exact h3.dropAcc

theorem ackFatal {a} (h : s.memOk) : (s.ackFatal a).memOk := by
  unfold State.ackFatal
  extract_lets r src f s1
  have h1 : s1.memOk := h.dropAcc
  split
  · exact h1.pushStop.kill
  · exact h1.updWarp.takeFault

theorem ackRefused {a i b} (h : s.memOk) : (s.ackRefused a i b).memOk := by
  unfold State.ackRefused
  exact (h.dropAcc.updCmd.foldl fun hu => .ite hu.updCmd hu.failCmd).landed

theorem ack {a k d b} (h : s.memOk) : (s.ack a k d b).memOk := by
  unfold State.ack
  split
  · exact h.ackDone
  · exact h.ackRefused
  · exact h.ackFatal

theorem ownWindow {a} (h : s.memOk) : (s.ownWindow a).memOk := by
  unfold State.ownWindow
  extract_lets q v x old keep
  split
  · exact h.ack
  · refine .ite (.ite h h.readSpan.ack) ?_
    have hp := h.performLocal (a := x)
    split
    next e => exact (hp.of_done e).ack
    next e =>
      have hw := hp.of_waits e
      exact hw
    · exact h

theorem remoteAck {i k d} (h : s.memOk) : (s.remoteAck i k d).memOk := by
  unfold State.remoteAck
  split
  · exact h
  · exact .ite h (.ite h.ownWindow (.ite h.ack (.ite h h.ack)))

theorem execFabricForward {d p} (h : s.memOk) : OutOk (execFabricForward d p s) := State.memOk.ite h h.updDev

end State.memOk

end Sys2Proof.Machine
end

section
/-!
SUPPORT. The dispatcher, the generations and the error log keep the memories canonical.
-/

namespace Sys2Proof.Machine

variable {s t : State} {c : Ctx} {β : Type}

namespace State.memOk

/-! ## The dispatcher -/

theorem host' {f : State → State} (hf : ∀ {u : State}, u.memOk → (f u).memOk) (h : s.memOk) :
    OutOk (s.host' f) :=
  State.memOk.ite (hf h.onLink) h

theorem hostIn {f : State → State} (hf : ∀ {u : State}, u.memOk → (f u).memOk) (h : s.memOk) :
    OutOk (s.hostIn f) :=
  h.host' fun h => hf h.wake

theorem dispatcherMeets {i l} (h : s.memOk) : (s.dispatcherMeets i l).memOk := h.foldl fun h => h.foldl readSpan
theorem popQueue {v q} (h : s.memOk) : (s.popQueue v q).memOk := h
theorem reject {i a k} (h : s.memOk) : (s.reject i a k).memOk := h.completionUpdate

theorem takeEntry {v q} (h : s.memOk) : (s.takeEntry v q).memOk := by
  unfold State.takeEntry
  split
  · exact .ite h.popQueue h
  · extract_lets bytes s1
    have h1 : s1.memOk := .ite h.onLink h
    clear_value bytes s1
    split
    · exact h.pushStop.popQueue
    · have h2 : ∀ {i l}, (s1.dispatcherMeets i l).memOk := h1.dispatcherMeets
      dsimp only
      split
      · exact h2.reject.popQueue
      · exact h2

theorem reread {i} (h : s.memOk) : (s.reread i).memOk := by
  unfold State.reread
  split
  · exact h
  · extract_lets answer s1 s2
    have h1 : s1.memOk := h.dispatcherMeets
    have h2 : s2.memOk := h1.reject.popQueue
    clear_value answer s1 s2
    refine .ite h ?_
    split
    · exact h2
    · exact h1

theorem startCredits {b g} (h : s.memOk) : (s.startCredits b g).memOk := h

theorem startBlock {l i k b} (h : s.memOk) : (s.startBlock l i k b).memOk := by
  unfold State.startBlock
  dsimp only
  split
  · exact h
  · exact h

theorem completeGrid {i} (h : s.memOk) : (s.completeGrid i).memOk := by
  unfold State.completeGrid
  split
  · exact h
  · exact .ite h h.completionUpdate.same

/-! ## Generations -/

theorem updPart {v f} (h : s.memOk) : (s.updPart v f).memOk := h
theorem snapAnswer {d y} (h : s.memOk) : (c.snapAnswer s d y).memOk := h

theorem snapPaired {d n p} (hp : KeepsMemories p) (h : c.s.memOk) : (c.snapPaired d n p).memOk :=
  h.paired fun c h => .ite h (hp c h)

theorem snapReply {q y e} (h : s.memOk) : (s.snapReply q y e).memOk := h

theorem grant {i} (h : s.memOk) : (s.grant i).memOk := by
  unfold State.grant
  split
  · exact h
  · extract_lets vs src s1 g s2
    have h1 : s1.memOk := h.foldl updVf
    refine .ite h (.ite h.snapReply.same h1.updDev.same)

theorem cutDone {i} (h : s.memOk) : (s.cutDone i).memOk := by
  unfold State.cutDone
  split
  · exact h
  split
  · exact h
  · exact .ite h (h.foldl updPart).snapReply.same

theorem claim {i} (h : s.memOk) : (s.claim i).memOk := by
  unfold State.claim
  split
  · exact h
  split
  · exact h
  · extract_lets p gen
    refine .ite h ?_
    split
    next e => exact (h.prepare e).same
    next => exact h

theorem wainStart {v} (h : s.memOk) : (s.wainStart v).memOk := by
  unfold State.wainStart
  extract_lets p
  split
  · exact h
  · exact .ite h h.updPart

theorem granuleRead {f g} (h : s.memOk) : (s.granuleRead f g).memOk := h.foldl fun hu => by
  extract_lets line chan s1
  have h1 : s1.memOk := .ite hu.log.countCorrected hu
  exact .ite hu.readSpan (.ite h1.log h1)

/-- The wain writes the granule into the lower tier. -/
theorem wainDrain {v} (h : s.memOk) : (s.wainDrain v).memOk := by
  unfold State.wainDrain
  extract_lets x
  split
  · exact h
  split
  · exact h
  next f _ _ g _ =>
    extract_lets to' bad src t
    have hr : (s.granuleRead f g).memOk := h.granuleRead
    have ht : t.memOk := ⟨hr.1, hr.2.1, Memory.wf_writeBytes _ _ h.2.2⟩
    exact .ite h ht.updDev.updPart

/-- A restore copies the image of the lower tier over the partition. -/
theorem restore {v} (h : s.memOk) : (s.restore v).memOk := by
  unfold State.restore
  extract_lets x lo n s1 src changed s2 s3 s4 q src'
  have h2 : s2.memOk := ⟨Memory.wf_copyRange _ _ _ h.2.2 h.1, h.2.1, h.2.2⟩
  have h4 : s4.memOk := h2.updDev.updVf
  exact .ite h h4.fresh.same

theorem snapStartEff_keeps {d a b} : KeepsMemories (snapStartEff d a b) := fun _ h =>
  .ite trivial (h.snapPaired fun _ h => h.pushResult.fresh.same)

theorem writeLog (h : s.memOk) : s.writeLog.memOk := by
  unfold State.writeLog
  extract_lets d slots next
  clear_value next
  split
  · exact h
  next r _ _ =>
    refine .ite h ⟨h.1, ?_, h.2.2⟩
    dsimp only
    exact Memory.wf_writeBytes _ _ h.2.1

end State.memOk

end Sys2Proof.Machine
end

section
/-!
SUPPORT. Reliability, scoped registers and the network keep the memories canonical.
-/

namespace Sys2Proof.Machine

variable {s t : State} {c : Ctx} {β : Type}

namespace State.memOk

/-! ## Reliability -/

theorem logConfig {o v} (h : s.memOk) : (s.logConfig o v).memOk := .ite h (.ite h h)
theorem logHeadWrite {v} (h : s.memOk) : (s.logHeadWrite v).memOk := .ite h h
theorem retryLink {d l} (h : s.memOk) : (s.retryLink d l).memOk := .ite h h.updDev.log

theorem retrainLink {d l b} (h : s.memOk) : (s.retrainLink d l b).memOk :=
  .ite h (.ite h.log.updDev (.ite h.log.updDev h.log))

theorem scrubCopies {l} (h : s.memOk) : (s.scrubCopies l).memOk := by
  unfold State.scrubCopies
  exact .ite h h.log.countCorrected.same

theorem glean {k} (h : s.memOk) : (s.glean k).memOk := .ite h h.updDev.readSpan.scrubCopies

theorem scrub {i} (h : s.memOk) : (s.scrub i).memOk := by
  unfold State.scrub
  split
  · exact h
  · exact (ite h h.updDev).same

theorem useBank {k} (h : s.memOk) : (s.useBank k).memOk :=
  .ite h (.ite h.updDev.log.requestReplace h.updDev.log)

theorem takeSpare {k} (h : s.memOk) : (s.takeSpare k).memOk := h.updDev.log

theorem leaveSite {k} (h : s.memOk) : (s.leaveSite k).memOk := by
  unfold State.leaveSite
  extract_lets s1
  have h1 : s1.memOk := h
  exact h1.foldl updCore

theorem startTest {k} (h : s.memOk) : (s.startTest k).memOk :=
  .ite h (.ite h.updDev h.leaveSite.takeSpare.updDev)

theorem endTest {d b} (h : s.memOk) : (s.endTest d b).memOk := by
  unfold State.endTest
  split
  · exact h
  · exact .ite (h.updDev.foldl updCore).updDev.log h.updDev.updDev.log.requestReplace

theorem back {r} (h : s.memOk) : (s.back r).memOk := h
theorem yielded {k i} (h : s.memOk) : (s.yielded k i).memOk := h
theorem endPreempt {k} (h : s.memOk) : (s.endPreempt k).memOk := updCore (.ite h.updDev h)

theorem start {i u} (h : s.memOk) : (s.start i u).memOk := by
  unfold State.start
  split
  · exact h
  · extract_lets is new src s1 s2 s3 left
    have h1 : s1.memOk := .ite h h
    have h2 : s2.memOk := h1.foldl fun hu => by
      split
      · exact hu
      · exact .ite hu.startBlock.startBlock hu.startBlock
    have h3 : s3.memOk := h2.foldl endPreempt
    exact .ite h h3.same

/-! ## Scoped registers and the network -/

theorem writePred {r p vs} (h : s.memOk) : (s.writePred r p vs).memOk := h

theorem setRounds {b d f} (h : s.memOk) : (s.setRounds b d f).memOk := by
  unfold State.setRounds
  split <;> exact h

theorem writeRound {b d x} (h : s.memOk) : (s.writeRound b d x).memOk := by
  unfold State.writeRound
  dsimp only
  split <;> exact h

theorem shareRound {b x} (h : s.memOk) : (s.shareRound b x).memOk := by
  unfold State.shareRound
  split
  · exact h
  · exact h.shareTags

theorem endRound {b d l x} (h : s.memOk) : (s.endRound b d l x).memOk := by
  unfold State.endRound
  extract_lets s1
  have h1 : s1.memOk := h.shareRound.setRounds
  split
  · exact .ite h (kill (h1.foldl fun hu => hu.updWarp.noteFault))
  split
  next v fl _ =>
    extract_lets s2
    have h2 : s2.memOk := by
      unfold s2
      split
      · exact h1.writeRound
      · exact h1
    exact (h2.foldl updWarp).progress

theorem contribute {d n x f} (h : c.s.memOk) : (c.contribute d n x f).memOk := by
  unfold Ctx.contribute
  exact .ite h h.pushResult.setRounds

theorem send {ws n} (h : c.s.memOk) : (c.send ws n).memOk := by
  unfold Ctx.send
  split
  · exact h
  · exact .ite h (State.memOk.ite h h)

theorem freeSlot {b g n e} (h : s.memOk) : (s.freeSlot b g n e).memOk := .ite h h

theorem recv {d b n k} (h : c.s.memOk) : (c.recv d b n k).memOk := by
  unfold Ctx.recv
  split
  · exact h
  · extract_lets base lanes at' read bad s1 s2 src x s3
    have h2 : s2.memOk := .ite h.readSoft h.readSoft.log
    have h3 : s3.memOk := .ite h2 h2.pushResult
    exact .ite h h3.freeSlot

theorem endMessage {m} (h : s.memOk) : (s.endMessage m).memOk := .ite h h

theorem landMessage {i} (h : s.memOk) : (s.landMessage i).memOk := by
  unfold State.landMessage
  split
  · exact h
  · refine .ite h ?_
    split
    · exact h.endMessage
    split
    next g _ _ b _ =>
      extract_lets s1
      have h1 : s1.memOk := by
        unfold s1
        cases s.block? _ with
        | none => exact h
        | some x => exact h.shareTags
      exact h1.updBlock.endMessage
    · exact .ite (.ite h.endMessage h.endMessage) h

theorem returnCredit {i} (h : s.memOk) : (s.returnCredit i).memOk := by
  unfold State.returnCredit
  split
  · exact h
  · dsimp only
    split <;> exact h

theorem treeError {g m n} (h : s.memOk) : (s.treeError g m n).memOk := by
  unfold State.treeError
  refine kill (h.foldl fun hu => ?_)
  dsimp only
  split
  · exact hu.updWarp.noteFault
  · exact hu.pushStop
  · exact hu

theorem treeForward {g d x} (h : s.memOk) : (s.treeForward g d x).memOk := by
  unfold State.treeForward
  exact .ite h.treeError (.ite h h)

theorem nred {d xs m n} (h : c.s.memOk) : (c.nred d xs m n).memOk := by
  unfold Ctx.nred
  split
  · exact h
  · exact .ite h h

theorem treeInput {i} (h : s.memOk) : (s.treeInput i).memOk := by
  unfold State.treeInput
  split
  · exact h
  · refine .ite h ?_
    extract_lets s1
    have h1 : s1.memOk := h
    clear_value s1
    split
    · exact h1
    split
    · exact h1
    · extract_lets x x' full s2
      have h2 : s2.memOk := h1
      clear_value s2
      refine .ite h1 (.ite h1 ?_)
      split
      · exact h2.treeForward
      · exact h2

theorem treeTimeout {g m n k} (h : s.memOk) : (s.treeTimeout g m n k).memOk := by
  unfold State.treeTimeout
  split
  · exact h
  split
  · exact .ite h h.progress.treeForward
  · exact h

end State.memOk

/-! ## Lane words -/

theorem eff3_keeps {d a b f} : KeepsMemories (eff3 d a b f) := fun c h => by
  unfold eff3
  exact laneEff_keeps c h

theorem eff2_keeps {d a f} : KeepsMemories (eff2 d a f) := fun c h => by
  unfold eff2
  exact laneEff_keeps c h

theorem effBits_keeps {d a b f} : KeepsMemories (effBits d a b f) := fun c h => by
  unfold effBits
  exact laneEff_keeps c h

theorem madEff_keeps {m d a b} : KeepsMemories (madEff m d a b) := fun c h => by
  unfold madEff
  exact laneEff_keeps c h

theorem carryEff_keeps {m d a b} : KeepsMemories (carryEff m d a b) := fun c h => by
  unfold carryEff
  extract_lets e vals
  have hp : (c.put c.s d 1 vals 0).memOk := h.put
  split
  next e => exact (hp.of_done e).writePred
  next => exact hp

theorem shiftEff_keeps {d a b f} : KeepsMemories (shiftEff d a b f) := fun c h => by
  unfold shiftEff
  exact laneEff_keeps c h

theorem countEff_keeps {d a f} : KeepsMemories (countEff d a f) := fun c h => by
  unfold countEff
  exact laneEff_keeps c h

theorem cmpEff_keeps {k p a b} : KeepsMemories (cmpEff k p a b) := fun _ h => h.writePred.updWarp
theorem selEff_keeps {d a b} : KeepsMemories (selEff d a b) := fun c h => by
  unfold selEff
  exact laneEff_keeps c h

theorem raiseEff_keeps {d a n} : KeepsMemories (raiseEff d a n) := fun c h => by
  unfold raiseEff
  extract_lets ty octets mine bad rs vals bad'
  split
  · exact .ite trivial h.put
  · exact .ite trivial (.ite h.put (.ite (.ite h trivial) h.contribute))

theorem voteEff_keeps {d a n} : KeepsMemories (voteEff d a n) := fun _ h => h.put
theorem shfEff_keeps {d a b f} : KeepsMemories (shfEff d a b f) := fun c h => by
  unfold shfEff
  exact laneEff_keeps c h

theorem plogEff_keeps {n p ia pa ib pb} : KeepsMemories (plogEff n p ia pa ib pb) := fun _ h => h.writePred
theorem sendEff_keeps {a b k} : KeepsMemories (sendEff a b k) := fun _ h =>
  .ite (.ite h trivial) (.ite h (h.paired fun _ h => h.send))

theorem recvEff_keeps {d b k} : KeepsMemories (recvEff d b k) := fun c h => by
  unfold recvEff
  refine .ite (.ite h trivial) ?_
  extract_lets ch asked
  split
  next n s1 e =>
    have h1 : s1.memOk := by
      split at e
      · exact h.snd e
      · exact h.updBlock.snd e
    extract_lets hold
    have hh : ∀ {e : Eff}, e.memOk → (hold e).memOk := fun {e} he => by cases e <;> exact he
    exact hh (State.memOk.paired (c := { c with s := s1 }) (fun _ h => h.recv) h1)

theorem nredEff_keeps {d a m n} : KeepsMemories (nredEff d a m n) := fun _ h =>
  .ite (.ite h trivial) (.ite h (h.paired fun _ h => h.nred))

end Sys2Proof.Machine
end

section
/-!
SUPPORT. Time, fetch, the system words and the scheduler keep the memories canonical.
-/

namespace Sys2Proof.Machine

variable {s t : State} {c : Ctx} {β : Type}

namespace State.memOk

theorem nredTag {g n} (h : s.memOk) : (s.nredTag g n).memOk := by
  unfold State.nredTag
  split
  · exact .ite h.adopt h
  · exact h

theorem treeResult {r} (h : s.memOk) : (s.treeResult r).memOk := by
  unfold State.treeResult
  split
  · exact h
  extract_lets mine
  split
  · exact h
  · exact ((ite h.nredTag h).updGrid.updWarp).progress

/-! ## Time, translation and fetch -/

theorem receive (h : s.memOk) : s.receive.memOk := h

theorem tick (h : s.memOk) : s.tick.memOk := by
  unfold State.tick
  extract_lets s1 s2
  have h2 : s2.memOk := h
  exact receive (.ite h2 h2)

theorem fetchLeaf {k i a} (h : s.memOk) : (s.fetchLeaf k i a).2.2.memOk := h.translate

theorem readCode {k i b} (h : s.memOk) : (s.readCode k i b).memOk := by
  unfold State.readCode
  refine .ite h ?_
  split
  next e => exact h.readSram.snd e
  next e => exact (h.readSram.snd e).updCore

theorem enterBlock {r k i b a l} (h : s.memOk) : (s.enterBlock r k i b a l).memOk := by
  unfold State.enterBlock
  extract_lets words held x s1 s2
  have h1 : s1.memOk := .ite h h.updCore
  have h2 : s2.memOk := .ite h1 h1
  exact h2.updWarp

theorem fetch {r} (h : s.memOk) : ExceptOk (s.fetch r) := by
  unfold State.fetch
  split
  · exact h
  extract_lets va block ctx hit running s1
  clear_value hit
  refine .ite h (.ite ?_ (.ite h.takeFault ?_))
  · split
    · exact h.readCode
    · exact h.readCode.aheadStop
  split
  next t leaf s2 e =>
    have h2 : s2.memOk := h.fetchLeaf.snd (congrArg Prod.snd e)
    extract_lets post s3
    have hp : ∀ {b}, (post b).memOk := fun {b} => by
      refine .ite h2 ?_
      split
      next e => exact (h2.addSheaf.fst e).updWarp
    split
    · exact hp
    · exact hp
    · exact h2.takeFault
    · exact h2.takeFault
    · exact h2.takeFault
    · exact h2.takeFault
    · exact h2.takeFault
    next pa =>
      have h3 : s3.memOk := h2.readCode
      exact .ite trivial (.ite h3.enterBlock
        (.ite h3.exchangeTags.readSpan.log.takeFault h3.exchangeTags.correctSpan.enterBlock))

theorem execInstructionFetch {r} (h : s.memOk) : OutOk (execInstructionFetch r s) := by
  have hf := h.fetch (r := r)
  unfold Machine.execInstructionFetch
  generalize s.fetch r = p at hf
  cases p with
  | ok t => exact hf
  | error a => trivial

theorem rewind {k} (h : s.memOk) : (s.rewind k).memOk := by
  unfold State.rewind
  split
  · exact h
  · exact (h.foldl dropAcc).updCore.updWarp

theorem postSheaf {k} (h : s.memOk) : (s.postSheaf k).memOk := by
  unfold State.postSheaf
  split
  · exact h
  · exact h.coreWrite.updCtx.updCluster

/-! ## Saved records -/

theorem saveRecord {r} (h : s.memOk) : (s.saveRecord r).memOk := by
  unfold State.saveRecord
  split
  · exact h
  split
  · exact h
  · exact h.coreWrite.updWarp

theorem refresh {r} (h : s.memOk) : (s.refresh r).memOk := by
  unfold State.refresh
  split
  · exact h
  split
  · exact h
  · exact h.coreWrite.coreWrite.updWarp

theorem readRecord {r} (h : s.memOk) : (s.readRecord r).memOk := by
  unfold State.readRecord
  split
  · exact h
  split
  · exact h
  · exact h.exchangeSpan.readSpan.updWarp

/-! ## System words and the events behind them -/

theorem shootdown {q} (h : s.memOk) : (s.shootdown q).memOk := h
theorem refetchCode {q} (h : s.memOk) : (s.refetchCode q).memOk := h
theorem purge {q} (h : s.memOk) : (s.purge q).memOk := h

theorem endTlbi {i} (h : s.memOk) : (s.endTlbi i).memOk := by
  unfold State.endTlbi
  split
  · exact h
  · extract_lets s1 s2
    have h1 : s1.memOk := .ite h h.shootdown
    have h2 : s2.memOk := .ite h1.refetchCode h1
    exact .ite h (.ite h.purge (.ite h h2.same))

theorem updSheafAt {p f} (h : s.memOk) : (s.updSheafAt p f).memOk := h
theorem sheafRetry {i j} (h : s.memOk) : (s.sheafRetry i j).memOk := h

theorem sheafFail {i j} (h : s.memOk) : (s.sheafFail i j).memOk := by
  unfold State.sheafFail
  extract_lets running s1 s2 held s3
  have h1 : s1.memOk := h.foldl rewind
  have h2 : s2.memOk := h1.foldl failCmd
  have h3 : s3.memOk := h2.foldl noteFault
  exact .ite h3 h3.kill

theorem dropSheaf {x} (h : s.memOk) : (s.dropSheaf x).memOk := h

theorem moveSlice {i k n} (h : s.memOk) : (s.moveSlice i k n).memOk := by
  unfold State.moveSlice
  split
  · exact h
  · exact h.updCore

theorem thaw {i} (h : s.memOk) : (s.thaw i).memOk := by
  unfold State.thaw
  split
  · exact h
  · exact (h.foldl moveSlice).updCtx

theorem endHalt {i} (h : s.memOk) : (s.endHalt i).memOk := .ite h h.thaw

/-! ## The scheduler -/

theorem noteReady {x} (h : s.memOk) : (s.noteReady x).memOk := by
  unfold State.noteReady
  exact .ite h (.ite h (.ite h h))

theorem window {k p} (h : s.memOk) : (s.window k p).memOk := by
  unfold State.window
  extract_lets picked packed s1 next wraps last t
  have h1 : s1.memOk := h.foldl noteReady
  have ht : t.memOk := h1
  exact .ite ht.tick ht

theorem syncRegs {q l} (h : s.memOk) : (s.syncRegs q l).memOk := by
  unfold State.syncRegs
  split <;> exact h

theorem endBarrier {q} (h : s.memOk) : (s.endBarrier q).memOk := by
  unfold State.endBarrier
  split
  · exact h
  · extract_lets scope here cores s1 s2
    have h1 : s1.memOk := h.syncRegs
    have h2 : s2.memOk := by
      unfold s2
      clear_value here
      split
      · split
        · exact h1.shareTags
        · exact h1
      · exact h1
    exact .ite h (h2.foldl fun hu => .ite hu hu)

theorem writeStop {i} (h : s.memOk) : (s.writeStop i).memOk := by
  unfold State.writeStop
  split
  · exact h
  split
  · exact h
  · extract_lets id pa bytes s1 s2
    have h1 : s1.memOk := .ite h.coreWrite h.partWrite
    exact .ite h h1.updCtx.onLink.updDev

theorem consume {i v} (h : s.memOk) : (s.consume i v).memOk := h

theorem watchdog {i} (h : s.memOk) : (s.watchdog i).memOk := by
  unfold State.watchdog
  split
  · exact h
  · exact .ite h h

theorem overrun {r} (h : s.memOk) : (s.overrun r).memOk := by
  unfold State.overrun
  split
  · exact h
  split
  · exact h
  · extract_lets s1
    have h1 : s1.memOk := .ite h.rewind h
    refine .ite h ?_
    split
    · exact h1.takeFault
    · exact h1

theorem sliceEnd {k i} (h : s.memOk) : (s.sliceEnd k i).memOk := by
  unfold State.sliceEnd
  extract_lets halted guarded s1
  have h1 : s1.memOk := h
  clear_value s1 halted
  split
  · exact h
  · refine .ite h ?_
    split
    · exact h1
    · exact h1

theorem evict {r k} (h : s.memOk) : (s.evict r k).memOk := by
  unfold State.evict
  extract_lets s1
  have h1 : s1.memOk := .ite h.rewind h
  clear_value s1
  split
  · exact h1
  · exact .ite h1.fresh.updWarp.saveRecord h1.fresh.updWarp.saveRecord.saveToArea

theorem spill {b ks} (h : s.memOk) : (s.spill b ks).memOk :=
  .ite h.saveToArea.updBlock.updCore h.saveToArea.updBlock

theorem preempt {k b} (h : s.memOk) : (s.preempt k b).memOk := by
  unfold State.preempt
  split
  · exact .ite h.endPreempt h
  split
  · split
    · exact h.spill
    · exact h
  · split
    · exact h.updCore
    · exact h.evict.updCore

theorem failAll {r k} (h : s.memOk) : (s.failAll r k).memOk := h.foldl failCmd

theorem readSpilled {b} (h : s.memOk) : (s.readSpilled b).memOk := by
  unfold State.readSpilled
  split
  · exact .ite h h.exchangeSpan
  · exact h

theorem restoreWarp {r} (h : s.memOk) : (s.restoreWarp r).memOk := by
  unfold State.restoreWarp
  split
  · exact h
  · extract_lets back handler t
    have ht : t.memOk := h.readSpilled.back.endPreempt.readRecord
    exact .ite h (.ite ht (.ite ht.failAll ht.failAll.takeFault))

theorem halt {i} (h : s.memOk) : (s.halt i).memOk := by
  unfold State.halt
  extract_lets mine running s1 s2
  have h1 : s1.memOk := h.foldl rewind
  have h2 : s2.memOk := h1
  exact .ite h h2.updCtx

theorem endKill {i} (h : s.memOk) : (s.endKill i).memOk := by
  unfold State.endKill
  split
  · exact h
  split
  · exact .ite h.finishKill h
  · exact h

end State.memOk

theorem tlbiEff_keeps {d a} : KeepsMemories (tlbiEff d a) := fun _ h => .ite trivial h
theorem fhgetEff_keeps {d b} : KeepsMemories (fhgetEff d b) := fun c h => by
  unfold fhgetEff
  extract_lets k
  split
  · exact .ite h h.put
  split
  next bad s1 e =>
    have h1 : s1.memOk := h.peekSram.snd e
    extract_lets s2 eff
    have he : eff.memOk := State.memOk.put h1.shiftSram.updCluster.updSheafAt.updWarp
    clear_value eff
    split
    next => exact State.memOk.ite (State.memOk.addMarks he) he
    next => exact he

theorem fhdoneEff_keeps {d a} : KeepsMemories (fhdoneEff d a) := fun c h => by
  unfold fhdoneEff
  extract_lets out
  split
  · trivial
  · extract_lets s1 s2
    have h1 : s1.memOk := .ite h (.ite h h)
    have h2 : s2.memOk := h1
    exact .ite trivial (.ite h (State.memOk.ite h2 h2.sheafFail))

theorem rttEff_keeps {a} : KeepsMemories (rttEff a) := fun c h => by
  unfold rttEff
  extract_lets x
  split
  · trivial
  · exact State.memOk.progress h.updWarp.refresh.endHalt

theorem swrEff_keeps {d a} : KeepsMemories (swrEff d a) := fun c h => by
  unfold swrEff
  extract_lets x kind idx
  split
  · trivial
  · exact .ite trivial h.updWarp.refresh

end Sys2Proof.Machine
end

section
/-!
SUPPORT. The host, the arrays, redundant windows, power and bring-up keep the memories canonical.
-/

namespace Sys2Proof.Machine

variable {s t : State} {c : Ctx} {β : Type}

namespace State.memOk

/-! ## The host -/

theorem hostWrite {v a bs} (h : s.memOk) : (s.hostWrite v a bs).memOk := by
  unfold State.hostWrite
  split
  · exact h.partWrite
  · exact h.foldl fun hu => hu.fresh.same

theorem resetPoint {v} (h : s.memOk) : (s.resetPoint v).memOk := h.updVf.foldl kill
theorem resetRest {v} (h : s.memOk) : (s.resetRest v).memOk := h

theorem resetVf {v} (h : s.memOk) : (s.resetVf v).memOk := by
  unfold State.resetVf
  extract_lets s1
  have h1 : s1.memOk := .ite h h.resetPoint
  exact .ite h (.ite h1.resetRest h1)

theorem ignoreWrite {o} (h : s.memOk) : (s.ignoreWrite o).memOk := h

theorem recordWrite {v o x} (h : s.memOk) : (s.recordWrite v o x).memOk := by
  unfold State.recordWrite
  refine .ite h ?_
  split
  · exact h.ignoreWrite
  · exact .ite h.updVf.resetVf h.updVf

theorem forget {i} (h : s.memOk) : (s.forget i).memOk := h
theorem setTable {v n x} (h : s.memOk) : (s.setTable v n x).memOk := h

theorem createCtx {v n x} (h : s.memOk) : (s.createCtx v n x).memOk := by
  unfold State.createCtx
  extract_lets id f a words refused s1
  have h1 : s1.memOk := h.readSpan
  refine .ite h (.ite h ?_)
  split
  · exact h1
  · exact h1.forget.setTable.same

theorem destroyCtx {v n x} (h : s.memOk) : (s.destroyCtx v n x).memOk := .ite h (.ite h.kill h.setTable)

theorem queueConfig {v q x} (h : s.memOk) : (s.queueConfig v q x).memOk :=
  .ite h (.ite h.ignoreWrite (.ite h.updVf h.updVf))

theorem doorbell {v q x} (h : s.memOk) : (s.doorbell v q x).memOk := .ite h h.updVf

theorem vfWrite {v o x} (h : s.memOk) : (s.vfWrite v o x).memOk := by
  unfold State.vfWrite
  extract_lets q
  refine .ite h (.ite (.ite h.createCtx h.destroyCtx) (.ite ?_ (.ite h.consume h)))
  split
  · exact .ite h (.ite h.updVf h.ignoreWrite)
  · exact h.queueConfig
  · exact h.doorbell
  · exact h

theorem perform {v x} (h : s.memOk) : (s.perform v x).memOk := by
  cases x with
  | mem pa bytes => exact h.hostWrite
  | reg off w => exact h.vfWrite

theorem runPosted {v l} (h : s.memOk) : (s.runPosted v l).memOk := by
  induction l generalizing s with
  | nil => exact h
  | cons x xs ih => exact .ite h (ih h.perform)

theorem post {v x} (h : s.memOk) : (s.post v x).memOk := .ite h h.runPosted
theorem dispatchEntry {v q} (h : s.memOk) : (s.dispatchEntry v q).memOk := h.runPosted.takeEntry

theorem hostDevice {v o n b x} (h : s.memOk) : (s.hostDevice v o n b x).memOk := by
  unfold State.hostDevice
  split
  next base size _ =>
    extract_lets pa s1
    have h1 : s1.memOk := h.wake
    exact .ite h1 (.ite (.ite h1.hostWrite h1.post) (.ite h1 h1.readSpan.updDev))

theorem hostOwn {o n b x} (h : s.memOk) : (s.hostOwn o n b x).memOk :=
  .ite ⟨h.1, Memory.wf_writeLE _ _ _ h.2.1, h.2.2⟩ h.updDev

theorem hostAccess {v o n b x} (h : s.memOk) : (s.hostAccess v o n b x).memOk :=
  .ite h (.ite h.hostOwn h.hostDevice)

theorem attest {q n} (h : s.memOk) : (s.attest q n).memOk := .ite h.wake.updDev h

theorem resumeAll (h : s.memOk) : s.resumeAll.memOk := by
  unfold State.resumeAll
  extract_lets free s1 s2
  have h1 : s1.memOk := h
  have h2 : s2.memOk := h1.foldl thaw
  exact h2.same

theorem rouseCtx {i} (h : s.memOk) : (s.rouseCtx i).memOk := h
theorem wakeAll (h : s.memOk) : s.wakeAll.memOk := h

theorem debugState {b} (h : s.memOk) : (s.debugState b).memOk :=
  .ite h (.ite h.wakeAll.updDev h.wakeAll.resumeAll.updDev)

/-- An unlock erases the partitions' memory. -/
theorem erase (h : s.memOk) : s.erase.memOk := by
  unfold State.erase
  extract_lets s1 kept t
  have h1 : s1.memOk := h.foldl sendAck
  have ht : t.memOk := ⟨Memory.wf_filter _ h1.1, h1.2⟩
  exact ht.updDev

theorem unlock {k} (h : s.memOk) : (s.unlock k).memOk := by
  unfold State.unlock
  extract_lets verified s1 s2
  have h2 : s2.memOk := h.wakeAll.updDev.foldl kill
  exact .ite h (.ite h2.erase.updDev h2)

theorem pfWrite {o x} (h : s.memOk) : (s.pfWrite o x).memOk := by
  unfold State.pfWrite
  exact .ite h.updDev (.ite h.logConfig (.ite h.logHeadWrite (.ite h.updDev (.ite h.updDev
    (.ite h.recordWrite (.ite h.updPart (.ite h.updDev h)))))))

theorem compWrite {i o x} (h : s.memOk) : (s.compWrite i o x).memOk := .ite h (.ite h.rouseCtx h)

theorem execRegisterWrite {w o x} (h : s.memOk) : OutOk (execRegisterWrite w o x s) := by
  cases w with
  | pf => exact h.hostIn pfWrite
  | vf v => exact h.hostIn post
  | comparator i => exact h.host' compWrite
  | management => exact h.hostIn updDev

/-! ## The arrays -/

theorem enqueue {i w} (h : s.memOk) : (c.enqueue s i w).memOk := h

theorem arrayDone {k q f} (h : s.memOk) : (s.arrayDone k q f).memOk := by
  have hs : (s.shiftSram .queue k).memOk := h.shiftSram
  unfold State.arrayDone
  dsimp only
  split
  · exact hs
  · exact hs

theorem octetStep {k} (h : s.memOk) : (s.octetStep k).memOk := by
  unfold State.octetStep
  split
  · exact h
  split
  · split
    next bad s1 e1 =>
      have h1 : s1.memOk := (ite_snd h h.readPlaces).snd e1
      split
      next upset s2 e2 =>
        have h2 : s2.memOk := h1.peekSram.snd e2
        extract_lets bad'
        split
        next t fl _ =>
          extract_lets t' s3 flags s4
          have h4 : s4.memOk := h2
          exact .ite h4.arrayDone h4
  · exact h.arrayDone
  · exact h

theorem hold {x} (h : s.memOk) : (c.hold s x).memOk := by
  unfold Ctx.hold
  refine updCore ?_
  split
  · refine .ite h ?_
    split
    · exact h.saveToArea
    · exact h
  · exact h

theorem splineWord {f o g} (h : c.s.memOk) : (c.splineWord f o g).memOk := by
  unfold Ctx.splineWord
  split
  · exact h
  split
  · trivial
  · exact .ite h (h.fresh.pushOp.hold (c := c)).enqueue

theorem giveResult {r i v} (h : s.memOk) : (s.giveResult r i v).memOk := h

theorem splineStep {k} (h : s.memOk) : (s.splineStep k).memOk := by
  unfold State.splineStep
  extract_lets k'
  split
  · split
    · refine .ite h ?_
      split
      next bad s1 e1 =>
        have h1 : s1.memOk := (ite_snd h h.readPlaces).snd e1
        split
        next upset s2 e2 =>
          have h2 : s2.memOk := h1.peekSram.snd e2
          split
          next lost s3 e3 =>
            have h3 : s3.memOk := h2.readSram.snd e3
            extract_lets s4 x bad'
            have h4 : s4.memOk := h3.writeSram
            split
            next y t fl v _ =>
              extract_lets t' s5 s6
              have h5 : s5.memOk := h4.updBlock.updCore
              have h6 : s6.memOk := h5.arrayDone
              split
              · exact h6.giveResult
              · exact h6
    · exact h
  · exact h

/-! ## The redundant pair's windows -/

theorem cachePair {e a bs l} (h : s.memOk) : (s.cachePair e a bs l).memOk :=
  h.foldl fun hu => .ite hu.invalidate hu.updCore

theorem dropWrite {i} (h : s.memOk) : (s.dropWrite i).memOk := by
  cases i with
  | none => exact h
  | some k => exact h.updCmd

theorem sendEntry {b i e a} (h : s.memOk) : (s.sendEntry b i e a).memOk := h

theorem performEntry {b d i e w} (h : s.memOk) : (s.performEntry b d i e w).memOk := by
  unfold State.performEntry
  extract_lets a s1 src
  have h1 : s1.memOk := h.dropWrite.dropWrite
  refine .ite h (.ite h.dropWrite.invalidate ?_)
  split
  · exact .ite h h.sendEntry
  · extract_lets bytes
    refine .ite ?_ (.ite trivial ?_)
    · exact State.memOk.updDev ⟨h1.1, h1.2.1, Memory.wf_writeBytes _ _ h.2.2⟩
    split
    · exact h.sendEntry
    next t ht =>
      split at ht
      · cases ht
      have hm : t.memOk := State.memOk_modifyLine h1 ht
      exact cachePair (exchangeTags (.ite hm.keepBad hm))

theorem performWindow {b d i k n} (h : s.memOk) : (s.performWindow b d i k n).memOk := by
  induction n generalizing s with
  | zero => exact h
  | succ n ih =>
    unfold State.performWindow
    extract_lets first pop
    split
    · exact h
    next e _ =>
      have he := h.performEntry (b := b) (d := d) (i := i) (e := e) (w := (first d).bind StreamEntry.cmd)
      split
      next e => exact he.of_waits e
      · trivial
      next e =>
        extract_lets s1
        have h1 : s1.memOk := (he.of_done e).foldl dropAcc
        exact ih h1.updWarp.updWarp

theorem windowMatch {r k} (h : s.memOk) : (s.windowMatch r k).memOk := by
  unfold State.windowMatch
  split
  · exact h
  split
  · extract_lets cut miss stand
    have hm : ∀ {x}, (miss x).memOk := h.rollback
    split
    · exact .ite h.performWindow (.ite h.updWarp.updWarp.performWindow hm)
    · exact .ite hm h
    · exact .ite hm h
    · exact h
  · exact h

theorem execWindowMatch {r k} (h : s.memOk) : OutOk (execWindowMatch r k s) := by
  have hw := h.windowMatch (r := r) (k := k)
  unfold Machine.execWindowMatch
  generalize s.windowMatch r k = p at hw
  cases p with
  | done t => exact hw
  | waits t => exact hw
  | noMemory a => trivial

theorem pairPerformed {r} (h : s.memOk) : (s.pairPerformed r).memOk := by
  unfold State.pairPerformed
  split
  · exact h
  split
  · split
    · exact .ite h (.ite h.rollback h.updWarp.updWarp)
    · exact h
  · exact h

/-! ## Power and bring-up -/

theorem enterIdle {u} (h : s.memOk) : (s.enterIdle u).memOk := by
  cases u with
  | cluster k => exact .ite h h.updDev
  | device => exact .ite h h.updDev

/-- A part reset keeps host and lower-tier memory, and device memory unless it is a power-on. -/
theorem partReset {b} (h : s.memOk) : (s.partReset b).memOk := by
  unfold State.partReset
  extract_lets src t
  have ht : t.memOk :=
    ⟨iteInduction (motive := fun m => Memory.wf m = true) (fun _ => Memory.wf_nil) fun _ => h.1, h.2⟩
  exact .ite ht.requestReplace ht

theorem thermalStop {x} (h : s.memOk) : (s.thermalStop x).memOk := .ite h h.partReset.updDev

theorem retireCluster {k} (h : s.memOk) : (s.retireCluster k).memOk :=
  requestReplace (.ite h.updDev h.takeSpare.updDev)

theorem retireSite {k} (h : s.memOk) : (s.retireSite k).memOk := by
  unfold State.retireSite
  extract_lets d
  split
  · exact h.retireCluster
  split
  · exact h.updDev.requestReplace
  · exact h

/-- Step 5 of a power-on bring-up clears device memory. -/
theorem booted (h : s.memOk) : s.booted.memOk := by
  unfold State.booted
  split
  · exact h.updDev
  · exact updDev (.ite ⟨Memory.wf_nil, h.2⟩ h)
  · exact h.updDev
  · exact h.updDev

theorem bootStep {r} (h : s.memOk) : (s.bootStep r).memOk := by
  unfold State.bootStep
  refine .ite h ?_
  cases r with
  | ok => exact .ite h.updDev h.booted
  | failed => exact h.updDev
  | siteFailed k => exact .ite h.retireSite h

end State.memOk

/-! ## Floating-point, matrix and spline words -/

theorem cvtEff_keeps {d a n} : KeepsMemories (cvtEff d a n) := fun c h => by
  unfold cvtEff
  exact laneEff_keeps c h

theorem packEff_keeps {d a b} : KeepsMemories (packEff d a b) := fun c h => by
  unfold packEff
  exact laneEff_keeps c h

theorem unpkEff_keeps {d a b} : KeepsMemories (unpkEff d a b) := fun c h => by
  unfold unpkEff
  exact .ite trivial (laneEff_keeps c h)

theorem funEff_keeps {d a f} : KeepsMemories (funEff d a f) := fun c h => by
  unfold funEff
  exact lateEff_keeps c h

theorem complexEff_keeps {k d a b} : KeepsMemories (complexEff k d a b) := fun c h => by
  unfold complexEff
  exact laneEff_keeps c h

theorem matrixEff_keeps {n l d a b} : KeepsMemories (matrixEff n l d a b) := fun c h => by
  unfold matrixEff
  extract_lets ops bad
  clear_value bad
  split
  · trivial
  · exact .ite h (h.fresh.pushOp.enqueue (c := c))

theorem ksetEff_keeps {a k} : KeepsMemories (ksetEff a k) := fun _ h => h.splineWord
theorem kgetEff_keeps {d b e k} : KeepsMemories (kgetEff d b e k) := fun c h => by
  unfold kgetEff
  split
  · exact h
  · exact .ite h (h.pushResult.hold (c := c)).enqueue

theorem cellsEff_keeps {b a n r} : KeepsMemories (cellsEff b a n r) := fun _ h => h.splineWord
theorem samplesEff_keeps {d a p g n o} : KeepsMemories (samplesEff d a p g n o) := fun _ h => h.splineWord

theorem grefEff_keeps {k} : KeepsMemories (grefEff k) := fun _ h => h.splineWord

end Sys2Proof.Machine
end

section
/-!
SUPPORT. Every instruction of the table, and so every step, keeps the memories canonical.
-/

namespace Sys2Proof.Machine

variable {s t : State} {c : Ctx} {β : Type}

namespace State.memOk

/-! ## Every instruction -/

theorem next (h : t.memOk) : OutOk (.next t) := h

/-- A word whose meaning keeps the memories canonical keeps them so when it is issued. -/
theorem word {mk body} (hb : KeepsMemories body) (h : s.memOk) : OutOk (.next (Machine.runWord s mk body)) :=
  h.runWord hb

theorem execRoundComplete {q} (h : s.memOk) : OutOk (execRoundComplete q s) := by
  refine next ?_
  split
  · exact h
  split
  · exact h
  · exact .ite h.endRound h

theorem execRegisterCopyUpdate {g u k} (h : s.memOk) : OutOk (execRegisterCopyUpdate g u k s) := by
  refine next ?_
  split
  · exact h
  · extract_lets trails s1 writers
    have h1 : s1.memOk := h.foldl updGrid
    exact .ite h1 h1.shareTags

theorem execPromotion {r} (h : s.memOk) : OutOk (execPromotion r s) := by
  refine next ?_
  split
  · exact h
  · exact .ite h.updWarp h

theorem execRunAheadRollback {k} (h : s.memOk) : OutOk (execRunAheadRollback k s) := by
  refine next ?_
  split
  · exact .ite h.rewind h
  · exact h

theorem execIdleExit {u} (h : s.memOk) : OutOk (execIdleExit u s) := by
  cases u with
  | cluster k => exact h.updDev
  | device => exact h.wake

theorem execStopQueueConsumed {ctx v} (h : s.memOk) : OutOk (execStopQueueConsumed ctx v s) := h.hostIn post
theorem execDebugHalt {ctx} (h : s.memOk) : OutOk (execDebugHalt ctx s) := h.host' fun h => .ite h.rouseCtx.halt h
theorem execGenerationRestore {vf} (h : s.memOk) : OutOk (execGenerationRestore vf s) := h.hostIn restore

theorem execPartitionControlWrite {vf off v} (h : s.memOk) : OutOk (execPartitionControlWrite vf off v s) :=
  h.hostIn fun h => .ite h.updPart h

theorem execErrorLogConfigWrite {off v} (h : s.memOk) : OutOk (execErrorLogConfigWrite off v s) :=
  h.hostIn logConfig

theorem execErrorLogHeadWrite {v} (h : s.memOk) : OutOk (execErrorLogHeadWrite v s) := h.hostIn logHeadWrite

theorem execFrozenImageReleaseRequest {vf} (h : s.memOk) : OutOk (execFrozenImageReleaseRequest vf s) :=
  h.hostIn updPart

theorem execHostMemoryAccess {vf off size write v} (h : s.memOk) :
    OutOk (execHostMemoryAccess vf off size write v s) :=
  h.host' hostAccess

theorem execFunctionRecordWrite {vf off v} (h : s.memOk) : OutOk (execFunctionRecordWrite vf off v s) :=
  h.hostIn recordWrite

theorem execFunctionReset {vf} (h : s.memOk) : OutOk (execFunctionReset vf s) :=
  .ite (next (.ite h.resetVf h)) (h.hostIn resetVf)

theorem execFunctionLevelReset {vf} (h : s.memOk) : OutOk (execFunctionLevelReset vf s) := h.hostIn resetVf

theorem execContextCreate {vf n v} (h : s.memOk) : OutOk (execContextCreate vf n v s) :=
  h.hostIn fun h => .ite h.post h

theorem execContextDestroy {vf n v} (h : s.memOk) : OutOk (execContextDestroy vf n v s) :=
  h.hostIn fun h => .ite h.post h

theorem execQueueConfigWrite {vf q v} (h : s.memOk) : OutOk (execQueueConfigWrite vf q v s) :=
  h.hostIn fun h => .ite h.post h

theorem execQueueDoorbell {vf q v} (h : s.memOk) : OutOk (execQueueDoorbell vf q v s) :=
  h.hostIn fun h => .ite h.post h

theorem execAttestationRequest {requester nonce} (h : s.memOk) : OutOk (execAttestationRequest requester nonce s) :=
  h.hostIn attest

theorem execDebugStateWrite {tenant} (h : s.memOk) : OutOk (execDebugStateWrite tenant s) := h.host' debugState

theorem execDebugUnlock {token} (h : s.memOk) : OutOk (execDebugUnlock token s) :=
  .ite (next (.ite h.unlock h)) (h.hostIn unlock)

theorem execPowerControlWrite {v} (h : s.memOk) : OutOk (execPowerControlWrite v s) := h.hostIn pfWrite

/-- Every instruction of the table keeps the memories canonical. -/
theorem exec {i : Instr} (h : s.memOk) : OutOk (exec i s) := by
  cases i
  -- control
  case nop | illegalWord | setmode => exact h.word fun _ h => h
  case trap | bkpt => exact h.word fun _ _ => trivial
  case bra => exact h.word braEff_keeps
  case brc => exact h.word brcEff_keeps
  case mark => exact h.word markEff_keeps
  case join => exact h.word joinEff_keeps
  case call => exact h.word callEff_keeps
  case ret => exact h.word retEff_keeps
  case loop => exact h.word loopEff_keeps
  case exit => exact h.word exitEff_keeps
  case yield => exact h.word yieldEff_keeps
  case waitc => exact h.word waitcEff_keeps
  case fuse => exact h.word fuseEff_keeps
  case split => exact h.word splitEff_keeps
  case bar => exact h.word barEff_keeps
  case launch => exact h.word launchEff_keeps
  case idem => exact h.word idemEff_keeps
  case chkpt => exact h.word chkptEff_keeps
  case pdis => exact h.word pdisEff_keeps
  case pen => exact h.word penEff_keeps
  -- lanes
  case add | sub | mul | mulh | min | max => exact h.word eff3_keeps
  case abs | neg | frint => exact h.word eff2_keeps
  case and | or | xor | not | brev | mov => exact h.word effBits_keeps
  case mad | msb => exact h.word madEff_keeps
  case shl | shr | sar => exact h.word shiftEff_keeps
  case addc | subb => exact h.word carryEff_keeps
  case popc | clz => exact h.word countEff_keeps
  case bfx | bfi | fclass | fscale => exact h.word fun c h => laneEff_keeps c h
  case movi | movh | rnd | dot4 => exact h.word laneEff_keeps
  case sel => exact h.word selEff_keeps
  case cmp => exact h.word cmpEff_keeps
  case cvt => exact h.word cvtEff_keeps
  case pack => exact h.word packEff_keeps
  case unpk => exact h.word unpkEff_keeps
  case frcp | frsq | fsqrt | fexp2 | flog2 | fsinpi | fcospi => exact h.word funEff_keeps
  case cmul | cfma => exact h.word complexEff_keeps
  case raise => exact h.word raiseEff_keeps
  case vote => exact h.word voteEff_keeps
  case shfi | shfx | shfu | shfd => exact h.word shfEff_keeps
  case plog => exact h.word plogEff_keeps
  -- memory
  case ld => exact h.word fun c h => loadEff_keeps c h
  case st => exact h.word fun c h => storeEff_keeps c h
  case ldw => exact h.word loadEff_keeps
  case stw => exact h.word storeEff_keeps
  case ldl => exact h.word ldlEff_keeps
  case stl => exact h.word stlEff_keeps
  case taglLookup => exact h.word taglLookupEff_keeps
  case taglRead => exact h.word taglReadEff_keeps
  case tagw => exact h.word tagwEff_keeps
  case aadd | amin | amax | aand | aor | axor | axch | acas => exact h.word atomicEff_keeps
  case bind => exact h.word bindEff_keeps
  case unbind => exact h.word unbindEff_keeps
  case acq => exact h.word acqEff_keeps
  case rel => exact h.word relEff_keeps
  case fence => exact h.word fenceEff_keeps
  case dualst => exact h.word dualstEff_keeps
  case pref => exact h.word prefEff_keeps
  -- copies, buffers and rings
  case lcpIn | lcpOut => exact h.word lcpEff_keeps
  case tcpIn | tcpOut => exact h.word tcpEff_keeps
  case tcpx => exact h.word tcpxEff_keeps
  case res => exact h.word resEff_keeps
  case rls => exact h.word rlsEff_keeps
  case stga => exact h.word stgaEff_keeps
  case stgw => exact h.word stgwEff_keeps
  case acca => exact h.word accaEff_keeps
  case accf => exact h.word accfEff_keeps
  case accr => exact h.word accrEff_keeps
  case accw => exact h.word accwEff_keeps
  -- matrix and spline
  case mma | mmaz | mmad | tmma => exact h.word matrixEff_keeps
  case kset => exact h.word ksetEff_keeps
  case kgetRecord | kgetCount => exact h.word kgetEff_keeps
  case cld | cst => exact h.word cellsEff_keeps
  case spl | spld | splg => exact h.word samplesEff_keeps
  case gref => exact h.word grefEff_keeps
  -- network, snapshots and the system
  case send => exact h.word sendEff_keeps
  case recv => exact h.word recvEff_keeps
  case nred => exact h.word nredEff_keeps
  case snapStart => exact h.word snapStartEff_keeps
  case snapQuery => exact h.word fun _ h => h.snapPaired fun _ h => h.snapAnswer
  case snapRelease => exact h.word fun _ h => .ite trivial (h.snapPaired fun _ h => h.updPart.snapAnswer)
  case tlbi => exact h.word tlbiEff_keeps
  case fhget => exact h.word fhgetEff_keeps
  case fhdone => exact h.word fhdoneEff_keeps
  case swr => exact h.word swrEff_keeps
  case rtt => exact h.word rttEff_keeps
  -- events of the warps
  case issueWindow => exact next h.window
  case promotion => exact h.execPromotion
  case variableLatencyResult => exact next h.deliver.refresh
  case instructionFetch => exact h.execInstructionFetch
  case runAheadRollback => exact h.execRunAheadRollback
  case sheafPost => exact next h.postSheaf
  case tableWalk => exact next (.ite h.leafOf h)
  case tlbiPerformed => exact next h.endTlbi
  case dispatchQueueEntry => exact next h.dispatchEntry
  case dependenceReread => exact next h.reread
  case blockStart => exact next h.start
  case gridCompletion => exact next h.completeGrid
  case sliceAccess => exact h.execSliceAccess
  case relIncrement => exact h.execRelIncrement
  case remoteAccess => exact h.execRemoteAccess
  case remoteAck => exact next h.remoteAck
  case fabricForward => exact h.execFabricForward
  case copyChunk => exact h.execCopyChunk
  case batchComplete => exact next h.completeBatch
  case matrixOctetOperation => exact next h.octetStep
  case splineExecution => exact next h.splineStep
  case roundComplete => exact h.execRoundComplete
  case barrierComplete => exact next h.endBarrier
  case registerCopyUpdate => exact h.execRegisterCopyUpdate
  case messageLanding => exact next h.landMessage
  case creditReturn => exact next h.returnCredit
  case treeInput => exact next h.treeInput
  case treeTimeout => exact next h.treeTimeout
  case treeResult => exact next h.treeResult
  case windowMatch => exact h.execWindowMatch
  case pairPerformed => exact next h.pairPerformed
  -- events of the contexts and the scheduler
  case stopRecord => exact next h.writeStop
  case stopQueueConsumed => exact h.execStopQueueConsumed
  case watchdogExpiry => exact next h.watchdog
  case preemptOverrun => exact next h.overrun
  case timeSliceExpiry => exact next h.sliceEnd
  case preemption => exact next h.preempt
  case warpRestore => exact next h.restoreWarp
  case debugHalt => exact h.execDebugHalt
  case killWriteTimeout => exact next h.endKill
  -- generations and reliability
  case generationGrant => exact next h.grant
  case cutComplete => exact next h.cutDone
  case granaryClaim => exact next h.claim
  case wainStart => exact next h.wainStart
  case wainDrainGranule => exact next h.wainDrain
  case generationRestore => exact h.execGenerationRestore
  case partitionControlWrite => exact h.execPartitionControlWrite
  case errorLogRecord => exact next h.writeLog
  case errorLogConfigWrite => exact h.execErrorLogConfigWrite
  case errorLogHeadWrite => exact h.execErrorLogHeadWrite
  case linkRetry => exact next h.retryLink
  case linkRetrain => exact next h.retrainLink
  case gleanerRead => exact next h.glean
  case scrubWriteback => exact next h.scrub
  case spareBank => exact next h.useBank
  case infieldTest => exact next h.startTest
  case testResult => exact next h.endTest
  case frozenImageReleaseRequest => exact h.execFrozenImageReleaseRequest
  -- the host
  case hostMemoryAccess => exact h.execHostMemoryAccess
  case functionRecordWrite => exact h.execFunctionRecordWrite
  case functionReset => exact h.execFunctionReset
  case functionLevelReset => exact h.execFunctionLevelReset
  case contextCreate => exact h.execContextCreate
  case contextDestroy => exact h.execContextDestroy
  case queueConfigWrite => exact h.execQueueConfigWrite
  case queueDoorbell => exact h.execQueueDoorbell
  case attestationRequest => exact h.execAttestationRequest
  case debugStateWrite => exact h.execDebugStateWrite
  case debugUnlock => exact h.execDebugUnlock
  case registerWrite => exact h.execRegisterWrite
  -- power, boot and the sideband
  case powerControlWrite => exact h.execPowerControlWrite
  case idleEntry => exact next (.ite h.enterIdle h)
  case idleExit => exact h.execIdleExit
  case throttle | throttleRelease | sidebandRead | sidebandWriteCap => exact next h.updDev
  case thermalStop => exact next h.thermalStop
  case partReset | sidebandReset => exact next h.partReset
  case bootStep => exact next h.bootStep
  case bootStepTimeout | sidebandClearThermalStop => exact next (.ite h.updDev h)
  case sidebandWriteTolerance => exact next (.ite h h.updDev)
  case sidebandWake => exact next (.ite h.wake h)
  -- what is left is SEAL, whose constructor no case tag can name: the word is a keyword of Lean
  exact h.word sealEff_keeps

theorem stir {i} (h : s.memOk) : (s.stir i).memOk := by
  unfold State.stir
  split <;> exact h

/-- One step keeps the memories canonical. -/
theorem step (h : s.memOk) : OutOk (step s) := by
  unfold Machine.step
  split
  · exact exec h
  · split
    · exact exec h
    · exact h
  · exact h.stir.exec

end State.memOk

end Sys2Proof.Machine
end

section
/-!
The invariant of every step.
-/

namespace Sys2Proof.Claims

open Sys2Proof.Machine

/-- Settles O60: `exec` keeps the memories canonical, whatever the instruction that `step` picks. -/
theorem everyStepKeepsMemoryCanonical : Obligations.EveryStepKeepsMemoryCanonical := by
  intro s t h e
  have hs : OutOk (step s) := h.step
  rw [e] at hs
  exact hs

end Sys2Proof.Claims
end

section
/-!
SUPPORT. The decoder and the encoder are inverse to each other (R31 to R34, R46 to R49, R51): a word that
decodes is put together again from the fields that the decoder has read.
-/

namespace Sys2Proof

/-! ## Fields put together again -/

/-- A concatenation is `y` where each part is the field of `y` at its place. -/
theorem cat_eq_iff {m n k : Nat} {hi : BitVec m} {lo : BitVec n} {y : BitVec k} (hk : m + n = k) :
    cat k hi lo = y ↔ hi = y.extractLsb' n m ∧ lo = y.extractLsb' 0 n := by
  subst hk
  constructor
  · rintro rfl
    exact ⟨by rw [cat_high (Nat.le_refl n) rfl, Nat.sub_self, BitVec.extractLsb'_eq_self],
      by rw [cat_low (by omega) rfl, BitVec.extractLsb'_eq_self]⟩
  · rintro ⟨rfl, rfl⟩
    rw [cat, BitVec.setWidth_eq, BitVec.extractLsb'_append_extractLsb'_eq_extractLsb' (by omega),
      BitVec.extractLsb'_eq_self]

/-- The operand that a byte names has that byte (R34). -/
theorem byte_ofByte (x : Byte) : (Operand.ofByte x).byte = x := by
  revert x
  decide

/-- One bit as a field. -/
theorem ofBool_getLsbD {n : Nat} (y : BitVec n) (k : Nat) :
    BitVec.ofBool (y.getLsbD k) = y.extractLsb' k 1 := by
  ext i hi
  obtain rfl : i = 0 := by omega
  simp

/-- Words of one switch marker and one major differ in their bytes. -/
theorem wordOf_inj {s : Bool} {op : BitVec 7} {y z : BitVec 24} :
    wordOf s op y = wordOf s op z ↔ y = z := by
  refine ⟨fun h => ?_, fun h => h ▸ rfl⟩
  have := congrArg (BitVec.extractLsb' 0 24) h
  simpa (disch := decide) only [wordOf, cat_low, BitVec.extractLsb'_eq_self] using this

/-- A word is made of its switch marker, its major and its bytes (R31). -/
theorem wordOf_fields (x : Word) :
    wordOf (x.getLsbD 31) (x.extractLsb' 24 7) (x.extractLsb' 0 24) = x := by
  rw [wordOf, cat_eq_iff rfl, cat_eq_iff rfl]
  simp [ofBool_getLsbD, BitVec.extractLsb'_extractLsb'_of_le, -BitVec.getLsbD_eq_getElem]

/-- A major is its family, bits [6:4], and its number in the family (R46). -/
theorem major_toNat (x : Word) : (x.extractLsb' 24 7).toNat
    = 16 * (x.extractLsb' 28 3).toNat + (x.extractLsb' 24 4).toNat := by
  simp only [BitVec.extractLsb'_toNat, Nat.shiftRight_eq_div_pow]
  omega

/-! ## The families of majors -/

/-- What a family's decoder reads has the word that was read; the family's majors begin at `base`. -/
def ReadsBack (f : Nat → Bool → BitVec 24 → Except Reject Instr) (base : Nat) : Prop :=
  ∀ (op : Nat) (s : Bool) (y : BitVec 24) (i : Instr), op < 16 → f op s y = .ok i →
    encode i = some (wordOf s (BitVec.ofNat 7 (base + op)) y)

theorem decodeControl_readsBack : ReadsBack decodeControl 0x00 := by
  intro op s y i hop h
  interval_cases op <;> simp only [decodeControl] at h <;> (repeat' split at h) <;> cases h <;>
    simp [encode, wordOf_inj, cat_eq_iff, ofBool_getLsbD, opd, byte_ofByte,
      BitVec.extractLsb'_extractLsb'_of_le, -BitVec.getLsbD_eq_getElem, *]

theorem decodeArith_readsBack : ReadsBack decodeArith 0x10 := by
  intro op s y i hop h
  interval_cases op <;> simp only [decodeArith] at h <;> (repeat' split at h) <;> cases h <;>
    simp [encode, wordOf_inj, cat_eq_iff, opd, byte_ofByte,
      BitVec.extractLsb'_extractLsb'_of_le, -BitVec.getLsbD_eq_getElem, *]

theorem decodeBits_readsBack : ReadsBack decodeBits 0x20 := by
  intro op s y i hop h
  interval_cases op <;> simp only [decodeBits] at h <;> (repeat' split at h) <;> cases h <;>
    simp [encode, wordOf_inj, cat_eq_iff, opd, byte_ofByte,
      BitVec.extractLsb'_extractLsb'_of_le, -BitVec.getLsbD_eq_getElem, *]

theorem decodeFloat_readsBack : ReadsBack decodeFloat 0x30 := by
  intro op s y i hop h
  interval_cases op <;> simp only [decodeFloat] at h <;> (repeat' split at h) <;> cases h <;>
    simp [encode, wordOf_inj, cat_eq_iff, opd, byte_ofByte,
      BitVec.extractLsb'_extractLsb'_of_le, -BitVec.getLsbD_eq_getElem, *]

theorem decodeScopedMemory_readsBack : ReadsBack decodeScopedMemory 0x40 := by
  intro op s y i hop h
  interval_cases op <;> simp only [decodeScopedMemory] at h <;> (repeat' split at h) <;> cases h <;>
    simp [encode, wordOf_inj, cat_eq_iff, ofBool_getLsbD, opd, byte_ofByte,
      BitVec.extractLsb'_extractLsb'_of_le, -BitVec.getLsbD_eq_getElem, *]

theorem decodeAtomicSync_readsBack : ReadsBack decodeAtomicSync 0x50 := by
  intro op s y i hop h
  interval_cases op <;> simp only [decodeAtomicSync] at h <;> (repeat' split at h) <;> cases h <;>
    simp [encode, wordOf_inj, cat_eq_iff, ofBool_getLsbD, opd, byte_ofByte,
      BitVec.extractLsb'_extractLsb'_of_le, -BitVec.getLsbD_eq_getElem, *]

theorem decodeCopyMatrix_readsBack : ReadsBack decodeCopyMatrix 0x60 := by
  intro op s y i hop h
  interval_cases op <;> simp only [decodeCopyMatrix] at h <;> (repeat' split at h) <;> cases h <;>
    simp [encode, wordOf_inj, cat_eq_iff, ofBool_getLsbD, opd, byte_ofByte,
      BitVec.extractLsb'_extractLsb'_of_le, -BitVec.getLsbD_eq_getElem, *]

theorem decodeArraySystem_readsBack : ReadsBack decodeArraySystem 0x70 := by
  intro op s y i hop h
  interval_cases op <;> simp only [decodeArraySystem] at h <;> (repeat' split at h) <;> cases h <;>
    simp [encode, wordOf_inj, cat_eq_iff, ofBool_getLsbD, opd, byte_ofByte,
      BitVec.extractLsb'_extractLsb'_of_le, -BitVec.getLsbD_eq_getElem, *]

/-! ## Decoder and encoder -/

/-- A word that decodes is the word of the instruction that it decodes to. -/
theorem encode_of_decode {x : Word} {i : Instr} (h : decode x = .ok i) : encode i = some x := by
  have back {f : Nat → Bool → BitVec 24 → Except Reject Instr} {base : Nat} (hf : ReadsBack f base)
      (hb : 16 * (x.extractLsb' 28 3).toNat = base)
      (hd : f (x.extractLsb' 24 4).toNat (x.getLsbD 31) (x.extractLsb' 0 24) = .ok i) : encode i = some x := by
    have hm : BitVec.ofNat 7 (base + (x.extractLsb' 24 4).toNat) = x.extractLsb' 24 7 := by
      rw [← hb, ← major_toNat, BitVec.ofNat_toNat, BitVec.setWidth_eq]
    rw [hf _ _ _ _ (x.extractLsb' 24 4).isLt hd, hm, wordOf_fields]
  unfold decode at h
  dsimp only at h
  have hlt := (x.extractLsb' 28 3).isLt
  generalize e : (x.extractLsb' 28 3).toNat = family at h hlt
  interval_cases family
  · exact back decodeControl_readsBack (by rw [e]) h
  · exact back decodeArith_readsBack (by rw [e]) h
  · exact back decodeBits_readsBack (by rw [e]) h
  · exact back decodeFloat_readsBack (by rw [e]) h
  · exact back decodeScopedMemory_readsBack (by rw [e]) h
  · exact back decodeAtomicSync_readsBack (by rw [e]) h
  · exact back decodeCopyMatrix_readsBack (by rw [e]) h
  · exact back decodeArraySystem_readsBack (by rw [e]) h

/-- The word of an instruction decodes to that instruction: the laws of all constructors together. -/
theorem decode_of_encode : ∀ i, Laws.Encoding.Statement i
  | .nop .. => Laws.Encoding.nop _
  | .bra .. => Laws.Encoding.bra _ _ _
  | .brc .. => Laws.Encoding.brc _ _ _ _ _
  | .mark .. => Laws.Encoding.mark _ _
  | .join .. => Laws.Encoding.join _
  | .call .. => Laws.Encoding.call _ _ _ _ _
  | .ret .. => Laws.Encoding.ret _ _
  | .loop .. => Laws.Encoding.loop _ _ _
  | .exit .. => Laws.Encoding.exit _ _
  | .yield .. => Laws.Encoding.yield _ _ _ _
  | .waitc .. => Laws.Encoding.waitc _ _ _
  | .setmode .. => Laws.Encoding.setmode _ _ _
  | .fuse .. => Laws.Encoding.fuse _ _
  | .split .. => Laws.Encoding.split _
  | .bar .. => Laws.Encoding.bar _ _
  | .trap .. => Laws.Encoding.trap _ _
  | .add .. => Laws.Encoding.add _ _ _ _
  | .sub .. => Laws.Encoding.sub _ _ _ _
  | .mul .. => Laws.Encoding.mul _ _ _ _
  | .mulh .. => Laws.Encoding.mulh _ _ _ _
  | .mad .. => Laws.Encoding.mad _ _ _ _
  | .min .. => Laws.Encoding.min _ _ _ _
  | .max .. => Laws.Encoding.max _ _ _ _
  | .abs .. => Laws.Encoding.abs _ _ _
  | .neg .. => Laws.Encoding.neg _ _ _
  | .and .. => Laws.Encoding.and _ _ _ _
  | .or .. => Laws.Encoding.or _ _ _ _
  | .xor .. => Laws.Encoding.xor _ _ _ _
  | .not .. => Laws.Encoding.not _ _ _
  | .shl .. => Laws.Encoding.shl _ _ _ _
  | .shr .. => Laws.Encoding.shr _ _ _ _
  | .sar .. => Laws.Encoding.sar _ _ _ _
  | .addc .. => Laws.Encoding.addc _ _ _ _
  | .subb .. => Laws.Encoding.subb _ _ _ _
  | .popc .. => Laws.Encoding.popc _ _ _
  | .clz .. => Laws.Encoding.clz _ _ _
  | .brev .. => Laws.Encoding.brev _ _ _
  | .bfx .. => Laws.Encoding.bfx _ _ _ _
  | .bfi .. => Laws.Encoding.bfi _ _ _ _
  | .sel .. => Laws.Encoding.sel _ _ _ _
  | .cmp .. => Laws.Encoding.cmp _ _ _ _ _
  | .mov .. => Laws.Encoding.mov _ _ _
  | .movi .. => Laws.Encoding.movi _ _ _
  | .movh .. => Laws.Encoding.movh _ _ _
  | .frint .. => Laws.Encoding.frint _ _ _
  | .cvt .. => Laws.Encoding.cvt _ _ _ _
  | .pack .. => Laws.Encoding.pack _ _ _ _
  | .unpk .. => Laws.Encoding.unpk _ _ _ _
  | .msb .. => Laws.Encoding.msb _ _ _ _
  | .frcp .. => Laws.Encoding.frcp _ _ _
  | .frsq .. => Laws.Encoding.frsq _ _ _
  | .fsqrt .. => Laws.Encoding.fsqrt _ _ _
  | .fexp2 .. => Laws.Encoding.fexp2 _ _ _
  | .flog2 .. => Laws.Encoding.flog2 _ _ _
  | .fsinpi .. => Laws.Encoding.fsinpi _ _ _
  | .fcospi .. => Laws.Encoding.fcospi _ _ _
  | .cmul .. => Laws.Encoding.cmul _ _ _ _
  | .cfma .. => Laws.Encoding.cfma _ _ _ _
  | .fclass .. => Laws.Encoding.fclass _ _ _
  | .rnd .. => Laws.Encoding.rnd _ _
  | .fscale .. => Laws.Encoding.fscale _ _ _ _
  | .dot4 .. => Laws.Encoding.dot4 _ _ _ _
  | .raise .. => Laws.Encoding.raise _ _ _ _
  | .vote .. => Laws.Encoding.vote _ _ _ _
  | .shfi .. => Laws.Encoding.shfi _ _ _ _
  | .shfx .. => Laws.Encoding.shfx _ _ _ _
  | .shfu .. => Laws.Encoding.shfu _ _ _ _
  | .shfd .. => Laws.Encoding.shfd _ _ _ _
  | .plog .. => Laws.Encoding.plog _ _ _ _ _ _ _
  | .ld .. => Laws.Encoding.ld _ _ _ _
  | .st .. => Laws.Encoding.st _ _ _ _
  | .ldw .. => Laws.Encoding.ldw _ _ _ _
  | .stw .. => Laws.Encoding.stw _ _ _ _
  | .ldl .. => Laws.Encoding.ldl _ _ _ _
  | .stl .. => Laws.Encoding.stl _ _ _ _
  | .taglLookup .. => Laws.Encoding.taglLookup _ _ _ _
  | .taglRead .. => Laws.Encoding.taglRead _ _ _ _
  | .tagw .. => Laws.Encoding.tagw _ _ _ _
  | .aadd .. => Laws.Encoding.aadd _ _ _ _
  | .amin .. => Laws.Encoding.amin _ _ _ _
  | .amax .. => Laws.Encoding.amax _ _ _ _
  | .aand .. => Laws.Encoding.aand _ _ _ _
  | .aor .. => Laws.Encoding.aor _ _ _ _
  | .axor .. => Laws.Encoding.axor _ _ _ _
  | .axch .. => Laws.Encoding.axch _ _ _ _
  | .acas .. => Laws.Encoding.acas _ _ _ _
  | .bind .. => Laws.Encoding.bind _ _ _
  | .unbind .. => Laws.Encoding.unbind _ _
  | .acq .. => Laws.Encoding.acq _ _ _
  | .rel .. => Laws.Encoding.rel _ _
  | .fence .. => Laws.Encoding.fence _ _ _
  | .dualst .. => Laws.Encoding.dualst _ _ _ _
  | .pref .. => Laws.Encoding.pref _ _ _ _
  | .lcpIn .. => Laws.Encoding.lcpIn _ _ _ _
  | .lcpOut .. => Laws.Encoding.lcpOut _ _ _ _
  | .tcpIn .. => Laws.Encoding.tcpIn _ _
  | .tcpOut .. => Laws.Encoding.tcpOut _ _
  | .tcpx .. => Laws.Encoding.tcpx _ _ _
  | .seal .. => Laws.Encoding.seal _ _ _ _
  | .res .. => Laws.Encoding.res _ _ _ _
  | .rls .. => Laws.Encoding.rls _ _
  | .stga .. => Laws.Encoding.stga _ _ _
  | .stgw .. => Laws.Encoding.stgw _ _ _ _ _
  | .mma .. => Laws.Encoding.mma _ _ _ _
  | .mmaz .. => Laws.Encoding.mmaz _ _ _ _
  | .mmad .. => Laws.Encoding.mmad _ _ _ _
  | .tmma .. => Laws.Encoding.tmma _ _ _ _
  | .acca .. => Laws.Encoding.acca _ _ _
  | .accf .. => Laws.Encoding.accf _ _
  | .accr .. => Laws.Encoding.accr _ _ _ _
  | .accw .. => Laws.Encoding.accw _ _ _ _
  | .kset .. => Laws.Encoding.kset _ _ _
  | .kgetRecord .. => Laws.Encoding.kgetRecord _ _ _
  | .kgetCount .. => Laws.Encoding.kgetCount _ _ _ _
  | .cld .. => Laws.Encoding.cld _ _ _ _
  | .cst .. => Laws.Encoding.cst _ _ _ _
  | .spl .. => Laws.Encoding.spl _ _ _ _ _ _
  | .spld .. => Laws.Encoding.spld _ _ _ _ _ _
  | .splg .. => Laws.Encoding.splg _ _ _ _ _ _
  | .gref .. => Laws.Encoding.gref _ _
  | .send .. => Laws.Encoding.send _ _ _ _
  | .recv .. => Laws.Encoding.recv _ _ _ _
  | .nred .. => Laws.Encoding.nred _ _ _ _ _
  | .snapStart .. => Laws.Encoding.snapStart _ _ _ _
  | .snapQuery .. => Laws.Encoding.snapQuery _ _
  | .snapRelease .. => Laws.Encoding.snapRelease _ _
  | .launch .. => Laws.Encoding.launch _ _
  | .idem .. => Laws.Encoding.idem _
  | .chkpt .. => Laws.Encoding.chkpt _
  | .pdis .. => Laws.Encoding.pdis _
  | .pen .. => Laws.Encoding.pen _
  | .bkpt .. => Laws.Encoding.bkpt _ _
  | .tlbi .. => Laws.Encoding.tlbi _ _ _
  | .fhget .. => Laws.Encoding.fhget _ _ _
  | .fhdone .. => Laws.Encoding.fhdone _ _ _
  | .swr .. => Laws.Encoding.swr _ _ _
  | .rtt .. => Laws.Encoding.rtt _ _
  | .illegalWord .. => Laws.Encoding.illegalWord _
  | .issueWindow .. => Laws.Encoding.issueWindow _ _
  | .promotion .. => Laws.Encoding.promotion _
  | .variableLatencyResult .. => Laws.Encoding.variableLatencyResult _ _
  | .instructionFetch .. => Laws.Encoding.instructionFetch _
  | .runAheadRollback .. => Laws.Encoding.runAheadRollback _
  | .sheafPost .. => Laws.Encoding.sheafPost _
  | .tableWalk .. => Laws.Encoding.tableWalk _ _ _ _
  | .tlbiPerformed .. => Laws.Encoding.tlbiPerformed _
  | .dispatchQueueEntry .. => Laws.Encoding.dispatchQueueEntry _ _
  | .dependenceReread .. => Laws.Encoding.dependenceReread _
  | .blockStart .. => Laws.Encoding.blockStart _ _
  | .gridCompletion .. => Laws.Encoding.gridCompletion _
  | .sliceAccess .. => Laws.Encoding.sliceAccess _
  | .relIncrement .. => Laws.Encoding.relIncrement _
  | .remoteAccess .. => Laws.Encoding.remoteAccess _
  | .remoteAck .. => Laws.Encoding.remoteAck _ _ _
  | .fabricForward .. => Laws.Encoding.fabricForward _ _
  | .copyChunk .. => Laws.Encoding.copyChunk _ _
  | .batchComplete .. => Laws.Encoding.batchComplete _ _
  | .matrixOctetOperation .. => Laws.Encoding.matrixOctetOperation _
  | .splineExecution .. => Laws.Encoding.splineExecution _
  | .roundComplete .. => Laws.Encoding.roundComplete _
  | .barrierComplete .. => Laws.Encoding.barrierComplete _
  | .registerCopyUpdate .. => Laws.Encoding.registerCopyUpdate _ _ _
  | .messageLanding .. => Laws.Encoding.messageLanding _
  | .creditReturn .. => Laws.Encoding.creditReturn _
  | .treeInput .. => Laws.Encoding.treeInput _
  | .treeTimeout .. => Laws.Encoding.treeTimeout _ _ _ _
  | .treeResult .. => Laws.Encoding.treeResult _
  | .stopRecord .. => Laws.Encoding.stopRecord _
  | .stopQueueConsumed .. => Laws.Encoding.stopQueueConsumed _ _
  | .watchdogExpiry .. => Laws.Encoding.watchdogExpiry _
  | .preemptOverrun .. => Laws.Encoding.preemptOverrun _
  | .timeSliceExpiry .. => Laws.Encoding.timeSliceExpiry _ _
  | .preemption .. => Laws.Encoding.preemption _ _
  | .warpRestore .. => Laws.Encoding.warpRestore _
  | .debugHalt .. => Laws.Encoding.debugHalt _
  | .killWriteTimeout .. => Laws.Encoding.killWriteTimeout _
  | .windowMatch .. => Laws.Encoding.windowMatch _ _
  | .pairPerformed .. => Laws.Encoding.pairPerformed _
  | .generationGrant .. => Laws.Encoding.generationGrant _
  | .cutComplete .. => Laws.Encoding.cutComplete _
  | .granaryClaim .. => Laws.Encoding.granaryClaim _
  | .wainStart .. => Laws.Encoding.wainStart _
  | .wainDrainGranule .. => Laws.Encoding.wainDrainGranule _
  | .generationRestore .. => Laws.Encoding.generationRestore _
  | .partitionControlWrite .. => Laws.Encoding.partitionControlWrite _ _ _
  | .errorLogRecord .. => Laws.Encoding.errorLogRecord
  | .errorLogConfigWrite .. => Laws.Encoding.errorLogConfigWrite _ _
  | .errorLogHeadWrite .. => Laws.Encoding.errorLogHeadWrite _
  | .linkRetry .. => Laws.Encoding.linkRetry _ _
  | .linkRetrain .. => Laws.Encoding.linkRetrain _ _ _
  | .gleanerRead .. => Laws.Encoding.gleanerRead _
  | .scrubWriteback .. => Laws.Encoding.scrubWriteback _
  | .spareBank .. => Laws.Encoding.spareBank _
  | .infieldTest .. => Laws.Encoding.infieldTest _
  | .testResult .. => Laws.Encoding.testResult _ _
  | .hostMemoryAccess .. => Laws.Encoding.hostMemoryAccess _ _ _ _ _
  | .functionRecordWrite .. => Laws.Encoding.functionRecordWrite _ _ _
  | .functionReset .. => Laws.Encoding.functionReset _
  | .functionLevelReset .. => Laws.Encoding.functionLevelReset _
  | .contextCreate .. => Laws.Encoding.contextCreate _ _ _
  | .contextDestroy .. => Laws.Encoding.contextDestroy _ _ _
  | .queueConfigWrite .. => Laws.Encoding.queueConfigWrite _ _ _
  | .queueDoorbell .. => Laws.Encoding.queueDoorbell _ _ _
  | .attestationRequest .. => Laws.Encoding.attestationRequest _ _
  | .debugStateWrite .. => Laws.Encoding.debugStateWrite _
  | .debugUnlock .. => Laws.Encoding.debugUnlock _
  | .powerControlWrite .. => Laws.Encoding.powerControlWrite _
  | .idleEntry .. => Laws.Encoding.idleEntry _
  | .idleExit .. => Laws.Encoding.idleExit _
  | .throttle .. => Laws.Encoding.throttle _
  | .throttleRelease .. => Laws.Encoding.throttleRelease _
  | .thermalStop .. => Laws.Encoding.thermalStop _
  | .partReset .. => Laws.Encoding.partReset _
  | .bootStep .. => Laws.Encoding.bootStep _
  | .bootStepTimeout .. => Laws.Encoding.bootStepTimeout
  | .sidebandRead .. => Laws.Encoding.sidebandRead _
  | .sidebandWriteCap .. => Laws.Encoding.sidebandWriteCap _
  | .sidebandWriteTolerance .. => Laws.Encoding.sidebandWriteTolerance _
  | .sidebandReset .. => Laws.Encoding.sidebandReset
  | .sidebandClearThermalStop .. => Laws.Encoding.sidebandClearThermalStop
  | .sidebandWake .. => Laws.Encoding.sidebandWake
  | .registerWrite .. => Laws.Encoding.registerWrite _ _ _
  | .frozenImageReleaseRequest .. => Laws.Encoding.frozenImageReleaseRequest _

/-- The words are the first 137 constructors of `Instr`. -/
theorem encode_isSome (i : Instr) : (encode i).isSome = decide (i.ctorIdx < 137) := by
  cases i <;> rfl

/-- A word's four bytes make the word (R29). -/
theorem wordOfBytes_fields (x : Word) : wordOfBytes (x.extractLsb' 0 8) (x.extractLsb' 8 8)
    (x.extractLsb' 16 8) (x.extractLsb' 24 8) = x := by
  simp (disch := decide) only [wordOfBytes, BitVec.extractLsb'_append_extractLsb'_eq_extractLsb',
    BitVec.extractLsb'_eq_self]

/-- The bytes of a word that decodes are read as its instruction, with nothing left over (R29). -/
theorem decodeBytes_of_decode {x : Word} {i : Instr} (h : decode x = .ok i) :
    decodeBytes (bytesOfWord x) = .ok (i, []) := by
  simp only [decodeBytes, bytesOfWord, wordOfBytes_fields, h]

/-- A word of an unassigned major decodes to nothing (R46). -/
theorem decode_unassigned {x : Word} (h : Claims.majorOf x ∈ Claims.unassigned) :
    decode x = .error .unassignedMajor := by
  have hm := major_toNat x
  have ho := (x.extractLsb' 24 4).isLt
  rw [Claims.majorOf, hm] at h
  simp only [Claims.unassigned, List.mem_cons, List.not_mem_nil, or_false] at h
  have hc : ((x.extractLsb' 28 3).toNat = 3 ∧ (x.extractLsb' 24 4).toNat = 14)
      ∨ ((x.extractLsb' 28 3).toNat = 3 ∧ (x.extractLsb' 24 4).toNat = 15)
      ∨ ((x.extractLsb' 28 3).toNat = 4 ∧ (x.extractLsb' 24 4).toNat = 7)
      ∨ ((x.extractLsb' 28 3).toNat = 5 ∧ (x.extractLsb' 24 4).toNat = 15) := by omega
  rcases hc with ⟨hf, hn⟩ | ⟨hf, hn⟩ | ⟨hf, hn⟩ | ⟨hf, hn⟩ <;>
    simp only [decode, hf, hn, decodeFloat, decodeScopedMemory, decodeAtomicSync]

/-- A word of major 0x7F decodes to nothing (R51). -/
theorem decode_permanentlyIllegal {x : Word} (h : Claims.majorOf x = 0x7F) :
    decode x = .error .permanentlyIllegal := by
  have hm := major_toNat x
  have ho := (x.extractLsb' 24 4).isLt
  rw [Claims.majorOf, hm] at h
  have hf : (x.extractLsb' 28 3).toNat = 7 := by omega
  have hn : (x.extractLsb' 24 4).toNat = 15 := by omega
  simp only [decode, hf, hn, decodeArraySystem]

end Sys2Proof

namespace Sys2Proof.Claims

open Sys2Proof.Machine

/-- Settles O55: the laws of the constructors, and that a word decodes to one instruction alone. -/
theorem decodeEncodeRoundTrip : Obligations.DecodeEncodeRoundTrip := by
  refine ⟨fun i => ?_, fun i x h => ?_, fun i j x hi hj => ?_⟩
  · rw [encode_isSome, decide_eq_true_iff]
  · exact ⟨decode_of_encode i x h, decodeBytes_of_decode (decode_of_encode i x h)⟩
  · have e : Except.ok i = Except.ok j :=
      (decode_of_encode i x hi).symm.trans (decode_of_encode j x hj)
    exact Except.ok.inj e

/-- Settles O56: each family's decoder drops no bit, and checks every reserved field. -/
theorem decodedWordsHaveTheirEncoding : Obligations.DecodedWordsHaveTheirEncoding :=
  ⟨fun _ _ => encode_of_decode, fun _ => decode_unassigned, fun _ => decode_permanentlyIllegal,
    fun x e h => by simp only [issued, h]⟩

/-- Settles O57: the decoder, run on each word. -/
theorem specWordsDecode : Obligations.SpecWordsDecode := by
  unfold Obligations.SpecWordsDecode
  decide

/-- Settles O58: the cases of `step`, and what a word is issued as. -/
theorem aStepRunsTheDecodedWord : Obligations.AStepRunsTheDecodedWord := by
  intro s
  refine ⟨fun i rest ha => ?_, fun r rest ha hi => ⟨fun w i hw hd => ?_, fun w e hw hd => ?_, fun hw => ?_⟩,
    fun ha hi => ?_⟩
  · simp only [step, ha]
  · simp only [step, ha, hi, hw, issued, hd]
  · simp only [step, ha, hi, hw, issued, hd]
  · simp only [step, ha, hi, hw]
  · simp only [step, ha, hi]

end Sys2Proof.Claims
end

section
/-!
SUPPORT. The checks of R52 before a word runs: the fault that they find, and what they say of a word D, A, B.
-/

namespace Sys2Proof.Machine

/-- A word whose checks of R52, items 3 to 8, find a fault takes it, and nothing else happens. -/
theorem runWord_staticFault {s : State} {mk : Word → Entry} {c : Ctx} (body : Ctx → Eff) {f : FaultInfo}
    (h : s.Stands mk c)
    (hf : (mk c.w.ctl.mode).staticFault c.w c.g (s.privileged c.g.ctx) = some f) :
    runWord s mk body = s.takeFault s.cur f c.w.ctl.pc := by
  have hc : c.ctx = c.g.ctx := rfl
  rw [runWord_stands body h]
  simp only [State.issueWord, hc, hf, h.r_eq]

theorem sp_beq (i j : BitVec 5) : (Operand.sp i == Operand.sp j) = (i == j) := by
  by_cases h : i = j <;> simp [h]

/-- A destination of R131, as the claims say it. -/
theorem Use.dst_ok (o : Operand) (n : Nat) : (Use.dst o n).ok =
    if n = 1 then o.isReg || o == .sp 0 || o == .sp 12 || o == .sp 13 || o == .sp 20
    else o.isReg && o.index % n == 0 := by
  cases o <;> simp [Use.dst, Operand.writable, Operand.group, Operand.isReg, Operand.isSp, sp_beq]

/-- A source of R131, as the claims say it. -/
theorem Use.src_ok (o : Operand) (n : Nat) : (Use.src o n).ok =
    if n = 1 then o.isReg || decide (o.index < 27) else (o.isReg && o.index % n == 0) || o == .sp 0 := by
  cases o <;> simp [Use.src, Operand.known, Operand.group, Operand.isReg, Operand.isSp, Operand.index,
    Operand.isZero, sp_beq, Nat.lt_succ_iff]

/-- An operand of a type spans one register, or a pair (R131). -/
theorem tyRegs_cases (t : Nat) : tyRegs t = 1 ∨ tyRegs t = 2 := by
  unfold tyRegs
  split
  · exact .inr rfl
  · exact .inl rfl

/-- A lane register beyond the budget, of the registers that a use spans. -/
theorem Use.overBudget_eq (u : Use) (budget : Nat) :
    u.overBudget budget = (u.o.isV && decide (budget < u.o.index + u.regs)) := by
  unfold Use.overBudget
  cases u.o <;> rfl

/-- Every role issues a word that names none (R76). -/
theorem anyRole (r : Role) : [Role.copy, .matrix, .vector].contains r = true := by
  cases r <;> rfl

/-- The checks of a word D, A, B are those of its type, its operands and the budget, in that order. -/
theorem entry3_staticFault (sw : Bool) (m : Word) (tys : List Nat) (rounds : Bool) (d a b : Operand)
    (w : Warp) (g : Grid) (priv : Bool) : (entry3 sw m tys rounds d a b).staticFault w g priv
      = Claims.checks3 tys m w.budget d a b := by
  have hd (n : Nat) : (Use.dst d n).o = d ∧ (Use.dst d n).regs = n := ⟨rfl, rfl⟩
  have hs (o : Operand) (n : Nat) : (Use.src o n).o = o ∧ (Use.src o n).regs = n := ⟨rfl, rfl⟩
  simp only [entry3, laneEntry, Entry.staticFault, Claims.checks3, Use.overBudget_eq, Use.dst_ok, Use.src_ok,
    anyRole, List.any_cons, List.any_nil, hd, hs]
  rcases tyRegs_cases (tyOf m) with h | h <;> simp [h, or_assoc]

/-- A word of accepted codes and MODE that names p0 as a destination is refused for it (R45). -/
theorem Entry.staticFault_p0 {e : Entry} {w : Warp} {g : Grid} {priv : Bool} (hc : e.codes = true)
    (hm : e.modeOk = true) (hp : e.p0 = true) :
    e.staticFault w g priv = some (faultAt fcIllegalOperand 0) := by
  simp [Entry.staticFault, hc, hm, hp]

/-- What the word of the issuing warp leaves once it has completed. -/
theorem State.Stands.completes_eq {s : State} {mk : Word → Entry} {c : Ctx} (h : s.Stands mk c)
    (mk' : Word → Entry) (t : State) :
    c.completes mk' t = t.complete s.cur c.g (mk' c.mode) c.w.ctl.pc none := by
  rw [Ctx.completes, h.r_eq]

/-- A word that passes these checks names only operands that its entry allows. -/
theorem Entry.uses_ok {e : Entry} {w : Warp} {g : Grid} {priv : Bool} (h : e.staticFault w g priv = none) :
    ∀ u ∈ e.uses, u.ok = true := by
  intro u hu
  by_contra hk
  have hany : (e.p0 || e.uses.any fun u => !u.ok) = true := by
    rw [Bool.or_eq_true, List.any_eq_true]
    exact .inr ⟨u, hu, by simpa using hk⟩
  unfold Entry.staticFault at h
  rw [if_pos hany] at h
  split at h <;> cases h

end Sys2Proof.Machine
end

section
/-!
SUPPORT. A warp that is there, as a predicate of it: `State.Finds` is kept by an update of the warp as the
update keeps the predicate, so that what an operand reads after several updates is read off their effect on
the warp alone.
-/

namespace Sys2Proof.Machine

variable {s : State} {r : WarpRef} {P Q : Warp → Prop}

/-- The warp and its grid are there, and the warp is as `P` says. -/
def State.Finds (s : State) (r : WarpRef) (P : Warp → Prop) : Prop :=
  ∃ b w g, s.warp? r = some (b, w) ∧ s.grid? b.grid = some g ∧ P w

namespace State.Finds

theorem intro {b : Block} {w : Warp} {g : Grid} (h : s.warp? r = some (b, w)) (hg : s.grid? b.grid = some g)
    (hw : P w) : s.Finds r P :=
  ⟨b, w, g, h, hg, hw⟩

theorem updWarp (h : s.Finds r P) (f : Warp → Warp) (hs : ∀ w, (f w).slot = w.slot) (hf : ∀ w, P w → Q (f w)) :
    (s.updWarp r f).Finds r Q := by
  obtain ⟨b, w, g, hw, hg, hp⟩ := h
  exact ⟨_, _, g, State.warp?_updWarp f hw hs, hg, hf w hp⟩

theorem progress (h : s.Finds r P) (ctx : Nat) : (s.progress ctx).Finds r P := h

theorem complete (h : s.Finds r P) (k : Grid) (e : Entry) (pc : Nat) (j : Option (Nat × Bool))
    (hf : ∀ w red now, P w → Q (w.complete e pc j red now)) : (s.complete r k e pc j).Finds r Q :=
  (h.updWarp _ (fun _ => Warp.complete_slot _ _ _ _ _ _) fun w => hf w _ _).progress _

/-- A warp whose flags are set and whose word then completes. -/
theorem orFlags_complete (h : s.Finds r P) (fl : Flags) (k : Grid) (e : Entry) (pc : Nat) (j : Option (Nat × Bool))
    (hf : ∀ w red now, P w → Q ((w.orFlags fl).complete e pc j red now)) :
    ((s.updWarp r fun w => w.orFlags fl).complete r k e pc j).Finds r Q :=
  (h.updWarp (Q := fun w => ∀ red now, Q (w.complete e pc j red now)) (fun w => w.orFlags fl) (fun _ => rfl)
    fun w hw red now => hf w red now hw).complete k e pc j fun _ red now hw => hw red now

theorem mode {x : Word} (h : s.Finds r fun w => w.ctl.mode = x) (l : Nat) : s.operand r l (.sp 12) = x := by
  obtain ⟨b, w, g, hw, hg, rfl⟩ := h
  rw [State.operand_eq hw hg]
  rfl

theorem status {x : Word} (h : s.Finds r fun w => w.ctl.status = x) (l : Nat) : s.operand r l (.sp 20) = x := by
  obtain ⟨b, w, g, hw, hg, rfl⟩ := h
  rw [State.operand_eq hw hg]
  rfl

theorem preds {x : Byte} {l : Nat} (h : s.Finds r fun w => w.preds l = x) :
    s.operand r l (.sp 13) = x.setWidth 32 := by
  obtain ⟨b, w, g, hw, hg, rfl⟩ := h
  rw [State.operand_eq hw hg]
  rfl

end State.Finds

/-! ## The special fields of a warp whose word completes -/

theorem Warp.complete_mode (w : Warp) (e : Entry) (pc : Nat) (j : Option (Nat × Bool)) (red : Bool) (now : Nat) :
    (w.complete e pc j red now).ctl.mode = w.ctl.mode := by
  unfold Warp.complete
  rfl

theorem Warp.complete_preds (w : Warp) (e : Entry) (pc : Nat) (j : Option (Nat × Bool)) (red : Bool) (now : Nat)
    (l : Nat) : (w.complete e pc j red now).preds l = w.preds l := by
  rw [Warp.preds, Warp.complete_regs]
  rfl

/-- Waiting flags are merged only where the word carries the switch marker (R134). -/
theorem Warp.complete_status (w : Warp) {e : Entry} (he : e.sw = false) (pc : Nat) (j : Option (Nat × Bool))
    (red : Bool) (now : Nat) : (w.complete e pc j red now).ctl.status = w.ctl.status := by
  unfold Warp.complete
  simp [he]

theorem Warp.setPreds_preds (w : Warp) (m : Nat) (x : Byte) (l : Nat) :
    (w.setPreds m x).preds l = if l = m then (x &&& 0xFE) ||| 1 else w.preds l := by
  unfold Warp.preds Warp.setPreds
  split
  · next h => rw [h, sparseGet_set_same]
  · next h => rw [sparseGet_set_other _ _ _ h]

end Sys2Proof.Machine
end

section
/-!
SUPPORT. Lane words: what each of them runs, the values of its lanes, and what it leaves in %mode, %pred and
%status (R39, R40, R65, R131, R132).
-/

namespace Sys2Proof.Machine

/-! ## The lanes of a word (R36) -/

/-- A guard of p0 holds in every lane (R41, R45). -/
theorem guardHolds_of_gd_zero {w : Warp} (h : modeGd w.ctl.mode = 0) (l : Nat) : guardHolds w l = true := by
  have hp : w.ctl.mode.extractLsb' 0 3 = 0 := by
    have := congrArg (BitVec.extractLsb' 0 3) h
    simpa [modeGd, BitVec.extractLsb'_extractLsb'_of_le] using this
  have hi : w.ctl.mode.getLsbD 3 = false := by
    have := congrArg (BitVec.getLsbD · 3) h
    simpa [modeGd] using this
  simp [guardHolds, hp, hi, Warp.pred, Warp.preds, -BitVec.getLsbD_eq_getElem]

/-- A uniform word under a guard works in the lowest lane of ACTIVE, whatever the guard: a guard that may
fail makes a word lane-class (R36). -/
theorem State.Stands.lanes_of_uni {s : State} {mk : Word → Entry} {c : Ctx} (h : s.Stands mk c)
    (hg : (mk c.w.ctl.mode).gd = true) (hu : c.uni = true) : c.lanes = c.act.take 1 := by
  have hm := h.ctx
  generalize mk c.w.ctl.mode = e at hm hg
  have hc : e.laneClass c.w.ctl.mode = false := by
    have : c.uni = !e.laneClass c.w.ctl.mode := congrArg Ctx.uni hm
    rw [hu] at this
    simpa using this.symm
  have hz : modeGd c.w.ctl.mode = 0 := by
    simp only [Entry.laneClass, hg, Bool.true_and, Bool.or_eq_false_iff, bne_eq_false_iff_eq] at hc
    exact hc.2
  have hall : c.act.filter (guardHolds c.w) = c.act :=
    List.filter_eq_self.2 fun l _ => guardHolds_of_gd_zero hz l
  have hact : c.act = lanesOf c.w.width c.w.ctl.active := congrArg Ctx.act hm
  have hl : c.lanes = (mkCtx s s.cur c.b c.w c.g e).lanes := congrArg Ctx.lanes hm
  rw [hact] at hall ⊢
  rw [hl]
  simp [mkCtx, hc, hg, hz, hall]

/-! ## The effect of a lane word (R66, R132) -/

theorem Ctx.lanewise_eq (c : Ctx) (f : Nat → Nat × Flags) : c.lanewise f
    = (c.lanes.map fun l => (l, (f l).1), (c.lanes.map fun l => (f l).2).foldr (fun f fl => f ||| fl) 0) := by
  unfold Ctx.lanewise
  induction c.lanes with
  | nil => rfl
  | cons l t ih => rw [List.foldr_cons, ih]; rfl

/-! ## Special operands as destinations (R40) -/

/-- Lanes that write one operand of the whole warp agree (R40, R115). -/
theorem agree_of_disagreeing_sp {k : BitVec 5} (hk : k ≠ 13) {vals : List (Nat × Nat)}
    (h : disagreeing (.sp k) vals = []) {x y : Nat × Nat} (hx : x ∈ vals) (hy : y ∈ vals) : x.2 = y.2 := by
  have hw : disagreeing (.w 0) vals = [] := by
    simpa [disagreeing, (show ¬ k = 13#5 from hk)] using h
  exact agree_of_disagreeing (d := .w 0) rfl hw hx hy trivial rfl

/-- A special destination takes one register of each lane to write, clears marks and passes no tag. -/
theorem State.writeDest_sp (s : State) (r : WarpRef) (k : BitVec 5) (vals : List (Nat × Nat)) :
    s.writeDest r (.sp k) 1 vals
      = ((destVals (.sp k) vals).foldl (fun s x => s.writeOne r x.1 (.sp k) (BitVec.ofNat 32 x.2)) s).updWarp r
        fun w => { w with flt := { w.flt with
          marks := clearMarks (.sp k) 1 (maskOf (vals.map Prod.fst)) w.flt.marks } } := by
  unfold State.writeDest State.passTags
  cases vals <;> rfl

/-- %mode, %status and %zero are written once, with the value that every lane has. -/
theorem State.writeDest_sp_first (s : State) (r : WarpRef) {k : BitVec 5} (hk : k ≠ 13) {vals : List (Nat × Nat)}
    (ha : disagreeing (.sp k) vals = []) {y : Nat × Nat} (hy : y ∈ vals) :
    ∃ l f, (∀ w : Warp, (f w).slot = w.slot ∧ (f w).ctl = w.ctl)
      ∧ s.writeDest r (.sp k) 1 vals = (s.writeOne r l (.sp k) (BitVec.ofNat 32 y.2)).updWarp r f := by
  obtain ⟨x, t, rfl⟩ := List.exists_cons_of_ne_nil (List.ne_nil_of_mem hy)
  have hd : destVals (.sp k) (x :: t) = [x] := by
    simp [destVals, (show ¬ k = 13#5 from hk)]
  have e := s.writeDest_sp r k (x :: t)
  rw [hd, List.foldl_cons, List.foldl_nil, ← agree_of_disagreeing_sp hk ha hy List.mem_cons_self] at e
  refine ⟨x.1, _, ?_, e⟩
  exact fun w => ⟨rfl, rfl⟩

namespace State.Finds

variable {s : State} {r : WarpRef} {P : Warp → Prop} {vals : List (Nat × Nat)} {y : Nat × Nat}

/-- A value written to %mode is in it. -/
theorem writeDest_mode (h : s.Finds r P) (ha : disagreeing (.sp 12) vals = []) (hy : y ∈ vals) :
    (s.writeDest r (.sp 12) 1 vals).Finds r fun w => w.ctl.mode = BitVec.ofNat 32 y.2 := by
  obtain ⟨l, f, hf, e⟩ := State.writeDest_sp_first s r (by decide) ha hy
  rw [e]
  refine State.Finds.updWarp (P := fun w => w.ctl.mode = BitVec.ofNat 32 y.2) ?_ f (fun w => (hf w).1)
    fun w hw => by rw [(hf w).2, hw]
  exact h.updWarp _ (fun _ => rfl) fun _ _ => rfl

/-- A value written to %status is in it, bit 7 reading 0 (R65). -/
theorem writeDest_status (h : s.Finds r P) (ha : disagreeing (.sp 20) vals = []) (hy : y ∈ vals) :
    (s.writeDest r (.sp 20) 1 vals).Finds r fun w => w.ctl.status = statusMask (BitVec.ofNat 32 y.2) := by
  obtain ⟨l, f, hf, e⟩ := State.writeDest_sp_first s r (by decide) ha hy
  rw [e]
  refine State.Finds.updWarp (P := fun w => w.ctl.status = statusMask (BitVec.ofNat 32 y.2)) ?_ f
    (fun w => (hf w).1) fun w hw => by rw [(hf w).2, hw]
  exact h.updWarp _ (fun _ => rfl) fun _ _ => rfl

/-- Of a run of writes to %pred, those to a lane that all write the same leave it there; bit 0 reads 1 (R39). -/
theorem foldl_preds {l v : Nat} (h : s.Finds r P) (hv : ∀ x ∈ vals, x.1 = l → x.2 = v)
    (h0 : (∃ x ∈ vals, x.1 = l)
      ∨ s.Finds r fun w => w.preds l = ((BitVec.ofNat 32 v).extractLsb' 0 8 &&& 0xFE) ||| 1) :
    (vals.foldl (fun s x => s.writeOne r x.1 (.sp 13) (BitVec.ofNat 32 x.2)) s).Finds r
      fun w => w.preds l = ((BitVec.ofNat 32 v).extractLsb' 0 8 &&& 0xFE) ||| 1 := by
  induction vals generalizing s P with
  | nil => simpa using h0
  | cons x t ih =>
    have hone {Q : Warp → Prop} (hq : ∀ w, P w → Q (w.setPreds x.1 ((BitVec.ofNat 32 x.2).extractLsb' 0 8))) :
        (s.writeOne r x.1 (.sp 13) (BitVec.ofNat 32 x.2)).Finds r Q := h.updWarp _ (fun _ => rfl) hq
    refine ih (P := fun _ => True) (hone fun _ _ => trivial) (fun z hz => hv z (List.mem_cons_of_mem _ hz)) ?_
    by_cases hx : x.1 = l
    · right
      refine hone fun w _ => ?_
      rw [Warp.setPreds_preds, if_pos hx.symm, hv x List.mem_cons_self hx]
    · rcases h0 with ⟨z, hz, rfl⟩ | h0
      · rcases List.mem_cons.1 hz with rfl | hz
        · exact absurd rfl hx
        · exact .inl ⟨z, hz, rfl⟩
      · right
        refine State.Finds.updWarp h0 _ (fun _ => rfl) fun w hw => ?_
        rw [Warp.setPreds_preds, if_neg (Ne.symm hx), hw]

/-- A value written to %pred is in its lane but for bits 0 and [31:8] (R40). -/
theorem writeDest_preds (h : s.Finds r P) (hu : ∀ x ∈ vals, x.1 = y.1 → x.2 = y.2) (hy : y ∈ vals) :
    (s.writeDest r (.sp 13) 1 vals).Finds r
      fun w => w.preds y.1 = ((BitVec.ofNat 32 y.2).extractLsb' 0 8 &&& 0xFE) ||| 1 := by
  rw [State.writeDest_sp]
  exact (h.foldl_preds hu (.inl ⟨y, hy, rfl⟩)).updWarp _ (fun _ => rfl) fun w hw => hw

end State.Finds

/-- A byte of predicates, read as a word (R39). -/
theorem preds_word (x : Word) : ((x.extractLsb' 0 8 &&& 0xFE) ||| 1).setWidth 32 = (x &&& 0xFE) ||| 1 := by
  ext i hi
  interval_cases i <;> simp [BitVec.getLsbD_eq_getElem]

end Sys2Proof.Machine

namespace Sys2Proof.Claims

open Sys2Proof.Machine

/-! ## Lane forms -/

variable {i : Instr} {x : LaneForm} {s : State} {c : Ctx}

/-- A lane word computes its value in each lane of C and writes its destination (R132). -/
theorem exec_laneForm (h : laneForm i = some x) (s : State) :
    exec i s = .next (runWord s x.entry fun c => laneEff x.dest (x.regs c.mode) x.value c) := by
  cases i <;> cases h <;> rfl

/-- Every lane word honours the guard. -/
theorem laneForm_gd (h : laneForm i = some x) (m : Word) : (x.entry m).gd = true := by
  cases i <;> cases h <;> rfl

/-- The first operand of a lane word is its destination. -/
theorem laneForm_dest (h : laneForm i = some x) (m : Word) :
    ∃ u ∈ (x.entry m).uses, u.ok = (Use.dst x.dest (x.regs m)).ok := by
  cases i
  case pack sw d a b =>
    cases h
    refine ⟨_, List.mem_cons_self, ?_⟩
    split <;> rfl
  all_goals cases h <;> exact ⟨_, List.mem_cons_self, rfl⟩

/-- A special destination is one register (R131). -/
theorem regs_of_sp {k : BitVec 5} (h : laneForm i = some x) (hx : x.dest = .sp k) (hs : s.Issues x.entry c) :
    x.regs c.mode = 1 := by
  obtain ⟨u, hu, hok⟩ := laneForm_dest h c.mode
  have := Entry.uses_ok hs.legal u hu
  rw [hok, hx, Use.dst_ok] at this
  by_contra hn
  simp [hn, Operand.isReg, Operand.isSp] at this

/-- A lane word that no check stops and whose values agree where its destination asks for it writes them. -/
theorem exec_laneForm_completes (h : laneForm i = some x) (hs : s.Issues x.entry c)
    (hd : destFault x.dest (x.values c) = none) : exec i s = .next (c.completes x.entry
      ((s.writeDest s.cur x.dest (x.regs c.mode) (x.values c)).updWarp s.cur fun w => w.orFlags (x.flags c))) := by
  rw [exec_laneForm h]
  congr 1
  refine runWord_done hs ?_
  unfold LaneForm.values at hd
  simp only [laneEff, Ctx.lanewise_eq, Ctx.put, hd, hs.s_eq, hs.r_eq, LaneForm.values, LaneForm.flags]

/-- The values of a lane word, each with the lane that gives it. -/
theorem LaneForm.values_giver {y : Nat × Nat} (hu : c.uni = true → c.lanes = c.act.take 1) (hy : y ∈ x.values c) :
    y.2 = (x.value c (c.giver y.1)).1 := by
  unfold LaneForm.values Ctx.spread at hy
  unfold Ctx.giver Ctx.lane0
  split at hy
  · next h =>
    rw [hu h] at hy
    rw [if_pos h]
    cases ha : c.act with
    | nil => simp [ha] at hy
    | cons a t =>
      rw [ha] at hy
      obtain ⟨l, -, rfl⟩ := List.mem_map.1 hy
      rfl
  · next h =>
    obtain ⟨l, -, rfl⟩ := List.mem_map.1 hy
    rw [if_neg h]

/-- Every lane that receives a value has one. -/
theorem LaneForm.mem_values {l : Nat} (hu : c.uni = true → c.lanes = c.act.take 1) (hl : l ∈ c.outLanes) :
    (l, (x.value c (c.giver l)).1) ∈ x.values c := by
  unfold Ctx.outLanes at hl
  unfold LaneForm.values Ctx.spread Ctx.giver Ctx.lane0
  split at hl
  · next h =>
    split at hl
    · cases hl
    · rw [if_pos h, if_pos h, hu h]
      cases ha : c.act with
      | nil => simp [ha] at hl
      | cons a t =>
        rw [ha] at hl
        exact List.mem_map.2 ⟨l, hl, rfl⟩
  · next h =>
    rw [if_neg h, if_neg h]
    exact List.mem_map.2 ⟨l, hl, rfl⟩

/-- A lane word writes a special destination: what the write leaves of the warp in a lane that receives a
value, the completion of the word keeps. -/
theorem laneForm_writes_sp {k : BitVec 5} {P : LaneForm → State → Ctx → State → Prop}
    (hP : ∀ (x : LaneForm) (s : State) (c : Ctx), laneForm i = some x → s.Issues x.entry c →
      (∀ l ∈ c.outLanes, (l, (x.value c (c.giver l)).1) ∈ x.values c) →
      (∀ y ∈ x.values c, ∀ z ∈ x.values c, y.1 = z.1 → y.2 = z.2) → disagreeing (.sp k) (x.values c) = [] →
      P x s c (c.completes x.entry
        ((s.writeDest s.cur (.sp k) 1 (x.values c)).updWarp s.cur fun w => w.orFlags (x.flags c)))) :
    Leaves i (.sp k) P := by
  intro x s c h hx hs hd
  have hu := hs.lanes_of_uni (laneForm_gd h _)
  refine ⟨_, exec_laneForm_completes h hs hd, ?_⟩
  rw [regs_of_sp h hx hs]
  rw [hx] at hd ⊢
  exact hP x s c h hs (fun l hl => LaneForm.mem_values hu hl)
    (fun y hy z hz e => by rw [LaneForm.values_giver hu hy, LaneForm.values_giver hu hz, e])
    (disagreeing_of_destFault hd)

/-- The word D, A, B of the claims, with the types that it accepts. -/
theorem entry3_of_mem {sw : Bool} {d a b : Operand} {tys : List Nat}
    (hi : (i, tys) ∈ [(Instr.add sw d a b, tyNum), (.sub sw d a b, tyNum), (.mul sw d a b, tyNum),
      (.mulh sw d a b, tyInt), (.min sw d a b, tyNum), (.max sw d a b, tyNum), (.and sw d a b, tyAny),
      (.or sw d a b, tyAny), (.xor sw d a b, tyAny)])
    (h : laneForm i = some x) (m : Word) : ∃ rounds, x.entry m = entry3 sw m tys rounds d a b := by
  simp only [List.mem_cons, List.not_mem_nil, or_false, Prod.mk.injEq] at hi
  rcases hi with ⟨rfl, rfl⟩ | ⟨rfl, rfl⟩ | ⟨rfl, rfl⟩ | ⟨rfl, rfl⟩ | ⟨rfl, rfl⟩ | ⟨rfl, rfl⟩ | ⟨rfl, rfl⟩
    | ⟨rfl, rfl⟩ | ⟨rfl, rfl⟩ <;> cases h <;> exact ⟨_, rfl⟩

end Sys2Proof.Claims

namespace Sys2Proof.Claims

open Sys2Proof.Machine

/-- Settles O14: what a write to each special operand leaves of the warp, which the completion of its word keeps;
and the check of p0. -/
theorem specialDestinations : Obligations.SpecialDestinations := by
  intro i
  have finds {x : LaneForm} {s : State} {c : Ctx} (hs : s.Issues x.entry c) : s.Finds s.cur fun _ => True :=
    .intro hs.warp hs.grid trivial
  refine ⟨laneForm_writes_sp fun x s c h hs hv _ ha l hl => ?_, laneForm_writes_sp fun x s c h hs hv hu _ l hl => ?_,
    laneForm_writes_sp fun x s c h hs hv _ ha hsw l hl => ?_, fun sw ia ib cond fn a b pa pb s c => ⟨?_, ?_⟩⟩
  · refine State.Finds.mode ?_ l
    refine (hs.completes_eq _ _).symm ▸ State.Finds.orFlags_complete
      (.writeDest_mode (finds hs) ha (hv l hl)) _ _ _ _ _ fun w red now hw => ?_
    rw [Warp.complete_mode]
    exact hw
  · rw [← preds_word]
    refine State.Finds.preds ?_
    refine (hs.completes_eq _ _).symm ▸ State.Finds.orFlags_complete
      (.writeDest_preds (finds hs) (fun y hy e => hu y hy _ (hv l hl) e) (hv l hl))
      _ _ _ _ _ fun w red now hw => ?_
    rw [Warp.complete_preds]
    exact hw
  · refine State.Finds.status (x := statusOr (statusMask _) _) ?_ l
    refine (hs.completes_eq _ _).symm ▸ State.Finds.orFlags_complete
      (.writeDest_status (finds hs) ha (hv l hl)) _ _ _ _ _ fun w red now hw => ?_
    rw [Warp.complete_status _ hsw, ← hw]
    rfl
  · intro hs hc ht
    refine congrArg _ (runWord_staticFault _ hs (Entry.staticFault_p0 ?_ ?_ rfl))
    · simpa [compares, Instr.codesOk] using hc
    · have ht : tyOf c.w.ctl.mode ≤ 5 := ht
      simp only [compares, laneEntry, List.contains_eq_mem, List.mem_cons, List.not_mem_nil, decide_eq_true_eq]
      omega
  · intro hs hc
    refine congrArg _ (runWord_staticFault _ hs (Entry.staticFault_p0 ?_ rfl rfl))
    simpa [plogEntry, Instr.codesOk] using hc

/-- Settles O15: a word D, A, B has the checks of its entry, and the first fault found is the one taken. -/
theorem laneWordChecksInOrder : Obligations.LaneWordChecksInOrder := by
  refine ⟨fun sw d a b i tys hi x s c f h hs hf => ?_, fun sw d a b i tys hi x m w g priv h hn => ?_⟩
  · obtain ⟨rounds, he⟩ := entry3_of_mem hi h c.w.ctl.mode
    rw [exec_laneForm h, runWord_staticFault _ hs (by rw [he, entry3_staticFault]; exact hf)]
  · obtain ⟨rounds, he⟩ := entry3_of_mem hi h m
    rw [he, entry3_staticFault, hn]

end Sys2Proof.Claims
end


section
/-!
SUPPORT. Words of one warp: what does not change outside it, and SETMODE (R42).
-/

namespace Sys2Proof.Machine

variable {s t : State} {r : WarpRef}

/-! ## A warp by name -/

/-- A warp after its own update. -/
theorem warpOf_updWarp (s : State) (r : WarpRef) {f : Warp → Warp} (hf : ∀ w, (f w).slot = w.slot) :
    Claims.warpOf (s.updWarp r f) r = (Claims.warpOf s r).map f := by
  have hb := State.block?_updBlock s r.blk (fun b => b.updWarp r.slot f) fun b => Block.updWarp_id b r.slot f
  unfold Claims.warpOf State.warp? State.updWarp
  rw [hb]
  cases s.block? r.blk with
  | none => rfl
  | some b =>
    simp only [Option.map_some, Block.warp?_updWarp b r.slot f hf]
    cases b.warp? r.slot <;> rfl

/-- A warp after an update of another one. -/
theorem warpOf_updWarp_other (s : State) {r q : WarpRef} (hq : r ≠ q) {f : Warp → Warp}
    (hf : ∀ w, (f w).slot = w.slot) : Claims.warpOf (s.updWarp q f) r = Claims.warpOf s r := by
  have hid (b : Block) : (b.updWarp q.slot f).id = b.id := Block.updWarp_id b q.slot f
  unfold Claims.warpOf State.warp? State.updWarp
  by_cases he : r.blk = q.blk
  · have hs : r.slot ≠ q.slot := fun e => hq (by cases r; cases q; simp_all)
    rw [he, State.block?_updBlock s q.blk _ hid]
    cases s.block? q.blk with
    | none => rfl
    | some b =>
      simp only [Option.map_some, Block.warp?_updWarp_other b f hf hs]
      cases b.warp? r.slot <;> rfl
  · rw [State.block?_updBlock_other s _ hid he]

theorem warpOf_progress (s : State) (ctx : Nat) (r : WarpRef) :
    Claims.warpOf (s.progress ctx) r = Claims.warpOf s r := rfl

/-- A warp whose word has completed. -/
theorem warpOf_complete (s : State) (r : WarpRef) (k : Grid) (e : Entry) (pc : Nat) (j : Option (Nat × Bool)) :
    Claims.warpOf (s.complete r k e pc j) r
      = (Claims.warpOf s r).map fun w => w.complete e pc j k.packet.redundant s.now := by
  rw [State.complete, warpOf_progress, warpOf_updWarp _ _ fun _ => Warp.complete_slot _ _ _ _ _ _]

/-- A warp once the word of another one has completed. -/
theorem warpOf_complete_other (s : State) {r q : WarpRef} (hq : r ≠ q) (k : Grid) (e : Entry) (pc : Nat)
    (j : Option (Nat × Bool)) : Claims.warpOf (s.complete q k e pc j) r = Claims.warpOf s r := by
  rw [State.complete, warpOf_progress, warpOf_updWarp_other _ hq fun _ => Warp.complete_slot _ _ _ _ _ _]

theorem State.Stands.warpOf_cur {mk : Word → Entry} {c : Ctx} (h : s.Stands mk c) :
    Claims.warpOf s s.cur = some c.w := by
  rw [Claims.warpOf, h.warp]
  rfl

/-! ## Nothing outside the warp changes -/

theorem State.OnlyWarp.refl (s : State) (r : WarpRef) : s.OnlyWarp s r where
  mem _ := rfl
  host _ := rfl
  low _ := rfl
  block _ b h := ⟨b, h, rfl, rfl, rfl, rfl, rfl, rfl, rfl, rfl, rfl, rfl, rfl, rfl, fun _ _ => rfl⟩
  dev := rfl
  vfs := rfl
  cores := rfl
  clusters := rfl
  launches := rfl
  traffic := ⟨rfl, rfl, rfl, rfl, rfl, rfl, rfl⟩
  now := rfl

/-- A further update of the warp changes nothing outside it. -/
theorem State.OnlyWarp.updWarp (h : s.OnlyWarp t r) (f : Warp → Warp) (hf : ∀ w, (f w).slot = w.slot) :
    s.OnlyWarp (t.updWarp r f) r :=
  { h with
    block := by
      intro id b hb
      obtain ⟨b', hb', hrest⟩ := h.block id b hb
      by_cases hid : id = r.blk
      · subst hid
        refine ⟨b'.updWarp r.slot f, ?_, ?_⟩
        · rw [State.updWarp, State.block?_updBlock _ _ _ fun b => Block.updWarp_id b r.slot f, hb']
          rfl
        · obtain ⟨h1, h2, h3, h4, h5, h6, h7, h8, h9, h10, h11, h12, hw⟩ := hrest
          refine ⟨h1, h2, h3, h4, h5, h6, h7, h8, h9, h10, h11, h12, fun k hk => ?_⟩
          rw [Block.warp?_updWarp_other b' f hf fun e => hk ⟨rfl, e⟩, hw k hk]
      · refine ⟨b', ?_, hrest⟩
        rw [State.updWarp, State.block?_updBlock_other _ _ (fun b => Block.updWarp_id b r.slot f) hid, hb'] }

theorem State.OnlyWarp.progress (h : s.OnlyWarp t r) (ctx : Nat) : s.OnlyWarp (t.progress ctx) r := { h with }

/-- The completion of the warp's word changes nothing outside it. -/
theorem State.OnlyWarp.complete (h : s.OnlyWarp t r) (k : Grid) (e : Entry) (pc : Nat) (j : Option (Nat × Bool)) :
    s.OnlyWarp (t.complete r k e pc j) r :=
  (h.updWarp _ fun _ => Warp.complete_slot _ _ _ _ _ _).progress _

/-! ## A word that completes without a transfer (R32, R102) -/

theorem Warp.complete_run (w : Warp) (e : Entry) (pc : Nat) (j : Option (Nat × Bool)) (red : Bool) (now : Nat) :
    (w.complete e pc j red now).run = .ready ∨ (w.complete e pc j red now).run = .switch := by
  unfold Warp.complete
  dsimp only
  split
  · exact .inr rfl
  · exact .inl rfl

theorem Warp.complete_pc (w : Warp) (e : Entry) (pc : Nat) (red : Bool) (now : Nat) :
    (w.complete e pc none red now).ctl.pc = (stepLoops (pc + 4) w.ctl.loops).1 := by
  unfold Warp.complete
  rfl

/-! ## SETMODE (R42) -/

/-- A field of a mask that a bit selects. -/
theorem extractLsb'_pick (p : Bool) (mask : Word) (k n : Nat) :
    (if p = true then mask else 0).extractLsb' k n = if p = true then mask.extractLsb' k n else 0 := by
  cases p <;> simp

theorem getLsbD_pick (p : Bool) (mask : Word) (k : Nat) :
    (if p = true then mask else 0).getLsbD k = (p && mask.getLsbD k) := by
  cases p <;> simp

/-- A field of a complement. -/
theorem extractLsb'_not {k n : Nat} (x : Word) (h : k + n ≤ 32) :
    (~~~x).extractLsb' k n = ~~~x.extractLsb' k n := by
  ext i hi
  simp [show k + i < 32 by omega]

/-- A selected field of MODE takes its value from the word, and every other keeps its own. -/
theorem setmodeValue_fields (m : Word) (sel : BitVec 4) (val : BitVec 12) :
    (setmodeValue m sel val).extractLsb' 0 4
        = (if sel.getLsbD 0 then val.extractLsb' 0 4 else m.extractLsb' 0 4)
      ∧ (setmodeValue m sel val).extractLsb' 4 4
        = (if sel.getLsbD 1 then val.extractLsb' 4 4 else m.extractLsb' 4 4)
      ∧ (setmodeValue m sel val).extractLsb' 8 3
        = (if sel.getLsbD 2 then val.extractLsb' 8 3 else m.extractLsb' 8 3)
      ∧ (setmodeValue m sel val).getLsbD 11 = (if sel.getLsbD 3 then val.getLsbD 11 else m.getLsbD 11)
      ∧ (setmodeValue m sel val).extractLsb' 12 20 = m.extractLsb' 12 20 := by
  simp (disch := decide) only [setmodeValue, BitVec.extractLsb'_or, BitVec.extractLsb'_and, extractLsb'_not,
    extractLsb'_pick, BitVec.extractLsb'_setWidth_of_le, BitVec.getLsbD_or, BitVec.getLsbD_and, BitVec.getLsbD_not,
    BitVec.getLsbD_setWidth, getLsbD_pick]
  generalize sel.getLsbD 0 = s0
  generalize sel.getLsbD 1 = s1
  generalize sel.getLsbD 2 = s2
  generalize sel.getLsbD 3 = s3
  have h4 (x : BitVec 4) : x &&& 15#4 = x := BitVec.and_allOnes
  have h3 (x : BitVec 3) : x &&& 7#3 = x := BitVec.and_allOnes
  have h20 (x : BitVec 20) : x &&& 1048575#20 = x := BitVec.and_allOnes
  refine ⟨?_, ?_, ?_, ?_, ?_⟩
  · cases s0 <;> simp [h4]
  · cases s1 <;> simp [h4]
  · cases s2 <;> simp [h3]
  · cases s3 <;> simp
  · simp [h20]

end Sys2Proof.Machine
end

section
/-!
SUPPORT. Words that change their own warp alone, and the statement about SETMODE (R42).
-/

namespace Sys2Proof.Claims

open Sys2Proof.Machine

/-- A word that completes in its own warp alone: what the update of the warp and then the completion of the word
leave of it. -/
theorem warps_of_updWarp {i : Instr} {s : State} {mk : Word → Entry} {c : Ctx} {P : Warp → Prop} {f : Warp → Warp}
    (hs : s.Issues mk c) (he : exec i s = .next (c.completes mk (s.updWarp s.cur f)))
    (hf : ∀ w, (f w).slot = w.slot)
    (hp : ∀ red now, P ((f c.w).complete (mk c.mode) c.w.ctl.pc none red now)) : Warps i s P := by
  rw [hs.completes_eq] at he
  refine ⟨_, (f c.w).complete (mk c.mode) c.w.ctl.pc none c.g.packet.redundant s.now, he, ?_,
    ((State.OnlyWarp.refl s s.cur).updWarp f hf).complete _ _ _ _, rfl, Warp.complete_run _ _ _ _ _ _, hp _ _⟩
  rw [warpOf_complete, warpOf_updWarp s _ hf, hs.warpOf_cur]
  rfl

/-- Settles O22: the fields of the value that SETMODE writes to MODE. -/
theorem setmodeWritesSelectedFields : Obligations.SetmodeWritesSelectedFields := by
  intro sw sel val s c hs
  refine warps_of_updWarp (f := fun w => w.setMode (setmodeValue w.ctl.mode sel val)) hs ?_ (fun _ => rfl)
    fun red now => ?_
  · refine congrArg _ (runWord_done hs ?_)
    rw [hs.s_eq, hs.r_eq]
  · rw [Warp.complete_mode]
    obtain ⟨hgd, hty, hrd, hsat, hrest⟩ := setmodeValue_fields c.w.ctl.mode sel val
    refine ⟨Warp.complete_regs _ _ _ _ _ _, Warp.complete_pc _ _ _ _ _, hgd, hty, hrd, hsat, hrest⟩

end Sys2Proof.Claims
end

section
/-!
SUPPORT. The words of handler blocks: TLBI, FHGET, FHDONE, RTT and SWR (R302, R303, R321, R322).
-/

namespace Sys2Proof.Machine

open Sys2Proof.Claims (warpOf)

variable {s t : State} {r : WarpRef} {c : Ctx}

/-! ## Parts that an update leaves -/

/-- A warp does not depend on what is not a block. -/
theorem warpOf_of_blocks (h : t.blocks = s.blocks) (r : WarpRef) : warpOf t r = warpOf s r := by
  simp only [warpOf, State.warp?, State.block?, h]

/-- A warp after an update of every block that updates every warp alike. -/
theorem warpOf_map {f : Block → Block} {g : Warp → Warp} (h : t.blocks = s.blocks.map f) (hi : ∀ b, (f b).id = b.id)
    (hw : ∀ b, (f b).warps = b.warps.map g) (hg : ∀ w, (g w).slot = w.slot) (r : WarpRef) :
    warpOf t r = (warpOf s r).map g := by
  simp only [warpOf, State.warp?, State.block?, h, List.find?_map, Function.comp_def, hi]
  cases s.blocks.find? (·.id == r.blk) with
  | none => rfl
  | some b =>
    simp only [Option.map_some, Block.warp?, hw, List.find?_map, Function.comp_def, hg]
    cases b.warps.find? (·.slot == r.slot) <;> rfl

/-! ## TLBI (R302) -/

/-- The request of a TLBI. -/
def Ctx.tlbiReq (c : Ctx) (d a : Operand) : TlbiReq :=
  { id := c.s.nextId, ctx := ((c.one d).extractLsb' 0 16).toNat, va := (c.pair64 a).toNat
    all := (c.one d).getLsbD 16, exec := (c.one d).getLsbD 17
    own := (((c.s.accsOf c.r).filter fun a => a.kind.writes && !a.remote).map Acc.id) ++ c.heldIds true
    accs := [], purged := false }

/-- The state in which a TLBI is outstanding, its entries gone. -/
def Ctx.afterTlbi (c : Ctx) (q : TlbiReq) : State :=
  let t := c.s.fresh.shootdown q
  { t with tlbis := t.tlbis ++ [q] }.updWarp c.r fun w => { w with tlbis := w.tlbis ++ [q.id] }

theorem tlbiEff_done {d a : Operand} (h0 : (c.one d).extractLsb' 18 14 = 0)
    (ha : c.s.ctxAlive ((c.one d).extractLsb' 0 16).toNat = true) :
    tlbiEff d a c = .done (c.afterTlbi (c.tlbiReq d a)) :=
  if_neg (by rw [h0, ha]; decide)

theorem tlbiEff_range {d a : Operand} (h : (c.one d).extractLsb' 18 14 ≠ 0
      ∨ c.s.ctxAlive ((c.one d).extractLsb' 0 16).toNat = false) :
    tlbiEff d a c = .fault (faultAt fcRange 1) := by
  refine if_pos ?_
  rcases h with h | h
  · rw [bne_iff_ne.2 h, Bool.true_or]
  · rw [h, Bool.not_false, Bool.or_true]

theorem warpOf_afterTlbi (c : Ctx) (q : TlbiReq) :
    warpOf (c.afterTlbi q) c.r = (warpOf c.s c.r).map fun w => { w with tlbis := w.tlbis ++ [q.id] } := by
  refine (warpOf_updWarp _ c.r (f := fun w => { w with tlbis := w.tlbis ++ [q.id] }) fun _ => rfl).trans
    (congrArg _ ?_)
  exact (warpOf_map (s := c.s) (f := fun b => { b with captured := b.captured.filter fun x => !q.names x.2 }) (g := id)
    rfl (fun _ => rfl) (fun _ => (List.map_id _).symm) (fun _ => rfl) c.r).trans (congrFun Option.map_id _)

/-- No translation that a TLBI names stays in the list that it filters. -/
theorem TlbiReq.names_of_mem_filter {q : TlbiReq} {l : List Tlb} {t : Tlb} (h : t ∈ l.filter fun t => !q.names t) :
    q.names t = false := by
  simpa using (List.mem_filter.1 h).2

theorem State.shootdown_cores {q : TlbiReq} {e : Core} (h : e ∈ (s.shootdown q).cores) :
    (∀ t ∈ e.dtlb, q.names t = false) ∧ (q.exec = true → ∀ t ∈ e.itlb, q.names t = false) := by
  obtain ⟨k, -, rfl⟩ := List.mem_map.1 h
  refine ⟨fun t ht => TlbiReq.names_of_mem_filter ht, fun hx t ht => ?_⟩
  rw [hx] at ht
  exact TlbiReq.names_of_mem_filter ht

theorem State.shootdown_clusters {q : TlbiReq} {e : Cluster} (h : e ∈ (s.shootdown q).clusters) :
    ∀ t ∈ e.tlb, q.names t = false := by
  obtain ⟨k, -, rfl⟩ := List.mem_map.1 h
  exact fun t ht => TlbiReq.names_of_mem_filter ht

theorem Warp.complete_tlbis (w : Warp) (e : Entry) (pc : Nat) (j : Option (Nat × Bool)) (red : Bool) (now : Nat) :
    (w.complete e pc j red now).tlbis = w.tlbis := rfl

end Sys2Proof.Machine

namespace Sys2Proof.Claims

open Sys2Proof.Machine

variable {s : State} {c : Ctx} {sw wait : Bool} {d a : Operand}

/-- A TLBI of a context that lives. -/
theorem tlbi_done (hs : s.Issues (sysEntry sw d a) c) (h0 : (c.one d).extractLsb' 18 14 = 0)
    (ha : s.ctxAlive ((c.one d).extractLsb' 0 16).toNat = true) :
    ∃ u q, exec (.tlbi sw d a) s = .next u ∧ u.tlbis = s.tlbis ++ [q]
      ∧ q.ctx = ((c.one d).extractLsb' 0 16).toNat ∧ q.va = (c.pair64 a).toNat ∧ q.all = (c.one d).getLsbD 16
      ∧ (∀ e ∈ u.cores, ∀ t ∈ e.dtlb, q.names t = false)
      ∧ (∀ e ∈ u.clusters, ∀ t ∈ e.tlb, q.names t = false)
      ∧ ((c.one d).getLsbD 17 = true → ∀ e ∈ u.cores, ∀ t ∈ e.itlb, q.names t = false)
      ∧ ∃ w', warpOf u s.cur = some w' ∧ w'.tlbis = c.w.tlbis ++ [q.id] ∧ w'.regs = c.w.regs := by
  refine ⟨_, c.tlbiReq d a, congrArg Host.Outcome.next (runWord_done hs (tlbiEff_done h0 (hs.s_eq ▸ ha))), ?_, rfl, rfl,
    rfl, fun e he => (State.shootdown_cores he).1, fun e he => State.shootdown_clusters he,
    fun hx e he => (State.shootdown_cores he).2 hx, ?_⟩
  · conv_rhs => rw [← hs.s_eq]
    rfl
  · refine ⟨({ c.w with tlbis := c.w.tlbis ++ [c.s.nextId] } : Warp).complete (sysEntry sw d a c.mode) c.w.ctl.pc none
      c.g.packet.redundant (c.afterTlbi (c.tlbiReq d a)).now, ?_, Warp.complete_tlbis _ _ _ _ _ _,
      Warp.complete_regs _ _ _ _ _ _⟩
    have hw := warpOf_afterTlbi c (c.tlbiReq d a)
    rw [hs.r_eq, hs.s_eq, hs.warpOf_cur] at hw
    rw [hs.completes_eq, warpOf_complete, hw]
    rfl

end Sys2Proof.Claims
end

section
/-!
SUPPORT. FHDONE (R303).
-/

namespace Sys2Proof.Machine

variable {s t : State}

/-- No warp of a context is held on this sheaf alone. -/
def State.NoneHeld (s : State) (ctx id : Nat) : Prop :=
  ∀ b ∈ s.blocks, ∀ w ∈ b.warps, s.ctxOf b = ctx → w.run ≠ .held [id]

/-- No warp becomes held where the blocks keep their grids and each warp keeps what it waits for, or waits for no
sheaf. -/
theorem State.NoneHeld.map {ctx id : Nat} (h : s.NoneHeld ctx id) (hg : t.grids = s.grids) {f : Block → Block}
    (hb : t.blocks = s.blocks.map f) (hf : ∀ b, (f b).grid = b.grid)
    (hw : ∀ b, ∀ w' ∈ (f b).warps, (∃ w ∈ b.warps, w'.run = w.run) ∨ w'.run ≠ .held [id]) : t.NoneHeld ctx id := by
  intro b' hb' w' hw' hctx
  rw [hb] at hb'
  obtain ⟨b, hmem, rfl⟩ := List.mem_map.1 hb'
  have hc : s.ctxOf b = ctx := by
    rw [← hctx]
    simp only [State.ctxOf, State.grid?, hg, hf]
  rcases hw b w' hw' with ⟨w, hwm, he⟩ | hn
  · exact he ▸ h b hmem w hwm hc
  · exact hn

/-- A warp whose sheaf is done no longer waits for it. -/
theorem Warp.unhold_run (w : Warp) (id now : Nat) : (w.unhold id now).run ≠ .held [id] := by
  intro h
  unfold Warp.unhold at h
  split at h
  · next ids hr =>
    dsimp only at h
    split at h
    · next hc =>
      rw [hr] at h
      simp [Run.held.inj h] at hc
    · split at h
      · cases h
      · have hm : id ∈ ids.filter (· != id) := Run.held.inj h ▸ List.mem_singleton_self id
        simp at hm
  · next hr => exact hr _ h

theorem Warp.run_of_not_heldOn {w : Warp} {id : Nat} (h : w.heldOn id = false) : w.run ≠ .held [id] := by
  intro hr
  simp [Warp.heldOn, hr] at h

/-- Outcome 0 leaves no warp of the context that waits for the sheaf alone. -/
theorem State.sheafRetry_noneHeld (s : State) (ctx id : Nat) : (s.sheafRetry ctx id).NoneHeld ctx id := by
  intro b' hb' w' hw' hctx
  obtain ⟨b, -, rfl⟩ := List.mem_map.1 hb'
  by_cases hc : s.ctxOf b = ctx
  · rw [if_pos (beq_iff_eq.2 hc)] at hw'
    obtain ⟨w, -, rfl⟩ := List.mem_map.1 hw'
    split
    · exact Warp.unhold_run w id s.now
    · next h => exact Warp.run_of_not_heldOn (eq_false_of_ne_true h)
  · rw [if_neg (mt beq_iff_eq.1 hc)] at hctx
    exact absurd hctx hc

theorem State.NoneHeld.dropSheaf {ctx id : Nat} (h : s.NoneHeld ctx id) (x : Sheaf) :
    (s.dropSheaf x).NoneHeld ctx id := by
  refine h.map rfl rfl (fun _ => rfl) fun b w' hw' => .inl ?_
  obtain ⟨w, hw, rfl⟩ := List.mem_map.1 hw'
  exact ⟨w, hw, rfl⟩

theorem State.NoneHeld.complete {ctx id : Nat} (h : s.NoneHeld ctx id) (r : WarpRef) (k : Grid) (e : Entry) (pc : Nat)
    (j : Option (Nat × Bool)) : (s.complete r k e pc j).NoneHeld ctx id := by
  refine h.map (f := fun b => if b.id == r.blk then
    b.updWarp r.slot fun w => w.complete e pc j k.packet.redundant s.now else b) rfl rfl (fun b => by split <;> rfl) fun b w' hw' => ?_
  split at hw'
  · obtain ⟨w, hw, rfl⟩ := List.mem_map.1 hw'
    split
    · refine .inr ?_
      rcases Warp.complete_run w e pc j k.packet.redundant s.now with h | h <;> rw [h] <;> exact Run.noConfusion
    · exact .inl ⟨w, hw, rfl⟩
  · exact .inl ⟨w', hw', rfl⟩

/-- A sheaf's queue slot is free once the sheaf is dropped, and no word that completes takes it. -/
theorem State.dropSheaf_ctxs {x : Sheaf} {y : Context} {z : Sheaf} (hy : y ∈ (s.dropSheaf x).ctxs)
    (hz : z ∈ y.sheaves) : z.place ≠ x.place := by
  obtain ⟨c, -, rfl⟩ := List.mem_map.1 hy
  exact bne_iff_ne.1 (List.mem_filter.1 hz).2

theorem State.complete_sheaves {y : Context} {r : WarpRef} {k : Grid} {e : Entry} {pc : Nat} {j : Option (Nat × Bool)}
    (hy : y ∈ (s.complete r k e pc j).ctxs) : ∃ z ∈ s.ctxs, y.sheaves = z.sheaves := by
  obtain ⟨z, hz, rfl⟩ := List.mem_map.1 hy
  exact ⟨z, hz, by split <;> rfl⟩

theorem fhdoneEff_done {c : Ctx} {d a : Operand} {f : Sheaf} (hf : c.s.claimedAt (c.pair64 a) = some f)
    (hn : f.cancelled = false) (h0 : c.one d = 0) (hw : c.writesDone = true) :
    fhdoneEff d a c = .done ((c.s.sheafRetry f.ctx f.id).dropSheaf f) := by
  simp [fhdoneEff, hf, hn, h0, hw]

theorem fhdoneEff_range {c : Ctx} {d a : Operand} (hf : c.s.claimedAt (c.pair64 a) = none) :
    fhdoneEff d a c = .fault (faultAt fcRange 1) := by
  simp only [fhdoneEff, hf]
  rfl

end Sys2Proof.Machine

namespace Sys2Proof.Claims

open Sys2Proof.Machine

/-- An FHDONE with outcome 0. -/
theorem fhdone_done {s : State} {c : Ctx} {sw : Bool} {d a : Operand} {f : Sheaf} (hs : s.Issues (sysEntry sw d a) c)
    (hf : s.claimedAt (c.pair64 a) = some f) (hn : f.cancelled = false) (h0 : c.one d = 0)
    (hw : c.writesDone = true) :
    ∃ u, exec (.fhdone sw d a) s = .next u ∧ u.mem = s.mem ∧ (∀ y ∈ u.ctxs, ∀ z ∈ y.sheaves, z.place ≠ f.place)
      ∧ ∀ b ∈ u.blocks, ∀ w ∈ b.warps, s.ctxOf b = f.ctx → w.run ≠ .held [f.id] := by
  have he := fhdoneEff_done (hs.s_eq.symm ▸ hf) hn h0 hw
  rw [hs.s_eq] at he
  refine ⟨_, congrArg Host.Outcome.next (runWord_done hs he), rfl, fun y hy z hz => ?_,
    ((s.sheafRetry_noneHeld f.ctx f.id).dropSheaf f).complete _ _ _ _ _⟩
  obtain ⟨x, hx, he⟩ := State.complete_sheaves hy
  exact State.dropSheaf_ctxs hx (he ▸ hz)

end Sys2Proof.Claims
end

section
/-!
SUPPORT. SWR and RTT (R321, R322).
-/

namespace Sys2Proof.Machine

open Sys2Proof.Claims (warpOf Repairs Repaired)

variable {s t : State} {r : WarpRef} {b : Block} {w : Warp} {c : Ctx}

/-! ## The target -/

/-- The warp that the operand of SWR and RTT names, where no reserved bit is set. -/
theorem Ctx.targetOf_of_repairs {a : Operand} (hs : c.s = s) (h : Repairs s c (c.pair64 a) r b w) :
    c.targetOf a true = .ok (r, b, w) := by
  obtain ⟨ht, -, hrun, -, -, hvf, k, hk, hkill⟩ := h
  have hmay : w.mayRepair = true := by
    rcases hrun with h | h <;> simp [Warp.mayRepair, h]
  simp only [Ctx.targetOf, hs, ht, hk, hmay, hvf, hkill, Bool.not_true, Bool.or_self, Bool.false_eq_true, if_false,
    bne_self_eq_false]

theorem warpOf_of_warp? (h : s.warp? r = some (b, w)) : warpOf s r = some w := by
  rw [warpOf, h]
  rfl

/-- Nothing is written again for a warp that is resident. -/
theorem State.refresh_resident (h : warpOf s r = some w) (he : w.evicted = false) : s.refresh r = s := by
  unfold State.refresh
  unfold warpOf at h
  split
  · rfl
  · next b w' hw =>
    rw [hw] at h
    obtain rfl : w' = w := Option.some.inj h
    rw [he, Option.filter_eq_none_iff.2 fun _ _ => Bool.false_ne_true]

/-- A resident warp after an update that keeps it resident, and after its record has been written again. -/
theorem State.updWarp_refresh {f : Warp → Warp} (h : s.warp? r = some (b, w)) (hf : ∀ w, (f w).slot = w.slot)
    (he : (f w).evicted = false) :
    (s.updWarp r f).refresh r = s.updWarp r f ∧ warpOf (s.updWarp r f) r = some (f w) := by
  have hw : warpOf (s.updWarp r f) r = some (f w) := by
    rw [warpOf_updWarp s r hf, warpOf_of_warp? h]
    rfl
  exact ⟨State.refresh_resident hw he, hw⟩

/-! ## SWR (R322) -/

/-- What SWR leaves of a warp. -/
theorem Warp.repair_frame (w : Warp) (kind idx : Nat) (x : Word) : (w.repair kind idx x).slot = w.slot
    ∧ (w.repair kind idx x).run = w.run ∧ (w.repair kind idx x).evicted = w.evicted := by
  match kind with
  | 0 | 1 | 2 | 3 | 4 | 5 | 6 | _ + 7 => exact ⟨rfl, rfl, rfl⟩

theorem sparseGet_set {α : Type} [DecidableEq α] (d : α) (m : Sparse α) (k j : Nat) (v : α) :
    sparseGet d (sparseSet d m k v) j = if j = k then v else sparseGet d m j := by
  split
  · next h => rw [h, sparseGet_set_same]
  · next h => exact sparseGet_set_other d m v h

/-- Bit 0 of the predicates is not stored. -/
theorem preds_byte (x : Byte) : (x &&& 0xFE) ||| 1 = x ||| 1 := by
  revert x
  decide

/-- SWR writes the register that its kind and index name. -/
theorem Warp.repair_repaired {w : Warp} {size kind idx : Nat} {x : Word} (h : swrOk w size kind idx x = true) :
    Repaired kind idx x w (w.repair kind idx x) := by
  match kind with
  | 0 | 1 | 2 => rfl
  | 3 => exact ⟨sparseGet_set_same _ _ _ _, fun k hk => sparseGet_set_other _ _ _ hk⟩
  | 4 =>
    have hv : (w.repair 4 idx x).regs.v = sparseSet 0 w.regs.v idx x :=
      congrArg (sparseSet 0 w.regs.v · x) (Nat.div_add_mod idx 64)
    intro k
    rw [hv, sparseGet_set]
  | 5 =>
    have hp : (w.repair 5 idx x).regs.p = (w.setPreds idx (x.extractLsb' 0 8)).regs.p := rfl
    intro l
    rw [← preds_byte (x.extractLsb' 0 8), ← Warp.setPreds_preds w idx (x.extractLsb' 0 8) l, Warp.preds, Warp.preds, hp]
  | 6 =>
    have hv : (w.repair 6 idx x).regs.o = sparseSet 0 w.regs.o idx x :=
      congrArg (sparseSet 0 w.regs.o · x) (Nat.div_add_mod idx 32)
    intro k
    rw [hv, sparseGet_set]
  | _ + 7 => exact absurd h Bool.false_ne_true

theorem swrEff_done {d a : Operand} {g : Grid} (hs : c.s = s) (h : Repairs s c (c.pair64 a) r b w)
    (hg : s.grid? b.grid = some g) (h0 : (c.pair64 a).extractLsb' 37 3 = 0) (h1 : (c.pair64 a).extractLsb' 44 4 = 0)
    (hok : swrOk w g.desc.size ((c.pair64 a).extractLsb' 40 4).toNat ((c.pair64 a).extractLsb' 48 16).toNat (c.one d)
      = true) :
    swrEff d a c = .done ((s.updWarp r fun w => w.repair ((c.pair64 a).extractLsb' 40 4).toNat
      ((c.pair64 a).extractLsb' 48 16).toNat (c.one d)).refresh r) := by
  have ht := Ctx.targetOf_of_repairs hs h
  simp only [swrEff, h0, h1, beq_self_eq_true, Bool.and_true, ht, hs, hg, hok, Bool.not_true, Bool.false_eq_true,
    if_false]

/-! ## RTT (R321) -/

theorem State.moveSlice_blocks (s : State) (ctx k h : Nat) : (s.moveSlice ctx k h).blocks = s.blocks := by
  unfold State.moveSlice
  split <;> rfl

/-- The end of a halt changes no block. -/
theorem State.endHalt_blocks (s : State) (ctx : Nat) : (s.endHalt ctx).blocks = s.blocks := by
  unfold State.endHalt State.thaw
  split
  · rfl
  · split
    · rfl
    · next c _ =>
      refine List.foldlRecOn (motive := fun t : State => t.blocks = s.blocks) _ _ rfl fun t ht k _ => ?_
      exact (State.moveSlice_blocks t ctx k c.haltAt).trans ht

theorem rttEff_done {a : Operand} (hs : c.s = s) (h : Repairs s c (c.pair64 a) r b w)
    (h0 : (c.pair64 a).extractLsb' 37 3 = 0) (h1 : (c.pair64 a).extractLsb' 41 23 = 0) :
    rttEff a c = .done ((((s.updWarp r fun w => { w.resumed ((c.pair64 a).getLsbD 40) with since := s.now }).refresh
      r).endHalt ((c.pair64 a).extractLsb' 0 16).toNat).progress ((c.pair64 a).extractLsb' 0 16).toNat) := by
  have ht := Ctx.targetOf_of_repairs hs h
  simp only [rttEff, h0, h1, beq_self_eq_true, Bool.and_true, ht, hs]

end Sys2Proof.Machine

namespace Sys2Proof.Claims

open Sys2Proof.Machine

variable {s : State} {c : Ctx} {sw : Bool} {d a : Operand} {r : WarpRef} {b : Block} {w : Warp}

/-- An SWR of a warp that it may repair. -/
theorem swr_done {g : Grid} (hs : s.Issues (sysEntry sw d a) c) (h : Repairs s c (c.pair64 a) r b w)
    (hg : s.grid? b.grid = some g) (h0 : (c.pair64 a).extractLsb' 37 3 = 0) (h1 : (c.pair64 a).extractLsb' 44 4 = 0)
    (hok : swrOk w g.desc.size ((c.pair64 a).extractLsb' 40 4).toNat ((c.pair64 a).extractLsb' 48 16).toNat (c.one d)
      = true) :
    ∃ u w', exec (.swr sw d a) s = .next u ∧ warpOf u r = some w'
      ∧ Repaired ((c.pair64 a).extractLsb' 40 4).toNat ((c.pair64 a).extractLsb' 48 16).toNat (c.one d) w w'
      ∧ w'.run = w.run := by
  obtain ⟨-, hwarp, -, hev, hne, -⟩ := id h
  obtain ⟨-, hrun, hev'⟩ := Warp.repair_frame w ((c.pair64 a).extractLsb' 40 4).toNat
    ((c.pair64 a).extractLsb' 48 16).toNat (c.one d)
  obtain ⟨hr, hw⟩ := State.updWarp_refresh hwarp (fun w => (Warp.repair_frame w _ _ _).1) (hev'.trans hev)
  refine ⟨_, _, congrArg Host.Outcome.next (runWord_done hs (swrEff_done hs.s_eq h hg h0 h1 hok)), ?_,
    Warp.repair_repaired hok, hrun⟩
  rw [hs.completes_eq, warpOf_complete_other _ hne, hr, hw]

/-- An RTT of a warp that it may resume. -/
theorem rtt_done (hs : s.Issues (rttEntry sw a) c) (h : Repairs s c (c.pair64 a) r b w)
    (h0 : (c.pair64 a).extractLsb' 37 3 = 0) (h1 : (c.pair64 a).extractLsb' 41 23 = 0) :
    ∃ u w', exec (.rtt sw a) s = .next u ∧ warpOf u r = some w' ∧ w'.halted = false
      ∧ w'.run = (if w.run.resumes then .ready else w.run) ∧ w'.regs = w.regs
      ∧ w'.ctl.pc = w.ctl.pc + if (c.pair64 a).getLsbD 40 then 4 else 0 := by
  obtain ⟨-, hwarp, -, hev, hne, -⟩ := id h
  obtain ⟨hr, hw⟩ := State.updWarp_refresh (f := fun w => { w.resumed ((c.pair64 a).getLsbD 40) with since := s.now })
    hwarp (fun _ => rfl) hev
  refine ⟨_, { w.resumed ((c.pair64 a).getLsbD 40) with since := s.now },
    congrArg Host.Outcome.next (runWord_done hs (rttEff_done hs.s_eq h h0 h1)), ?_, rfl, rfl, rfl, ?_⟩
  · rw [hs.completes_eq, warpOf_complete_other _ hne, hr, warpOf_progress,
      warpOf_of_blocks (State.endHalt_blocks _ _), hw]
  · simp only [Warp.resumed]
    split <;> rfl

end Sys2Proof.Claims
end

section
/-!
SUPPORT. The words of handler blocks that are refused: without privilege (R50), and reserved sub-ops (R51).
-/

namespace Sys2Proof

/-- A word of major 0x7E past the five sub-ops decodes to nothing (R51). -/
theorem decode_reservedSubop {y : Word} (hm : Claims.majorOf y = 0x7E) (h5 : 5 ≤ (y.extractLsb' 0 5).toNat) :
    decode y = .error .reservedSubop := by
  have hsplit := major_toNat y
  have ho := (y.extractLsb' 24 4).isLt
  rw [Claims.majorOf, hsplit] at hm
  have hf : (y.extractLsb' 28 3).toNat = 7 := by omega
  have hn : (y.extractLsb' 24 4).toNat = 14 := by omega
  have h8 : 5 ≤ ((y.extractLsb' 0 24).extractLsb' 0 8).toNat := by
    simp only [BitVec.extractLsb'_toNat] at h5 ⊢
    omega
  have hne (n : BitVec 8) (hn : n.toNat < 5) : (y.extractLsb' 0 24).extractLsb' 0 8 ≠ n := by
    rintro rfl
    omega
  simp only [decode, hf, hn, decodeArraySystem, hne 0 (by decide), hne 1 (by decide), hne 2 (by decide),
    hne 3 (by decide), hne 4 (by decide), and_false, if_false, if_neg (Nat.not_le.2 h8)]

end Sys2Proof

namespace Sys2Proof.Machine

/-- A word of a privileged form, which the operands and the budget allow, in a context without the flag. -/
theorem Entry.staticFault_permission {e : Entry} {w : Warp} {g : Grid} (hc : e.codes = true) (hm : e.modeOk = true)
    (h0 : e.p0 = false) (hp : e.priv = true) (hok : ∀ u ∈ e.uses, u.ok = true)
    (hb : ∀ u ∈ e.uses, u.overBudget w.budget = false) : e.staticFault w g false = some (faultAt fcPermission 0) := by
  have ho : e.uses.any (fun u => !u.ok) = false := List.any_eq_false.2 fun u hu => by simp [hok u hu]
  have hb' : e.uses.any (·.overBudget w.budget) = false := List.any_eq_false.2 fun u hu => by simp [hb u hu]
  simp [Entry.staticFault, hc, hm, h0, hp, ho, hb']

/-- A register of more than a lane is under no budget. -/
theorem Use.overBudget_of_isWide {u : Use} (h : u.o.isWide = true) (budget : Nat) : u.overBudget budget = false := by
  unfold Use.overBudget
  split
  · next i hv =>
    rw [hv] at h
    exact absurd h Bool.false_ne_true
  · rfl

/-- A word of a privileged form, whose operands are all of more than a lane, in a context without the flag. -/
theorem runWord_permission {s : State} {c : Ctx} {mk : Word → Entry} (body : Ctx → Eff) (hs : s.Stands mk c)
    (hp : s.privileged c.g.ctx = false) (hc : (mk c.mode).codes = true) (hm : (mk c.mode).modeOk = true)
    (h0 : (mk c.mode).p0 = false) (hpriv : (mk c.mode).priv = true) (hok : ∀ u ∈ (mk c.mode).uses, u.ok = true)
    (hw : ∀ u ∈ (mk c.mode).uses, u.ok = true → u.o.isWide = true) :
    runWord s mk body = s.takeFault s.cur (faultAt fcPermission 0) c.w.ctl.pc := by
  refine runWord_staticFault body hs ?_
  rw [hp]
  exact Entry.staticFault_permission hc hm h0 hpriv hok fun u hu => Use.overBudget_of_isWide (hw u hu (hok u hu)) _

theorem Use.isWide_of_wide {u : Use} {o : Operand} {n : Nat} (hu : u ∈ [Use.wide o n]) (h : u.ok = true) :
    u.o.isWide = true := by
  obtain rfl := List.mem_singleton.1 hu
  exact (Bool.and_eq_true_iff.1 h).1

theorem Use.isWide_of_wideDst {u : Use} {o : Operand} {n : Nat} (hu : u ∈ [Use.wideDst o n]) (h : u.ok = true) :
    u.o.isWide = true := by
  obtain rfl := List.mem_singleton.1 hu
  exact (Bool.and_eq_true_iff.1 h).1

theorem sysEntry_isWide {sw : Bool} {d a : Operand} {m : Word} :
    ∀ u ∈ (Claims.sysEntry sw d a m).uses, u.ok = true → u.o.isWide = true := by
  intro u hu
  rcases List.mem_cons.1 hu with rfl | hu
  · exact Use.isWide_of_wide (List.mem_singleton_self _)
  · exact Use.isWide_of_wide hu

end Sys2Proof.Machine

namespace Sys2Proof.Claims

open Sys2Proof.Machine

variable {s : State} {c : Ctx}

/-- The words of handler blocks without the privileged flag. -/
theorem handler_permission {sw wait : Bool} {d a : Operand} {i : Instr} {e : Word → Entry}
    (hi : (i, e) ∈ [(Instr.tlbi sw d a, sysEntry sw d a), (.fhdone sw d a, sysEntry sw d a),
      (.swr sw d a, sysEntry sw d a), (.fhget sw d wait, fhgetEntry sw d), (.rtt sw a, rttEntry sw a)])
    (hs : s.Stands e c) (hp : s.privileged c.g.ctx = false) (hok : ∀ u ∈ (e c.mode).uses, u.ok = true) :
    exec i s = .next (s.takeFault s.cur (faultAt fcPermission 0) c.w.ctl.pc) := by
  simp only [List.mem_cons, List.not_mem_nil, or_false, Prod.mk.injEq] at hi
  rcases hi with ⟨rfl, rfl⟩ | ⟨rfl, rfl⟩ | ⟨rfl, rfl⟩ | ⟨rfl, rfl⟩ | ⟨rfl, rfl⟩
  · exact congrArg Host.Outcome.next (runWord_permission (tlbiEff d a) hs hp rfl rfl rfl rfl hok
      (sysEntry_isWide (m := c.mode)))
  · exact congrArg Host.Outcome.next (runWord_permission (fhdoneEff d a) hs hp rfl rfl rfl rfl hok
      (sysEntry_isWide (m := c.mode)))
  · exact congrArg Host.Outcome.next (runWord_permission (swrEff d a) hs hp rfl rfl rfl rfl hok
      (sysEntry_isWide (m := c.mode)))
  · exact congrArg Host.Outcome.next (runWord_permission (fhgetEff d wait) hs hp rfl rfl rfl rfl hok fun _ =>
      Use.isWide_of_wideDst)
  · exact congrArg Host.Outcome.next (runWord_permission (rttEff a) hs hp rfl rfl rfl rfl hok fun _ =>
      Use.isWide_of_wide)

/-- A reserved sub-op of major 0x7E. -/
theorem reservedSubop_illegal {y : Word} (hm : majorOf y = 0x7E) (h5 : 5 ≤ (y.extractLsb' 0 5).toNat) :
    issued y = .illegalWord y ∧ (s.Stands (fun _ => { sw := false, codes := false }) c →
      exec (issued y) s = .next (s.takeFault s.cur (faultAt fcIllegalInstruction 0) c.w.ctl.pc)) := by
  have hi : issued y = .illegalWord y := by
    simp only [issued, decode_reservedSubop hm h5]
  exact ⟨hi, fun hs => hi ▸ congrArg Host.Outcome.next (runWord_staticFault _ hs rfl)⟩

end Sys2Proof.Claims
end

section
/-!
SUPPORT. What leaves the registers of a warp, its claims and the clusters as they are (R112, R303).
-/

namespace Sys2Proof.Machine

open Sys2Proof.Claims (warpOf)

variable {s t u : State} {r : WarpRef}

/-! ## The clusters, and the sheaves that a warp has claimed -/

structure State.ClaimsKept (s t : State) (r : WarpRef) : Prop where
  clusters : t.clusters = s.clusters
  claimed : (warpOf t r).map Warp.claimed = (warpOf s r).map Warp.claimed

namespace State.ClaimsKept

theorem refl (s : State) (r : WarpRef) : s.ClaimsKept s r := ⟨rfl, rfl⟩

theorem trans (h : s.ClaimsKept t r) (k : t.ClaimsKept u r) : s.ClaimsKept u r :=
  ⟨k.clusters.trans h.clusters, k.claimed.trans h.claimed⟩

theorem updWarp (s : State) (r : WarpRef) {f : Warp → Warp} (hs : ∀ w, (f w).slot = w.slot)
    (hc : ∀ w, (f w).claimed = w.claimed) : s.ClaimsKept (s.updWarp r f) r := by
  refine ⟨rfl, ?_⟩
  rw [warpOf_updWarp s r hs, Option.map_map, show Warp.claimed ∘ f = Warp.claimed from funext hc]

theorem updBlock (s : State) (r : WarpRef) (id : Nat) {f : Block → Block} (hi : ∀ b, (f b).id = b.id)
    (hw : ∀ b, (f b).warps = b.warps) : s.ClaimsKept (s.updBlock id f) r := by
  refine ⟨rfl, ?_⟩
  have h : warpOf (s.updBlock id f) r = (warpOf s r).map fun w => w :=
    warpOf_map (f := fun b => if b.id == id then f b else b) rfl
      (fun b => by split <;> simp [hi]) (fun b => by split <;> simp [hw]) (fun _ => rfl) r
  rw [h, Option.map_id']

/-- A write of one register changes no cluster and no claim. -/
theorem writeOne (s : State) (r : WarpRef) (l : Nat) (o : Operand) (x : Word) :
    s.ClaimsKept (s.writeOne r l o x) r := by
  unfold State.writeOne
  cases o with
  | v i => exact updWarp s r (fun _ => rfl) fun _ => rfl
  | o i => exact updWarp s r (fun _ => rfl) fun _ => rfl
  | w i => exact updWarp s r (fun _ => rfl) fun _ => rfl
  | b i => exact updBlock s r _ (fun _ => rfl) fun _ => rfl
  | k i => cases s.block? r.blk <;> exact ⟨rfl, rfl⟩
  | g i => cases s.block? r.blk <;> exact ⟨rfl, rfl⟩
  | sp i =>
    dsimp only
    split
    · exact updWarp s r (fun _ => rfl) fun _ => rfl
    · split
      · exact updWarp s r (fun _ => rfl) fun _ => rfl
      · split
        · exact updWarp s r (fun _ => rfl) fun _ => rfl
        · exact refl s r

theorem writeRegs (s : State) (r : WarpRef) (l : Nat) (o : Operand) (n x : Nat) :
    s.ClaimsKept (s.writeRegs r l o n x) r := by
  induction n generalizing s o x with
  | zero => exact refl s r
  | succ n ih => exact (writeOne s r l o _).trans (ih _ _ _)

theorem foldl_writeRegs (s : State) (r : WarpRef) (d : Operand) (n : Nat) (vals : List (Nat × Nat)) :
    s.ClaimsKept (vals.foldl (fun s x => s.writeRegs r x.1 d n x.2) s) r := by
  induction vals generalizing s with
  | nil => exact refl s r
  | cons x t ih => exact (writeRegs s r x.1 d n x.2).trans (ih _)

end State.ClaimsKept

/-! ## The registers of a warp at their homes -/

/-- Beside clusters and claims, every register that the warp names holds what it held. -/
structure State.RegsKept (s t : State) (r : WarpRef) : Prop extends s.ClaimsKept t r where
  home : s.Has r → t.Has r ∧ ∀ l o, o.isReg = true → t.homeValue r l o = s.homeValue r l o

namespace State.RegsKept

theorem refl (s : State) (r : WarpRef) : s.RegsKept s r := ⟨.refl s r, fun h => ⟨h, fun _ _ _ => rfl⟩⟩

theorem trans (h : s.RegsKept t r) (k : t.RegsKept u r) : s.RegsKept u r := by
  refine ⟨h.toClaimsKept.trans k.toClaimsKept, fun hs => ?_⟩
  obtain ⟨ht, e1⟩ := h.home hs
  obtain ⟨hu, e2⟩ := k.home ht
  exact ⟨hu, fun l o ho => (e2 l o ho).trans (e1 l o ho)⟩

/-- What a register holds depends on the warp's own registers, the block's and the logs of the two sets. -/
theorem of_parts (hc : s.ClaimsKept t r)
    (h : ∀ b w g, s.warp? r = some (b, w) → s.grid? b.grid = some g → ∃ b' w' g', t.warp? r = some (b', w')
      ∧ t.grid? b'.grid = some g' ∧ w'.regs = w.regs ∧ b'.b = b.b ∧ (g'.kSet b').log = (g.kSet b).log
      ∧ (g'.gSet b').log = (g.gSet b).log) : s.RegsKept t r := by
  refine ⟨hc, ?_⟩
  rintro ⟨b, w, g, hw, hg⟩
  obtain ⟨b', w', g', hw', hg', hr, hb, hk, hgs⟩ := h b w g hw hg
  refine ⟨⟨b', w', g', hw', hg'⟩, fun l o ho => ?_⟩
  rw [State.homeValue_eq hw hg, State.homeValue_eq hw' hg']
  cases o with
  | sp i => exact absurd ho Bool.false_ne_true
  | _ => simp only [readOperand, RegSet.at, hr, hb, hk, hgs]

theorem updWarp (s : State) (r : WarpRef) {f : Warp → Warp} (hs : ∀ w, (f w).slot = w.slot)
    (hr : ∀ w, (f w).regs = w.regs) (hc : ∀ w, (f w).claimed = w.claimed) : s.RegsKept (s.updWarp r f) r :=
  of_parts (.updWarp s r hs hc) fun b w g hw hg =>
    ⟨b.updWarp r.slot f, f w, g, State.warp?_updWarp f hw hs, hg, hr w, rfl, rfl, rfl⟩

theorem vfs (s : State) (m : List Vf) (r : WarpRef) : s.RegsKept { s with vfs := m } r :=
  of_parts ⟨rfl, rfl⟩ fun b w g hw hg => ⟨b, w, g, hw, hg, rfl, rfl, rfl, rfl⟩

theorem complete (s : State) (r : WarpRef) (k : Grid) (e : Entry) (pc : Nat) (j : Option (Nat × Bool)) :
    s.RegsKept (s.complete r k e pc j) r :=
  (updWarp s r (fun _ => Warp.complete_slot _ _ _ _ _ _) (fun _ => Warp.complete_regs _ _ _ _ _ _) fun _ => rfl).trans
    (of_parts ⟨rfl, rfl⟩ fun b w g hw hg => ⟨b, w, g, hw, hg, rfl, rfl, rfl, rfl⟩)

end State.RegsKept

theorem RegSet.mark_log (m : RegSet) (reg store : Nat) : (m.mark reg store).log = m.log := by
  unfold RegSet.mark
  split <;> rfl

/-- The mark of a register leaves what it holds. -/
theorem State.RegsKept.addMark (s : State) (r : WarpRef) (m : Mark) : s.RegsKept (s.addMarks r [m]) r := by
  simp only [State.addMarks, List.foldl_cons, List.foldl_nil]
  split
  · refine .of_parts (.updBlock s r _ (fun _ => rfl) fun _ => rfl) fun b w g hw hg => ?_
    exact ⟨_, w, g, State.warp?_updBlock _ hw (fun _ => rfl) rfl, hg, rfl, rfl, rfl, rfl⟩
  · next n b' _ hb' =>
    refine .of_parts ⟨rfl, rfl⟩ fun b w g hw hg => ?_
    obtain rfl : b' = b := Option.some.inj (hb'.symm.trans (State.warp?_some.1 hw).1)
    refine ⟨b', w, g.setK b' ((g.kSet b').mark n m.store), hw, ?_, rfl, rfl, ?_, rfl⟩
    · rw [State.grid?_updGrid _ _ _ fun _ => by rfl, hg]
      rfl
    · rw [Grid.kSet_setK, RegSet.mark_log]
  · next n b' _ hb' =>
    refine .of_parts ⟨rfl, rfl⟩ fun b w g hw hg => ?_
    obtain rfl : b' = b := Option.some.inj (hb'.symm.trans (State.warp?_some.1 hw).1)
    refine ⟨b', w, g.setG b' ((g.gSet b').mark n m.store), hw, ?_, rfl, rfl, ?_, ?_⟩
    · rw [State.grid?_updGrid _ _ _ fun g => Grid.setG_id g b' _, hg]
      rfl
    · rw [Grid.kSet_setG]
    · rw [Grid.gSet_setG, RegSet.mark_log]
  · exact .updWarp s r (fun _ => rfl) (fun _ => rfl) fun _ => rfl

theorem State.RegsKept.addMarks (s : State) (r : WarpRef) (ms : List Mark) : s.RegsKept (s.addMarks r ms) r := by
  induction ms generalizing s with
  | nil => exact .refl s r
  | cons m ms ih => exact (State.RegsKept.addMark s r m).trans (ih _)

end Sys2Proof.Machine
end

section
/-!
SUPPORT. FHGET (R303): the write of the address, the queue that it comes from, and the word itself.
-/

namespace Sys2Proof.Machine

open Sys2Proof.Claims (warpOf)

variable {s t u : State} {r : WarpRef} {c : Ctx} {d : Operand}

/-! ## The value of a uniform word in a register of more than a lane -/

/-- The state in which a uniform word has written its one value. -/
def Ctx.afterPut (c : Ctx) (t : State) (d : Operand) (n v : Nat) : State :=
  (t.writeDest c.r d n (c.act.map fun l => (l, v))).updWarp c.r fun w => w.orFlags 0

theorem Operand.isReg_of_isWide (h : d.isWide = true) : d.isReg = true := by
  cases d <;> first | rfl | exact h

/-- Lanes that all write one value agree (R115). -/
theorem disagreeing_const (h : d.isWide = true) (ls : List Nat) (v : Nat) :
    disagreeing d (ls.map fun l => (l, v)) = [] := by
  have key (same : Nat → Nat → Bool) : ((ls.map fun l => (l, v)).filter fun x =>
      match (ls.map fun l => (l, v)).find? fun y => same x.1 y.1 with
      | some y => y.2 != x.2
      | none => false).map Prod.fst = [] := by
    rw [List.map_eq_nil_iff, List.filter_eq_nil_iff]
    intro x hx
    obtain ⟨l, -, rfl⟩ := List.mem_map.1 hx
    split
    · next y hy =>
      obtain ⟨m, -, rfl⟩ := List.mem_map.1 (List.mem_of_find?_eq_some hy)
      simp
    · exact Bool.false_ne_true
  cases d with
  | w i | b i | k i | g i => exact key fun _ _ => true
  | v i | o i | sp i => exact absurd h Bool.false_ne_true

theorem destFault_const (h : d.isWide = true) (ls : List Nat) (v : Nat) :
    destFault d (ls.map fun l => (l, v)) = none := by
  have hsp : d ≠ .sp 12 := by
    rintro rfl
    exact Bool.false_ne_true h
  simp only [destFault, disagreeing_const h, beq_eq_false_iff_ne.2 hsp, Bool.false_and, Bool.false_eq_true, if_false,
    List.isEmpty_nil, Bool.not_true]

theorem Ctx.put_wide (hu : c.uni = true) (hd : d.isWide = true) (t : State) (n l v : Nat) :
    c.put t d n [(l, v)] 0 = .done (c.afterPut t d n v) := by
  simp only [Ctx.put, Ctx.spread, hu, if_true, destFault_const hd, Ctx.afterPut]

/-- After the writes of the destination, its marks and tags leave what the registers hold. -/
theorem Ctx.regsKept_afterPut (c : Ctx) (t : State) (d : Operand) (n v : Nat) :
    ((destVals d (c.act.map fun l => (l, v))).foldl (fun s x => s.writeRegs c.r x.1 d n x.2) t).RegsKept
      (c.afterPut t d n v) c.r := by
  unfold Ctx.afterPut State.writeDest
  dsimp only
  refine .trans ?_ (.updWarp _ _ (fun _ => rfl) (fun _ => rfl) fun _ => rfl)
  refine .trans (.updWarp _ _ (f := fun w => { w with flt := { w.flt with
    marks := clearMarks d n (maskOf ((c.act.map fun l => (l, v)).map Prod.fst)) w.flt.marks } })
    (fun _ => rfl) (fun _ => rfl) fun _ => rfl) ?_
  obtain ⟨m, hm⟩ := State.passTags_vfs (((destVals d (c.act.map fun l => (l, v))).foldl
    (fun s x => s.writeRegs c.r x.1 d n x.2) t).updWarp c.r fun w => { w with flt := { w.flt with
    marks := clearMarks d n (maskOf ((c.act.map fun l => (l, v)).map Prod.fst)) w.flt.marks } }) c.r
    (if (c.act.map fun l => (l, v)).isEmpty then .sp 0 else d)
  rw [hm]
  exact .vfs _ _ _

theorem Ctx.claimsKept_afterPut (c : Ctx) (t : State) (d : Operand) (n v : Nat) :
    t.ClaimsKept (c.afterPut t d n v) c.r :=
  (State.ClaimsKept.foldl_writeRegs t c.r d n _).trans (c.regsKept_afterPut t d n v).toClaimsKept

/-- Each register of the destination holds its part of the value, in every lane. -/
theorem Ctx.homeValue_afterPut (ht : t.Has c.r) (hd : d.isWide = true) {n k l : Nat} (hn : n ≤ 32) (hk : k < n)
    (hl : l ∈ c.act) (v : Nat) : (c.afterPut t d n v).Has c.r
      ∧ (c.afterPut t d n v).homeValue c.r l (d.nth k) = BitVec.ofNat 32 (v / 2 ^ (32 * k)) := by
  have hreg := Operand.isReg_of_isWide hd
  have hdest : destVals d (c.act.map fun l => (l, v)) = (c.act.map fun l => (l, v)).take 1 := by
    cases d <;> first | rfl | exact absurd hd Bool.false_ne_true
  have hsame (x : Nat) : sameReg d d x l = true := by
    cases d <;> first | exact beq_self_eq_true _ | exact absurd hd Bool.false_ne_true
  have hval : ∀ x ∈ destVals d (c.act.map fun l => (l, v)), x.2 = v := by
    intro x hx
    rw [hdest] at hx
    obtain ⟨m, -, rfl⟩ := List.mem_map.1 (List.mem_of_mem_take hx)
    rfl
  have hex : ∃ x ∈ destVals d (c.act.map fun l => (l, v)), sameReg d d x.1 l = true := by
    rw [hdest]
    obtain ⟨a, as, ha⟩ := List.exists_cons_of_ne_nil (List.ne_nil_of_mem hl)
    exact ⟨(a, v), by simp [ha], hsame a⟩
  obtain ⟨hhas, hhome⟩ := (c.regsKept_afterPut t d n v).home (ht.fold d n _)
  exact ⟨hhas, (hhome l _ ((Operand.nth_isReg d k).trans hreg)).trans
    (ht.home_fold hreg hn _ (fun x hx _ => hval x hx) (.inl hex) hk)⟩

/-! ## The queue of a cluster (R300, R342) -/

/-- The blocks, the grids and the clusters are as they were. -/
def State.SameUnits (s t : State) : Prop := t.blocks = s.blocks ∧ t.grids = s.grids ∧ t.clusters = s.clusters

theorem State.SameUnits.trans (h : s.SameUnits t) (k : t.SameUnits u) : s.SameUnits u :=
  ⟨k.1.trans h.1, k.2.1.trans h.2.1, k.2.2.trans h.2.2⟩

theorem State.sameUnits_writeSram (s : State) (unit : SramUnit) (owner : Nat) (p : Nat → Bool) :
    s.SameUnits (s.writeSram unit owner p) := by
  unfold State.writeSram
  split <;> exact ⟨rfl, rfl, rfl⟩

theorem State.sameUnits_shiftSram (s : State) (unit : SramUnit) (owner : Nat) :
    s.SameUnits (s.shiftSram unit owner) := by
  have h := s.sameUnits_writeSram unit owner (· == 0)
  unfold State.shiftSram
  dsimp only
  split <;> exact h

theorem State.sameUnits_readSram (s : State) (unit : SramUnit) (owner core ctx : Nat) (p : Nat → Bool) :
    s.SameUnits (s.readSram unit owner core ctx p).2 := by
  unfold State.readSram
  dsimp only
  split
  · exact ⟨rfl, rfl, rfl⟩
  · exact List.foldlRecOn (motive := fun t : State => s.SameUnits t) _ _ ⟨rfl, rfl, rfl⟩ fun t ht e _ => ht

theorem State.sameUnits_peekSram (s : State) (unit : SramUnit) (owner core ctx : Nat) :
    s.SameUnits (s.peekSram unit owner core ctx true).2 := by
  have h := s.sameUnits_readSram unit owner core ctx (· == 0)
  simp only [State.peekSram, Bool.not_true, Bool.false_eq_true, if_false]
  split
  · exact h
  · exact h

theorem find?_putBy_same {α : Type} (key : α → Nat) (x : α) (l : List α) :
    (putBy key x l).find? (fun y => key y == key x) = some x := by
  induction l with
  | nil => simp [putBy]
  | cons y t ih =>
    unfold putBy
    split
    · simp
    · next h => rw [List.find?_cons_of_neg (by simpa using h), ih]

theorem State.cluster_id (s : State) (k : Nat) : (s.cluster k).id = k := by
  unfold State.cluster
  cases h : s.clusters.find? (·.id == k) with
  | none => rfl
  | some x => exact beq_iff_eq.1 (List.find?_some (p := fun y => Cluster.id y == k) h)

/-- A cluster after its own update. -/
theorem State.cluster_updCluster (s : State) (k : Nat) {f : Cluster → Cluster} (hf : ∀ x, (f x).id = x.id) :
    (s.updCluster k f).cluster k = f (s.cluster k) := by
  have hk : (f (s.cluster k)).id = k := (hf _).trans (s.cluster_id k)
  have h := find?_putBy_same Cluster.id (f (s.cluster k)) s.clusters
  rw [hk] at h
  rw [State.cluster, State.updCluster, h]
  rfl

theorem State.cluster_of_clusters (h : t.clusters = s.clusters) (k : Nat) : t.cluster k = s.cluster k := by
  rw [State.cluster, State.cluster, h]

/-! ## FHGET -/

/-- The warp of an FHGET that has taken the sheaf at a place. -/
def Warp.claim (p : Nat) (w : Warp) : Warp := { w with claimed := w.claimed ++ [p] }

/-- A cluster whose queue has lost its oldest entry. -/
def Cluster.leaving (rest : List (Nat × Nat)) (x : Cluster) : Cluster := { x with intake := rest }

/-- The state in which the oldest entry of a cluster's queue has left it, and its sheaf is claimed. -/
def Ctx.dequeued (c : Ctx) (k p : Nat) (rest : List (Nat × Nat)) : State :=
  (((c.s.peekSram .intake k c.b.core c.ctx true).2.shiftSram .intake k).updCluster k (Cluster.leaving rest)).updSheafAt
    p fun x => { x with claimed := true }

/-- The state in which the warp has the entry, before the destination is written. -/
def Ctx.afterTake (c : Ctx) (k p : Nat) (rest : List (Nat × Nat)) : State :=
  (c.dequeued k p rest).updWarp c.r (Warp.claim p)

/-- The state in which an FHGET has taken an entry. -/
def Ctx.afterFhget (c : Ctx) (d : Operand) (k p : Nat) (rest : List (Nat × Nat)) : State :=
  let t := c.afterPut (c.afterTake k p rest) d 2 (windowAddr p)
  if (c.s.peekSram .intake k c.b.core c.ctx true).1 then t.addMarks c.r (c.sramMarks d 2) else t

theorem fhgetEff_wait (h : (c.s.cluster (clusterOf c.b.core)).intake = []) : fhgetEff d true c = .wait c.s .parked := by
  simp only [fhgetEff, h, if_true]

theorem fhgetEff_zero (hu : c.uni = true) (hd : d.isWide = true) (h : (c.s.cluster (clusterOf c.b.core)).intake = []) :
    fhgetEff d false c = .done (c.afterPut c.s d 2 0) := by
  simp only [fhgetEff, h, Bool.false_eq_true, if_false, Ctx.put_wide hu hd]

theorem fhgetEff_take (hu : c.uni = true) (hd : d.isWide = true) {wait : Bool} {e p : Nat} {rest : List (Nat × Nat)}
    (h : (c.s.cluster (clusterOf c.b.core)).intake = (e, p) :: rest) :
    fhgetEff d wait c = .done (c.afterFhget d (clusterOf c.b.core) p rest) := by
  simp only [fhgetEff, h, Ctx.put_wide hu hd]
  rfl

theorem State.Has.of_units (h : s.Has r) (hb : t.blocks = s.blocks) (hg : t.grids = s.grids) : t.Has r := by
  obtain ⟨b, w, g, hw, hgr⟩ := h
  refine ⟨b, w, g, ?_, ?_⟩
  · rwa [State.warp?, State.block?, hb]
  · rwa [State.grid?, hg]

theorem State.Has.updWarp (h : s.Has r) {f : Warp → Warp} (hf : ∀ w, (f w).slot = w.slot) : (s.updWarp r f).Has r := by
  obtain ⟨b, w, g, hw, hg⟩ := h
  exact ⟨_, _, g, State.warp?_updWarp f hw hf, hg⟩

/-- What the queue's entry leaves as it was, and the queue. -/
theorem Ctx.dequeued_parts (c : Ctx) (k p : Nat) (rest : List (Nat × Nat)) : (c.dequeued k p rest).blocks = c.s.blocks
    ∧ (c.dequeued k p rest).grids = c.s.grids ∧ ((c.dequeued k p rest).cluster k).intake = rest := by
  have h := (c.s.sameUnits_peekSram .intake k c.b.core c.ctx).trans (State.sameUnits_shiftSram _ .intake k)
  unfold Ctx.dequeued
  generalize (c.s.peekSram .intake k c.b.core c.ctx true).2.shiftSram .intake k = t at h
  obtain ⟨hb, hg, -⟩ := h
  have hc := State.cluster_updCluster t k (f := Cluster.leaving rest) fun _ => rfl
  exact ⟨hb, hg, congrArg Cluster.intake ((State.cluster_of_clusters rfl k).trans hc)⟩

theorem Ctx.afterTake_cluster (c : Ctx) (k p : Nat) (rest : List (Nat × Nat)) :
    ((c.afterTake k p rest).cluster k).intake = rest := by
  obtain ⟨-, -, h⟩ := c.dequeued_parts k p rest
  exact h

theorem Ctx.afterTake_has (h : c.s.Has c.r) (k p : Nat) (rest : List (Nat × Nat)) : (c.afterTake k p rest).Has c.r := by
  obtain ⟨hb, hg, -⟩ := c.dequeued_parts k p rest
  exact (h.of_units hb hg).updWarp fun _ => rfl

theorem Ctx.warpOf_afterTake (c : Ctx) (k p : Nat) (rest : List (Nat × Nat)) :
    warpOf (c.afterTake k p rest) c.r = (warpOf c.s c.r).map (Warp.claim p) := by
  obtain ⟨hb, -, -⟩ := c.dequeued_parts k p rest
  rw [Ctx.afterTake, warpOf_updWarp _ _ fun _ => by rfl, warpOf_of_blocks hb]

/-- The marks of a double error leave what the destination holds. -/
theorem Ctx.regsKept_afterFhget (c : Ctx) (d : Operand) (k p : Nat) (rest : List (Nat × Nat)) :
    (c.afterPut (c.afterTake k p rest) d 2 (windowAddr p)).RegsKept (c.afterFhget d k p rest) c.r := by
  unfold Ctx.afterFhget
  dsimp only
  split
  · exact .addMarks _ _ _
  · exact .refl _ _

end Sys2Proof.Machine

namespace Sys2Proof.Claims

open Sys2Proof.Machine

variable {s : State} {c : Ctx} {sw wait : Bool} {d : Operand}

theorem fhget_isWide (hs : s.Issues (fhgetEntry sw d) c) : d.isWide = true :=
  Use.isWide_of_wideDst (List.mem_singleton_self _) (Entry.uses_ok hs.legal _ (List.mem_singleton_self _))

theorem fhget_uni (hs : s.Issues (fhgetEntry sw d) c) : c.uni = true := by
  have hl : d.isLane = false := by
    have hd := fhget_isWide hs
    cases d <;> first | rfl | exact absurd hd Bool.false_ne_true
  have hu : c.uni = !(fhgetEntry sw d c.w.ctl.mode).laneClass c.w.ctl.mode := congrArg Ctx.uni hs.ctx
  simpa [Entry.laneClass, fhgetEntry, Use.wideDst, hl] using hu

theorem mem_act_of_mem_outLanes (hu : c.uni = true) {l : Nat} (hl : l ∈ c.outLanes) : l ∈ c.act := by
  rw [Ctx.outLanes, if_pos hu] at hl
  split at hl
  · cases hl
  · exact hl

theorem has_cur {mk : Word → Entry} (hs : s.Stands mk c) : s.Has s.cur := ⟨c.b, c.w, c.g, hs.warp, hs.grid⟩

/-- An FHGET of an empty queue that does not wait. -/
theorem fhget_zero (hs : s.Issues (fhgetEntry sw d) c) (h : (s.cluster (clusterOf c.b.core)).intake = []) :
    ∃ u, exec (.fhget sw d false) s = .next u
      ∧ ∀ l ∈ c.outLanes, u.homeValue s.cur l d = 0 ∧ u.homeValue s.cur l (d.nth 1) = 0 := by
  have hu := fhget_uni hs
  have hd := fhget_isWide hs
  refine ⟨_, congrArg Host.Outcome.next (runWord_done hs (fhgetEff_zero hu hd (hs.s_eq.symm ▸ h))), fun l hl => ?_⟩
  have key (k : Nat) (hk : k < 2) : (c.completes (fhgetEntry sw d) (c.afterPut c.s d 2 0)).homeValue s.cur l (d.nth k)
      = BitVec.ofNat 32 (0 / 2 ^ (32 * k)) := by
    have hhas : c.s.Has c.r := by rw [hs.s_eq, hs.r_eq]; exact has_cur hs.toStands
    obtain ⟨ht, hv⟩ := Ctx.homeValue_afterPut hhas hd (n := 2) (by decide) hk (mem_act_of_mem_outLanes hu hl) 0
    rw [← hv, ← hs.r_eq]
    exact ((State.RegsKept.complete _ c.r _ _ _ _).home ht).2 l _
      ((Operand.nth_isReg d k).trans (Operand.isReg_of_isWide hd))
  refine ⟨?_, ?_⟩
  · have := key 0 (by decide)
    rwa [Operand.nth_zero] at this
  · exact key 1 (by decide)

/-- An FHGET of a queue that holds an entry. -/
theorem fhget_take (hs : s.Issues (fhgetEntry sw d) c) {e p : Nat} {rest : List (Nat × Nat)}
    (h : (s.cluster (clusterOf c.b.core)).intake = (e, p) :: rest) (hp : p < 2 ^ 42) :
    ∃ u w', exec (.fhget sw d wait) s = .next u ∧ (u.cluster (clusterOf c.b.core)).intake = rest
      ∧ (∀ l ∈ c.outLanes, (u.homeValue s.cur l d).toNat + 2 ^ 32 * (u.homeValue s.cur l (d.nth 1)).toNat = 2 ^ 56 + p)
      ∧ warpOf u s.cur = some w' ∧ w'.claimed = c.w.claimed ++ [p] := by
  have hu := fhget_uni hs
  have hd := fhget_isWide hs
  have hhas : c.s.Has c.r := by rw [hs.s_eq, hs.r_eq]; exact has_cur hs.toStands
  have hkept := (c.regsKept_afterFhget d (clusterOf c.b.core) p rest).trans
    (.complete _ c.r c.g (fhgetEntry sw d c.mode) c.w.ctl.pc none)
  have hclaims := (c.claimsKept_afterPut (c.afterTake (clusterOf c.b.core) p rest) d 2 (windowAddr p)).trans
    hkept.toClaimsKept
  have hclaimed := hclaims.claimed
  rw [Ctx.warpOf_afterTake, hs.s_eq, hs.r_eq, hs.warpOf_cur] at hclaimed
  obtain ⟨w', hw', hcl⟩ := Option.map_eq_some_iff.1 hclaimed
  refine ⟨c.completes (fhgetEntry sw d) (c.afterFhget d (clusterOf c.b.core) p rest), w',
    congrArg Host.Outcome.next (runWord_done hs (fhgetEff_take hu hd (hs.s_eq.symm ▸ h))), ?_, fun l hl => ?_,
    (hs.completes_eq (fhgetEntry sw d) _).symm ▸ hw', hcl⟩
  · exact (congrArg Cluster.intake (State.cluster_of_clusters hclaims.clusters _)).trans (c.afterTake_cluster _ p rest)
  · have key (k : Nat) (hk : k < 2) : (c.completes (fhgetEntry sw d) (c.afterFhget d (clusterOf c.b.core) p
        rest)).homeValue s.cur l (d.nth k) = BitVec.ofNat 32 ((2 ^ 56 + p) / 2 ^ (32 * k)) := by
      obtain ⟨ht, hv⟩ := Ctx.homeValue_afterPut (Ctx.afterTake_has hhas (clusterOf c.b.core) p rest) hd (n := 2)
        (by decide) hk (mem_act_of_mem_outLanes hu hl) (windowAddr p)
      rw [← hs.r_eq]
      exact ((hkept.home ht).2 l _ ((Operand.nth_isReg d k).trans (Operand.isReg_of_isWide hd))).trans hv
    have h0 := key 0 (by decide)
    rw [Operand.nth_zero] at h0
    rw [h0, key 1 (by decide), BitVec.toNat_ofNat, BitVec.toNat_ofNat]
    omega

end Sys2Proof.Claims
end

section
/-!
The statement of the words of handler blocks.
-/

namespace Sys2Proof.Claims

open Sys2Proof.Machine

/-- Settles O44: each word's effect where it is allowed, and the checks that refuse it. -/
theorem handlerWords : Obligations.HandlerWords := by
  intro sw wait d a s c
  refine ⟨fun hs => ⟨tlbi_done hs, fun h => ?_, fun f => fhdone_done hs, fun h => ?_, fun r b w g => swr_done hs⟩,
    fun hs => ⟨fun h => ⟨?_, ?_⟩, fun e p rest => fhget_take hs⟩, fun hs r b w => rtt_done hs,
    fun i e hi hs hp hok => handler_permission hi hs hp hok, fun y => reservedSubop_illegal⟩
  · exact congrArg Host.Outcome.next (runWord_fault hs (tlbiEff_range (hs.s_eq.symm ▸ h)))
  · exact congrArg Host.Outcome.next (runWord_fault hs (fhdoneEff_range (hs.s_eq.symm ▸ h)))
  · rintro rfl
    have he := fhgetEff_wait (d := d) (hs.s_eq.symm ▸ h)
    rw [hs.s_eq] at he
    exact congrArg Host.Outcome.next (runWord_wait hs he)
  · rintro rfl
    exact fhget_zero hs h

end Sys2Proof.Claims
end

section
/-!
SUPPORT. Rounding into a format (R54, R60 to R62): a code and its fields, the unit in which a magnitude is
rounded, and the value of the code that a rounding gives.
-/

namespace Sys2Proof.Machine

/-! ## Codes and their fields (R54) -/

/-- What the proofs below need of a format; the seven of R54 have it. -/
structure Fmt.Regular (f : Fmt) : Prop where
  ebits : 2 ≤ f.ebits
  mbits : 1 ≤ f.mbits
  offset : f.bias + f.mbits ≤ expZero

/-- The exponent of the subnormal codes, in which every finite value of the format is a whole number of units. -/
def Fmt.least (f : Fmt) : Nat := expZero + 1 - f.bias - f.mbits

/-- The exponent field `e` and mantissa field `m` are above those of the largest finite code. -/
def Fmt.beyond (f : Fmt) (e m : Nat) : Bool :=
  if f.ieee then e ≥ 2 ^ f.ebits - 1
  else e ≥ 2 ^ f.ebits || (f.topNan && e == 2 ^ f.ebits - 1 && m == 2 ^ f.mbits - 1)

theorem Fmt.beyond_eq (f : Fmt) (e m : Nat) : f.beyond e m = true ↔ if f.ieee then e ≥ 2 ^ f.ebits - 1
    else (e ≥ 2 ^ f.ebits || (f.topNan && e == 2 ^ f.ebits - 1 && m == 2 ^ f.mbits - 1)) = true := by
  unfold Fmt.beyond
  cases f.ieee <;> simp

/-- An exponent that is not beyond the largest fits its field. -/
theorem Fmt.lt_of_not_beyond {f : Fmt} {e m : Nat} (h : f.beyond e m = false) : e < 2 ^ f.ebits := by
  have hpos := Nat.two_pow_pos f.ebits
  unfold Fmt.beyond at h
  split at h <;> simp at h <;> omega

/-- The exponent field of a normal value in units of 2^ulp. -/
def Fmt.field (f : Fmt) (ulp : Nat) : Nat := ulp + f.mbits + f.bias - expZero

/-- The code of `q` units of 2^ulp. -/
def Fmt.pack (f : Fmt) (neg : Bool) (q ulp : Nat) : Nat :=
  if q < 2 ^ f.mbits then f.join neg 0 q else f.join neg (f.field ulp) (q - 2 ^ f.mbits)

/-- `q` units of 2^ulp is a finite value of the format, written as its code has it. -/
def Fmt.Fits (f : Fmt) (q ulp : Nat) : Prop :=
  (q < 2 ^ f.mbits ∧ ulp = f.least)
    ∨ (2 ^ f.mbits ≤ q ∧ q < 2 ^ (f.mbits + 1) ∧ f.least ≤ ulp ∧ f.beyond (f.field ulp) (q - 2 ^ f.mbits) = false)

variable {f : Fmt} {neg sat : Bool} {rd : Rd} {e m q ulp mag exp : Nat}

theorem Fmt.join_mantissa (hm : m < 2 ^ f.mbits) : f.join neg e m % 2 ^ f.mbits = m := by
  have h : f.join neg e m = m + 2 ^ f.mbits * ((if neg then 2 ^ f.ebits else 0) + e) := by
    unfold Fmt.join
    split <;> ring
  rw [h, Nat.add_mul_mod_self_left, Nat.mod_eq_of_lt hm]

theorem Fmt.join_high (hm : m < 2 ^ f.mbits) :
    f.join neg e m / 2 ^ f.mbits = (if neg then 2 ^ f.ebits else 0) + e := by
  have h : f.join neg e m = m + 2 ^ f.mbits * ((if neg then 2 ^ f.ebits else 0) + e) := by
    unfold Fmt.join
    split <;> ring
  rw [h, Nat.add_mul_div_left _ _ (Nat.two_pow_pos _), Nat.div_eq_of_lt hm, Nat.zero_add]

theorem Fmt.join_exponent (he : e < 2 ^ f.ebits) (hm : m < 2 ^ f.mbits) :
    f.join neg e m / 2 ^ f.mbits % 2 ^ f.ebits = e := by
  rw [Fmt.join_high hm]
  cases neg <;> simp [Nat.mod_eq_of_lt he]

theorem Fmt.join_sign (he : e < 2 ^ f.ebits) (hm : m < 2 ^ f.mbits) :
    (f.join neg e m / 2 ^ (f.ebits + f.mbits) % 2 == 1) = neg := by
  rw [Nat.add_comm f.ebits, Nat.pow_add, ← Nat.div_div_eq_div_mul, Fmt.join_high hm]
  cases neg <;> simp [Nat.div_eq_of_lt he, Nat.add_div_left _ (Nat.two_pow_pos f.ebits)]

/-- A code is made of its fields. -/
theorem Fmt.join_fields {x : Nat} (hx : x < 2 ^ f.width) :
    f.join (x / 2 ^ (f.ebits + f.mbits) % 2 == 1) (x / 2 ^ f.mbits % 2 ^ f.ebits) (x % 2 ^ f.mbits) = x := by
  have hs : x / 2 ^ (f.ebits + f.mbits) < 2 := by
    rw [Nat.div_lt_iff_lt_mul (Nat.two_pow_pos _), ← Nat.pow_succ']
    rwa [Fmt.width, Nat.add_assoc, Nat.add_comm] at hx
  have h1 := Nat.div_add_mod x (2 ^ f.mbits)
  have h2 := Nat.div_add_mod (x / 2 ^ f.mbits) (2 ^ f.ebits)
  rw [Nat.div_div_eq_div_mul, ← Nat.pow_add, Nat.add_comm f.mbits] at h2
  unfold Fmt.join
  generalize x / 2 ^ (f.ebits + f.mbits) = s at hs h2 ⊢
  have hsign : (if (s % 2 == 1) = true then 2 ^ (f.ebits + f.mbits) else 0) = s * 2 ^ (f.ebits + f.mbits) := by
    interval_cases s <;> simp
  rw [hsign, Nat.pow_add, ← Nat.mul_assoc, ← Nat.add_mul, Nat.mul_comm s, h2, Nat.mul_comm, h1]

/-- The value of the code of a finite value. -/
theorem Fmt.decode_pack (hf : f.Regular) (h : f.Fits q ulp) : f.decode (f.pack neg q ulp) = .fin neg q ulp := by
  have hoff := hf.offset
  have hpow : 4 ≤ 2 ^ f.ebits := Nat.pow_le_pow_right (n := 2) (by decide) hf.ebits
  rcases h with ⟨hq, rfl⟩ | ⟨hq, hlt, hul, hb⟩
  · have h0 : ¬ (0 = 2 ^ f.ebits - 1) := by omega
    have h1 := Fmt.join_sign (f := f) (neg := neg) (e := 0) (by omega) hq
    have h2 := Fmt.join_exponent (f := f) (neg := neg) (e := 0) (by omega) hq
    simp [Fmt.pack, hq, Fmt.decode, h1, h2, Fmt.join_mantissa hq, h0, Fmt.least]
  · have hul' : f.least = expZero + 1 - f.bias - f.mbits := rfl
    have hm : q - 2 ^ f.mbits < 2 ^ f.mbits := by
      rw [Nat.pow_succ] at hlt
      omega
    have hfield : f.field ulp = ulp + f.mbits + f.bias - expZero := rfl
    have he0 : f.field ulp ≠ 0 := by omega
    have he : f.field ulp < 2 ^ f.ebits := Fmt.lt_of_not_beyond hb
    have hval : Val.fin neg (2 ^ f.mbits + (q - 2 ^ f.mbits)) (expZero + f.field ulp - f.bias - f.mbits)
        = .fin neg q ulp := by
      rw [Nat.add_sub_cancel' hq, show expZero + f.field ulp - f.bias - f.mbits = ulp by omega]
    unfold Fmt.pack Fmt.decode
    rw [if_neg (Nat.not_lt.2 hq)]
    simp only [Fmt.join_sign he hm, Fmt.join_exponent he hm, Fmt.join_mantissa hm, hval]
    have hinf : (f.ieee && f.field ulp == 2 ^ f.ebits - 1) = false := by
      unfold Fmt.beyond at hb
      split at hb
      · simp at hb ⊢
        omega
      · next h => simp [h]
    have hnan : (f.topNan && f.field ulp == 2 ^ f.ebits - 1 && q - 2 ^ f.mbits == 2 ^ f.mbits - 1) = false := by
      unfold Fmt.beyond at hb
      split at hb
      · next h =>
        simp [h] at hinf
        simp [hinf]
      · simp only [Bool.or_eq_false_iff] at hb
        exact hb.2
    simp [hinf, hnan, he0]

/-- A code that is no NaN and no infinity is that of its value. -/
theorem Fmt.of_decode_fin (hf : f.Regular) {x : Nat} (hx : x < 2 ^ f.width) (h : f.decode x = .fin neg mag exp) :
    f.Fits mag exp ∧ f.pack neg mag exp = x := by
  have hoff := hf.offset
  have hj := Fmt.join_fields hx
  have hm : x % 2 ^ f.mbits < 2 ^ f.mbits := Nat.mod_lt _ (Nat.two_pow_pos _)
  have he : x / 2 ^ f.mbits % 2 ^ f.ebits < 2 ^ f.ebits := Nat.mod_lt _ (Nat.two_pow_pos _)
  unfold Fmt.decode at h
  dsimp only at h
  generalize x % 2 ^ f.mbits = m at h hj hm
  generalize x / 2 ^ f.mbits % 2 ^ f.ebits = e at h hj he
  generalize (x / 2 ^ (f.ebits + f.mbits) % 2 == 1) = s at h hj
  split at h
  · split at h <;> cases h
  next hinf =>
  split at h
  · cases h
  next hnan =>
  split at h
  · next h0 =>
    cases h
    rw [beq_iff_eq.1 h0] at hj
    exact ⟨.inl ⟨hm, rfl⟩, by rw [Fmt.pack, if_pos hm, hj]⟩
  · next h0 =>
    cases h
    have h0 : e ≠ 0 := fun k => h0 (beq_iff_eq.2 k)
    have hfield : f.field (expZero + e - f.bias - f.mbits) = e := by
      unfold Fmt.field
      omega
    refine ⟨.inr ⟨Nat.le_add_right _ _, by rw [Nat.pow_succ]; omega, by unfold Fmt.least; omega, ?_⟩, ?_⟩
    · rw [hfield, Nat.add_sub_cancel_left]
      unfold Fmt.beyond
      split
      · next hi =>
        simp [hi] at hinf
        simp
        omega
      · simp at hnan ⊢
        exact ⟨he, hnan⟩
    · rw [Fmt.pack, if_neg (by omega), hfield, Nat.add_sub_cancel_left, hj]

/-! ## The largest finite value (R54, R62) -/

/-- Of two values with full mantissas the one of the greater unit is the greater. -/
theorem scaled_lt {a b u v n : Nat} (ha : 2 ^ n ≤ a) (ha' : a < 2 ^ (n + 1)) (hb : 2 ^ n ≤ b) (hb' : b < 2 ^ (n + 1)) :
    a * 2 ^ u < b * 2 ^ v ↔ u < v ∨ (u = v ∧ a < b) := by
  have key {a b u v : Nat} (ha : a < 2 ^ (n + 1)) (hb : 2 ^ n ≤ b) (h : u < v) : a * 2 ^ u < b * 2 ^ v := by
    obtain ⟨d, rfl⟩ := Nat.exists_eq_add_of_lt h
    calc a * 2 ^ u < 2 ^ (n + 1) * 2 ^ u := Nat.mul_lt_mul_of_pos_right ha (Nat.two_pow_pos _)
      _ = 2 ^ n * 2 ^ (u + 1) := by ring
      _ ≤ b * 2 ^ (u + d + 1) := Nat.mul_le_mul hb (Nat.pow_le_pow_right (by decide) (by omega))
  rcases Nat.lt_trichotomy u v with h | rfl | h
  · exact iff_of_true (key ha' hb h) (.inl h)
  · simp
  · exact iff_of_false (Nat.lt_asymm (key hb' ha h)) (by omega)

/-- The mantissa and the exponent field of the largest finite value. -/
def Fmt.topMantissa (f : Fmt) : Nat := 2 ^ (f.mbits + 1) - if !f.ieee && f.topNan then 2 else 1
def Fmt.topField (f : Fmt) : Nat := 2 ^ f.ebits - if f.ieee then 2 else 1
def Fmt.topExp (f : Fmt) : Nat := f.least + f.topField - 1

theorem Fmt.topMantissa_bounds (hf : f.Regular) : 2 ^ f.mbits ≤ f.topMantissa ∧ f.topMantissa < 2 ^ (f.mbits + 1) := by
  have h : 2 ≤ 2 ^ f.mbits := Nat.pow_le_pow_right (n := 2) (by decide) hf.mbits
  unfold Fmt.topMantissa
  rw [Nat.pow_succ]
  split <;> omega

theorem Fmt.field_topExp (hf : f.Regular) : f.field f.topExp = f.topField := by
  have h : 4 ≤ 2 ^ f.ebits := Nat.pow_le_pow_right (n := 2) (by decide) hf.ebits
  have ht : 2 ^ f.ebits - 2 ≤ f.topField := by
    unfold Fmt.topField
    split <;> omega
  have := hf.offset
  unfold Fmt.field Fmt.topExp Fmt.least
  omega

/-- A normal mantissa is beyond the largest finite code where its value is above the largest finite value. -/
theorem Fmt.beyond_iff (hf : f.Regular) (hq : 2 ^ f.mbits ≤ q) (hq' : q < 2 ^ (f.mbits + 1)) (hu : f.least ≤ ulp) :
    f.beyond (f.field ulp) (q - 2 ^ f.mbits) = true ↔ f.topMantissa * 2 ^ f.topExp < q * 2 ^ ulp := by
  obtain ⟨hb, hb'⟩ := Fmt.topMantissa_bounds hf
  rw [scaled_lt hb hb' hq hq']
  have hfield : ∀ u, f.least ≤ u → f.field u = u - f.least + 1 := by
    intro u hu
    have := hf.offset
    unfold Fmt.field
    unfold Fmt.least at hu ⊢
    omega
  have h4 : 4 ≤ 2 ^ f.ebits := Nat.pow_le_pow_right (n := 2) (by decide) hf.ebits
  have h2 : 2 ≤ 2 ^ f.mbits := Nat.pow_le_pow_right (n := 2) (by decide) hf.mbits
  rw [hfield ulp hu]
  rw [Nat.pow_succ] at hq'
  unfold Fmt.beyond Fmt.topMantissa Fmt.topExp Fmt.topField
  rw [Nat.pow_succ]
  cases hi : f.ieee <;> cases ht : f.topNan <;> simp <;> omega

theorem Fmt.fits_top (hf : f.Regular) : f.Fits f.topMantissa f.topExp := by
  obtain ⟨hb, hb'⟩ := Fmt.topMantissa_bounds hf
  have h : 4 ≤ 2 ^ f.ebits := Nat.pow_le_pow_right (n := 2) (by decide) hf.ebits
  have ht : 2 ^ f.ebits - 2 ≤ f.topField := by
    unfold Fmt.topField
    split <;> omega
  have hl : f.least ≤ f.topExp := by
    unfold Fmt.topExp
    omega
  refine .inr ⟨hb, hb', hl, ?_⟩
  rw [← Bool.not_eq_true, Fmt.beyond_iff hf hb hb' hl]
  exact Nat.lt_irrefl _

theorem Fmt.maxFinite_eq (hf : f.Regular) (neg : Bool) : f.maxFinite neg = f.pack neg f.topMantissa f.topExp := by
  have h := (Fmt.topMantissa_bounds hf).1
  have h2 : 2 ≤ 2 ^ f.mbits := Nat.pow_le_pow_right (n := 2) (by decide) hf.mbits
  rw [Fmt.pack, if_neg (Nat.not_lt.2 h), Fmt.field_topExp hf]
  unfold Fmt.maxFinite Fmt.topMantissa Fmt.topField
  rw [Nat.pow_succ]
  cases f.ieee <;> cases f.topNan <;> simp only [Bool.not_true, Bool.not_false, Bool.and_true, Bool.and_false,
    Bool.false_eq_true, if_true, if_false] <;> congr 1 <;> omega

/-! ## One rounding (R60 to R62, R65) -/

/-- The exponent of the unit in which a magnitude is rounded. -/
def Fmt.unit (f : Fmt) (mag exp : Nat) : Nat := Nat.max (exp + (Nat.log2 mag + 1) - (f.mbits + 1)) f.least

/-- A mantissa that has grown by one bit, brought to its width again. -/
def Fmt.carried (f : Fmt) (q ulp : Nat) : Nat × Nat := if q == 2 ^ (f.mbits + 1) then (2 ^ f.mbits, ulp + 1) else (q, ulp)

theorem Fmt.carried_value (q ulp : Nat) : (f.carried q ulp).1 * 2 ^ (f.carried q ulp).2 = q * 2 ^ ulp := by
  unfold Fmt.carried
  split
  · next h =>
    rw [beq_iff_eq.1 h]
    ring
  · rfl

theorem Fmt.carried_of_lt (h : q < 2 ^ (f.mbits + 1)) : f.carried q ulp = (q, ulp) :=
  if_neg fun e => absurd (beq_iff_eq.1 e) (Nat.ne_of_lt h)

/-- A whole number of units does not round away from zero. -/
theorem goesUp_zero (rd : Rd) (neg : Bool) (q unit : Nat) (hu : 0 < unit) : Claims.goesUp rd neg q 0 unit = false := by
  have h : ¬ unit ≤ 0 := by omega
  have h' : (0 == unit) = false := by simp; omega
  cases rd <;> simp [Claims.goesUp, h, h']

/-- The choice of a mode depends on the ratio of the rest to the unit alone (R60, R61). -/
theorem Rd.up_eq_goesUp (rd : Rd) (neg : Bool) (q rem exp : Nat) {k : Nat} (hk : 0 < k) :
    rd.up neg q rem k false = Claims.goesUp rd neg q (rem * 2 ^ exp) (2 ^ k * 2 ^ exp) := by
  obtain ⟨j, rfl⟩ := Nat.exists_eq_add_of_lt hk
  have hp : 0 < 2 ^ exp := Nat.two_pow_pos _
  have hunit : 2 ^ (0 + j + 1) * 2 ^ exp = 2 * (2 ^ j * 2 ^ exp) := by ring
  have hne : (rem * 2 ^ exp != 0) = (rem != 0) := by simp [bne]
  cases rd with
  | rne =>
    have hlt : 2 * (2 ^ j * 2 ^ exp) < 2 * (rem * 2 ^ exp) ↔ 2 ^ j < rem := by
      rw [Nat.mul_lt_mul_left (by decide), Nat.mul_lt_mul_right hp]
    have heq : 2 * (rem * 2 ^ exp) = 2 * (2 ^ j * 2 ^ exp) ↔ rem = 2 ^ j := by
      rw [Nat.mul_right_inj (by decide), Nat.mul_left_inj hp.ne']
    have hb : (2 * (rem * 2 ^ exp) == 2 * (2 ^ j * 2 ^ exp)) = (rem == 2 ^ j) := by
      rw [Bool.eq_iff_iff, beq_iff_eq, beq_iff_eq, heq]
    simp only [Rd.up, Claims.goesUp, hunit, hlt, hb]
    simp
  | rtz => rfl
  | rdn => simp only [Rd.up, Claims.goesUp, hne, Bool.or_false]
  | rup => simp only [Rd.up, Claims.goesUp, hne, Bool.or_false]
  | rna =>
    have hle : 2 * (2 ^ j * 2 ^ exp) ≤ 2 * (rem * 2 ^ exp) ↔ 2 ^ j ≤ rem := by
      rw [Nat.mul_le_mul_left_iff (by decide), Nat.mul_le_mul_right_iff hp]
    simp only [Rd.up, Claims.goesUp, hunit, hle]
    simp
  | sr n r =>
    have hdiv : rem * 2 ^ exp * 2 ^ n / (2 ^ (0 + j + 1) * 2 ^ exp) = (rem <<< n) >>> (0 + j + 1) := by
      rw [Nat.shiftLeft_eq, Nat.shiftRight_eq_div_pow, Nat.mul_right_comm, Nat.mul_div_mul_right _ _ hp]
    simp only [Rd.up, Claims.goesUp, hdiv, hne, Bool.or_false]

/-- A truncation to a multiple of 2^ulp, and the mode's choice between it and the next. -/
theorem Rd.apply_spec (rd : Rd) (neg : Bool) (mag exp ulp : Nat) :
    rd.apply neg mag exp ulp false
      = (mag * 2 ^ exp / 2 ^ ulp + (if Claims.goesUp rd neg (mag * 2 ^ exp / 2 ^ ulp) (mag * 2 ^ exp % 2 ^ ulp) (2 ^ ulp)
          then 1 else 0), mag * 2 ^ exp % 2 ^ ulp != 0) := by
  unfold Rd.apply
  split
  · next h =>
    obtain ⟨d, rfl⟩ := Nat.exists_eq_add_of_le h
    rw [Nat.pow_add, Nat.mul_left_comm, Nat.mul_div_cancel_left _ (Nat.two_pow_pos _), Nat.mul_mod_right,
      goesUp_zero _ _ _ _ (Nat.two_pow_pos _), Nat.add_sub_cancel_left, Nat.shiftLeft_eq]
    rfl
  · next h =>
    obtain ⟨k, rfl⟩ := Nat.exists_eq_add_of_lt (Nat.lt_of_not_le h)
    rw [show exp + k + 1 - exp = k + 1 by omega, show exp + k + 1 = (k + 1) + exp by omega, Nat.pow_add,
      Nat.mul_div_mul_right _ _ (Nat.two_pow_pos _), Nat.mul_mod_mul_right]
    dsimp only
    rw [Nat.shiftRight_eq_div_pow, Rd.up_eq_goesUp rd neg _ _ exp (Nat.succ_pos k)]
    congr 1
    · split <;> rfl
    · simp [bne]

/-- A magnitude fills the mantissa with its unit, or has the least unit. -/
theorem Fmt.unit_spec (hm : mag ≠ 0) : f.least ≤ f.unit mag exp
    ∧ mag * 2 ^ exp / 2 ^ f.unit mag exp < 2 ^ (f.mbits + 1)
    ∧ (2 ^ f.mbits ≤ mag * 2 ^ exp / 2 ^ f.unit mag exp ∨ f.unit mag exp = f.least) := by
  have hlo := Nat.log2_self_le hm
  have hhi : mag < 2 ^ (Nat.log2 mag + 1) := Nat.lt_log2_self
  have hdef : f.unit mag exp = Nat.max (exp + (Nat.log2 mag + 1) - (f.mbits + 1)) f.least := rfl
  generalize f.unit mag exp = u at hdef
  generalize Nat.log2 mag = n at hlo hhi hdef
  have hmax : exp + (n + 1) - (f.mbits + 1) ≤ u ∧ f.least ≤ u
      ∧ (u = exp + (n + 1) - (f.mbits + 1) ∨ u = f.least) := by
    rw [hdef]
    simp only [Nat.max_def]
    split <;> omega
  obtain ⟨h1, h2, h3⟩ := hmax
  refine ⟨h2, ?_, ?_⟩
  · rw [Nat.div_lt_iff_lt_mul (Nat.two_pow_pos _), ← Nat.pow_add]
    calc mag * 2 ^ exp < 2 ^ (n + 1) * 2 ^ exp := Nat.mul_lt_mul_of_pos_right hhi (Nat.two_pow_pos _)
      _ = 2 ^ (n + 1 + exp) := (Nat.pow_add ..).symm
      _ ≤ 2 ^ (f.mbits + 1 + u) := Nat.pow_le_pow_right (by decide) (by omega)
  · by_cases hu : u = f.least
    · exact .inr hu
    · left
      rw [Nat.le_div_iff_mul_le (Nat.two_pow_pos _), ← Nat.pow_add]
      calc 2 ^ (f.mbits + u) ≤ 2 ^ (n + exp) := Nat.pow_le_pow_right (by decide) (by omega)
        _ = 2 ^ n * 2 ^ exp := Nat.pow_add ..
        _ ≤ mag * 2 ^ exp := Nat.mul_le_mul_right _ hlo

/-- What a rounding answers: the overflow with OF and NX, or the code of the rounded mantissa, with NX, and with it
perhaps UF, where it is not exact. -/
theorem Fmt.roundMag_spec (f : Fmt) (rd : Rd) (sat neg : Bool) (mag exp : Nat) :
    let r := rd.apply neg mag exp (f.unit mag exp) false
    let c := f.carried r.1 (f.unit mag exp)
    let large := 2 ^ f.mbits ≤ c.1 ∧ f.beyond (f.field c.2) (c.1 - 2 ^ f.mbits) = true
    (large → f.roundMag rd sat neg mag exp false = (f.overflow rd sat neg, Flags.of ||| Flags.nx))
      ∧ (¬ large → ∃ tiny : Bool, f.roundMag rd sat neg mag exp false
        = (f.pack neg c.1 c.2, (if r.2 then Flags.nx else 0) ||| if tiny && r.2 then Flags.uf else 0)) := by
  have hc : ∀ q u, f.carried q u = if q == 2 ^ (f.mbits + 1) then (2 ^ f.mbits, u + 1) else (q, u) := fun _ _ => rfl
  have hu : f.unit mag exp = Nat.max (exp + (Nat.log2 mag + 1) - (f.mbits + 1)) (expZero + 1 - f.bias - f.mbits) := rfl
  unfold Fmt.roundMag Fmt.pack
  simp only [← hu, ← hc]
  generalize rd.apply neg mag exp (f.unit mag exp) false = r
  generalize f.carried r.1 (f.unit mag exp) = c
  by_cases hq : c.1 < 2 ^ f.mbits
  · simp only [hq, Nat.not_le.2 hq, false_and, false_implies, true_and, if_true, not_false_eq_true, true_implies]
    exact ⟨_, rfl⟩
  · simp only [hq, Nat.not_lt.1 hq, true_and, if_false]
    have hb := f.beyond_eq (f.field c.2) (c.1 - 2 ^ f.mbits)
    exact ⟨fun h => if_pos (hb.1 h), fun h => ⟨_, if_neg (mt hb.2 h)⟩⟩

/-- A rounded mantissa of its unit, carried, is a value of the format unless it is beyond the largest. -/
theorem Fmt.fits_carried {q ulp : Nat} (hq : q ≤ 2 ^ (f.mbits + 1)) (hl : f.least ≤ ulp)
    (hn : 2 ^ f.mbits ≤ q ∨ ulp = f.least)
    (hb : ¬ (2 ^ f.mbits ≤ (f.carried q ulp).1
      ∧ f.beyond (f.field (f.carried q ulp).2) ((f.carried q ulp).1 - 2 ^ f.mbits) = true)) :
    f.Fits (f.carried q ulp).1 (f.carried q ulp).2 := by
  have hfull : 2 ^ f.mbits ≤ (f.carried q ulp).1 → f.beyond (f.field (f.carried q ulp).2)
      ((f.carried q ulp).1 - 2 ^ f.mbits) = false := fun h => eq_false_of_ne_true fun k => hb ⟨h, k⟩
  by_cases he : q = 2 ^ (f.mbits + 1)
  · have hc : f.carried q ulp = (2 ^ f.mbits, ulp + 1) := if_pos (beq_iff_eq.2 he)
    rw [hc] at hfull ⊢
    exact .inr ⟨Nat.le_refl _, Nat.pow_lt_pow_succ (by decide), Nat.le_succ_of_le hl, hfull (Nat.le_refl _)⟩
  · have hlt := Nat.lt_of_le_of_ne hq he
    rw [Fmt.carried_of_lt hlt] at hfull ⊢
    by_cases hs : q < 2 ^ f.mbits
    · exact .inl ⟨hs, hn.resolve_left (Nat.not_le.2 hs)⟩
    · exact .inr ⟨Nat.not_lt.1 hs, hlt, hl, hfull (Nat.not_lt.1 hs)⟩

/-- A carried mantissa is beyond the largest finite code where its value is above the largest finite value. -/
theorem Fmt.large_iff (hf : f.Regular) {q ulp : Nat} (hq : q ≤ 2 ^ (f.mbits + 1)) (hl : f.least ≤ ulp)
    (hn : 2 ^ f.mbits ≤ q ∨ ulp = f.least) :
    (2 ^ f.mbits ≤ (f.carried q ulp).1
      ∧ f.beyond (f.field (f.carried q ulp).2) ((f.carried q ulp).1 - 2 ^ f.mbits) = true)
      ↔ f.topMantissa * 2 ^ f.topExp < q * 2 ^ ulp := by
  obtain ⟨hb, hb'⟩ := Fmt.topMantissa_bounds hf
  by_cases he : q = 2 ^ (f.mbits + 1)
  · have hc : f.carried q ulp = (2 ^ f.mbits, ulp + 1) := if_pos (beq_iff_eq.2 he)
    have hval := f.carried_value q ulp
    rw [hc] at hval ⊢
    rw [Fmt.beyond_iff hf (Nat.le_refl _) (Nat.pow_lt_pow_succ (by decide)) (Nat.le_succ_of_le hl), hval]
    exact and_iff_right (Nat.le_refl _)
  · have hlt := Nat.lt_of_le_of_ne hq he
    rw [Fmt.carried_of_lt hlt]
    by_cases hs : q < 2 ^ f.mbits
    · refine iff_of_false (fun h => absurd h.1 (Nat.not_le.2 hs)) (Nat.not_lt.2 ?_)
      rw [hn.resolve_left (Nat.not_le.2 hs)]
      have ht : f.least ≤ f.topExp := by
        have h : 4 ≤ 2 ^ f.ebits := Nat.pow_le_pow_right (n := 2) (by decide) hf.ebits
        unfold Fmt.topExp Fmt.topField
        split <;> omega
      exact Nat.mul_le_mul (hs.le.trans hb) (Nat.pow_le_pow_right (by decide) ht)
    · rw [and_iff_right (Nat.not_lt.1 hs)]
      exact Fmt.beyond_iff hf (Nat.not_lt.1 hs) hlt hl

/-- A value of the format is a whole number of its units, and has their exponent. -/
theorem Fmt.Fits.unit_eq (h : f.Fits mag exp) (hm : mag ≠ 0) : f.unit mag exp = exp := by
  have hmax : f.unit mag exp = Nat.max (exp + (Nat.log2 mag + 1) - (f.mbits + 1)) f.least := rfl
  rcases h with ⟨hq, rfl⟩ | ⟨hq, hlt, hl, -⟩
  · have : Nat.log2 mag < f.mbits := (Nat.log2_lt hm).2 hq
    rw [hmax]
    exact Nat.max_eq_right (by omega)
  · have h1 : Nat.log2 mag < f.mbits + 1 := (Nat.log2_lt hm).2 hlt
    have h2 : f.mbits ≤ Nat.log2 mag := (Nat.le_log2 hm).2 hq
    rw [hmax, show exp + (Nat.log2 mag + 1) - (f.mbits + 1) = exp by omega]
    exact Nat.max_eq_left hl

theorem Fmt.Fits.lt (h : f.Fits q ulp) : q < 2 ^ (f.mbits + 1) := by
  rcases h with ⟨hq, -⟩ | ⟨-, hq, -⟩
  · exact hq.trans (Nat.pow_lt_pow_succ (by decide))
  · exact hq

theorem Fmt.Fits.not_beyond (h : f.Fits q ulp) (hq : 2 ^ f.mbits ≤ q) :
    f.beyond (f.field ulp) (q - 2 ^ f.mbits) = false := by
  rcases h with ⟨hlt, -⟩ | ⟨-, -, -, hb⟩
  · exact absurd hq (Nat.not_le.2 hlt)
  · exact hb

/-- A value of the format is rounded to its own code, with no flag. -/
theorem Fmt.roundMag_fits (h : f.Fits mag exp) (hm : mag ≠ 0) (rd : Rd) (sat neg : Bool) :
    f.roundMag rd sat neg mag exp false = (f.pack neg mag exp, 0) := by
  have hr : rd.apply neg mag exp exp false = (mag, false) := by simp [Rd.apply]
  have key := (f.roundMag_spec rd sat neg mag exp).2
  simp only [h.unit_eq hm, hr, Fmt.carried_of_lt h.lt] at key
  obtain ⟨tiny, ht⟩ := key fun k => Bool.false_ne_true ((h.not_beyond k.1).symm.trans k.2)
  rw [ht]
  simp

theorem Fmt.pack_zero (f : Fmt) (neg : Bool) (ulp : Nat) : f.pack neg 0 ulp = f.join neg 0 0 :=
  if_pos (Nat.two_pow_pos _)

/-- An infinity of the format has its own code. -/
theorem Fmt.of_decode_inf {x : Nat} (hx : x < 2 ^ f.width) (h : f.decode x = .inf neg) :
    f.ieee = true ∧ f.inf neg = x := by
  have hj := Fmt.join_fields hx
  unfold Fmt.decode at h
  dsimp only at h
  split at h
  · next hi =>
    obtain ⟨hi, he⟩ := Bool.and_eq_true_iff.1 hi
    split at h
    · next hz =>
      refine ⟨hi, ?_⟩
      rw [← hj, beq_iff_eq.1 he, beq_iff_eq.1 hz, Val.inf.inj h]
      rfl
    · cases h
  · split at h
    · cases h
    · split at h <;> cases h

/-- A value that the format has is rounded to its own code, with no flag (R60). -/
theorem Fmt.round_decode (hf : f.Regular) {x : Nat} (hx : x < 2 ^ f.width) (hn : f.decode x ≠ .nan) (rd : Rd)
    (sat : Bool) : f.round rd sat (f.decode x) = (x, 0) := by
  cases hv : f.decode x with
  | nan => exact absurd hv hn
  | inf neg =>
    obtain ⟨hi, he⟩ := Fmt.of_decode_inf hx hv
    simp only [Fmt.round, hi, he, if_true]
  | fin neg mag exp =>
    obtain ⟨hfit, hp⟩ := Fmt.of_decode_fin hf hx hv
    by_cases hm : mag = 0
    · subst hm
      rw [Fmt.pack_zero] at hp
      simp only [Fmt.round, beq_self_eq_true, if_true, hp]
    · simp only [Fmt.round, beq_eq_false_iff_ne.2 hm, Bool.false_eq_true, if_false, Fmt.roundMag_fits hfit hm, hp]

/-- The seven formats (R54). -/
theorem Fmt.regular (hf : f ∈ [Fmt.f64, Fmt.f32, Fmt.h16, Fmt.b16, Fmt.e5m2, Fmt.e4m3, Fmt.e2m1]) : f.Regular := by
  simp only [List.mem_cons, List.not_mem_nil, or_false] at hf
  rcases hf with rfl | rfl | rfl | rfl | rfl | rfl | rfl <;> exact ⟨by decide, by decide, by decide⟩

end Sys2Proof.Machine

namespace Sys2Proof.Claims

open Sys2Proof.Machine

theorem roundingFlags (ix tiny : Bool) :
    (((if ix then Flags.nx else 0) ||| if tiny && ix then Flags.uf else 0) : Flags).getLsbD 2 = false
      ∧ (((if ix then Flags.nx else 0) ||| if tiny && ix then Flags.uf else 0) : Flags).getLsbD 4 = ix := by
  cases ix <;> cases tiny <;> decide

theorem overflowFlags : (Flags.of ||| Flags.nx).getLsbD 2 = true ∧ (Flags.of ||| Flags.nx).getLsbD 4 = true := by
  decide

/-- Settles O11: the code of a value is rounded to itself; a magnitude is divided by its unit, and the rounded
quotient is the mantissa of its code, unless that is beyond the largest. -/
theorem roundingKeepsRepresentableValues : Obligations.RoundingKeepsRepresentableValues := by
  intro f hmem
  have hf := Fmt.regular hmem
  refine ⟨fun rd sat x hx hn => Fmt.round_decode hf hx hn rd sat, fun rd sat neg mag exp hm => ?_⟩
  obtain ⟨hl, hlt, hfull⟩ := f.unit_spec (exp := exp) hm
  have hround : f.round rd sat (.fin neg mag exp) = f.roundMag rd sat neg mag exp false := by
    simp only [Fmt.round, beq_eq_false_iff_ne.2 hm, Bool.false_eq_true, if_false]
  obtain ⟨hbig, hsmall⟩ := f.roundMag_spec rd sat neg mag exp
  have hdiv := Nat.div_add_mod' (mag * 2 ^ exp) (2 ^ f.unit mag exp)
  have hrest : mag * 2 ^ exp - mag * 2 ^ exp / 2 ^ f.unit mag exp * 2 ^ f.unit mag exp
      = mag * 2 ^ exp % 2 ^ f.unit mag exp := by omega
  have hup := Rd.apply_spec rd neg mag exp (f.unit mag exp)
  have hmod := Nat.mod_lt (mag * 2 ^ exp) (Nat.two_pow_pos (f.unit mag exp))
  generalize hq : mag * 2 ^ exp / 2 ^ f.unit mag exp = q at *
  generalize hr : rd.apply neg mag exp (f.unit mag exp) false = r at *
  generalize hu : (if goesUp rd neg q (mag * 2 ^ exp % 2 ^ f.unit mag exp) (2 ^ f.unit mag exp) then 1 else 0) = up at *
  have hup1 : up ≤ 1 := by rw [← hu]; split <;> decide
  subst hup
  have hq' : q + up ≤ 2 ^ (f.mbits + 1) := by omega
  have hn : 2 ^ f.mbits ≤ q + up ∨ f.unit mag exp = f.least := hfull.imp (fun h => by omega) id
  have hlarge := Fmt.large_iff hf hq' hl hn
  refine ⟨q, f.unit mag exp, up, by omega, by rw [Nat.add_mul]; omega, hlt, hfull, by rw [hrest, hu],
    f.topMantissa, f.topExp, ?_, fun hle => ?_, fun hgt => ?_⟩
  · rw [Fmt.maxFinite_eq hf, Fmt.decode_pack hf (Fmt.fits_top hf)]
  · have hnot := mt hlarge.1 (Nat.not_lt.2 hle)
    obtain ⟨tiny, ht⟩ := hsmall hnot
    obtain ⟨hof, hnx⟩ := roundingFlags (mag * 2 ^ exp % 2 ^ f.unit mag exp != 0) tiny
    rw [hround, ht]
    refine ⟨hof, ⟨_, _, Fmt.decode_pack hf (Fmt.fits_carried hq' hl hn hnot), f.carried_value _ _⟩, ?_⟩
    rw [hnx, bne_iff_ne]
    omega
  · rw [hround, hbig (hlarge.2 hgt)]
    exact overflowFlags

end Sys2Proof.Claims
end

section
/-!
SUPPORT. Elements of a value, and the value that a lane word gives (R56, R115, R132).
-/

namespace Sys2Proof.Machine

/-! ## Elements of a value -/

theorem elem_add_mul (x r w : Nat) {n m : Nat} (h : n < m) : elem (x + r * 2 ^ (w * m)) n w = elem x n w := by
  obtain ⟨k, rfl⟩ := Nat.exists_eq_add_of_lt h
  have e : r * 2 ^ (w * (n + k + 1)) = 2 ^ (w * n) * (2 ^ w * (r * 2 ^ (w * k))) := by ring
  rw [elem, e, Nat.add_mul_div_left _ _ (Nat.two_pow_pos _), Nat.add_mul_mod_self_left, elem]

/-- The elements of a value cut to whole elements. -/
theorem elem_mod (x : Nat) {n w k : Nat} (h : w * (n + 1) ≤ k) : elem (x % 2 ^ k) n w = elem x n w := by
  obtain ⟨j, rfl⟩ := Nat.exists_eq_add_of_le h
  rw [elem, elem, Nat.mul_add, Nat.mul_one, Nat.add_assoc, Nat.pow_add, Nat.mod_mul_right_div_self, Nat.pow_add,
    Nat.mod_mul_right_mod]

theorem elem_lt (x n w : Nat) : elem x n w < 2 ^ w := Nat.mod_lt _ (Nat.two_pow_pos _)

theorem mapElems_succ (count w : Nat) (f : Nat → Nat × Flags) :
    (mapElems (count + 1) w f).1 = (mapElems count w f).1 + (f count).1 * 2 ^ (w * count) := by
  rw [mapElems, List.range_succ, List.foldl_append]
  rfl

variable {count w n : Nat} {g : Nat → Nat × Flags}

theorem mapElems_lt (h : ∀ k, k < count → (g k).1 < 2 ^ w) : (mapElems count w g).1 < 2 ^ (w * count) := by
  induction count with
  | zero => exact Nat.two_pow_pos _
  | succ count ih =>
    have hrest := ih fun k hk => h k (Nat.lt_succ_of_lt hk)
    have hlast := h count (Nat.lt_succ_self _)
    rw [mapElems_succ]
    calc _ < 2 ^ (w * count) + (g count).1 * 2 ^ (w * count) := Nat.add_lt_add_right hrest _
      _ = ((g count).1 + 1) * 2 ^ (w * count) := by ring
      _ ≤ 2 ^ w * 2 ^ (w * count) := Nat.mul_le_mul_right _ hlast
      _ = 2 ^ (w * (count + 1)) := by ring

/-- Elements that fit stand side by side (R56). -/
theorem elem_mapElems (hn : n < count) (h : ∀ k, k < count → (g k).1 < 2 ^ w) :
    elem (mapElems count w g).1 n w = (g n).1 := by
  induction count with
  | zero => exact absurd hn (Nat.not_lt_zero _)
  | succ count ih =>
    have hrest : ∀ k, k < count → (g k).1 < 2 ^ w := fun k hk => h k (Nat.lt_succ_of_lt hk)
    rw [mapElems_succ]
    rcases Nat.lt_succ_iff_lt_or_eq.1 hn with hlt | rfl
    · rw [elem_add_mul _ _ _ hlt, ih hlt hrest]
    · rw [elem, Nat.add_mul_div_right _ _ (Nat.two_pow_pos _), Nat.div_eq_of_lt (mapElems_lt hrest), Nat.zero_add,
        Nat.mod_eq_of_lt (h n hn)]

/-- Registers that read alike read one value. -/
theorem State.operandN_congr {s t : State} {r : WarpRef} {l : Nat} (h : ∀ o : Operand, o.isReg = true →
    t.operand r l o = s.operand r l o) {o : Operand} (ho : o.isReg = true) (k : Nat) :
    t.operandN r l o k = s.operandN r l o k := by
  induction k generalizing o with
  | zero => rfl
  | succ k ih => rw [State.operandN, State.operandN, h o ho, ih ((Operand.nth_isReg o 1).trans ho)]

/-- After the writes of a destination, its marks and tags leave what the registers hold. -/
theorem State.regsKept_writeDest (s : State) (r : WarpRef) (d : Operand) (n : Nat) (vals : List (Nat × Nat)) :
    ((destVals d vals).foldl (fun s x => s.writeRegs r x.1 d n x.2) s).RegsKept (s.writeDest r d n vals) r := by
  unfold State.writeDest
  obtain ⟨m, hm⟩ := State.passTags_vfs (((destVals d vals).foldl (fun s x => s.writeRegs r x.1 d n x.2) s).updWarp r
    fun w => { w with flt := { w.flt with marks := clearMarks d n (maskOf (vals.map Prod.fst)) w.flt.marks } }) r
    (if vals.isEmpty then .sp 0 else d)
  dsimp only
  rw [hm]
  exact (State.RegsKept.updWarp _ r (fun _ => by rfl) (fun _ => by rfl) fun _ => by rfl).trans (.vfs _ _ _)

theorem State.Has.writeDest {s : State} {r : WarpRef} (h : s.Has r) (d : Operand) (n : Nat) (vals : List (Nat × Nat)) :
    (s.writeDest r d n vals).Has r :=
  ((s.regsKept_writeDest r d n vals).home (h.fold d n _)).1

/-- A register reads the same once the flags of the word are set and the word has completed. -/
theorem State.Has.operand_orFlags_complete {s : State} {r : WarpRef} (h : s.Has r) (fl : Flags) (k : Grid) (e : Entry)
    (pc : Nat) (j : Option (Nat × Bool)) (l : Nat) {o : Operand} (ho : o.isReg = true) :
    ((s.updWarp r fun w => w.orFlags fl).complete r k e pc j).operand r l o = s.operand r l o := by
  obtain ⟨b, w, g, hw, hg⟩ := h
  rw [State.operand_complete (State.warp?_updWarp _ hw fun _ => by rfl) hg k e pc j l ho]
  exact State.operand_updWarp_reg hw hg _ (fun _ => by rfl) (by rfl) l ho

end Sys2Proof.Machine

namespace Sys2Proof.Claims

open Sys2Proof.Machine

variable {i : Instr} {x : LaneForm} {s : State} {c : Ctx}

/-- A lane form writes at most four registers of a lane (R131, R156). -/
theorem laneForm_regs (h : laneForm i = some x) (m : Word) : x.regs m ≤ 4 := by
  have hty (t : Nat) : tyRegs t ≤ 4 := by
    rcases tyRegs_cases t with h | h <;> rw [h] <;> decide
  have hcomplex (t : Nat) : complexRegs t ≤ 4 := by
    unfold complexRegs
    split <;> decide
  cases i
  case cmul | cfma => cases h; exact hcomplex _
  case popc | clz | movi | movh | pack | fclass | dot4 | rnd => cases h; exact (by decide : 1 ≤ 4)
  all_goals cases h <;> exact hty _

/-- A register that receives a value of a lane word reads that of the lane that gives it. -/
theorem gives_of_value {P : Ctx → Nat → Nat → Prop}
    (h : ∀ (x : LaneForm) (c : Ctx) (l : Nat), laneForm i = some x → P c l ((x.value c l).1 % 2 ^ (32 * x.regs c.mode))) :
    Gives i P := by
  intro x s c hx hs hreg hd
  have hu := hs.lanes_of_uni (laneForm_gd hx _)
  have hregs := laneForm_regs hx c.mode
  refine ⟨_, exec_laneForm_completes hx hs hd, fun l hl => ?_⟩
  have hwrite := State.Has.operandN_writeDest ⟨c.b, c.w, c.g, hs.warp, hs.grid⟩ hreg (n := x.regs c.mode) (by omega)
    (disagreeing_of_destFault hd) (fun y hy z hz e => by
      rw [LaneForm.values_giver hu hy, LaneForm.values_giver hu hz, e]) (LaneForm.mem_values hu hl)
  have hhas : (s.writeDest s.cur x.dest (x.regs c.mode) (x.values c)).Has s.cur := (has_cur hs.toStands).writeDest _ _ _
  rw [hs.completes_eq, State.operandN_congr (fun o ho => hhas.operand_orFlags_complete _ _ _ _ _ l ho) hreg, hwrite]
  exact h x c _ hx

end Sys2Proof.Claims
end

section
/-!
SUPPORT. NaNs in floating arithmetic (R58), and that a result of floating arithmetic fits its element.
-/

namespace Sys2Proof.Machine

variable {f : Fmt} {ts : List Term}

/-! ## Results fit their element -/

theorem Fmt.join_lt (neg : Bool) {e m : Nat} (he : e < 2 ^ f.ebits) (hm : m < 2 ^ f.mbits) :
    f.join neg e m < 2 ^ f.width := by
  have hw : 2 ^ f.width = 2 ^ (f.ebits + f.mbits) + 2 ^ (f.ebits + f.mbits) := by
    rw [Fmt.width, Nat.add_assoc, Nat.pow_add]
    ring
  have hlow : e * 2 ^ f.mbits + m < 2 ^ (f.ebits + f.mbits) := by
    calc e * 2 ^ f.mbits + m < (e + 1) * 2 ^ f.mbits := by rw [Nat.add_mul]; omega
      _ ≤ 2 ^ f.ebits * 2 ^ f.mbits := Nat.mul_le_mul_right _ he
      _ = 2 ^ (f.ebits + f.mbits) := (Nat.pow_add ..).symm
  unfold Fmt.join
  split <;> omega

theorem Fmt.nan_lt (hf : f.Regular) : f.nan < 2 ^ f.width := by
  have he : 2 ^ f.ebits - 1 < 2 ^ f.ebits := Nat.sub_lt (Nat.two_pow_pos _) (by decide)
  have hm : 2 ^ f.mbits - 1 < 2 ^ f.mbits := Nat.sub_lt (Nat.two_pow_pos _) (by decide)
  have hhalf : 2 ^ (f.mbits - 1) < 2 ^ f.mbits := Nat.pow_lt_pow_right (by decide) (Nat.sub_lt hf.mbits (by decide))
  unfold Fmt.nan
  split
  · exact Fmt.join_lt _ he hhalf
  · split
    · exact Fmt.join_lt _ he hm
    · exact Nat.two_pow_pos _

theorem Fmt.inf_lt (f : Fmt) (neg : Bool) : f.inf neg < 2 ^ f.width :=
  Fmt.join_lt _ (Nat.sub_lt (Nat.two_pow_pos _) (by decide)) (Nat.two_pow_pos _)

theorem Fmt.Fits.pack_lt {q ulp : Nat} (h : f.Fits q ulp) (neg : Bool) :
    f.pack neg q ulp < 2 ^ f.width := by
  have hlt := h.lt
  rw [Nat.pow_succ] at hlt
  unfold Fmt.pack
  split
  · next hq => exact Fmt.join_lt _ (Nat.two_pow_pos _) hq
  · next hq => exact Fmt.join_lt _ (Fmt.lt_of_not_beyond (h.not_beyond (Nat.not_lt.1 hq))) (by omega)

theorem Fmt.maxFinite_lt (hf : f.Regular) (neg : Bool) : f.maxFinite neg < 2 ^ f.width := by
  rw [Fmt.maxFinite_eq hf]
  exact (Fmt.fits_top hf).pack_lt neg

theorem Fmt.overflow_lt (hf : f.Regular) (rd : Rd) (sat neg : Bool) : f.overflow rd sat neg < 2 ^ f.width := by
  have hmax := Fmt.maxFinite_lt hf
  have hinf := f.inf_lt
  unfold Fmt.overflow
  split
  · split
    · exact hmax _
    · cases rd
      case rne | rna | sr => exact hinf _
      case rtz => exact hmax _
      case rdn | rup => dsimp only; split <;> simp only [hmax, hinf]
  · split
    · split
      · exact hmax _
      · exact Fmt.nan_lt hf
    · exact hmax _

theorem Fmt.round_lt (hf : f.Regular) (rd : Rd) (sat : Bool) (v : Val) : (f.round rd sat v).1 < 2 ^ f.width := by
  cases v with
  | nan => exact Fmt.nan_lt hf
  | inf neg =>
    unfold Fmt.round
    dsimp only
    split
    · exact f.inf_lt _
    · exact Fmt.overflow_lt hf _ _ _
  | fin neg mag exp =>
    by_cases hm : mag = 0
    · subst hm
      exact Fmt.join_lt _ (Nat.two_pow_pos _) (Nat.two_pow_pos _)
    · simp only [Fmt.round, beq_eq_false_iff_ne.2 hm, Bool.false_eq_true, if_false]
      obtain ⟨hl, hlt, hfull⟩ := f.unit_spec (exp := exp) hm
      obtain ⟨hbig, hsmall⟩ := f.roundMag_spec rd sat neg mag exp
      have hq : (rd.apply neg mag exp (f.unit mag exp) false).1 ≤ 2 ^ (f.mbits + 1) := by
        rw [Rd.apply_spec]
        dsimp only
        split <;> omega
      have hn : 2 ^ f.mbits ≤ (rd.apply neg mag exp (f.unit mag exp) false).1 ∨ f.unit mag exp = f.least := by
        rw [Rd.apply_spec]
        exact hfull.imp_left fun h => Nat.le_add_right_of_le h
      by_cases hb : 2 ^ f.mbits ≤ (f.carried (rd.apply neg mag exp (f.unit mag exp) false).1 (f.unit mag exp)).1
        ∧ f.beyond (f.field (f.carried (rd.apply neg mag exp (f.unit mag exp) false).1 (f.unit mag exp)).2)
          ((f.carried (rd.apply neg mag exp (f.unit mag exp) false).1 (f.unit mag exp)).1 - 2 ^ f.mbits) = true
      · rw [hbig hb]
        exact Fmt.overflow_lt hf _ _ _
      · obtain ⟨tiny, ht⟩ := hsmall hb
        rw [ht]
        exact (Fmt.fits_carried hq hl hn hb).pack_lt neg

theorem Fmt.roundSum_lt (hf : f.Regular) (rd : Rd) (sat : Bool) (ts : List Term) :
    (f.roundSum rd sat ts).1 < 2 ^ f.width := by
  unfold Fmt.roundSum
  dsimp only
  split
  · exact Fmt.round_lt hf _ _ _
  · exact Fmt.nan_lt hf

theorem Fmt.minMax_lt (hf : f.Regular) (max : Bool) {a b : Nat} (ha : a < 2 ^ f.width) (hb : b < 2 ^ f.width) :
    f.minMax max a b < 2 ^ f.width := by
  have hnan := Fmt.nan_lt hf
  unfold Fmt.minMax
  dsimp only
  repeat' split
  all_goals assumption

/-! ## A NaN among the terms (R58) -/

theorem Fmt.roundSum_nan (rd : Rd) (sat : Bool) (h : ts.any Term.isNan = true) : (f.roundSum rd sat ts).1 = f.nan := by
  have hs : sumExact rd.down ts = (.nan, 0) := by
    unfold sumExact
    rw [if_pos h]
  simp [Fmt.roundSum, hs, Fmt.round]

theorem Term.isNan_val (x : Val) : (Term.val x).isNan = x.isNan := by
  cases x <;> rfl

theorem Val.isNan_neg (x : Val) : x.neg.isNan = x.isNan := by
  cases x <;> rfl

/-- A product with a NaN is one, whatever the other factor. -/
theorem Val.isNan_mul {x y : Val} (h : (x.isNan || y.isNan) = true) : (x.mul y).isNan = true := by
  cases x with
  | nan => rfl
  | _ =>
    cases y with
    | nan => rfl
    | _ => exact absurd h Bool.false_ne_true

theorem Fmt.minMax_nan (max : Bool) {a b : Nat} (h : ((f.decode a).isNan || (f.decode b).isNan) = true) :
    f.minMax max a b = f.nan := by
  unfold Fmt.minMax
  exact if_pos h

end Sys2Proof.Machine

namespace Sys2Proof.Claims

open Sys2Proof.Machine

/-- The types of floating arithmetic have one of the formats, of the element's width (R54, R133). -/
theorem tyFlt_regular {t : Nat} {f : Fmt} (h : tyFmt t = some f) (ht : t ∈ tyFlt) :
    f.Regular ∧ f.width = tyWidth t ∧ tyWidth t * tyCount t = 32 * tyRegs t := by
  simp only [tyFlt, List.mem_cons, List.not_mem_nil, or_false] at ht
  rcases ht with rfl | rfl | rfl | rfl <;> cases h <;> exact ⟨Fmt.regular (by decide), rfl, rfl⟩

/-- A source of an element holds a NaN. -/
def NanAt (c : Ctx) (l n : Nat) (f : Fmt) (o : Operand) : Prop := (f.decode (el c l o n)).isNan = true

/-- A word over elements of A and B: where one of the sources `os` holds a NaN in an element, the element of D is the
canonical one, if the operation answers it there and fits its element everywhere. -/
theorem gives_nan {i : Instr} {a b : Operand} {os : List Operand} {op : Ctx → Nat → Nat → Nat → Nat → Nat × Flags}
    (hx : ∀ x, laneForm i = some x → x.regs = tyWide ∧ ∀ c l, x.value c l
      = each2 (tyOf c.mode) (op c l) (c.val l a (tyWide c.mode)) (c.val l b (tyWide c.mode)))
    (hlt : ∀ c l n f x y, tyFmt (ty c) = some f → f.Regular → x < 2 ^ f.width → y < 2 ^ f.width →
      (op c l n x y).1 < 2 ^ f.width)
    (hnan : ∀ c l n f, tyFmt (ty c) = some f → (∃ o ∈ os, NanAt c l n f o) →
      (op c l n (el c l a n) (el c l b n)).1 = f.nan) :
    Gives i fun c l y => ∀ f, tyFmt (ty c) = some f → ty c ∈ tyFlt → ∀ n, n < tyCount (ty c) →
      (∃ o ∈ os, NanAt c l n f o) → elem y n (wd c) = f.nan := by
  refine gives_of_value fun x c l h f hf ht n hn hbad => ?_
  obtain ⟨hreg, hwidth, hcount⟩ := tyFlt_regular hf ht
  obtain ⟨hregs, hval⟩ := hx x h
  have hfit : wd c * (n + 1) ≤ 32 * x.regs c.mode := by
    rw [hregs]
    exact (Nat.mul_le_mul_left _ hn).trans hcount.le
  rw [elem_mod _ hfit, hval]
  refine (elem_mapElems hn fun k _ => ?_).trans (hnan c l n f hf hbad)
  rw [← show f.width = tyWidth (tyOf c.mode) from hwidth]
  have helem (o : Operand) : elem (c.val l o (tyWide c.mode)) k f.width < 2 ^ f.width := elem_lt _ _ _
  exact hlt c l k f _ _ hf hreg (helem a) (helem b)

/-- The words of A and B alone: their sources are A and B. -/
theorem gives_nan_binary {i : Instr} {sw : Bool} {tys : List Nat} {rounds : Word → Bool} {d a b : Operand}
    {op : Nat → Bool → Rd → Nat → Nat → Nat × Flags} (hi : laneForm i = some (.binary sw tys rounds d a b op))
    (hlt : ∀ t sat rd f x y, tyFmt t = some f → f.Regular → x < 2 ^ f.width → y < 2 ^ f.width →
      (op t sat rd x y).1 < 2 ^ f.width)
    (hnan : ∀ t sat rd f x y, tyFmt t = some f → ((f.decode x).isNan || (f.decode y).isNan) = true →
      (op t sat rd x y).1 = f.nan) :
    Gives i fun c l y => ∀ f, tyFmt (ty c) = some f → ty c ∈ tyFlt → ∀ n, n < tyCount (ty c) →
      (∃ o ∈ [a, b], NanAt c l n f o) → elem y n (wd c) = f.nan := by
  refine gives_nan (a := a) (b := b) (op := fun c l n x y => op (tyOf c.mode) c.sat (c.rdTy l n) x y) (fun x hx => ?_)
    (fun c l n f x y => hlt _ _ _ _ _ _) fun c l n f hf ho => hnan _ _ _ _ _ _ hf ?_
  · obtain rfl := Option.some.inj (hi.symm.trans hx)
    exact ⟨rfl, fun c l => rfl⟩
  · simpa [NanAt, or_comm] using ho

/-- MAD and MSB, of which D is a source too (R137). -/
theorem gives_nan_mad {i : Instr} {x : LaneForm} {minus : Bool} {d a b : Operand} (hi : laneForm i = some x)
    (hr : x.regs = tyWide) (hv : ∀ c l, x.value c l = each2 (tyOf c.mode) (fun n u v => madOp minus (tyOf c.mode) c.sat
      (c.rdTy l n) u v (el c l d n)) (c.val l a (tyWide c.mode)) (c.val l b (tyWide c.mode))) :
    Gives i fun c l y => ∀ f, tyFmt (ty c) = some f → ty c ∈ tyFlt → ∀ n, n < tyCount (ty c) →
      (∃ o ∈ [a, b, d], NanAt c l n f o) → elem y n (wd c) = f.nan := by
  have hop {t : Nat} {f : Fmt} (hf : tyFmt t = some f) (sat : Bool) (rd : Rd) (u v z : Nat) :
      madOp minus t sat rd u v z = f.roundSum rd sat
        [(if minus then (f.decode u).neg else f.decode u).mul (f.decode v), .val (f.decode z)] := by
    simp only [madOp, hf]
  refine gives_nan (a := a) (b := b)
    (op := fun c l n u v => madOp minus (tyOf c.mode) c.sat (c.rdTy l n) u v (el c l d n)) (fun y hy => ?_)
    (fun c l n f u v hf hreg _ _ => ?_) fun c l n f hf ho => ?_
  · obtain rfl := Option.some.inj (hi.symm.trans hy)
    exact ⟨hr, hv⟩
  · rw [hop (t := tyOf c.mode) hf]
    exact Fmt.roundSum_lt hreg _ _ _
  · rw [hop (t := tyOf c.mode) hf]
    refine Fmt.roundSum_nan _ _ ?_
    simp only [List.any_cons, List.any_nil, Bool.or_false, Bool.or_eq_true, Term.isNan_val]
    simp only [List.mem_cons, List.not_mem_nil, or_false, exists_eq_or_imp, exists_eq_left, NanAt] at ho
    rw [← or_assoc] at ho
    refine ho.imp_left fun h => Val.isNan_mul ?_
    rw [Bool.or_eq_true]
    cases minus
    · exact h
    · exact h.imp_left ((Val.isNan_neg _).trans ·)

theorem Gives.mono {i : Instr} {P Q : Ctx → Nat → Nat → Prop} (h : Gives i P) (hpq : ∀ c l y, P c l y → Q c l y) :
    Gives i Q := by
  intro x s c hx hs hreg hd
  obtain ⟨t, ht, hp⟩ := h x s c hx hs hreg hd
  exact ⟨t, ht, fun l hl => hpq _ _ _ (hp l hl)⟩

/-- ADD, SUB and MUL: one rounding of exact terms, of which a NaN source makes one NaN (R136). -/
theorem gives_nan_sum {i : Instr} {sw : Bool} {rounds : Word → Bool} {d a b : Operand}
    {op : Nat → Bool → Rd → Nat → Nat → Nat × Flags} {terms : Val → Val → List Term}
    (hi : laneForm i = some (.binary sw tyNum rounds d a b op))
    (hop : ∀ t sat rd f x y, tyFmt t = some f → op t sat rd x y = f.roundSum rd sat (terms (f.decode x) (f.decode y)))
    (hn : ∀ u v : Val, (u.isNan || v.isNan) = true → (terms u v).any Term.isNan = true) :
    Gives i fun c l y => ∀ f, tyFmt (ty c) = some f → ty c ∈ tyFlt → ∀ n, n < tyCount (ty c) →
      (∃ o ∈ [a, b], NanAt c l n f o) → elem y n (wd c) = f.nan := by
  refine gives_nan_binary hi (fun t sat rd f x y hf hreg _ _ => ?_) fun t sat rd f x y hf h => ?_
  · rw [hop _ _ _ _ _ _ hf]
    exact Fmt.roundSum_lt hreg _ _ _
  · rw [hop _ _ _ _ _ _ hf]
    exact Fmt.roundSum_nan _ _ (hn _ _ h)

/-- MIN and MAX (R136). -/
theorem gives_nan_minMax {i : Instr} {sw max : Bool} {d a b : Operand}
    (hi : laneForm i = some (.binary sw tyNum (fun _ => false) d a b fun t _ _ x y => (minMaxOp max t x y, 0))) :
    Gives i fun c l y => ∀ f, tyFmt (ty c) = some f → ty c ∈ tyFlt → ∀ n, n < tyCount (ty c) →
      (∃ o ∈ [a, b], NanAt c l n f o) → elem y n (wd c) = f.nan := by
  refine gives_nan_binary hi (fun t sat rd f x y hf hreg hx hy => ?_) fun t sat rd f x y hf h => ?_
  · simp only [minMaxOp, hf]
    exact Fmt.minMax_lt hreg _ hx hy
  · simp only [minMaxOp, hf]
    exact Fmt.minMax_nan _ h

theorem exists_nanAt {c : Ctx} {l n : Nat} {f : Fmt} {a b : Operand} {os : List Operand} (ha : a ∈ os) (hb : b ∈ os)
    (h : ((f.decode (el c l a n)).isNan || (f.decode (el c l b n)).isNan) = true) : ∃ o ∈ os, NanAt c l n f o := by
  rcases Bool.or_eq_true_iff.1 h with h | h
  · exact ⟨a, ha, h⟩
  · exact ⟨b, hb, h⟩

/-- Settles O12: a NaN source is a NaN term of the exact sum, or a NaN source of a minimum or maximum. -/
theorem nanGivesTheCanonicalNaN : Obligations.NaNGivesTheCanonicalNaN := by
  intro sw d a b i
  have hmad : i ∈ [.mad sw d a b, .msb sw d a b] →
      Gives i fun c l y => ∀ f, tyFmt (ty c) = some f → ty c ∈ tyFlt → ∀ n, n < tyCount (ty c) →
        (∃ o ∈ [a, b, d], NanAt c l n f o) → elem y n (wd c) = f.nan := by
    intro hi
    simp only [List.mem_cons, List.not_mem_nil, or_false] at hi
    rcases hi with rfl | rfl
    · exact gives_nan_mad (minus := false) rfl rfl fun _ _ => rfl
    · exact gives_nan_mad (minus := true) rfl rfl fun _ _ => rfl
  refine ⟨fun hi => ?_, fun hi => (hmad hi).mono fun c l y h f hf ht n hn hd => h f hf ht n hn ⟨d, by simp, hd⟩⟩
  have two {os : List Operand} (ha : a ∈ os) (hb : b ∈ os)
      (h : Gives i fun c l y => ∀ f, tyFmt (ty c) = some f → ty c ∈ tyFlt → ∀ n, n < tyCount (ty c) →
        (∃ o ∈ os, NanAt c l n f o) → elem y n (wd c) = f.nan) :=
    h.mono fun c l y h f hf ht n hn ho => h f hf ht n hn (exists_nanAt ha hb ho)
  have three (hi : i ∈ [.mad sw d a b, .msb sw d a b]) := two (by simp) (by simp) (hmad hi)
  simp only [List.mem_cons, List.not_mem_nil, or_false] at hi
  rcases hi with rfl | rfl | rfl | rfl | rfl | rfl | rfl
  · refine two (by simp) (by simp) (gives_nan_sum (op := addOp) (terms := fun u v => [.val u, .val v]) rfl
      (fun t sat rd f x y hf => by simp only [addOp, hf, Fmt.add]) fun u v h => ?_)
    simpa [Term.isNan_val] using h
  · refine two (by simp) (by simp) (gives_nan_sum (op := subOp) (terms := fun u v => [.val u, .val v.neg]) rfl
      (fun t sat rd f x y hf => by simp only [subOp, hf, Fmt.sub]) fun u v h => ?_)
    simpa [Term.isNan_val, Val.isNan_neg] using h
  · refine two (by simp) (by simp) (gives_nan_sum (op := mulOp) (terms := fun u v => [u.mul v]) rfl
      (fun t sat rd f x y hf => by simp only [mulOp, hf, Fmt.mul]) fun u v h => ?_)
    simpa using Val.isNan_mul h
  · exact two (by simp) (by simp) (gives_nan_minMax (max := false) rfl)
  · exact two (by simp) (by simp) (gives_nan_minMax (max := true) rfl)
  · exact three (by simp)
  · exact three (by simp)

end Sys2Proof.Claims
end

section
/-!
SUPPORT. What the write of a destination of classes 0 to 6, or of %zero, can change: registers, their marks, the
register sets of the grid and the functions' tags (R110, R112, R115).
-/

namespace Sys2Proof.Machine

/-! ## Parts that differ in registers alone -/

def Warp.Rewritten (w w' : Warp) : Prop :=
  ∃ v o ws ms, w' = { w with regs := { w.regs with v := v, o := o, w := ws }, flt := { w.flt with marks := ms } }

def Block.Rewritten (b b' : Block) : Prop := ∃ ws x ms, b' = { b with warps := ws, b := x, bMarks := ms }

def Grid.Rewritten (g g' : Grid) : Prop := ∃ x y z, g' = { g with g := x, gTrail := y, k := z }

theorem Warp.Rewritten.refl (w : Warp) : w.Rewritten w := ⟨_, _, _, _, rfl⟩

theorem Warp.Rewritten.trans {w w' w'' : Warp} (h : w.Rewritten w') (k : w'.Rewritten w'') : w.Rewritten w'' := by
  obtain ⟨_, _, _, _, rfl⟩ := h
  obtain ⟨_, _, _, _, rfl⟩ := k
  exact ⟨_, _, _, _, rfl⟩

theorem Block.Rewritten.refl (b : Block) : b.Rewritten b := ⟨_, _, _, rfl⟩

theorem Block.Rewritten.trans {b b' b'' : Block} (h : b.Rewritten b') (k : b'.Rewritten b'') : b.Rewritten b'' := by
  obtain ⟨_, _, _, rfl⟩ := h
  obtain ⟨_, _, _, rfl⟩ := k
  exact ⟨_, _, _, rfl⟩

theorem Grid.Rewritten.refl (g : Grid) : g.Rewritten g := ⟨_, _, _, rfl⟩

theorem Grid.Rewritten.trans {g g' g'' : Grid} (h : g.Rewritten g') (k : g'.Rewritten g'') : g.Rewritten g'' := by
  obtain ⟨_, _, _, rfl⟩ := h
  obtain ⟨_, _, _, rfl⟩ := k
  exact ⟨_, _, _, rfl⟩

theorem Grid.Rewritten.setG (g : Grid) (b : Block) (m : RegSet) : g.Rewritten (g.setG b m) := by
  unfold Grid.setG
  split
  · exact ⟨g.g, m, g.k, rfl⟩
  · exact ⟨m, g.gTrail, g.k, rfl⟩

/-! ## States that differ in registers alone -/

/-- From `s` to `t` registers of the warp, its block and its grid are written, and tags pass. -/
structure State.Rewrites (s t : State) (r : WarpRef) : Prop where
  rest : ∃ bs gs vs, t = { s with blocks := bs, grids := gs, vfs := vs }
  block : ∀ id b, s.block? id = some b → ∃ b', t.block? id = some b' ∧ b.Rewritten b'
    ∧ ∀ k, ¬ (id = r.blk ∧ k = r.slot) → b'.warp? k = b.warp? k
  warp : ∀ b w, s.warp? r = some (b, w) → ∃ b' w', t.warp? r = some (b', w') ∧ b.Rewritten b' ∧ w.Rewritten w'
  grid : ∀ id g, s.grid? id = some g → ∃ g', t.grid? id = some g' ∧ g.Rewritten g'

namespace State.Rewrites

variable {s t u : State} {r : WarpRef}

theorem refl (s : State) (r : WarpRef) : s.Rewrites s r where
  rest := ⟨s.blocks, s.grids, s.vfs, rfl⟩
  block _ b h := ⟨b, h, .refl b, fun _ _ => rfl⟩
  warp b w h := ⟨b, w, h, .refl b, .refl w⟩
  grid _ g h := ⟨g, h, .refl g⟩

theorem trans (h : s.Rewrites t r) (k : t.Rewrites u r) : s.Rewrites u r where
  rest := by
    obtain ⟨_, _, _, rfl⟩ := h.rest
    obtain ⟨_, _, _, rfl⟩ := k.rest
    exact ⟨_, _, _, rfl⟩
  block id b hb := by
    obtain ⟨b1, h1, r1, w1⟩ := h.block id b hb
    obtain ⟨b2, h2, r2, w2⟩ := k.block id b1 h1
    exact ⟨b2, h2, r1.trans r2, fun j hj => (w2 j hj).trans (w1 j hj)⟩
  warp b w hw := by
    obtain ⟨b1, w1, h1, rb1, rw1⟩ := h.warp b w hw
    obtain ⟨b2, w2, h2, rb2, rw2⟩ := k.warp b1 w1 h1
    exact ⟨b2, w2, h2, rb1.trans rb2, rw1.trans rw2⟩
  grid id g hg := by
    obtain ⟨g1, h1, r1⟩ := h.grid id g hg
    obtain ⟨g2, h2, r2⟩ := k.grid id g1 h1
    exact ⟨g2, h2, r1.trans r2⟩

theorem foldl {β : Type} {f : State → β → State} (hf : ∀ (s : State) (x : β), s.Rewrites (f s x) r) (l : List β)
    (s : State) :
    s.Rewrites (l.foldl f s) r := by
  induction l generalizing s with
  | nil => exact refl s r
  | cons x xs ih => exact (hf s x).trans (ih _)

theorem updWarp (s : State) (r : WarpRef) {f : Warp → Warp} (hf : ∀ w : Warp, w.Rewritten (f w)) :
    s.Rewrites (s.updWarp r f) r := by
  have hslot : ∀ w, (f w).slot = w.slot := fun w => by
    obtain ⟨_, _, _, _, h⟩ := hf w
    rw [h]
  refine ⟨⟨_, s.grids, s.vfs, rfl⟩, fun id b hb => ?_, fun b w hw => ?_, fun id g hg => ⟨g, hg, .refl g⟩⟩
  · by_cases hid : id = r.blk
    · subst hid
      refine ⟨b.updWarp r.slot f, ?_, ⟨_, b.b, b.bMarks, rfl⟩, fun k hk => ?_⟩
      · rw [State.updWarp, State.block?_updBlock _ _ _ fun b => Block.updWarp_id b r.slot f, hb]
        rfl
      · exact Block.warp?_updWarp_other b f hslot fun e => hk ⟨rfl, e⟩
    · refine ⟨b, ?_, .refl b, fun _ _ => rfl⟩
      rw [State.updWarp, State.block?_updBlock_other _ _ (fun b => Block.updWarp_id b r.slot f) hid, hb]
  · exact ⟨_, _, State.warp?_updWarp f hw hslot, ⟨_, b.b, b.bMarks, rfl⟩, hf w⟩

/-- A write of a b register (R110). -/
theorem setB (s : State) (r : WarpRef) (i : Nat) (x : Word) : s.Rewrites (s.updBlock r.blk fun b => b.setB i x) r := by
  refine ⟨⟨_, s.grids, s.vfs, rfl⟩, fun id b hb => ?_, fun b w hw => ?_, fun id g hg => ⟨g, hg, .refl g⟩⟩
  · by_cases hid : id = r.blk
    · subst hid
      refine ⟨b.setB i x, ?_, ⟨b.warps, _, _, rfl⟩, fun _ _ => rfl⟩
      rw [State.block?_updBlock _ _ _ fun _ => by rfl, hb]
      rfl
    · refine ⟨b, ?_, .refl b, fun _ _ => rfl⟩
      rw [State.block?_updBlock_other _ _ (fun _ => by rfl) hid, hb]
  · exact ⟨_, w, State.warp?_updBlock _ hw (fun _ => by rfl) (by rfl), ⟨b.warps, _, _, rfl⟩, .refl w⟩

/-- A write of a set of the grid (R112). -/
theorem updGrid (s : State) (r : WarpRef) (id : Nat) {f : Grid → Grid} (hf : ∀ g : Grid, g.Rewritten (f g)) :
    s.Rewrites (s.updGrid id f) r := by
  have hid : ∀ g, (f g).id = g.id := fun g => by
    obtain ⟨_, _, _, h⟩ := hf g
    rw [h]
  refine ⟨⟨s.blocks, _, s.vfs, rfl⟩, fun _ b hb => ⟨b, hb, .refl b, fun _ _ => rfl⟩,
    fun b w hw => ⟨b, w, hw, .refl b, .refl w⟩, fun j g hg => ?_⟩
  by_cases hj : j = id
  · subst hj
    exact ⟨f g, by rw [State.grid?_updGrid _ _ _ hid, hg]; rfl, hf g⟩
  · refine ⟨g, ?_, .refl g⟩
    exact (find?_map_other Grid.id f s.grids (fun x hx => (hid x).trans hx) hj).trans hg

theorem vfs (s : State) (r : WarpRef) (m : List Vf) : s.Rewrites { s with vfs := m } r where
  rest := ⟨s.blocks, s.grids, m, rfl⟩
  block _ b h := ⟨b, h, .refl b, fun _ _ => rfl⟩
  warp b w h := ⟨b, w, h, .refl b, .refl w⟩
  grid _ g h := ⟨g, h, .refl g⟩

theorem writeOne (s : State) (r : WarpRef) (l : Nat) {o : Operand} (ho : o.isReg = true ∨ o = .sp 0) (x : Word) :
    s.Rewrites (s.writeOne r l o x) r := by
  unfold State.writeOne
  cases o with
  | v i => exact updWarp s r fun w => ⟨_, w.regs.o, w.regs.w, w.flt.marks, rfl⟩
  | o i => exact updWarp s r fun w => ⟨w.regs.v, _, w.regs.w, w.flt.marks, rfl⟩
  | w i => exact updWarp s r fun w => ⟨w.regs.v, w.regs.o, _, w.flt.marks, rfl⟩
  | b i => exact setB s r _ x
  | k i =>
    dsimp only
    split
    · exact updGrid s r _ fun g => ⟨g.g, g.gTrail, _, rfl⟩
    · exact refl s r
  | g i =>
    dsimp only
    split
    · exact updGrid s r _ fun g => .setG g _ _
    · exact refl s r
  | sp i =>
    obtain rfl : i = 0 := by simpa [Operand.isReg, Operand.isSp] using ho
    exact refl s r

theorem writeRegs (s : State) (r : WarpRef) (l : Nat) {o : Operand} (ho : o.isReg = true ∨ o = .sp 0) (n x : Nat) :
    s.Rewrites (s.writeRegs r l o n x) r := by
  induction n generalizing s o x with
  | zero => exact refl s r
  | succ n ih =>
    refine (writeOne s r l ho _).trans (ih _ ?_ _)
    exact ho.imp ((Operand.nth_isReg o 1).trans ·) fun h => by rw [h]; rfl

theorem writeDest (s : State) (r : WarpRef) {d : Operand} (hd : d.isReg = true ∨ d = .sp 0) (n : Nat)
    (vals : List (Nat × Nat)) : s.Rewrites (s.writeDest r d n vals) r := by
  unfold State.writeDest
  obtain ⟨m, hm⟩ := State.passTags_vfs (((destVals d vals).foldl (fun s x => s.writeRegs r x.1 d n x.2) s).updWarp r
    fun w => { w with flt := { w.flt with marks := clearMarks d n (maskOf (vals.map Prod.fst)) w.flt.marks } }) r
    (if vals.isEmpty then .sp 0 else d)
  dsimp only
  rw [hm]
  refine .trans ?_ (.vfs _ _ _)
  refine (foldl (fun s (x : Nat × Nat) => writeRegs s r x.1 hd n x.2) (destVals d vals) s).trans ?_
  exact updWarp _ r fun w => ⟨w.regs.v, w.regs.o, w.regs.w, _, rfl⟩

/-- Outside the warp nothing differs but registers of its block and grid, and tags. -/
theorem onlyWarp (h : s.Rewrites t r) : s.OnlyWarp { t with vfs := s.vfs } r := by
  have hblock := h.block
  obtain ⟨bs, gs, vs, rfl⟩ := h.rest
  refine ⟨fun _ => rfl, fun _ => rfl, fun _ => rfl, fun id b hb => ?_, rfl, rfl, rfl, rfl, rfl,
    ⟨rfl, rfl, rfl, rfl, rfl, rfl, rfl⟩, rfl⟩
  obtain ⟨b', hb', ⟨_, _, _, rfl⟩, hw⟩ := hblock id b hb
  exact ⟨_, hb', rfl, rfl, rfl, rfl, rfl, rfl, rfl, rfl, rfl, rfl, rfl, rfl, hw⟩

theorem now_eq (h : s.Rewrites t r) : t.now = s.now := by
  obtain ⟨_, _, _, rfl⟩ := h.rest
  rfl

end State.Rewrites

/-! ## Destinations that are no cluster or grid register -/

/-- The grids and the functions' tags are as they were. -/
def State.SameSets (s t : State) : Prop := t.grids = s.grids ∧ t.vfs = s.vfs

theorem State.SameSets.trans {s t u : State} (h : s.SameSets t) (k : t.SameSets u) : s.SameSets u :=
  ⟨k.1.trans h.1, k.2.trans h.2⟩

theorem Operand.copied_nth (o : Operand) (k : Nat) : Machine.copied (o.nth k) = Machine.copied o := by
  cases o <;> rfl

theorem State.sameSets_writeOne (s : State) (r : WarpRef) (l : Nat) {o : Operand} (ho : copied o = false) (x : Word) :
    s.SameSets (s.writeOne r l o x) := by
  unfold State.writeOne
  cases o with
  | k i => exact absurd ho Bool.noConfusion
  | g i => exact absurd ho Bool.noConfusion
  | sp i =>
    dsimp only
    split
    · exact ⟨rfl, rfl⟩
    · split
      · exact ⟨rfl, rfl⟩
      · split <;> exact ⟨rfl, rfl⟩
  | _ => exact ⟨rfl, rfl⟩

theorem State.sameSets_writeRegs (s : State) (r : WarpRef) (l : Nat) {o : Operand} (ho : copied o = false) (n x : Nat) :
    s.SameSets (s.writeRegs r l o n x) := by
  induction n generalizing s o x with
  | zero => exact ⟨rfl, rfl⟩
  | succ n ih => exact (s.sameSets_writeOne r l ho _).trans (ih _ ((Operand.copied_nth o 1).trans ho) _)

theorem State.sameSets_writeDest (s : State) (r : WarpRef) {d : Operand} (hd : copied d = false) (n : Nat)
    (vals : List (Nat × Nat)) : s.SameSets (s.writeDest r d n vals) := by
  have hfold (l : List (Nat × Nat)) (s : State) : s.SameSets (l.foldl (fun s x => s.writeRegs r x.1 d n x.2) s) := by
    induction l generalizing s with
    | nil => exact ⟨rfl, rfl⟩
    | cons x xs ih => exact (s.sameSets_writeRegs r x.1 hd n x.2).trans (ih _)
  have hpass (u : State) (o : Operand) (ho : copied o = false) : u.passTags r o = u := by
    match o, ho with
    | .v _, _ | .o _, _ | .w _, _ | .b _, _ | .sp _, _ => rfl
  unfold State.writeDest
  dsimp only
  have hnamed : copied (if vals.isEmpty then .sp 0 else d) = false := by
    split
    · rfl
    · exact hd
  rw [hpass _ _ hnamed]
  exact hfold _ s

/-! ## Special operands (R39) -/

/-- What a special operand reads, but for the fields that a word changes, depends on no register. -/
theorem readSpecial_rewritten {s t : State} {b b' : Block} {g g' : Grid} {w w' : Warp} (hn : t.now = s.now)
    (hb : b.Rewritten b') (hg : g.Rewritten g') (hslot : w'.slot = w.slot) (hwidth : w'.width = w.width)
    (hrole : w'.role = w.role) (hactive : w'.ctl.active = w.ctl.active) (hmode : w'.ctl.mode = w.ctl.mode)
    (hp : w'.regs.p = w.regs.p) (hflt : w'.flt.lanes = w.flt.lanes ∧ w'.flt.word = w.flt.word
      ∧ w'.flt.addr = w.flt.addr ∧ w'.flt.retry = w.flt.retry ∧ w'.flt.ckpc = w.flt.ckpc)
    (l : Nat) {i : Nat} (h15 : i ≠ 15) (h20 : i ≠ 20) (h24 : i ≠ 24) (h16 : i = 16 → t.vfs = s.vfs) :
    readSpecial t b' g' w' l i = readSpecial s b g w l i := by
  obtain ⟨_, _, _, rfl⟩ := hb
  obtain ⟨_, _, _, rfl⟩ := hg
  obtain ⟨f1, f2, f3, f4, f5⟩ := hflt
  unfold readSpecial
  split <;> simp_all [Warp.preds, Block.leadCore, State.vf]

end Sys2Proof.Machine
end

section
/-!
SUPPORT. The frame of the lane words (R66, R110, R132, R160): the write of the destination, the flags and the
completion, taken together.
-/

namespace Sys2Proof.Machine

/-! ## The completion of a lane word -/

/-- What a word that closes no region leaves of its warp when it completes without a transfer (R102). -/
theorem Warp.complete_frame (w : Warp) {e : Entry} (hc : e.closes = .no) (pc : Nat) (red : Bool) (now : Nat) :
    (w.complete e pc none red now).flt = { w.flt with skipComp := none }
      ∧ (w.complete e pc none red now).ctl.cycHi
        = if e.uses.any (fun u => u.o == .sp 14) then BitVec.ofNat 32 (now / 2 ^ 32) else w.ctl.cycHi := by
  unfold Warp.complete
  rw [hc]
  exact ⟨rfl, rfl⟩

/-- What the completion of a word leaves of a warp's place and control state (R39, R160). -/
theorem Warp.complete_rest (w : Warp) (e : Entry) (pc : Nat) (red : Bool) (now : Nat) :
    (w.complete e pc none red now).slot = w.slot ∧ (w.complete e pc none red now).width = w.width
      ∧ (w.complete e pc none red now).role = w.role ∧ (w.complete e pc none red now).ctl.mode = w.ctl.mode
      ∧ (w.complete e pc none red now).ctl.active = w.ctl.active
      ∧ (w.complete e pc none red now).ctl.stack = w.ctl.stack
      ∧ (w.complete e pc none red now).ctl.depth = w.ctl.depth
      ∧ (w.complete e pc none red now).ctl.draw = if e.draws then w.ctl.draw + 1 else w.ctl.draw := by
  unfold Warp.complete
  exact ⟨rfl, rfl, rfl, rfl, rfl, rfl, rfl, rfl⟩

/-- A warp with other registers and marks is the same in all else. -/
theorem Warp.Rewritten.frame {w w' : Warp} (h : w.Rewritten w') : w'.slot = w.slot ∧ w'.width = w.width
    ∧ w'.role = w.role ∧ w'.ctl = w.ctl ∧ w'.regs.p = w.regs.p ∧ w'.flt.lanes = w.flt.lanes ∧ w'.flt.word = w.flt.word
    ∧ w'.flt.addr = w.flt.addr ∧ w'.flt.retry = w.flt.retry ∧ w'.flt.ckpc = w.flt.ckpc := by
  obtain ⟨_, _, _, _, rfl⟩ := h
  exact ⟨rfl, rfl, rfl, rfl, rfl, rfl, rfl, rfl, rfl, rfl⟩

theorem statusOr_statusOr (x : Word) (f g : Flags) : statusOr (statusOr x f) g = statusOr x (f ||| g) := by
  simp [statusOr, BitVec.or_assoc, BitVec.setWidth_or]

/-- The flags that waited are merged, if any are, when the word completes (R134). -/
theorem Warp.complete_statusOr (w : Warp) (e : Entry) (pc : Nat) (red : Bool) (now : Nat) :
    ∃ fl, (w.complete e pc none red now).ctl.status = statusOr w.ctl.status fl ∧ (e.sw = false → fl = 0) := by
  by_cases hm : (e.sw && !(e.sw && !(w.results.isEmpty && w.pend.isEmpty))) = true
  · refine ⟨w.lateFlags, if_pos hm, fun h => ?_⟩
    rw [h] at hm
    exact absurd hm Bool.false_ne_true
  · refine ⟨0, ?_, fun _ => rfl⟩
    refine (if_neg hm).trans ?_
    simp [statusOr]

end Sys2Proof.Machine

namespace Sys2Proof.Claims

open Sys2Proof.Machine

variable {i : Instr} {x : LaneForm} {s : State} {c : Ctx}

/-- A lane word names its destination and its sources, in that order. -/
theorem laneForm_uses (h : laneForm i = some x) (m : Word) : (x.entry m).uses.map Use.o = x.dest :: i.srcs := by
  cases i
  case pack sw d a b =>
    cases h
    show Use.o (if _ then _ else _) :: _ = _
    split <;> rfl
  all_goals cases h <;> rfl

/-- A lane word closes no region. -/
theorem laneForm_closes (h : laneForm i = some x) (m : Word) : (x.entry m).closes = .no := by
  cases i <;> cases h <;> rfl

/-- A lane word reads %cyclo where it is one of its sources. -/
theorem laneForm_cyclo (h : laneForm i = some x) (hd : x.dest ≠ .sp 14) (m : Word) :
    ((x.entry m).uses.any fun u => u.o == .sp 14) = decide (.sp 14 ∈ i.srcs) := by
  have hany : ((x.entry m).uses.any fun u => u.o == .sp 14) = ((x.entry m).uses.map Use.o).any (· == .sp 14) := by
    rw [List.any_map]
    rfl
  rw [hany, laneForm_uses h, List.any_cons, beq_eq_false_iff_ne.2 hd, Bool.false_or, Bool.eq_iff_iff]
  simp

/-- The lanes with a value receive it. -/
theorem LaneForm.mem_outLanes {y : Nat × Nat} (hy : y ∈ x.values c) : y.1 ∈ c.outLanes := by
  unfold LaneForm.values Ctx.spread at hy
  unfold Ctx.outLanes
  split at hy
  · next h =>
    rw [if_pos h]
    cases hl : c.lanes with
    | nil => simp [hl] at hy
    | cons a t =>
      rw [hl] at hy
      obtain ⟨l, hl', rfl⟩ := List.mem_map.1 hy
      exact hl'
  · next h =>
    rw [if_neg h]
    obtain ⟨l, hl, rfl⟩ := List.mem_map.1 hy
    exact hl

/-- A register that is none of the destination's holds what it held, once the word's flags are set and the word has
completed. -/
theorem home_laneWord {r : WarpRef} {d : Operand} (h : s.Has r) (hd : d.isReg = true ∨ d = .sp 0) {n : Nat}
    {vals : List (Nat × Nat)} (hn : d = .sp 0 → n = 1) {m : Nat} {p : Operand} (hp : p.isReg = true)
    (hnot : ∀ y ∈ vals, ∀ k, k < n → sameReg (d.nth k) p y.1 m = false) (fl : Flags) (k : Grid) (e : Entry) (pc : Nat) :
    (((s.writeDest r d n vals).updWarp r fun w => w.orFlags fl).complete r k e pc none).homeValue r m p
      = s.homeValue r m p := by
  have hkept := (State.RegsKept.updWarp (s.writeDest r d n vals) r (f := fun w => w.orFlags fl) (fun _ => rfl)
    (fun _ => rfl) fun _ => rfl).trans (.complete _ r k e pc none)
  refine ((hkept.home (h.writeDest d n vals)).2 m p hp).trans ?_
  rcases hd with hd | rfl
  · exact h.home_writeDest_other hd n vals hp hnot
  · obtain rfl := hn rfl
    have hnone (l : List (Nat × Nat)) : l.foldl (fun s x => s.writeRegs r x.1 (.sp 0) 1 x.2) s = s := by
      induction l with
      | nil => rfl
      | cons y ys ih => exact ih
    have := ((s.regsKept_writeDest r (.sp 0) 1 vals).home (h.fold _ _ _)).2 m p hp
    rwa [hnone] at this

/-- The state in which a lane word has completed. -/
def LaneForm.leaves (x : LaneForm) (s : State) (c : Ctx) : State :=
  ((s.writeDest s.cur x.dest (x.regs c.mode) (x.values c)).updWarp s.cur fun w => w.orFlags (x.flags c)).complete s.cur
    c.g (x.entry c.mode) c.w.ctl.pc none

/-- The warp that a lane word leaves, from the warp as the write of the destination leaves it. -/
def LaneForm.leavesWarp (x : LaneForm) (s : State) (c : Ctx) (w : Warp) : Warp :=
  (w.orFlags (x.flags c)).complete (x.entry c.mode) c.w.ctl.pc none c.g.packet.redundant s.now

/-- The warp, its block and its grid in the state in which a lane word has completed. -/
theorem LaneForm.warp?_leaves (hd : x.dest.isReg = true ∨ x.dest = .sp 0) (hs : s.Issues x.entry c) :
    ∃ b w g, c.b.Rewritten b ∧ c.w.Rewritten w ∧ c.g.Rewritten g
      ∧ (x.leaves s c).warp? s.cur = some (b, x.leavesWarp s c w) ∧ (x.leaves s c).grid? b.grid = some g := by
  have hre := State.Rewrites.writeDest s s.cur hd (x.regs c.mode) (x.values c)
  obtain ⟨b, w, hw, hb, hwr⟩ := hre.warp c.b c.w hs.warp
  obtain ⟨g, hg, hgr⟩ := hre.grid c.b.grid c.g hs.grid
  have hblock (f : Warp → Warp) {b : Block} (h : c.b.Rewritten b) : c.b.Rewritten (b.updWarp s.cur.slot f) := by
    obtain ⟨_, _, _, rfl⟩ := h
    exact ⟨_, _, _, rfl⟩
  have hgrid : b.grid = c.b.grid := by
    obtain ⟨_, _, _, rfl⟩ := hb
    rfl
  have hflags := State.warp?_updWarp (fun w => w.orFlags (x.flags c)) hw fun _ => rfl
  have hleft := State.warp?_updWarp (fun w => w.complete (x.entry c.mode) c.w.ctl.pc none c.g.packet.redundant
    (s.writeDest s.cur x.dest (x.regs c.mode) (x.values c)).now) hflags fun _ => Warp.complete_slot _ _ _ _ _ _
  have hnow : x.leavesWarp s c w = (w.orFlags (x.flags c)).complete (x.entry c.mode) c.w.ctl.pc none
      c.g.packet.redundant (s.writeDest s.cur x.dest (x.regs c.mode) (x.values c)).now := by
    rw [LaneForm.leavesWarp, ← hre.now_eq]
  exact ⟨_, w, g, hblock _ (hblock _ hb), hwr, hgr, hnow ▸ hleft, hgrid ▸ hg⟩

/-- Settles O13: the write changes registers, marks and tags alone; the flags and the completion change the warp's
control fields that the statement names. -/
theorem laneWordFrame : Obligations.LaneWordFrame := by
  intro i d hd x s c h hx hs hf
  subst hx
  have hleaves : c.completes x.entry ((s.writeDest s.cur x.dest (x.regs c.mode) (x.values c)).updWarp s.cur
      fun w => w.orFlags (x.flags c)) = x.leaves s c := hs.completes_eq _ _
  refine ⟨_, (exec_laneForm_completes h hs hf).trans (congrArg Host.Outcome.next hleaves), ?_⟩
  have hre := State.Rewrites.writeDest s s.cur hd (x.regs c.mode) (x.values c)
  obtain ⟨b, w, g, hb, hw, hg, hwarp, hgrid⟩ := LaneForm.warp?_leaves hd hs
  obtain ⟨hslot, hwidth, hrole, hctl, hp, hlanes, hword, haddr, hretry, hckpc⟩ := hw.frame
  have hregs := Warp.complete_regs (w.orFlags (x.flags c)) (x.entry c.mode) c.w.ctl.pc none c.g.packet.redundant s.now
  have hpc := Warp.complete_pc (w.orFlags (x.flags c)) (x.entry c.mode) c.w.ctl.pc c.g.packet.redundant s.now
  obtain ⟨hflt, hcyc⟩ := Warp.complete_frame (w.orFlags (x.flags c)) (laneForm_closes h c.mode) c.w.ctl.pc
    c.g.packet.redundant s.now
  obtain ⟨hslot', hwidth', hrole', hmode', hactive', hstack', hdepth', hdraw'⟩ := Warp.complete_rest
    (w.orFlags (x.flags c)) (x.entry c.mode) c.w.ctl.pc c.g.packet.redundant s.now
  obtain ⟨late, hstatus, hsw⟩ := Warp.complete_statusOr (w.orFlags (x.flags c)) (x.entry c.mode) c.w.ctl.pc
    c.g.packet.redundant s.now
  rw [LaneForm.leavesWarp] at hwarp
  generalize (w.orFlags (x.flags c)).complete (x.entry c.mode) c.w.ctl.pc none c.g.packet.redundant s.now = w' at *
  simp only [Warp.orFlags, Warp.setStatus, hctl] at *
  refine ⟨(hre.onlyWarp.updWarp (fun w => w.orFlags (x.flags c)) fun _ => rfl).complete _ _ _ _, fun m p hp hnot => ?_,
    fun m k h15 h20 h24 h16 => ?_, fun m => ?_, fun hcop => s.sameSets_writeDest s.cur hcop _ _,
    w', x.flags c ||| late, warpOf_of_warp? hwarp, hstatus.trans (statusOr_statusOr _ _ _), fun h0 => ?_, hdraw', hactive',
    hstack', hdepth', hpc⟩
  · refine home_laneWord (has_cur hs.toStands) hd (fun he => regs_of_sp h he hs) hp (fun y hy => ?_) _ _ _ _
    exact hnot _ (LaneForm.mem_outLanes hy)
  · rw [State.operand_eq hwarp hgrid, State.operand_eq hs.warp hs.grid]
    have hne {j : BitVec 5} (hk : k ≠ j) : k.toNat ≠ j.toNat := fun e => hk (BitVec.eq_of_toNat_eq e)
    refine readSpecial_rewritten hre.now_eq hb hg (hslot'.trans hslot) (hwidth'.trans hwidth) (hrole'.trans hrole)
      hactive' hmode' (by rw [hregs, hp]) (by rw [hflt]; exact ⟨hlanes, hword, haddr, hretry, hckpc⟩) m (hne h15) (hne h20)
      (hne h24) fun he => ?_
    exact (s.sameSets_writeDest s.cur (h16 (BitVec.eq_of_toNat_eq he)) _ _).2
  · rw [State.operand_eq hwarp hgrid, State.operand_eq hs.warp hs.grid]
    refine hcyc.trans ?_
    have hne : x.dest ≠ .sp 14 := by
      rintro he
      rw [he] at hd
      exact absurd hd (by decide)
    rw [laneForm_cyclo h hne]
    simp only [decide_eq_true_eq]
    rfl
  · rw [hsw h0]
    exact BitVec.or_zero

end Sys2Proof.Claims
end

section
/-!
SUPPORT. Updates of several warps one after the other, and rounds and barriers (R72, R108, R120 to R122).
-/

namespace Sys2Proof.Machine

open Sys2Proof.Claims (warpOf)

variable {s t u : State} {r : WarpRef}

/-! ## A warp through a run of updates -/

/-- What every step of a run keeps of a warp, the run keeps. -/
theorem warpOf_foldl {β : Type} {F : State → β → State} {I : Warp → Prop}
    (hF : ∀ s x w, warpOf s r = some w → I w → ∃ w', warpOf (F s x) r = some w' ∧ I w') (l : List β) {w : Warp}
    (h : warpOf s r = some w) (hw : I w) : ∃ w', warpOf (l.foldl F s) r = some w' ∧ I w' := by
  induction l generalizing s w with
  | nil => exact ⟨w, h, hw⟩
  | cons x xs ih =>
    obtain ⟨w', h', hw'⟩ := hF s x w h hw
    exact ih h' hw'

/-- What one step of a run brings about and the later ones keep holds after the run. -/
theorem warpOf_foldl_mem {β : Type} {F : State → β → State} {I J : Warp → Prop}
    (hI : ∀ s x w, warpOf s r = some w → I w → ∃ w', warpOf (F s x) r = some w' ∧ I w')
    (hJ : ∀ s x w, warpOf s r = some w → J w → ∃ w', warpOf (F s x) r = some w' ∧ J w') {l : List β} {x : β}
    (hx : x ∈ l)
    (hstep : ∀ s w, warpOf s r = some w → I w → ∃ w', warpOf (F s x) r = some w' ∧ J w') {w : Warp}
    (h : warpOf s r = some w) (hw : I w) : ∃ w', warpOf (l.foldl F s) r = some w' ∧ J w' := by
  obtain ⟨l₁, l₂, rfl⟩ := List.append_of_mem hx
  obtain ⟨w₁, h₁, hw₁⟩ := warpOf_foldl hI l₁ h hw
  obtain ⟨w₂, h₂, hw₂⟩ := hstep _ _ h₁ hw₁
  rw [List.foldl_append, List.foldl_cons]
  exact warpOf_foldl hJ l₂ h₂ hw₂

theorem warpOf_updWarp_keeps {I : Warp → Prop} (q : WarpRef) {f : Warp → Warp} (hs : ∀ w, (f w).slot = w.slot)
    (hf : ∀ w, I w → I (f w)) {w : Warp} (h : warpOf s r = some w) (hw : I w) :
    ∃ w', warpOf (s.updWarp q f) r = some w' ∧ I w' := by
  by_cases hq : r = q
  · subst hq
    exact ⟨f w, by rw [warpOf_updWarp s r hs, h]; rfl, hf w hw⟩
  · exact ⟨w, by rw [warpOf_updWarp_other s hq hs, h], hw⟩

theorem warpOf_updWarp_at {I J : Warp → Prop} {f : Warp → Warp} (hs : ∀ w, (f w).slot = w.slot)
    (hf : ∀ w, I w → J (f w)) {w : Warp} (h : warpOf s r = some w) (hw : I w) :
    ∃ w', warpOf (s.updWarp r f) r = some w' ∧ J w' :=
  ⟨f w, by rw [warpOf_updWarp s r hs, h]; rfl, hf w hw⟩

/-- A warp after an update of a block that keeps the warps. -/
theorem warpOf_updBlock (s : State) (r : WarpRef) (id : Nat) {f : Block → Block} (hi : ∀ b, (f b).id = b.id)
    (hw : ∀ b, (f b).warps = b.warps) : warpOf (s.updBlock id f) r = warpOf s r := by
  have h : warpOf (s.updBlock id f) r = (warpOf s r).map fun w => w :=
    warpOf_map (f := fun b => if b.id == id then f b else b) rfl (fun b => by split <;> simp [hi])
      (fun b => by split <;> simp [hw]) (fun _ => rfl) r
  rw [h, Option.map_id']

/-! ## Everything but the warps -/

/-- The states differ in the warps of their blocks alone. -/
structure State.WarpsOnly (s t : State) : Prop where
  rest : ∃ bs, t = { s with blocks := bs }
  block : ∀ id b, s.block? id = some b → ∃ ws, t.block? id = some { b with warps := ws }

namespace State.WarpsOnly

theorem refl (s : State) : s.WarpsOnly s := ⟨⟨s.blocks, rfl⟩, fun _ b h => ⟨b.warps, h⟩⟩

theorem trans (h : s.WarpsOnly t) (k : t.WarpsOnly u) : s.WarpsOnly u where
  rest := by
    obtain ⟨_, rfl⟩ := h.rest
    obtain ⟨_, rfl⟩ := k.rest
    exact ⟨_, rfl⟩
  block id b hb := by
    obtain ⟨ws, h1⟩ := h.block id b hb
    obtain ⟨ws', h2⟩ := k.block id _ h1
    exact ⟨ws', h2⟩

theorem updWarp (s : State) (r : WarpRef) (f : Warp → Warp) : s.WarpsOnly (s.updWarp r f) := by
  refine ⟨⟨_, rfl⟩, fun id b hb => ?_⟩
  by_cases hid : id = r.blk
  · subst hid
    refine ⟨(b.updWarp r.slot f).warps, ?_⟩
    rw [State.updWarp, State.block?_updBlock _ _ _ fun b => Block.updWarp_id b r.slot f, hb]
    rfl
  · refine ⟨b.warps, ?_⟩
    rw [State.updWarp, State.block?_updBlock_other _ _ (fun b => Block.updWarp_id b r.slot f) hid, hb]

theorem foldl {β : Type} {F : State → β → State} (hF : ∀ s x, State.WarpsOnly s (F s x)) (l : List β) (s : State) :
    s.WarpsOnly (l.foldl F s) := by
  induction l generalizing s with
  | nil => exact refl s
  | cons x xs ih => exact (hF s x).trans (ih _)

end State.WarpsOnly

/-- A block has the name by which it is found. -/
theorem State.block?_id {id : Nat} {b : Block} (h : s.block? id = some b) : b.id = id :=
  beq_iff_eq.1 (List.find?_some (p := fun b : Block => b.id == id) h)

theorem State.grid?_id {id : Nat} {g : Grid} (h : s.grid? id = some g) : g.id = id :=
  beq_iff_eq.1 (List.find?_some (p := fun g : Grid => g.id == id) h)

/-! ## ROUND_COMPLETE (R72, R120, R121) -/

theorem State.shareRound_vfs (s : State) (b : Block) (x : Round) : ∃ m, s.shareRound b x = { s with vfs := m } := by
  unfold State.shareRound
  split
  · exact ⟨s.vfs, rfl⟩
  · exact s.shareTags_vfs _ _

/-- The end of a round marks the result of a contribution (R121). -/
def Warp.roundDone (w : Warp) (p : Contribution) (writes : Nat × Nat) (fl : Flags) : Warp :=
  { w with results := w.results.map fun (y : Result) => if y.id == p.result then
      { y with ready := true, after := writes, flags := y.flags ||| fl, event := some (0, 0) } else y }

/-- The warp has a result of this number, and such a result that is complete. -/
def Warp.hasResult (id : Nat) (w : Warp) : Prop := ∃ y ∈ w.results, y.id = id
def Warp.hasReady (id : Nat) (w : Warp) : Prop := ∃ y ∈ w.results, y.id = id ∧ y.ready = true

variable {id : Nat} {w : Warp}

theorem Warp.hasResult_roundDone (h : w.hasResult id) (p : Contribution) (writes : Nat × Nat) (fl : Flags) :
    (w.roundDone p writes fl).hasResult id := by
  obtain ⟨y, hy, hid⟩ := h
  refine ⟨_, List.mem_map_of_mem hy, ?_⟩
  split <;> exact hid

theorem Warp.hasReady_roundDone (h : w.hasReady id) (p : Contribution) (writes : Nat × Nat) (fl : Flags) :
    (w.roundDone p writes fl).hasReady id := by
  obtain ⟨y, hy, hid, hr⟩ := h
  refine ⟨_, List.mem_map_of_mem hy, ?_⟩
  split
  · exact ⟨hid, rfl⟩
  · exact ⟨hid, hr⟩

theorem Warp.hasReady_of_roundDone {p : Contribution} (h : w.hasResult p.result) (writes : Nat × Nat) (fl : Flags) :
    (w.roundDone p writes fl).hasReady p.result := by
  obtain ⟨y, hy, hid⟩ := h
  refine ⟨_, List.mem_map_of_mem hy, ?_⟩
  rw [if_pos (beq_iff_eq.2 hid)]
  exact ⟨hid, rfl⟩

/-- The state in which a round on a b register has written its value, before its contributors have theirs. -/
def State.roundWritten (s : State) (b : Block) (x : Round) (reg v : Nat) : State :=
  ((s.shareRound b x).setRounds b (.b (BitVec.ofNat 5 reg)) fun rs =>
    rs.filter (·.reg != (Operand.b (BitVec.ofNat 5 reg)).index)).writeRound b (.b (BitVec.ofNat 5 reg)) v

/-- One contributor's part of a round's end. -/
def State.partDone (writes : Nat → Nat × Nat) (fl : Flags) (s : State) (p : Contribution) : State :=
  s.updWarp { blk := p.blk, slot := p.slot } fun w => w.roundDone p (writes p.blk) fl

/-- The state that such a round leaves. -/
def State.roundEnded (s : State) (b : Block) (x : Round) (reg v : Nat) (fl : Flags) : State :=
  (x.parts.foldl (State.partDone ((s.roundWritten b x reg v).roundWrites (.b (BitVec.ofNat 5 reg))) fl)
    (s.roundWritten b x reg v)).progress (s.ctxOf b)

section
variable (writes : Nat → Nat × Nat) (fl : Flags) (q : Contribution)

theorem warpOf_partDone_hasResult (h : warpOf s r = some w) (hw : w.hasResult id) :
    ∃ w', warpOf (s.partDone writes fl q) r = some w' ∧ w'.hasResult id :=
  warpOf_updWarp_keeps (f := fun w => w.roundDone q (writes q.blk) fl) _ (fun _ => rfl)
    (fun _ hw => Warp.hasResult_roundDone hw q _ _) h hw

theorem warpOf_partDone_hasReady (h : warpOf s r = some w) (hw : w.hasReady id) :
    ∃ w', warpOf (s.partDone writes fl q) r = some w' ∧ w'.hasReady id :=
  warpOf_updWarp_keeps (f := fun w => w.roundDone q (writes q.blk) fl) _ (fun _ => rfl)
    (fun _ hw => Warp.hasReady_roundDone hw q _ _) h hw

theorem warpOf_partDone_at (h : warpOf s { blk := q.blk, slot := q.slot } = some w) (hw : w.hasResult q.result) :
    ∃ w', warpOf (s.partDone writes fl q) { blk := q.blk, slot := q.slot } = some w' ∧ w'.hasReady q.result :=
  warpOf_updWarp_at (f := fun w => w.roundDone q (writes q.blk) fl) (fun _ => rfl)
    (fun _ hw => Warp.hasReady_of_roundDone hw _ _) h hw

end

/-- A round on a b register to which every warp of the block has contributed or that has exited (R121). -/
theorem execRoundComplete_block {blk reg v : Nat} {b : Block} {x : Round} {fl : Flags} (hreg : reg < 32)
    (hb : s.block? blk = some b) (hx : b.rounds.find? (fun y => y.reg == reg) = some x)
    (hall : ∀ w ∈ b.warps, w.run = .exited ∨ ∃ p ∈ x.parts, p.blk = blk ∧ p.slot = w.slot)
    (he : x.error [b.index] = none) (hf : x.fold [b.index] = (some v, fl)) :
    execRoundComplete (.block blk reg) s = .next (s.roundEnded b x reg v fl) := by
  have hindex : (Operand.b (BitVec.ofNat 5 reg)).index = reg := by
    simpa [Operand.index] using hreg
  have hfind : (s.roundsAt b (.b (BitVec.ofNat 5 reg))).find? (·.reg == (Operand.b (BitVec.ofNat 5 reg)).index)
      = some x := by
    rw [hindex]
    exact hx
  have hfull : x.full (b.warps.map fun w => ({ blk := b.id, slot := w.slot }, w)) = true := by
    rw [Round.full, List.all_map, List.all_eq_true]
    intro w hw
    simpa [State.block?_id hb] using hall w hw
  simp only [execRoundComplete, State.roundSite, hb, hfind, hfull, if_true, State.endRound, he, hf]
  rfl

/-- Settled for the block: the register has the value, the round is closed, and every contributor's result is
complete. -/
theorem State.roundEnded_spec {blk reg v : Nat} {b : Block} {x : Round} (fl : Flags) (hreg : reg < 32)
    (hb : s.block? blk = some b) : Claims.SameMemory s (s.roundEnded b x reg v fl)
      ∧ (∃ b', (s.roundEnded b x reg v fl).block? blk = some b' ∧ sparseGet 0 b'.b reg = BitVec.ofNat 32 v
        ∧ (∀ k, k ≠ reg → sparseGet 0 b'.b k = sparseGet 0 b.b k) ∧ ∀ y ∈ b'.rounds, y.reg ≠ reg)
      ∧ ∀ p ∈ x.parts, ∀ w, warpOf s { blk := p.blk, slot := p.slot } = some w → w.hasResult p.result →
        ∃ w', warpOf (s.roundEnded b x reg v fl) { blk := p.blk, slot := p.slot } = some w' ∧ w'.hasReady p.result := by
  have hindex : (Operand.b (BitVec.ofNat 5 reg)).index = reg := by
    simpa [Operand.index] using hreg
  have hid := State.block?_id hb
  -- the state before the contributors' results: the value is written and the round is gone
  have hwritten : ∃ m, s.roundWritten b x reg v = (({ s with vfs := m } : State).updBlock b.id fun b =>
      { b with rounds := b.rounds.filter (·.reg != reg) }).updBlock b.id fun b => b.setB reg (BitVec.ofNat 32 v) := by
    obtain ⟨m, hm⟩ := s.shareRound_vfs b x
    refine ⟨m, ?_⟩
    rw [State.roundWritten, hm, hindex]
    simp only [State.setRounds, State.writeRound, hindex]
  have hkeep : ∀ q, warpOf (s.roundWritten b x reg v) q = warpOf s q := by
    intro q
    obtain ⟨m, hm⟩ := hwritten
    rw [hm, warpOf_updBlock _ _ _ (fun _ => by rfl) fun _ => by rfl,
      warpOf_updBlock _ _ _ (fun _ => by rfl) fun _ => by rfl]
    rfl
  have hmem : Claims.SameMemory s (s.roundWritten b x reg v) := by
    obtain ⟨m, hm⟩ := hwritten
    rw [hm]
    exact ⟨rfl, rfl, rfl⟩
  have hblock : (s.roundWritten b x reg v).block? blk
      = some (({ b with rounds := b.rounds.filter (·.reg != reg) } : Block).setB reg (BitVec.ofNat 32 v)) := by
    obtain ⟨m, hm⟩ := hwritten
    subst hid
    rw [hm, State.block?_updBlock _ _ _ fun _ => by rfl, State.block?_updBlock _ _ _ fun _ => by rfl]
    exact congrArg (fun o => Option.map _ (Option.map _ o)) hb
  unfold State.roundEnded
  generalize s.roundWritten b x reg v = t at hkeep hmem hblock
  generalize t.roundWrites (.b (BitVec.ofNat 5 reg)) = writes
  have hw := State.WarpsOnly.foldl (F := State.partDone writes fl) (fun u p => .updWarp u _ _) x.parts t
  refine ⟨?_, ?_, fun p hp w h hres => ?_⟩
  · obtain ⟨bs, hrest⟩ := hw.rest
    rw [hrest]
    exact hmem
  · obtain ⟨ws, hb'⟩ := hw.block blk _ hblock
    refine ⟨_, hb', sparseGet_set_same _ _ _ _, fun k hk => sparseGet_set_other _ _ _ hk, fun y hy => ?_⟩
    exact bne_iff_ne.1 (List.mem_filter.1 hy).2
  · rw [← hkeep] at h
    exact warpOf_foldl_mem (fun _ q _ => warpOf_partDone_hasResult writes fl q)
      (fun _ q _ => warpOf_partDone_hasReady writes fl q) hp (fun _ _ => warpOf_partDone_at writes fl p) h hres

end Sys2Proof.Machine
end

section
/-!
SUPPORT. Barriers (R108) and the copies of the registers of a grid (R112).
-/

namespace Sys2Proof.Machine

open Sys2Proof.Claims (warpOf)

variable {s t : State} {r : WarpRef}

/-! ## Register sets (R112) -/

namespace RegSet

theorem log_foldl_sync (cores : List Nat) (m : RegSet) : (cores.foldl (fun m c => m.sync c) m).log = m.log := by
  induction cores generalizing m with
  | nil => rfl
  | cons c cs ih => exact ih (m.sync c)

theorem applied_sync_same (m : RegSet) (c : Nat) : (m.sync c).applied c = m.log.length := sparseGet_set_same _ _ _ _

theorem applied_sync_full {m : RegSet} {c : Nat} (h : m.applied c = m.log.length) (d : Nat) :
    (m.sync d).applied c = m.log.length := by
  by_cases hd : c = d
  · subst hd
    exact applied_sync_same m c
  · exact (sparseGet_set_other _ _ _ hd).trans h

/-- A copy with every write of the set keeps them all while other copies get theirs. -/
theorem applied_foldl_sync_full (cores : List Nat) {m : RegSet} {c : Nat} (h : m.applied c = m.log.length) :
    (cores.foldl (fun m c => m.sync c) m).applied c = m.log.length := by
  induction cores generalizing m with
  | nil => exact h
  | cons d ds ih => exact ih (m := m.sync d) (applied_sync_full h d)

/-- Every core of the list has then every write of the set. -/
theorem applied_foldl_sync {cores : List Nat} {c : Nat} (hc : c ∈ cores) (m : RegSet) :
    (cores.foldl (fun m c => m.sync c) m).applied c = m.log.length := by
  induction cores generalizing m with
  | nil => cases hc
  | cons d ds ih =>
    rcases List.mem_cons.1 hc with rfl | hc
    · exact applied_foldl_sync_full ds (m := m.sync c) (applied_sync_same m c)
    · exact ih hc (m.sync d)

/-- The copy of a core that lacks a write applies one more. -/
theorem applied_advance {m : RegSet} {core : Nat} (h : m.applied core < m.log.length) :
    (m.advance core).applied core = m.applied core + 1 :=
  (sparseGet_set_same _ _ _ _).trans (Nat.min_eq_right h)

/-- One write more of the log, to `reg`, changes that register alone. -/
theorem at_succ {m : RegSet} {n reg : Nat} {x : Word} (h : m.log[n]? = some (reg, x)) (k : Nat) :
    m.at (n + 1) k = if k = reg then x else m.at n k := by
  unfold RegSet.at
  rw [List.take_add_one, h, Option.toList_some, List.reverse_append, List.reverse_singleton, List.singleton_append,
    List.find?_cons]
  by_cases hk : k = reg
  · subst hk
    simp
  · have hk' : (reg == k) = false := beq_eq_false_iff_ne.2 (Ne.symm hk)
    simp [hk, hk']

/-- What a core's copy holds after one write more. -/
theorem read_advance {m : RegSet} {core reg : Nat} {x : Word} (h : m.log[m.applied core]? = some (reg, x)) (k : Nat) :
    (m.advance core).read core k = if k = reg then x else m.read core k := by
  rw [read, applied_advance (List.getElem?_eq_some_iff.1 h).1]
  exact at_succ h k

end RegSet

/-! ## BARRIER_COMPLETE (R108) -/

/-- The cores of the warps of a barrier. -/
def State.barCores (s : State) (ws : List (WarpRef × Warp)) : List Nat :=
  ((ws.filterMap fun x => s.block? x.1.blk).map Block.core).eraseDups

theorem State.mem_barCores {ws : List (WarpRef × Warp)} {x : WarpRef × Warp} {b : Block} (hx : x ∈ ws)
    (hb : s.block? x.1.blk = some b) : b.core ∈ s.barCores ws :=
  List.mem_eraseDups.2 (List.mem_map_of_mem (List.mem_filterMap.2 ⟨x, hx, hb⟩))

/-- A warp of a barrier goes on if it has arrived. -/
def State.release (scope : BitVec 3) (s : State) (x : WarpRef × Warp) : State :=
  if x.2.arrived scope then s.updWarp x.1 fun w => { w with run := .barrier scope true, since := s.now } else s

theorem State.WarpsOnly.release (scope : BitVec 3) (s : State) (x : WarpRef × Warp) :
    s.WarpsOnly (s.release scope x) := by
  unfold State.release
  split
  · exact .updWarp s _ _
  · exact .refl s

section
variable {scope : BitVec 3} {w : Warp} {k : WarpCtl}

/-- The warp stands at a barrier, or has just been released from it, with these control registers. -/
def Warp.standsAt (scope : BitVec 3) (k : WarpCtl) (w : Warp) : Prop := (∃ go, w.run = .barrier scope go) ∧ w.ctl = k

def Warp.releasedFrom (scope : BitVec 3) (k : WarpCtl) (w : Warp) : Prop := w.run = .barrier scope true ∧ w.ctl = k

theorem warpOf_release {I : Warp → Prop} (hI : ∀ now w, I w → I { w with run := .barrier scope true, since := now })
    (x : WarpRef × Warp) (h : warpOf s r = some w) (hw : I w) :
    ∃ w', warpOf (s.release scope x) r = some w' ∧ I w' := by
  unfold State.release
  split
  · exact warpOf_updWarp_keeps (f := fun w => { w with run := .barrier scope true, since := s.now }) _ (fun _ => rfl)
      (hI s.now) h hw
  · exact ⟨w, h, hw⟩

theorem warpOf_release_at {x : WarpRef × Warp} (hx : x.2.arrived scope = true) (h : warpOf s x.1 = some w)
    (hw : w.standsAt scope k) : ∃ w', warpOf (s.release scope x) x.1 = some w' ∧ w'.releasedFrom scope k := by
  rw [State.release, if_pos hx]
  exact warpOf_updWarp_at (f := fun w => { w with run := .barrier scope true, since := s.now }) (fun _ => rfl)
    (fun _ hw => ⟨rfl, hw.2⟩) h hw

/-- Among the warps of a barrier that ends, one that has arrived is released, its control registers as they were. -/
theorem warpOf_foldl_release {ws : List (WarpRef × Warp)} {x : WarpRef × Warp} (hx : x ∈ ws)
    (ha : x.2.arrived scope = true) (h : warpOf s x.1 = some w) (hw : w.standsAt scope k) :
    ∃ w', warpOf (ws.foldl (State.release scope) s) x.1 = some w' ∧ w'.releasedFrom scope k :=
  warpOf_foldl_mem (fun _ y _ => warpOf_release (I := Warp.standsAt scope k) (fun _ _ hw => ⟨⟨true, rfl⟩, hw.2⟩) y)
    (fun _ y _ => warpOf_release (I := Warp.releasedFrom scope k) (fun _ _ hw => ⟨rfl, hw.2⟩) y) hx
    (fun _ _ => warpOf_release_at ha) h hw

end

theorem Warp.arrived_iff {w : Warp} {scope : BitVec 3} : w.arrived scope = true ↔ w.run = .barrier scope false :=
  beq_iff_eq

section
variable {q : BarRef} {ws : List (WarpRef × Warp)}

/-- A barrier that a warp of its scope has not reached waits. -/
theorem State.endBarrier_waits (h : s.barWarps q = some ws)
    (hout : ∃ x ∈ ws, x.2.run ≠ .exited ∧ x.2.run ≠ .barrier (barScope q) false) : s.endBarrier q = s := by
  have hall : (ws.all fun x => x.2.run == .exited || x.2.arrived (barScope q)) = false := by
    obtain ⟨x, hx, he, ha⟩ := hout
    refine List.all_eq_false.2 ⟨x, hx, ?_⟩
    simp [Warp.arrived, he, ha]
  rw [State.endBarrier, h]
  simp [hall]

/-- A barrier that every warp of its scope has reached: the registers' copies, the tags, then the warps. -/
theorem State.endBarrier_ends (h : s.barWarps q = some ws) (hany : ∃ x ∈ ws, x.2.run = .barrier (barScope q) false)
    (hall : ∀ x ∈ ws, x.2.run = .exited ∨ x.2.run = .barrier (barScope q) false) :
    ∃ m, s.endBarrier q
      = ws.foldl (State.release (barScope q)) { s.syncRegs q (s.barCores ws) with vfs := m } := by
  have hany : (ws.any fun x => x.2.arrived (barScope q)) = true := by
    obtain ⟨x, hx, ha⟩ := hany
    exact List.any_eq_true.2 ⟨x, hx, Warp.arrived_iff.2 ha⟩
  have hall : (ws.all fun x => x.2.run == .exited || x.2.arrived (barScope q)) = true := by
    refine List.all_eq_true.2 fun x hx => ?_
    simpa [Warp.arrived] using hall x hx
  have htags : ∀ here : List Block, ∃ m, (match here with
      | b :: _ => match (s.syncRegs q (s.barCores ws)).grid? b.grid with
        | some g => (s.syncRegs q (s.barCores ws)).shareTags g.vf (s.barCores ws)
        | none => s.syncRegs q (s.barCores ws)
      | [] => s.syncRegs q (s.barCores ws)) = { s.syncRegs q (s.barCores ws) with vfs := m } := by
    intro here
    split
    · split
      · exact State.shareTags_vfs _ _ _
      · exact ⟨_, rfl⟩
    · exact ⟨_, rfl⟩
  obtain ⟨m, hm⟩ := htags (ws.filterMap fun x => s.block? x.1.blk)
  refine ⟨m, ?_⟩
  rw [State.endBarrier, h]
  simp only [hany, hall, Bool.not_true, Bool.or_self, Bool.false_eq_true, if_false]
  rw [← hm]
  rfl

end

/-- The barrier of a block waits for each of its warps (R108). -/
theorem execBarrierComplete_block_waits {blk : Nat} {b : Block} (hb : s.block? blk = some b)
    (hout : ∃ w ∈ b.warps, w.run ≠ .exited ∧ w.run ≠ .barrier 2 false) :
    execBarrierComplete (.block blk) s = .next s := by
  obtain ⟨w, hw, hrun⟩ := hout
  have hws : s.barWarps (.block blk) = some (b.warps.map fun w => ({ blk := b.id, slot := w.slot }, w)) := by
    rw [State.barWarps, hb]
    rfl
  exact congrArg _ (State.endBarrier_waits hws ⟨_, List.mem_map_of_mem hw, hrun⟩)

/-- The barrier of a block releases its warps together. -/
theorem endBarrier_block {blk : Nat} {b : Block} (hb : s.block? blk = some b)
    (hany : ∃ w ∈ b.warps, w.run = .barrier 2 false)
    (hall : ∀ w ∈ b.warps, w.run = .exited ∨ w.run = .barrier 2 false) :
    Claims.SameMemory s (s.endBarrier (.block blk)) ∧ ∀ slot w, b.warp? slot = some w → w.run = .barrier 2 false →
      ∃ w', warpOf (s.endBarrier (.block blk)) { blk, slot } = some w' ∧ w'.run = .barrier 2 true ∧ w'.ctl = w.ctl := by
  have hid := State.block?_id hb
  have hws : s.barWarps (.block blk) = some (b.warps.map fun w => ({ blk, slot := w.slot }, w)) := by
    rw [State.barWarps, hb, ← hid]
    rfl
  obtain ⟨m, hm⟩ := State.endBarrier_ends hws (by simpa [barScope] using hany) (by simpa [barScope] using hall)
  rw [hm]
  refine ⟨?_, fun slot w hw hrun => ?_⟩
  · obtain ⟨bs, hbs⟩ := (State.WarpsOnly.foldl (State.WarpsOnly.release (barScope (.block blk))) _ _).rest
    rw [hbs]
    exact ⟨rfl, rfl, rfl⟩
  · have hslot : w.slot = slot := beq_iff_eq.1 (List.find?_some (p := fun w : Warp => w.slot == slot) hw)
    subst hslot
    refine warpOf_foldl_release (x := ({ blk, slot := w.slot }, w)) (List.mem_map_of_mem (List.mem_of_find?_eq_some hw))
      (Warp.arrived_iff.2 hrun) (w := w) ?_ ⟨⟨false, hrun⟩, rfl⟩
    exact congrArg (Option.map Prod.snd) (State.warp?_some.2 ⟨hb, hw⟩)

/-- The barrier of a grid brings each core's copy of its set g up to date. -/
theorem State.grid?_syncRegs_grid {grid : Nat} {g : Grid} (hg : s.grid? grid = some g) (cores : List Nat) :
    ∃ ks, (s.syncRegs (.grid grid false) cores).grid? grid
      = some { g with k := ks, g := cores.foldl (fun m c => m.sync c) g.g } := by
  refine ⟨_, (State.grid?_updGrid s grid _ fun g => ?_).trans (congrArg (Option.map _) hg)⟩
  rfl

/-- The barrier of a grid brings each core's copy of the grid's registers up to date (R108). -/
theorem endBarrier_grid {grid : Nat} {g : Grid} {ws : List (WarpRef × Warp)} (hg : s.grid? grid = some g)
    (hws : s.unitWarps g false (List.range g.map.length) = some ws) (hany : ∃ x ∈ ws, x.2.run = .barrier 4 false)
    (hall : ∀ x ∈ ws, x.2.run = .exited ∨ x.2.run = .barrier 4 false) :
    Claims.SameMemory s (s.endBarrier (.grid grid false))
      ∧ ∃ g', (s.endBarrier (.grid grid false)).grid? grid = some g' ∧ g'.g.log = g.g.log
        ∧ ∀ x ∈ ws, ∀ b, s.block? x.1.blk = some b → g'.g.applied b.core = g.g.log.length := by
  have hbar : s.barWarps (.grid grid false) = some ws := by
    rw [State.barWarps, hg]
    exact hws
  obtain ⟨m, hm⟩ := State.endBarrier_ends hbar hany hall
  obtain ⟨bs, hbs⟩ := (State.WarpsOnly.foldl (State.WarpsOnly.release (barScope (.grid grid false))) ws
    { s.syncRegs (.grid grid false) (s.barCores ws) with vfs := m }).rest
  obtain ⟨ks, hsync⟩ := State.grid?_syncRegs_grid hg (s.barCores ws)
  rw [hm, hbs]
  exact ⟨⟨rfl, rfl, rfl⟩, _, hsync, RegSet.log_foldl_sync (s.barCores ws) g.g,
    fun x hx b hb => RegSet.applied_foldl_sync (State.mem_barCores hx hb) g.g⟩

/-! ## REGISTER_COPY_UPDATE (R112) -/

/-- The grid's own copy of the set g at a core applies one write more; what becomes of the trailing copy is open. -/
theorem execRegisterCopyUpdate_own {grid core : Nat} {g : Grid} (hg : s.grid? grid = some g)
    (hruns : s.runsAt g none false core = true) :
    Claims.Happens (.registerCopyUpdate grid none core) s fun t => Claims.SameMemory s t
      ∧ ∃ m, t.grid? grid = some { g with g := g.g.advance core, gTrail := m } := by
  have hupd : ∀ (t : State) (trail : Bool), (t.updGrid grid fun g => g.copyUpdate none trail core).grid? grid
      = (t.grid? grid).map fun g => g.copyUpdate none trail core :=
    fun t trail => State.grid?_updGrid t grid _ fun g => by cases trail <;> rfl
  refine ⟨_, rfl, ?_⟩
  rw [hg]
  dsimp only
  cases hlag : s.runsAt g none true core with
  | false =>
    obtain ⟨m, hm⟩ := State.shareTags_vfs (s.updGrid grid fun g => g.copyUpdate none false core) g.vf
      (core :: (s.blocks.filter fun b => b.grid == grid).map Block.core)
    simp only [List.filter_cons, List.filter_nil, hruns, hlag]
    refine ⟨hm ▸ ⟨rfl, rfl, rfl⟩, g.gTrail, hm ▸ ?_⟩
    exact (hupd s false).trans (congrArg _ hg)
  | true =>
    obtain ⟨m, hm⟩ := State.shareTags_vfs ((s.updGrid grid fun g => g.copyUpdate none false core).updGrid grid
      fun g => g.copyUpdate none true core) g.vf (core :: (s.blocks.filter fun b => b.grid == grid).map Block.core)
    simp only [List.filter_cons, List.filter_nil, hruns, hlag]
    refine ⟨hm ▸ ⟨rfl, rfl, rfl⟩, g.gTrail.advance core, hm ▸ ?_⟩
    exact (hupd _ true).trans (congrArg _ ((hupd s false).trans (congrArg _ hg)))

end Sys2Proof.Machine
end

section
/-!
SUPPORT. A message that lands, and a credit that returns (R276).
-/

namespace Sys2Proof.Machine

open Sys2Proof.Claims (warpOf)

variable {s t : State}

/-! ## Words of a memory -/

theorem readLE_congr {m m' : Memory} {a n : Nat} (h : ∀ b, a ≤ b → b < a + n → memGet m' b = memGet m b) :
    readLE m' a n = readLE m a n := by
  induction n generalizing a with
  | zero => rfl
  | succ n ih =>
    rw [readLE, readLE, h a (Nat.le_refl a) (by omega), ih fun b h1 h2 => h b (by omega) (by omega)]

/-- The bytes written are read again. -/
theorem readLE_writeLE (m : Memory) (a n x : Nat) : readLE (writeLE m a n x) a n = x % 256 ^ n := by
  induction n generalizing m a x with
  | zero => exact (Nat.mod_one x).symm
  | succ n ih =>
    have hfirst : memGet (writeLE m a (n + 1) x) a = BitVec.ofNat 8 x := by
      rw [memGet_writeLE, if_pos (by omega), Nat.sub_self, Nat.pow_zero, Nat.div_one]
    rw [readLE, hfirst, writeLE, ih, Nat.pow_succ', Nat.mod_mul]
    rfl

/-- Words written one behind the other, the first with number `k`. -/
def writeWords (base k : Nat) (m : Memory) (ws : List Word) : Memory :=
  (ws.zipIdx k).foldl (fun m x => writeLE m (base + 4 * x.2) 4 x.1.toNat) m

theorem writeWords_cons (base k : Nat) (m : Memory) (w : Word) (ws : List Word) :
    writeWords base k m (w :: ws) = writeWords base (k + 1) (writeLE m (base + 4 * k) 4 w.toNat) ws := rfl

theorem memGet_writeWords_other {base a : Nat} (ws : List Word) (k : Nat) (m : Memory)
    (h : a < base + 4 * k ∨ base + 4 * (k + ws.length) ≤ a) : memGet (writeWords base k m ws) a = memGet m a := by
  induction ws generalizing k m with
  | nil => rfl
  | cons w ws ih =>
    rw [List.length_cons] at h
    rw [writeWords_cons, ih _ _ (by omega), memGet_writeLE, if_neg (by omega)]

theorem readLE_writeWords {base i : Nat} {x : Word} {ws : List Word} (h : ws[i]? = some x) (k : Nat) (m : Memory) :
    readLE (writeWords base k m ws) (base + 4 * (k + i)) 4 = x.toNat := by
  induction ws generalizing i k m with
  | nil => simp at h
  | cons w ws ih =>
    rw [writeWords_cons]
    cases i with
    | zero =>
      obtain rfl : w = x := by simpa using h
      rw [Nat.add_zero k, readLE_congr fun b _ hb => memGet_writeWords_other ws (k + 1) _ (by omega), readLE_writeLE]
      exact Nat.mod_eq_of_lt w.isLt
    | succ i =>
      rw [show k + (i + 1) = k + 1 + i by omega]
      exact ih (by simpa using h) (k + 1) _

/-! ## A block's end of a channel (R276) -/

theorem Block.chans_updChan {b : Block} {chan : Nat} {e : ChanEnd} (h : b.chans[chan]? = some e) (f : ChanEnd → ChanEnd) :
    (b.updChan chan f).chans[chan]? = some (f e) :=
  (List.getElem?_modify_eq _ _ _).trans (congrArg (Option.map f) h)

/-- Address of the slot that the next message of a channel takes. -/
def ChanEnd.nextSlot (e : ChanEnd) : Nat := e.desc.landing + 128 * (e.landed % Nat.max 1 e.desc.slots)

theorem foldl_scratch_writeLE (base k : Nat) (ws : List Word) (b : Block) :
    (ws.zipIdx k).foldl (fun (b : Block) x => { b with scratch := writeLE b.scratch (base + 4 * x.2) 4 x.1.toNat }) b
      = { b with scratch := writeWords base k b.scratch ws } := by
  induction ws generalizing k b with
  | nil => rfl
  | cons w ws ih => exact ih (k + 1) { b with scratch := writeLE b.scratch (base + 4 * k) 4 w.toNat }

/-- A message in its slot: its words in the scratchpad, and one message more has landed. -/
theorem Block.receive_eq {b : Block} {m : Message} {e : ChanEnd} (h : b.chans[m.chan]? = some e) :
    b.receive m = ({ ({ b with scratch := writeWords e.nextSlot 0 b.scratch m.words } : Block).cleanSoft 0 e.nextSlot 128
      with scratchBad := keepMarks b.scratchBad e.nextSlot 128 } : Block).updChan m.chan
        fun e => { e with landed := e.landed + 1 } := by
  rw [Block.receive, h]
  dsimp only
  rw [foldl_scratch_writeLE]
  rfl

theorem Block.receive_id (b : Block) (m : Message) : (b.receive m).id = b.id := by
  cases h : b.chans[m.chan]? with
  | none => rw [Block.receive, h]
  | some e => rw [Block.receive_eq h]; rfl

theorem Block.chans_receive {b : Block} {m : Message} {e : ChanEnd} (h : b.chans[m.chan]? = some e) :
    (b.receive m).chans[m.chan]? = some { e with landed := e.landed + 1 } := by
  rw [Block.receive_eq h]
  exact Block.chans_updChan h _

theorem Block.scratch_receive {b : Block} {m : Message} {e : ChanEnd} (h : b.chans[m.chan]? = some e) :
    (b.receive m).scratch = writeWords e.nextSlot 0 b.scratch m.words := by
  rw [Block.receive_eq h]
  rfl

/-! ## MESSAGE_LANDING (R276) -/

/-- A message that is gone from its list, and that nothing waits for any longer; of the rest the warps alone. -/
theorem State.endMessage_spec (s : State) (m : Message) : Claims.SameMemory s (s.endMessage m)
    ∧ (s.endMessage m).messages = (s.messages.filter fun x => x.id != m.id).map (fun (x : Message) =>
        { x with after := x.after.filter (· != m.id) })
    ∧ ∀ id b, s.block? id = some b → ∃ ws, (s.endMessage m).block? id = some { b with warps := ws } := by
  unfold State.endMessage
  dsimp only
  split
  · exact ⟨⟨rfl, rfl, rfl⟩, rfl, fun id b hb => ⟨b.warps, hb⟩⟩
  · refine ⟨⟨rfl, rfl, rfl⟩, rfl, (State.WarpsOnly.updWarp _ _ _).block⟩

/-- The oldest message of its channel's end lands there. -/
theorem State.landMessage_eq {m : Message} {g : Grid} {b : Block} (hm : s.messages.find? (fun x => x.id == m.id) = some m)
    (hafter : m.after = [])
    (hfirst : s.messages.find? (fun x => x.grid == m.grid && x.trail == m.trail && x.chan == m.chan
      && x.dest == m.dest) = some m) (hg : s.grid? m.grid = some g) (hb : s.blockAt m.grid m.dest m.trail = some b) :
    ∃ vs, s.landMessage m.id = (({ s with vfs := vs } : State).updBlock b.id fun b => b.receive m).endMessage m := by
  have hshare : ∃ vs, ((s.block? m.blk).elim s fun x => s.shareTags g.vf [x.core, b.core]) = { s with vfs := vs } := by
    cases s.block? m.blk with
    | none => exact ⟨s.vfs, rfl⟩
    | some x => exact s.shareTags_vfs _ _
  obtain ⟨vs, hvs⟩ := hshare
  refine ⟨vs, ?_⟩
  rw [State.landMessage, hm]
  simp only [hfirst, hafter, hg, hb, hvs, Option.any_some, bne_self_eq_false, List.isEmpty_nil, Bool.not_true,
    Bool.or_self, Bool.false_eq_true, if_false]

/-- What a landing leaves: its message is gone, and the receiver's block holds its words in the channel's slot. -/
theorem State.landMessage_spec {m : Message} {g : Grid} {b : Block} {e : ChanEnd}
    (hm : s.messages.find? (fun x => x.id == m.id) = some m) (hafter : m.after = [])
    (hfirst : s.messages.find? (fun x => x.grid == m.grid && x.trail == m.trail && x.chan == m.chan
      && x.dest == m.dest) = some m) (hg : s.grid? m.grid = some g)
    (hchan : Claims.chanAt s m.grid m.dest m.trail m.chan b e) :
    Claims.SameMemory s (s.landMessage m.id)
      ∧ (s.landMessage m.id).messages = (s.messages.filter fun x => x.id != m.id).map (fun (x : Message) =>
          { x with after := x.after.filter (· != m.id) })
      ∧ ∃ b', (s.landMessage m.id).block? b.id = some b' ∧ b'.chans[m.chan]? = some { e with landed := e.landed + 1 }
        ∧ b'.scratch = writeWords e.nextSlot 0 b.scratch m.words := by
  obtain ⟨hat, hb, he⟩ := hchan
  obtain ⟨vs, hvs⟩ := State.landMessage_eq hm hafter hfirst hg hat
  rw [hvs]
  obtain ⟨hmem, hmsg, hblock⟩ := (({ s with vfs := vs } : State).updBlock b.id fun b => b.receive m).endMessage_spec m
  obtain ⟨ws, hws⟩ := hblock b.id (b.receive m)
    ((State.block?_updBlock _ _ _ fun b => b.receive_id m).trans (congrArg (Option.map _) hb))
  exact ⟨hmem, hmsg, _, hws, Block.chans_receive he, Block.scratch_receive he⟩

/-! ## CREDIT_RETURN (R276) -/

theorem State.returnCredit_spec {x : Credit} {b : Block} {e : ChanEnd}
    (hx : s.credits.find? (fun y => y.id == x.id) = some x)
    (hchan : Claims.chanAt s x.grid x.dest x.trail x.chan b e) :
    Claims.SameMemory s (s.returnCredit x.id) ∧ (s.returnCredit x.id).credits = s.credits.filter (fun y => y.id != x.id)
      ∧ (s.returnCredit x.id).block? b.id = some (b.updChan x.chan fun e => { e with credits := e.credits + 1 }) := by
  obtain ⟨hat, hb, -⟩ := hchan
  have heq : s.returnCredit x.id = ({ s with credits := s.credits.filter (·.id != x.id) } : State).updBlock b.id
      fun b => b.updChan x.chan fun e => { e with credits := e.credits + 1 } := by
    have hat' : ({ s with credits := s.credits.filter (·.id != x.id) } : State).blockAt x.grid x.dest x.trail = some b :=
      hat
    rw [State.returnCredit, hx]
    dsimp only
    rw [hat']
  rw [heq]
  exact ⟨⟨rfl, rfl, rfl⟩, rfl,
    (State.block?_updBlock _ _ _ fun b => by rfl).trans (congrArg (Option.map _) hb)⟩

end Sys2Proof.Machine
end

section
/-!
SUPPORT. Rounds of reduction trees at their routers (R282 to R286).
-/

namespace Sys2Proof.Machine

open Sys2Proof.Claims (warpOf)

variable {s t : State} {g : Grid} {td : TreeDesc} {x y : TreeRound}

/-! ## Lists -/

section
variable {α : Type} {p q : α → Bool} {x : α}

/-- The first element with a property, once each such element has been replaced by one that has it. -/
theorem find?_map_replace (hx : p x = true) {l : List α} (h : l.any p = true) :
    (l.map fun y => if p y then x else y).find? p = some x := by
  induction l with
  | nil => cases h
  | cons a l ih =>
    by_cases ha : p a = true
    · simp [ha, hx]
    · simpa [ha] using ih (by simpa [ha] using h)

theorem filter_map_replace (hq : ∀ y, p y = true → q y = false) (hx : q x = false) (l : List α) :
    (l.map fun y => if p y then x else y).filter q = l.filter q := by
  induction l with
  | nil => rfl
  | cons a l ih =>
    by_cases ha : p a = true
    · simpa [ha, hx, hq a ha] using ih
    · simp only [List.map_cons, List.filter_cons, ha, ih, Bool.false_eq_true, if_false]

/-- The element found in a list stays the one found under a map that leaves it and the property alone. -/
theorem find?_map_keeps {f : α → α} (hp : ∀ y, p (f y) = p y) (hx : f x = x) {l : List α} (h : l.find? p = some x) :
    (l.map f).find? p = some x := by
  rw [List.find?_map, show p ∘ f = p from funext hp, h, Option.map_some, hx]

end

/-! ## The rounds that a grid's routers hold -/

/-- The two rounds are the same one of a tree at the same router. -/
def TreeRound.same (x y : TreeRound) : Bool := y.tree == x.tree && y.round == x.round && y.pos == x.pos

theorem TreeRound.same_refl (x : TreeRound) : x.same x = true := by
  simp [TreeRound.same]

namespace Grid

theorem round?_eq (g : Grid) (x : TreeRound) : g.round? x.tree x.round x.pos = g.trees.find? x.same := rfl

/-- The rounds held once one has been put in its place. -/
def put (ts : List TreeRound) (x : TreeRound) : List TreeRound :=
  if ts.any x.same then ts.map fun y => if x.same y then x else y else ts ++ [x]

theorem putRound_eq (g : Grid) (x : TreeRound) : g.putRound x = { g with trees := put g.trees x } := by
  unfold putRound put
  dsimp only
  split
  · rw [if_pos (by assumption)]; rfl
  · rw [if_neg (by assumption)]

theorem putRound_id (g : Grid) (x : TreeRound) : (g.putRound x).id = g.id := by
  rw [putRound_eq]

/-- A round that has been put in its place is found there. -/
theorem round?_putRound (g : Grid) (x : TreeRound) : (g.putRound x).round? x.tree x.round x.pos = some x := by
  rw [putRound_eq, round?_eq]
  unfold put
  split
  case isTrue h => exact find?_map_replace x.same_refl h
  case isFalse h =>
    have hnone : g.trees.find? x.same = none := by simpa [List.find?_eq_none, List.any_eq_true] using h
    rw [List.find?_append, hnone, Option.none_or, List.find?_singleton, x.same_refl, if_pos rfl]

/-- Putting a round leaves what is selected among the others. -/
theorem filter_putRound {q : TreeRound → Bool} (hq : ∀ y, x.same y = true → q y = false) (g : Grid) :
    (g.putRound x).trees.filter q = g.trees.filter q := by
  have hx := hq x x.same_refl
  rw [putRound_eq]
  unfold put
  split
  · exact filter_map_replace hq hx _
  · simp [hx]

theorem roundAt_of_round? {tree round pos : Nat} (h : g.round? tree round pos = some x) (now : Nat) :
    g.roundAt tree round pos now = x := by
  rw [roundAt, h]
  rfl

/-- A round at a router has the names by which it is found. -/
theorem roundAt_names (g : Grid) (tree round pos now : Nat) : (g.roundAt tree round pos now).tree = tree
    ∧ (g.roundAt tree round pos now).round = round ∧ (g.roundAt tree round pos now).pos = pos := by
  unfold roundAt
  cases h : g.round? tree round pos with
  | none => exact ⟨rfl, rfl, rfl⟩
  | some x => simpa [and_assoc] using List.find?_some h

/-- What is later than a round, among the results that a router keeps of a tree. -/
def laterResults (g : Grid) (tree round pos : Nat) : List TreeRound :=
  g.trees.filter fun y => y.tree == tree && y.pos == pos && y.result.isSome && decide (round < y.round)

theorem laterResults_putRound (g : Grid) (x : TreeRound) (tree pos : Nat) :
    (g.putRound x).laterResults tree x.round pos = g.laterResults tree x.round pos := by
  refine filter_putRound (fun y hy => ?_) g
  have hround : y.round = x.round := by
    simp only [TreeRound.same, Bool.and_eq_true, beq_iff_eq] at hy
    exact hy.1.2
  simp [hround]

/-- A result that no two later ones stand behind is kept (R286). -/
theorem round?_keepResult {now : Nat} {v : TreeVal × BitVec 16} (h : g.round? x.tree x.round x.pos = some x)
    (hlate : (g.laterResults x.tree x.round x.pos).length ≤ 1) :
    (g.keepResult x.tree x.round x.pos now v).round? x.tree x.round x.pos = some { x with result := some v } := by
  have hfound : (g.putRound { x with result := some v }).round? x.tree x.round x.pos = some { x with result := some v } :=
    g.round?_putRound { x with result := some v }
  have hold : decide (2 ≤ ((((g.putRound { x with result := some v }).trees.filter fun y =>
      y.tree == x.tree && y.pos == x.pos && y.result.isSome).map TreeRound.round).filter (x.round < ·)).length)
      = false := by
    refine decide_eq_false (Nat.not_le.2 (Nat.lt_succ_of_le ?_))
    rw [List.filter_map, List.length_map, List.filter_filter]
    rw [← g.laterResults_putRound { x with result := some v } x.tree x.pos] at hlate
    refine (congrArg List.length (List.filter_congr fun y _ => ?_)).trans_le hlate
    exact Bool.and_comm _ _
  rw [keepResult, roundAt_of_round? h]
  refine find?_map_keeps (fun y => ?_) ?_ hfound
  · split <;> rfl
  · simp only [hold, Bool.and_false, Bool.false_eq_true, if_false]

theorem keepResult_id (g : Grid) (tree round pos now : Nat) (v : TreeVal × BitVec 16) :
    (g.keepResult tree round pos now v).id = g.id :=
  putRound_id g _

theorem mark_eq (g : Grid) (s : State) (p : TreePkt) (ok : Bool) : ∃ ns, g.mark s p ok = { g with nreds := ns } := by
  unfold mark
  split
  · exact ⟨g.nreds, rfl⟩
  · exact ⟨_, rfl⟩

/-- Inputs that agree do not clash. -/
theorem clashes_of_agreed (h : Claims.agreed g td x) : g.clashes td x = false := by
  have hmem : ∀ v, v ∈ (g.arrived td x).filter (fun v => !v.vals.isEmpty) → v ∈ g.arrived td x :=
    fun v hv => (List.mem_filter.1 hv).1
  unfold clashes
  generalize (g.arrived td x).filter (fun v => !v.vals.isEmpty) = vs at hmem
  cases vs with
  | nil => rfl
  | cons v rest =>
    refine List.any_eq_false.2 fun u hu => ?_
    rw [h v (hmem v List.mem_cons_self) u (hmem u (List.mem_cons_of_mem v hu))]
    exact Bool.false_ne_true

/-! What a router expects and has does not depend on the rounds held and the NREDs that wait. -/

theorem arrived_trees (g : Grid) (ts : List TreeRound) (ns : List NredWait) :
    ({ g with trees := ts, nreds := ns } : Grid).arrived td x = g.arrived td x := rfl

theorem beneath_trees (g : Grid) (ts : List TreeRound) (ns : List NredWait) (pos : Nat) :
    ({ g with trees := ts, nreds := ns } : Grid).beneath td pos = g.beneath td pos := by
  have hbelow (n pos : Nat) : ({ g with trees := ts, nreds := ns } : Grid).below td n pos = g.below td n pos := by
    induction n generalizing pos with
    | zero => rfl
    | succ n ih => simp only [below, ih]; rfl
  exact hbelow _ pos

theorem missing_trees (g : Grid) (ts : List TreeRound) (ns : List NredWait) :
    ({ g with trees := ts, nreds := ns } : Grid).missing td x = g.missing td x := by
  simp only [missing, beneath_trees]
  rfl

end Grid

/-! ## A router sends a round on (R284 to R286) -/

/-- What a router sends on, or keeps as the result. -/
def Grid.folded (g : Grid) (td : TreeDesc) (x : TreeRound) : TreeVal :=
  { (g.arrived td x).foldl treeStep { vals := [], fn := 0, ty := 0, missing := 0, flags := 0, gen := 0 } with
    missing := g.missing td x }

/-- The report that goes with a result at the root. -/
def Grid.report (g : Grid) (td : TreeDesc) (x : TreeRound) : BitVec 16 :=
  BitVec.ofNat 8 (Nat.min 255 (g.missing td x)) ++ g.lacking td x

theorem Grid.report_missing (g : Grid) (td : TreeDesc) (x : TreeRound) :
    ((g.report td x).extractLsb' 8 8).toNat = Nat.min 255 (g.missing td x) := by
  have hmin : Nat.min 255 (g.missing td x) < 2 ^ 8 := Nat.lt_of_le_of_lt (Nat.min_le_left _ _) (by decide)
  rw [Grid.report, BitVec.extractLsb'_append_eq_left, BitVec.toNat_ofNat, Nat.mod_eq_of_lt hmin]

theorem State.treeForward_child (hc : g.clashes td x = false) (hpos : x.pos ≠ 0) : s.treeForward g td x =
    { (s.updGrid g.id fun g => g.putRound { x with sent := true }).fresh with treePkts := s.treePkts ++
      [{ id := s.nextId, grid := g.id, tree := x.tree, round := x.round, pos := td.parent x.pos,
         src := .child x.pos, val := g.folded td x }] } := by
  rw [State.treeForward, hc]
  simp only [Bool.false_eq_true, if_false, beq_eq_false_iff_ne.2 hpos]
  rfl

theorem State.treeForward_root (hc : g.clashes td x = false) (hpos : x.pos = 0) : s.treeForward g td x =
    (s.updGrid g.id fun g => g.putRound { x with sent := true }).updGrid g.id fun g' =>
      (if td.allreduce then List.range (g.members td).length else [0]).foldl
        (fun g' p => g'.keepResult x.tree x.round p s.now (g.folded td x, g.report td x)) g' := by
  rw [State.treeForward, hc]
  simp only [Bool.false_eq_true, if_false, beq_iff_eq.2 hpos, if_true]
  rfl

/-- A context's name, kill and stop records stay while its progress is noted. -/
theorem State.ctxs_progress (s : State) (ctx : Nat) :
    (s.progress ctx).ctxs.map (fun c => (c.id, c.killing, c.stops)) = s.ctxs.map fun c => (c.id, c.killing, c.stops) := by
  refine List.map_map.trans (List.map_congr_left fun c _ => ?_)
  simp only [Function.comp]
  split <;> rfl

/-- A round without a clash is sent on. -/
theorem State.forwards_treeForward (hg : s.grid? g.id = some g) (ha : Claims.agreed g td x) :
    Claims.SameMemory s (s.treeForward g td x) ∧ Claims.Forwards s (s.treeForward g td x) g td x s.treePkts := by
  have hc := Grid.clashes_of_agreed ha
  by_cases hpos : x.pos = 0
  case neg =>
    rw [State.treeForward_child hc hpos]
    exact ⟨⟨rfl, rfl, rfl⟩, fun _ => ⟨_, rfl, rfl, rfl, rfl, rfl, rfl, rfl⟩, fun h => absurd h hpos, rfl⟩
  case pos =>
    rw [State.treeForward_root hc hpos]
    refine ⟨⟨rfl, rfl, rfl⟩, fun h => absurd hpos h, fun _ hall hlate => ?_, rfl⟩
    have hgrid : ((s.updGrid g.id fun g => g.putRound { x with sent := true }).updGrid g.id fun g' =>
        [0].foldl (fun g' p => g'.keepResult x.tree x.round p s.now (g.folded td x, g.report td x)) g').grid? g.id
        = some ((g.putRound { x with sent := true }).keepResult x.tree x.round 0 s.now (g.folded td x, g.report td x)) := by
      rw [State.grid?_updGrid _ _ _ fun g => by rw [List.foldl_cons, List.foldl_nil, Grid.keepResult_id],
        State.grid?_updGrid _ _ _ fun g => Grid.putRound_id g _, hg]
      rfl
    rw [hall]
    refine ⟨_, { x with sent := true, result := some (g.folded td x, g.report td x) }, g.report td x, hgrid, ?_, rfl,
      rfl, g.report_missing td x⟩
    rw [← hpos] at hlate ⊢
    exact Grid.round?_keepResult (g.round?_putRound { x with sent := true })
      ((congrArg List.length (g.laterResults_putRound { x with sent := true } x.tree x.pos)).trans_le hlate)

end Sys2Proof.Machine
end

section
/-!
SUPPORT. The events TREE_INPUT, TREE_TIMEOUT and TREE_RESULT (R284 to R286).
-/

namespace Sys2Proof.Machine

open Sys2Proof.Claims (warpOf)

variable {s t : State} {g : Grid} {td : TreeDesc} {x y : TreeRound}

/-! ## TREE_INPUT (R284, R285) -/

/-- The round of a packet at its router, with the packet's input. -/
def Grid.joined (g : Grid) (p : TreePkt) (now : Nat) : TreeRound :=
  { g.roundAt p.tree p.round p.pos now with
    inputs := (g.roundAt p.tree p.round p.pos now).inputs ++ [(p.src, p.val)],
    start := if (g.roundAt p.tree p.round p.pos now).inputs.isEmpty then now
      else (g.roundAt p.tree p.round p.pos now).start }

theorem Grid.joined_names (g : Grid) (p : TreePkt) (now : Nat) :
    (g.joined p now).tree = p.tree ∧ (g.joined p now).round = p.round ∧ (g.joined p now).pos = p.pos :=
  g.roundAt_names p.tree p.round p.pos now

/-- A packet is off its way. -/
def State.took (s : State) (p : TreePkt) : State := { s with treePkts := s.treePkts.filter (·.id != p.id) }

/-- Every input that a router expects of a round has come. -/
def Grid.full (g : Grid) (td : TreeDesc) (pos : Nat) (x : TreeRound) : Bool :=
  (g.expected td pos).all fun src => x.inputs.any (·.1 == src)

/-- The state in which a router has taken the input of a packet. -/
def State.joined (s : State) (g : Grid) (p : TreePkt) : State :=
  ((s.took p).updGrid g.id fun g' => (g'.putRound (g.joined p s.now)).mark (s.took p) p true).progress g.ctx

/-- What a router sends on does not depend on where the round stands among those it holds. -/
theorem forwards_of_putRound {pkts : List TreePkt} {ns : List NredWait}
    (hf : Claims.Forwards s t { g.putRound y with nreds := ns } td y pkts) : Claims.Forwards s t g td y pkts := by
  obtain ⟨hchild, hroot, hctx⟩ := hf
  have hlater := g.laterResults_putRound y y.tree 0
  rw [Grid.putRound_eq] at hchild hroot hlater
  simp only [Grid.arrived_trees, Grid.missing_trees] at hchild hroot
  exact ⟨hchild, fun hpos hall hlate => hroot hpos hall
    ((congrArg List.length hlater).trans_le hlate), hctx⟩

theorem forwards_of_ctxs {s' : State} {pkts : List TreePkt} (hf : Claims.Forwards s' t g td y pkts)
    (hctx : s'.ctxs.map (fun c => (c.id, c.killing, c.stops)) = s.ctxs.map fun c => (c.id, c.killing, c.stops)) :
    Claims.Forwards s t g td y pkts := by
  obtain ⟨hchild, hroot, hkept⟩ := hf
  exact ⟨hchild, hroot, hkept.trans hctx⟩

section
variable {p : TreePkt} (h : Claims.arriving s p g td)
include h

/-- An input to a round that has been forwarded is discarded. -/
theorem State.treeInput_sent (hx : (g.roundAt p.tree p.round p.pos s.now).sent = true) :
    s.treeInput p.id = ((s.took p).updGrid g.id fun g' => g'.mark (s.took p) p false).progress g.ctx := by
  obtain ⟨hp, hfirst, hg, htd⟩ := h
  have hg' : (s.took p).grid? p.grid = some g := hg
  unfold State.took at hg'
  rw [State.treeInput, hp]
  simp only [hfirst, Option.any_some, bne_self_eq_false, Bool.false_eq_true, if_false, hg', htd, hx, if_true]
  rfl

/-- An input to an open round is taken, unless an error of the round must wait; the last one sends the round on. -/
theorem State.treeInput_open (hx : (g.roundAt p.tree p.round p.pos s.now).sent = false)
    (hc : g.full td p.pos (g.joined p s.now) = true → g.clashes td (g.joined p s.now) = false) :
    s.treeInput p.id = if g.full td p.pos (g.joined p s.now) then
      ((s.joined g p).grid? g.id).elim (s.joined g p) fun g' => (s.joined g p).treeForward g' td (g.joined p s.now)
      else s.joined g p := by
  obtain ⟨hp, hfirst, hg, htd⟩ := h
  have hwait : (g.full td p.pos (g.joined p s.now) && g.clashes td (g.joined p s.now)
      && (s.took p).errorWaits g p.tree p.round) = false := by
    cases hf : g.full td p.pos (g.joined p s.now) with
    | false => rfl
    | true => rw [hc hf]; rfl
  have hg' : (s.took p).grid? p.grid = some g := hg
  unfold State.took at hg'
  rw [State.treeInput, hp]
  simp only [hfirst, Option.any_some, bne_self_eq_false, Bool.false_eq_true, if_false, hg', htd]
  refine (if_neg (Bool.eq_false_iff.1 hx)).trans ((if_neg (Bool.eq_false_iff.1 hwait)).trans ?_)
  split
  case h_1 _ _ g' hf hg' =>
    rw [show g.full td p.pos (g.joined p s.now) = true from hf, show (s.joined g p).grid? g.id = some g' from hg']
    rfl
  case h_2 hno =>
    by_cases hf : g.full td p.pos (g.joined p s.now) = true
    · rw [if_pos hf]
      cases hg' : (s.joined g p).grid? g.id with
      | none => rfl
      | some g' => exact (hno g' hf hg').elim
    · rw [if_neg hf]
      rfl

/-- The grid of a state in which an input has been taken: the round is in its place, and an NRED may be marked. -/
theorem State.grid?_joined : ∃ ns, (s.joined g p).grid? g.id
    = some { g.putRound (g.joined p s.now) with nreds := ns } := by
  obtain ⟨-, -, hg, -⟩ := h
  have hid := State.grid?_id hg
  obtain ⟨ns, hns⟩ := (g.putRound (g.joined p s.now)).mark_eq (s.took p) p true
  refine ⟨ns, ?_⟩
  rw [← hns]
  rw [← hid] at hg
  refine (State.grid?_updGrid (s.took p) g.id _ fun g' => ?_).trans (congrArg (Option.map _) hg)
  obtain ⟨_, hm⟩ := (g'.putRound (g.joined p s.now)).mark_eq (s.took p) p true
  rw [hm]
  exact g'.putRound_id _

/-- An input that a forwarded round discards leaves the rounds as they are. -/
theorem State.treeInput_sent_spec (hx : (g.roundAt p.tree p.round p.pos s.now).sent = true) :
    Claims.SameMemory s (s.treeInput p.id) ∧ (s.treeInput p.id).treePkts = s.treePkts.filter (fun z => z.id != p.id)
      ∧ ∃ g', (s.treeInput p.id).grid? p.grid = some g' ∧ g'.trees = g.trees := by
  obtain ⟨ns, hns⟩ := g.mark_eq (s.took p) p false
  have hid := State.grid?_id h.2.2.1
  rw [State.treeInput_sent h hx]
  refine ⟨⟨rfl, rfl, rfl⟩, rfl, { g with nreds := ns }, ?_, rfl⟩
  rw [← hns, ← hid]
  refine (State.grid?_updGrid (s.took p) g.id _ fun g' => ?_).trans (congrArg (Option.map _) (hid ▸ h.2.2.1))
  obtain ⟨_, hm⟩ := g'.mark_eq (s.took p) p false
  rw [hm]

/-- An input that leaves its round short of another waits in it. -/
theorem State.treeInput_short_spec (hx : (g.roundAt p.tree p.round p.pos s.now).sent = false)
    (hshort : ∃ src ∈ g.expected td p.pos, ∀ z ∈ (g.joined p s.now).inputs, z.1 ≠ src) :
    Claims.SameMemory s (s.treeInput p.id) ∧ (s.treeInput p.id).treePkts = s.treePkts.filter (fun z => z.id != p.id)
      ∧ ∃ g', (s.treeInput p.id).grid? p.grid = some g' ∧ g'.round? p.tree p.round p.pos = some (g.joined p s.now) := by
  have hfull : g.full td p.pos (g.joined p s.now) = false := by
    obtain ⟨src, hsrc, hno⟩ := hshort
    refine List.all_eq_false.2 ⟨src, hsrc, ?_⟩
    simpa using fun v hv => hno (src, v) hv rfl
  obtain ⟨ns, hns⟩ := State.grid?_joined h
  obtain ⟨ht, hr, hp⟩ := g.joined_names p s.now
  rw [State.treeInput_open h hx fun e => absurd (hfull.symm.trans e) Bool.false_ne_true, hfull]
  refine ⟨⟨rfl, rfl, rfl⟩, rfl, _, State.grid?_id h.2.2.1 ▸ hns, ?_⟩
  have hfound := g.round?_putRound (g.joined p s.now)
  rwa [ht, hr, hp] at hfound

/-- The last input of a round sends it on. -/
theorem State.treeInput_full_spec (hx : (g.roundAt p.tree p.round p.pos s.now).sent = false)
    (hall : ∀ src ∈ g.expected td p.pos, ∃ z ∈ (g.joined p s.now).inputs, z.1 = src)
    (ha : Claims.agreed g td (g.joined p s.now)) : Claims.SameMemory s (s.treeInput p.id)
      ∧ Claims.Forwards s (s.treeInput p.id) g td (g.joined p s.now) (s.treePkts.filter fun z => z.id != p.id) := by
  have hfull : g.full td p.pos (g.joined p s.now) = true := by
    refine List.all_eq_true.2 fun src hsrc => ?_
    obtain ⟨z, hz, he⟩ := hall src hsrc
    exact List.any_eq_true.2 ⟨z, hz, beq_iff_eq.2 he⟩
  obtain ⟨ns, hns⟩ := State.grid?_joined h
  rw [State.treeInput_open h hx fun _ => Grid.clashes_of_agreed ha, hfull, hns]
  have hid : g.id = ({ g.putRound (g.joined p s.now) with nreds := ns } : Grid).id := (g.putRound_id _).symm
  have ha' : Claims.agreed { g.putRound (g.joined p s.now) with nreds := ns } td (g.joined p s.now) := by
    rw [Grid.putRound_eq]
    exact ha
  obtain ⟨hmem, hfwd⟩ := State.forwards_treeForward (hid ▸ hns) ha'
  exact ⟨hmem, forwards_of_ctxs (forwards_of_putRound hfwd) (State.ctxs_progress _ _)⟩

end

/-! ## TREE_TIMEOUT (R285) -/

/-- A router whose timer has run out sends its round on with what it holds. -/
theorem State.treeTimeout_spec {grid tree round pos : Nat} (hg : s.grid? grid = some g)
    (htd : g.desc.trees[tree]? = some td) (hx : g.round? tree round pos = some x) (hsent : x.sent = false)
    (hinputs : x.inputs ≠ []) (hdue : x.start + td.limit ≤ s.now) (ha : Claims.agreed g td x) :
    Claims.SameMemory s (s.treeTimeout grid tree round pos)
      ∧ Claims.Forwards s (s.treeTimeout grid tree round pos) g td x s.treePkts := by
  have hid := State.grid?_id hg
  have hsome : x.inputs.isEmpty = false := by simpa using hinputs
  have hnow : ¬ s.now < x.start + td.limit := by omega
  have heq : s.treeTimeout grid tree round pos = (s.progress g.ctx).treeForward g td x := by
    simp only [State.treeTimeout, hg, htd, hx, hsent, hsome, hnow, Grid.clashes_of_agreed ha, decide_false,
      Bool.or_self, Bool.false_and, Bool.false_eq_true, if_false]
  rw [heq]
  obtain ⟨hmem, hfwd⟩ := State.forwards_treeForward (s := s.progress g.ctx) (by rw [hid]; exact hg) ha
  exact ⟨hmem, forwards_of_ctxs hfwd (State.ctxs_progress s g.ctx)⟩

/-! ## TREE_RESULT (R286) -/

/-- Values under successive lanes from `k` on. -/
def setLanes (k : Nat) (m : Sparse Wide) (vs : List Word) : Sparse Wide :=
  ((vs.zipIdx k).map fun v => (v.2, v.1.toNat)).foldl (fun m x => sparseSet 0 m x.1 (BitVec.ofNat 128 x.2)) m

theorem setLanes_cons (k : Nat) (m : Sparse Wide) (v : Word) (vs : List Word) :
    setLanes k m (v :: vs) = setLanes (k + 1) (sparseSet 0 m k (BitVec.ofNat 128 v.toNat)) vs := rfl

theorem setLanes_below {j k : Nat} (hj : j < k) (m : Sparse Wide) (vs : List Word) :
    sparseGet 0 (setLanes k m vs) j = sparseGet 0 m j := by
  induction vs generalizing k m with
  | nil => rfl
  | cons v vs ih => rw [setLanes_cons, ih (by omega), sparseGet_set_other _ _ _ (by omega)]

theorem setLanes_at {l : Nat} {z : Word} {vs : List Word} (h : vs[l]? = some z) (k : Nat) (m : Sparse Wide) :
    sparseGet 0 (setLanes k m vs) (k + l) = z.setWidth 128 := by
  induction vs generalizing l k m with
  | nil => simp at h
  | cons v vs ih =>
    rw [setLanes_cons]
    cases l with
    | zero =>
      obtain rfl : v = z := by simpa using h
      exact ((setLanes_below (Nat.lt_succ_self k) _ vs).trans (sparseGet_set_same _ _ _ _)).trans
        (BitVec.ofNat_toNat _ _)
    | succ l =>
      rw [show k + (l + 1) = k + 1 + l by omega]
      exact ih (by simpa using h) (k + 1) _

/-- The values of a tree's result, lane by lane. -/
theorem sparseVals_zipIdx {l : Nat} {z : Word} {vs : List Word} (h : vs[l]? = some z) :
    sparseGet 0 (sparseVals (vs.zipIdx.map fun v => (v.2, v.1.toNat))) l = z.setWidth 128 := by
  have hlane := setLanes_at h 0 []
  rwa [Nat.zero_add] at hlane

/-- The result of an NRED completes (R286). -/
def Result.treeDone (y : Result) (v : TreeVal) (rep : BitVec 16) : Result :=
  { y with
    ready := true, event := some (if rep.extractLsb' 8 8 != 0 then evPartial else 0, rep), flags := v.flags,
    write := true, vals := sparseVals (v.vals.zipIdx.map fun v => (v.2, v.1.toNat)) }

def Warp.nredDone (w : Warp) (n : NredWait) (v : TreeVal) (rep : BitVec 16) : Warp :=
  { w with results := w.results.map fun y => if y.id == n.result then y.treeDone v rep else y }

theorem Warp.mem_nredDone {w : Warp} {n : NredWait} {y : Result} (hy : y ∈ w.results) (hid : y.id = n.result)
    (v : TreeVal) (rep : BitVec 16) : y.treeDone v rep ∈ (w.nredDone n v rep).results :=
  List.mem_map.2 ⟨y, hy, if_pos (beq_iff_eq.2 hid)⟩

section
variable {r : WarpRef} {b : Block} {w : Warp} {n : NredWait} {v : TreeVal} {rep : BitVec 16}

/-- An NRED whose router has its round's result completes with it. -/
theorem State.nredOutcome_some (hb : s.block? n.blk = some b) (htd : g.desc.trees[n.tree]? = some td)
    (hall : td.allreduce = true ∨ g.rootBlock td = some b.index)
    (hx : g.round? n.tree n.round (g.posOf td (clusterOf (g.coreOf b.index))) = some x) (hgone : x.gone = false)
    (hres : x.result = some (v, rep)) :
    s.nredOutcome g n = some (some v.vals, if rep.extractLsb' 8 8 != 0 then evPartial else 0, rep, v.flags) := by
  have hget : (td.allreduce || g.rootBlock td == some b.index) = true := by simpa using hall
  simp only [State.nredOutcome, hb, htd, hget, hx, hgone, hres, if_true, Bool.false_eq_true, if_false, Option.map_some]

theorem State.nredTag_vfs (s : State) (g : Grid) (n : NredWait) : ∃ m, s.nredTag g n = { s with vfs := m } := by
  unfold State.nredTag
  split
  · dsimp only
    split
    · exact s.adopt_vfs _ _
    · exact ⟨s.vfs, rfl⟩
  · exact ⟨s.vfs, rfl⟩

/-- An NRED of a grid is done. -/
def Grid.nredDone (g : Grid) (n : NredWait) : Grid :=
  { g with nreds := g.nreds.map fun (x : NredWait) => if x.result == n.result then { x with done := true } else x }

/-- The oldest NRED of a warp completes with the result that its router has. -/
theorem State.treeResult_eq {more : List NredWait} (hr : s.warp? r = some (b, w)) (hg : s.grid? b.grid = some g)
    (hmine : (g.nreds.filter fun n => n.blk == r.blk && n.slot == r.slot && !n.done) = n :: more)
    (ho : s.nredOutcome g n = some (some v.vals, if rep.extractLsb' 8 8 != 0 then evPartial else 0, rep, v.flags)) :
    ∃ m, s.treeResult r = ((({ s with vfs := m } : State).updGrid g.id fun g => g.nredDone n).updWarp r
      fun w => w.nredDone n v rep).progress g.ctx := by
  obtain ⟨m, hm⟩ := s.nredTag_vfs g n
  refine ⟨m, ?_⟩
  rw [State.treeResult, hr, Option.bind_some, hg]
  simp only [hmine, List.findSome?_cons, ho, Option.map_some, Option.isSome_some, if_true, hm, Option.getD_some]
  rfl

/-- What a tree's result leaves in its warp: the NRED's result is complete. -/
theorem State.treeResult_spec {more : List NredWait} (hr : s.warp? r = some (b, w)) (hg : s.grid? b.grid = some g)
    (hmine : (g.nreds.filter fun n => n.blk == r.blk && n.slot == r.slot && !n.done) = n :: more)
    (htd : g.desc.trees[n.tree]? = some td) (hall : td.allreduce = true ∨ g.rootBlock td = some b.index)
    (hx : g.round? n.tree n.round (g.posOf td (clusterOf (g.coreOf b.index))) = some x) (hgone : x.gone = false)
    (hres : x.result = some (v, rep)) :
    Claims.SameMemory s (s.treeResult r) ∧ warpOf (s.treeResult r) r = some (w.nredDone n v rep) := by
  have hblk : n.blk = r.blk := by
    have hn : n ∈ g.nreds.filter fun n => n.blk == r.blk && n.slot == r.slot && !n.done := by
      rw [hmine]
      exact List.mem_cons_self
    simp only [List.mem_filter, Bool.and_eq_true, beq_iff_eq] at hn
    exact hn.2.1.1
  have hb : s.block? n.blk = some b := by
    rw [hblk]
    exact (State.warp?_some.1 hr).1
  obtain ⟨m, hm⟩ := State.treeResult_eq hr hg hmine (State.nredOutcome_some hb htd hall hx hgone hres)
  rw [hm]
  refine ⟨⟨rfl, rfl, rfl⟩, ?_⟩
  rw [warpOf_progress, warpOf_updWarp _ _ fun _ => by rfl]
  exact congrArg (Option.map _) (congrArg (Option.map Prod.snd) hr)

end
end Sys2Proof.Machine

namespace Sys2Proof.Claims

open Sys2Proof.Machine

/-- The event of a tree's result says whether a contribution is missing (R286). -/
theorem treeDone_event (y : Result) (v : TreeVal) (rep : BitVec 16) :
    (y.treeDone v rep).event = some (if rep.extractLsb' 8 8 = 0 then 0 else evPartial, rep) := by
  by_cases h : rep.extractLsb' 8 8 = 0 <;> simp [Result.treeDone, h]

/-- Settles O49: each event by the lemma about it above. -/
theorem networkEvents : Obligations.NetworkEvents := by
  refine ⟨fun s blk reg b x v fl hreg hb hx hall he hf => ⟨_, execRoundComplete_block hreg hb hx hall he hf, ?_⟩,
    fun s blk b hb => ⟨execBarrierComplete_block_waits hb, fun hany hall => ⟨_, rfl, endBarrier_block hb hany hall⟩⟩,
    fun s grid g ws hg hws hany hall => ⟨_, rfl, endBarrier_grid hg hws hany hall⟩,
    fun s grid core reg g x hg hrun hlog => ?_,
    fun s m g b e hm hafter hfirst hg hchan hlen => ⟨_, rfl, ?_⟩,
    fun s x b e hx hchan => ⟨_, rfl, ?_⟩,
    fun s p g td h => ⟨fun hx => ⟨_, rfl, State.treeInput_sent_spec h hx⟩,
      fun hx hshort => ⟨_, rfl, State.treeInput_short_spec h hx hshort⟩,
      fun hx hall ha => ⟨_, rfl, State.treeInput_full_spec h hx hall ha⟩⟩,
    fun s grid tree round pos g td x hg htd hx hsent hin hdue ha =>
      ⟨_, rfl, State.treeTimeout_spec hg htd hx hsent hin hdue ha⟩,
    fun s r b w g td n more x v rep hr hg hmine htd hall hx hgone hres => ⟨_, rfl, ?_⟩⟩
  case refine_1 =>
    obtain ⟨hmem, hblock, hready⟩ := s.roundEnded_spec (v := v) (x := x) fl hreg hb
    refine ⟨hmem, hblock, fun p hp w hw y hy hid => ?_⟩
    obtain ⟨w', hw', y', hy', hid', hr⟩ := hready p hp w hw ⟨y, hy, hid⟩
    exact ⟨w', y', hw', hy', hid'.trans hid.symm, hr⟩
  case refine_2 =>
    have hruns : s.runsAt g none false core = true := by
      obtain ⟨b, hb, hgrid, hcore, htrail⟩ := hrun
      refine List.any_eq_true.2 ⟨b, hb, ?_⟩
      simp [hgrid, State.grid?_id hg, hcore, htrail]
    obtain ⟨t, ht, hmem, m, hg'⟩ := execRegisterCopyUpdate_own hg hruns
    exact ⟨t, ht, hmem, _, hg', rfl, RegSet.applied_advance (List.getElem?_eq_some_iff.1 hlog).1,
      (RegSet.read_advance hlog reg).trans (if_pos rfl), fun k hk => (RegSet.read_advance hlog k).trans (if_neg hk)⟩
  case refine_3 =>
    obtain ⟨hmem, hmsgs, b', hb', he, hscratch⟩ := State.landMessage_spec hm hafter hfirst hg hchan
    refine ⟨hmem, hmsgs, b', _, hb', he, rfl, rfl, fun i x hi => ?_, fun a ha => ?_⟩
    · have hword := readLE_writeWords (base := e.nextSlot) hi 0 b.scratch
      rwa [Nat.zero_add, ← hscratch] at hword
    · rw [hscratch]
      exact memGet_writeWords_other m.words 0 b.scratch (by rw [hlen]; exact ha)
  case refine_4 =>
    obtain ⟨hmem, hcredits, hb'⟩ := State.returnCredit_spec hx hchan
    exact ⟨hmem, hcredits, _, hb', Block.chans_updChan hchan.2.2 _, rfl⟩
  case refine_5 =>
    obtain ⟨hmem, hw⟩ := State.treeResult_spec hr hg hmine htd hall hx hgone hres
    exact ⟨hmem, fun y hy hid => ⟨_, y.treeDone v rep, hw, Warp.mem_nredDone hy hid v rep, rfl, rfl, rfl, rfl,
      treeDone_event y v rep, fun l z hz => sparseVals_zipIdx hz⟩⟩

end Sys2Proof.Claims
end

section
/-!
SUPPORT. The check of pending registers (R91, R92, R52 item 9).
-/

namespace Sys2Proof.Machine

/-- A register that a use reads or writes is one that the word does. -/
theorem Entry.mem_reads_or_writes {e : Entry} {u : Use} (hu : u ∈ e.uses) (hrw : (u.read || u.write) = true) {k : Nat}
    (hk : k < u.regs) {r : Reg} (hr : (u.o.nth k).reg? = some r) (m : Word) : r ∈ e.reads m ++ e.writes := by
  have hn : r ∈ u.named := List.mem_filterMap.2 ⟨k, List.mem_range.2 hk, hr⟩
  rcases Bool.or_eq_true _ _ ▸ hrw with h | h
  · exact List.mem_append_left _ (List.mem_append_left _ (List.mem_append_left _
      (List.mem_flatMap.2 ⟨u, List.mem_filter.2 ⟨hu, h⟩, hn⟩)))
  · exact List.mem_append_right _ (List.mem_append_left _ (List.mem_flatMap.2 ⟨u, List.mem_filter.2 ⟨hu, h⟩, hn⟩))

/-- With no mark and no round, a pending register that the word reads or writes is what item 9 finds. -/
theorem step9_pending {w : Warp} {e : Entry} {r : Reg} (hrounds : (w.results.all fun y => !y.round) = true)
    (hr : r ∈ e.reads w.ctl.mode ++ e.writes) (hp : r ∈ w.pend) (lanes : List Nat) :
    step9 w [] e lanes = .fault (faultAt fcPendingRead 0) := by
  have hnone : w.results.filter Result.round = [] := by
    simpa [List.filter_eq_nil_iff] using hrounds
  have hany : ((e.reads w.ctl.mode ++ e.writes).any fun x => w.pend.contains x) = true :=
    List.any_eq_true.2 ⟨r, hr, List.contains_iff_mem.2 hp⟩
  simp only [step9, hnone, List.find?_nil, List.filterMap_nil, List.contains_nil, Bool.not_false, Bool.and_true, hany,
    if_true]
  simp

/-- A legal word that reads or writes a pending register takes PENDING_READ. -/
theorem runWord_pending {s : State} {mk : Word → Entry} {c : Ctx} (body : Ctx → Eff) {r : Reg} (h : s.Stands mk c)
    (hlegal : (mk c.w.ctl.mode).staticFault c.w c.g (s.privileged c.g.ctx) = none)
    (hmarks : c.w.marksOf c.b c.g = []) (hrounds : (c.w.results.all fun y => !y.round) = true)
    (hr : r ∈ (mk c.w.ctl.mode).reads c.w.ctl.mode ++ (mk c.w.ctl.mode).writes) (hp : r ∈ c.w.pend) :
    runWord s mk body = s.takeFault s.cur (faultAt fcPendingRead 0) c.w.ctl.pc := by
  have hctx : c.ctx = c.g.ctx := rfl
  have hcode : ((faultAt fcPendingRead 0).code == fcUncorrectable) = false := rfl
  rw [runWord_stands body h]
  simp only [State.issueWord, hctx, hlegal, hmarks, step9_pending hrounds hr hp, hcode, Bool.false_eq_true, if_false,
    h.r_eq]

end Sys2Proof.Machine

namespace Sys2Proof.Claims

open Sys2Proof.Machine

/-- Settles O16: item 9 of R52 finds the pending register. -/
theorem pendingRegisterFaults : Obligations.PendingRegisterFaults := by
  rintro i x s c hx hs hlegal hmarks hrounds ⟨u, hu, k, hk, hrw, r, hp, hr⟩
  rw [exec_laneForm hx]
  exact congrArg _ (runWord_pending _ hs hlegal hmarks hrounds (Entry.mem_reads_or_writes hu hrw hk hr _) hp)

end Sys2Proof.Claims
end

section
/-!
SUPPORT. Words that change their own warp alone, with or without a transfer (R32, R99, R102).
-/

namespace Sys2Proof.Machine

/-! ## Updates of one warp -/

/-- Two updates of a warp, the first of which keeps its slot, are one. -/
theorem State.updWarp_updWarp (s : State) (r : WarpRef) {f : Warp → Warp} (g : Warp → Warp) (hf : ∀ w, (f w).slot = w.slot) :
    (s.updWarp r f).updWarp r g = s.updWarp r fun w => g (f w) := by
  have hw (b : Block) : (b.updWarp r.slot f).updWarp r.slot g = b.updWarp r.slot fun w => g (f w) := by
    simp only [Block.updWarp, List.map_map]
    congr 1
    refine List.map_congr_left fun w _ => ?_
    by_cases h : w.slot = r.slot <;> simp [h, hf]
  simp only [State.updWarp, State.updBlock, List.map_map]
  congr 1
  refine List.map_congr_left fun b _ => ?_
  by_cases h : b.id = r.blk <;> simp [h, hw]

/-- An update that changes nothing. -/
theorem State.updWarp_self (s : State) (r : WarpRef) : (s.updWarp r fun w => w) = s := by
  have hw (b : Block) : (b.updWarp r.slot fun w => w) = b := by simp [Block.updWarp]
  simp [State.updWarp, State.updBlock, hw]

/-- What the completion of a word leaves of the control state. -/
theorem Warp.complete_ctl (w : Warp) (e : Entry) (pc : Nat) (j : Option (Nat × Bool)) (red : Bool) (now : Nat) :
    (w.complete e pc j red now).ctl.active = w.ctl.active ∧ (w.complete e pc j red now).ctl.stack = w.ctl.stack
      ∧ (w.complete e pc j red now).ctl.depth = w.ctl.depth ∧ (w.complete e pc j red now).eng = w.eng := by
  unfold Warp.complete
  exact ⟨rfl, rfl, rfl, rfl⟩

/-- The loop levels after a word without a transfer. -/
theorem Warp.complete_loops (w : Warp) (e : Entry) (pc : Nat) (red : Bool) (now : Nat) :
    (w.complete e pc none red now).ctl.loops = (stepLoops (pc + 4) w.ctl.loops).2 := by
  unfold Warp.complete
  rfl

/-- Where a transfer goes, and the levels that it leaves. -/
theorem Warp.complete_jump (w : Warp) (e : Entry) (pc t : Nat) (taken red : Bool) (now : Nat) :
    (w.complete e pc (some (t, taken)) red now).ctl.pc = t
      ∧ (w.complete e pc (some (t, taken)) red now).ctl.loops
        = if taken then closeLevels t w.ctl.loops else w.ctl.loops := by
  unfold Warp.complete
  exact ⟨rfl, rfl⟩

end Sys2Proof.Machine

namespace Sys2Proof.Claims

open Sys2Proof.Machine

variable {i : Instr} {s : State} {mk : Word → Entry} {body : Ctx → Eff} {c : Ctx} {P : Warp → Prop} {f : Warp → Warp}

/-- A word that updates its warp and completes. -/
theorem warps_of_complete {j : Option (Nat × Bool)} (hs : s.Issues mk c) (hf : ∀ w, (f w).slot = w.slot)
    (he : exec i s = .next ((c.s.updWarp c.r f).complete c.r c.g (mk c.mode) c.w.ctl.pc j))
    (hp : ∀ red now, P ((f c.w).complete (mk c.mode) c.w.ctl.pc j red now)) : Warps i s P := by
  rw [hs.s_eq, hs.r_eq] at he
  refine ⟨_, (f c.w).complete (mk c.mode) c.w.ctl.pc j c.g.packet.redundant s.now, he, ?_,
    ((State.OnlyWarp.refl s s.cur).updWarp f hf).complete _ _ _ _, rfl, Warp.complete_run _ _ _ _ _ _, hp _ _⟩
  rw [warpOf_complete, warpOf_updWarp s _ hf, hs.warpOf_cur]
  rfl

/-- A word whose effect is an update of its warp. -/
theorem warps_of_done (he : exec i s = .next (runWord s mk body)) (hs : s.Issues mk c)
    (hb : body c = .done (c.s.updWarp c.r f)) (hf : ∀ w, (f w).slot = w.slot)
    (hp : ∀ red now, P ((f c.w).complete (mk c.mode) c.w.ctl.pc none red now)) : Warps i s P :=
  warps_of_complete hs hf (he.trans (congrArg _ (runWord_done hs hb))) hp

/-- A word without an effect of its own. -/
theorem warps_of_skip (he : exec i s = .next (runWord s mk body)) (hs : s.Issues mk c) (hb : body c = .done c.s)
    (hp : ∀ red now, P (c.w.complete (mk c.mode) c.w.ctl.pc none red now)) : Warps i s P :=
  warps_of_done (f := fun w => w) he hs (hb.trans (by rw [State.updWarp_self])) (fun _ => rfl) hp

/-- A word that updates its warp and transfers. -/
theorem warps_of_jump {pc : Nat} {taken : Bool} (he : exec i s = .next (runWord s mk body)) (hs : s.Issues mk c)
    (hb : body c = .jump (c.s.updWarp c.r f) pc taken) (hf : ∀ w, (f w).slot = w.slot)
    (hp : ∀ red now, P ((f c.w).complete (mk c.mode) c.w.ctl.pc (some (pc, taken)) red now)) : Warps i s P :=
  warps_of_complete hs hf (he.trans (congrArg _ (runWord_jump hs hb))) hp

/-- A word that only transfers. -/
theorem warps_of_go {pc : Nat} {taken : Bool} (he : exec i s = .next (runWord s mk body)) (hs : s.Issues mk c)
    (hb : body c = .jump c.s pc taken)
    (hp : ∀ red now, P (c.w.complete (mk c.mode) c.w.ctl.pc (some (pc, taken)) red now)) : Warps i s P :=
  warps_of_jump (f := fun w => w) he hs (hb.trans (by rw [State.updWarp_self])) (fun _ => rfl) hp

/-- A word whose effect is a fault. -/
theorem exec_of_fault {fi : FaultInfo} (he : exec i s = .next (runWord s mk body)) (hs : s.Issues mk c)
    (hb : body c = .fault fi) : exec i s = .next (s.takeFault s.cur fi c.w.ctl.pc) :=
  he.trans (congrArg _ (runWord_fault hs hb))

/-- A word that waits as it stands. -/
theorem exec_of_wait {run : Run} (he : exec i s = .next (runWord s mk body)) (hs : s.Issues mk c)
    (hb : body c = .wait c.s run) : exec i s = .next (s.park s.cur run) :=
  he.trans (congrArg _ ((runWord_wait hs hb).trans (by rw [hs.s_eq])))

/-- The completion of a word that does not draw changes nothing of what stays steady. -/
theorem Steady.complete {w : Warp} (h : Steady c w) {e : Entry} (he : e.draws = false) (pc : Nat) (j : Option (Nat × Bool))
    (red : Bool) (now : Nat) : Steady c (w.complete e pc j red now) := by
  obtain ⟨hregs, hmode, hdraw, hword, heng⟩ := h
  refine ⟨(Warp.complete_regs _ _ _ _ _ _).trans hregs, (Warp.complete_mode _ _ _ _ _ _).trans hmode, ?_, ?_,
    (Warp.complete_ctl _ _ _ _ _ _).2.2.2.trans heng⟩
  · unfold Warp.complete
    simp only [he, Bool.false_eq_true, if_false, hdraw]
  · unfold Warp.complete
    dsimp only
    split
    · exact hword
    · exact hword

theorem Steady.refl (c : Ctx) : Steady c c.w := ⟨rfl, rfl, rfl, rfl, rfl⟩

/-! ## Targets and lanes of the branches (R30, R99) -/

/-- The model finds a target that lies inside the image. -/
theorem target_eq {n : Nat} {off : BitVec n} {pc : Nat} (h : target c off pc) : c.target off = some pc := by
  obtain ⟨hpc, hlt⟩ := h
  rw [Ctx.target, ← hpc]
  simp [hlt]

/-- And no target where there is none. -/
theorem target_eq_none {n : Nat} {off : BitVec n} (h : ∀ pc, ¬ target c off pc) : c.target off = none := by
  rw [Ctx.target]
  refine if_neg fun hin => ?_
  simp only [Bool.and_eq_true, decide_eq_true_eq] at hin
  exact h _ ⟨Int.toNat_of_nonneg hin.1, by omega⟩

/-- With room on the stack the lanes that leave are put there. -/
theorem pushPath_of_room {stack : List StackEntry} {pc : Nat} (h : room stack pc) (t : Mask) :
    pushPath stack pc t = some (leaving stack pc t) := by
  cases stack with
  | nil => rfl
  | cons e rest =>
    by_cases hjoin : (e.path && e.pc == pc) = true
    · simp only [pushPath, leaving, hjoin, if_true]
    · have hlen : (e :: rest).length < 16 := by
        refine h.resolve_right fun ⟨e', rest', he, hpath, hpc⟩ => hjoin ?_
        obtain ⟨rfl, rfl⟩ := List.cons.inj he
        simp [hpath, hpc]
      simp only [pushPath, leaving, hjoin, Bool.false_eq_true, if_false, if_neg (Nat.not_le.2 hlen)]

/-- Without room they are not. -/
theorem pushPath_full {stack : List StackEntry} {pc : Nat} (h : ¬ room stack pc) (t : Mask) :
    pushPath stack pc t = none := by
  have hlen : 16 ≤ stack.length := Nat.not_lt.1 fun hlt => h (.inl hlt)
  cases stack with
  | nil => simp at hlen
  | cons e rest =>
    have hjoin : ¬ (e.path && e.pc == pc) = true := fun hj => h (.inr ⟨e, rest, rfl, by simpa using hj⟩)
    simp only [pushPath, hjoin, Bool.false_eq_true, if_false, if_pos hlen]

end Sys2Proof.Claims
end

section
/-!
SUPPORT. The branches, MARK and JOIN (R30, R99, R100).
-/

namespace Sys2Proof.Claims

open Sys2Proof.Machine

variable {s : State} {c : Ctx}

/-! ## What the branches do (R99) -/

theorem braEff_jump {off : BitVec 19} {pc : Nat} (h : target c off pc) : braEff off c = .jump c.s pc true := by
  simp only [braEff, target_eq h]

theorem braEff_range {off : BitVec 19} (h : ∀ pc, ¬ target c off pc) : braEff off c = execFault fcRange := by
  simp only [braEff, target_eq_none h]

theorem brcEff_range {u inv : Bool} {pr : BitVec 3} {off : BitVec 19} (h : ∀ pc, ¬ target c off pc) :
    brcEff u inv pr off c = execFault fcRange := by
  simp only [brcEff, target_eq_none h]

theorem callEff_range {inv : Bool} {pr : BitVec 3} {off : BitVec 19} (h : ∀ pc, ¬ target c off pc) :
    callEff inv pr off c = execFault fcRange := by
  simp only [callEff, target_eq_none h]

theorem markEff_range {off : BitVec 19} (h : ∀ pc, ¬ target c off pc) : markEff off c = execFault fcRange := by
  simp only [markEff, target_eq_none h]

theorem yieldEff_range {cls : BitVec 3} {n : BitVec 4} {off : BitVec 17} (h : ∀ pc, ¬ target c off pc) :
    yieldEff cls n off c = execFault fcRange := by
  simp only [yieldEff, target_eq_none h]

/-- BRC with a target, by the lanes that take it. -/
theorem brcEff_target {u inv : Bool} {pr : BitVec 3} {off : BitVec 19} {pc : Nat} (h : target c off pc) :
    brcEff u inv pr off c =
      if u && taking c inv pr != 0 && staying c inv pr != 0 then laneFault fcUniformity (differing c inv pr)
      else if taking c inv pr == 0 then .done c.s
      else if staying c inv pr == 0 then .jump c.s pc true
      else match pushPath c.w.ctl.stack pc (taking c inv pr) with
        | none => laneFault fcStack c.w.ctl.active
        | some stack => .done (c.s.updWarp c.r fun w => { w with
            ctl := { w.ctl with stack := stack, active := staying c inv pr } }) := by
  rw [brcEff, target_eq h]
  rfl

section
variable {u inv : Bool} {pr : BitVec 3} {off : BitVec 19} {pc : Nat}

/-- No lane takes it. -/
theorem brcEff_none (h : target c off pc) (ht : taking c inv pr = 0) : brcEff u inv pr off c = .done c.s := by
  rw [brcEff_target h]
  simp [ht]

/-- Every lane takes it. -/
theorem brcEff_all (h : target c off pc) (ht : taking c inv pr ≠ 0) (hs : staying c inv pr = 0) :
    brcEff u inv pr off c = .jump c.s pc true := by
  rw [brcEff_target h]
  simp only [hs, bne_self_eq_false, Bool.and_false, Bool.false_eq_true, if_false, beq_false_of_ne ht, beq_self_eq_true,
    if_true]

/-- Lanes that differ under U. -/
theorem brcEff_uniform (h : target c off pc) (ht : taking c inv pr ≠ 0) (hs : staying c inv pr ≠ 0) :
    brcEff true inv pr off c = laneFault fcUniformity (differing c inv pr) := by
  rw [brcEff_target h]
  simp only [bne_iff_ne.2 ht, bne_iff_ne.2 hs, Bool.and_self, if_true]

/-- Some lanes take it, and the stack has room. -/
theorem brcEff_some (h : target c off pc) (ht : taking c inv pr ≠ 0) (hs : staying c inv pr ≠ 0)
    (hroom : room c.w.ctl.stack pc) :
    brcEff false inv pr off c = .done (c.s.updWarp c.r fun w => { w with
      ctl := { w.ctl with stack := leaving c.w.ctl.stack pc (taking c inv pr), active := staying c inv pr } }) := by
  rw [brcEff_target h]
  simp only [Bool.false_and, Bool.false_eq_true, if_false, beq_false_of_ne ht, beq_false_of_ne hs,
    pushPath_of_room hroom]

/-- Some lanes take it, and the stack has none. -/
theorem brcEff_full (h : target c off pc) (ht : taking c inv pr ≠ 0) (hs : staying c inv pr ≠ 0)
    (hroom : ¬ room c.w.ctl.stack pc) : brcEff false inv pr off c = laneFault fcStack c.w.ctl.active := by
  rw [brcEff_target h]
  simp only [Bool.false_and, Bool.false_eq_true, if_false, beq_false_of_ne ht, beq_false_of_ne hs, pushPath_full hroom]

end

/-- Settles O18: each case of the lanes that take the branch. -/
theorem branchesGoWhereTheirLanesGo : Obligations.BranchesGoWhereTheirLanesGo := by
  refine ⟨fun sw u inv pr off s c pc h => ⟨fun hs => ?_, fun hs => ⟨fun ht => ?_, fun ht hst => ?_,
      fun ht hst hu hroom => ?_, fun ht hst hu hroom => ?_, fun ht hst hu => ?_⟩⟩,
    fun sw u inv pr off s c h => ⟨fun hs => exec_of_fault rfl hs (braEff_range h),
      fun hs => exec_of_fault rfl hs (brcEff_range h), fun hs => exec_of_fault rfl hs (callEff_range h),
      fun hs => exec_of_fault rfl hs (markEff_range h)⟩,
    fun sw cls n off s c h hs => exec_of_fault rfl hs (yieldEff_range h), rfl, rfl⟩
  case refine_1 =>
    refine warps_of_go rfl hs (braEff_jump h) fun red now => ?_
    obtain ⟨hactive, hstack, -, -⟩ := c.w.complete_ctl (braEntry sw u c.mode) c.w.ctl.pc (some (pc, true)) red now
    obtain ⟨hpc, hloops⟩ := c.w.complete_jump (braEntry sw u c.mode) c.w.ctl.pc pc true red now
    exact ⟨(Steady.refl c).complete rfl _ _ _ _, hpc, hactive, hstack, hloops⟩
  case refine_2 =>
    refine warps_of_skip rfl hs (brcEff_none h ht) fun red now => ?_
    obtain ⟨hactive, hstack, -, -⟩ := c.w.complete_ctl (brcEntry sw u inv pr c.mode) c.w.ctl.pc none red now
    exact ⟨(Steady.refl c).complete rfl _ _ _ _, Warp.complete_pc _ _ _ _ _, hactive, hstack⟩
  case refine_3 =>
    refine warps_of_go rfl hs (brcEff_all h ht hst) fun red now => ?_
    obtain ⟨hactive, hstack, -, -⟩ :=
      c.w.complete_ctl (brcEntry sw u inv pr c.mode) c.w.ctl.pc (some (pc, true)) red now
    exact ⟨(Steady.refl c).complete rfl _ _ _ _, (Warp.complete_jump _ _ _ _ _ _ _).1, hactive, hstack⟩
  case refine_4 =>
    subst hu
    refine warps_of_done rfl hs (brcEff_some h ht hst hroom) (fun _ => rfl) fun red now => ?_
    refine ⟨Steady.complete ?_ rfl _ _ _ _, Warp.complete_pc _ _ _ _ _,
      (Warp.complete_ctl _ _ _ _ _ _).1, (Warp.complete_ctl _ _ _ _ _ _).2.1⟩
    exact ⟨rfl, rfl, rfl, rfl, rfl⟩
  case refine_5 =>
    subst hu
    exact exec_of_fault rfl hs (brcEff_full h ht hst hroom)
  case refine_6 =>
    subst hu
    exact exec_of_fault rfl hs (brcEff_uniform h ht hst)

/-! ## MARK and JOIN (R100) -/

theorem markEff_push {off : BitVec 19} {pc : Nat} (h : target c off pc) (hlen : c.w.ctl.stack.length < 16) :
    markEff off c = .done (c.s.updWarp c.r fun w => { w with
      ctl := { w.ctl with stack := { path := false, pc := pc, mask := w.ctl.active } :: w.ctl.stack } }) := by
  simp only [markEff, target_eq h, if_neg (Nat.not_le.2 hlen)]

theorem markEff_full {off : BitVec 19} {pc : Nat} (h : target c off pc) (hlen : 16 ≤ c.w.ctl.stack.length) :
    markEff off c = laneFault fcStack c.w.ctl.active := by
  simp only [markEff, target_eq h, if_pos hlen]

theorem joinEff_pop {e : StackEntry} {rest : List StackEntry} (h : c.w.ctl.stack = e :: rest) :
    joinEff c = .jump (c.s.updWarp c.r fun w => { w with ctl := { w.ctl with stack := rest, active := e.mask } })
      e.pc true := by
  simp only [joinEff, h]

theorem joinEff_empty (h : c.w.ctl.stack = []) : joinEff c = laneFault fcStack c.w.ctl.active := by
  simp only [joinEff, h]

/-- Settles O19: the push and the pop, and the stack that is full or empty. -/
theorem markAndJoinUseTheStack : Obligations.MarkAndJoinUseTheStack := by
  refine fun sw off s c pc => ⟨fun hs h hlen => ?_, fun hs h hlen => exec_of_fault rfl hs (markEff_full h hlen),
    fun hs e rest h => ?_, fun hs h => exec_of_fault rfl hs (joinEff_empty h), rfl, rfl⟩
  · refine warps_of_done rfl hs (markEff_push h hlen) (fun _ => rfl) fun red now => ?_
    refine ⟨Steady.complete ?_ rfl _ _ _ _, Warp.complete_pc _ _ _ _ _,
      (Warp.complete_ctl _ _ _ _ _ _).1, (Warp.complete_ctl _ _ _ _ _ _).2.1⟩
    exact ⟨rfl, rfl, rfl, rfl, rfl⟩
  · refine warps_of_jump rfl hs (joinEff_pop h) (fun _ => rfl) fun red now => ?_
    obtain ⟨hpc, hloops⟩ := Warp.complete_jump { c.w with ctl := { c.w.ctl with stack := rest, active := e.mask } }
      (joinEntry sw c.mode) c.w.ctl.pc e.pc true red now
    refine ⟨Steady.complete ?_ rfl _ _ _ _, hpc,
      (Warp.complete_ctl _ _ _ _ _ _).1, (Warp.complete_ctl _ _ _ _ _ _).2.1, hloops⟩
    exact ⟨rfl, rfl, rfl, rfl, rfl⟩

end Sys2Proof.Claims
end

section
/-!
SUPPORT. CALL and RET (R101), LOOP and NOP (R98, R102).
-/

namespace Sys2Proof.Machine

/-- A warp whose register w`i` a word in lane `l` has written: the value is there, and the register's mark is gone. -/
def Warp.writtenW (i : BitVec 5) (l v : Nat) (w : Warp) : Warp :=
  { w.setW i.toNat (BitVec.ofNat 32 v) with
    flt := { w.flt with marks := clearMarks (.w i) 1 (maskOf [l]) w.flt.marks } }

/-- The write of one value to a w register, in its warp alone. -/
theorem State.writeDest_w (s : State) (r : WarpRef) (i : BitVec 5) (l v : Nat) :
    s.writeDest r (.w i) 1 [(l, v)] = s.updWarp r (Warp.writtenW i l v) :=
  s.updWarp_updWarp r _ fun _ => rfl

end Sys2Proof.Machine

namespace Sys2Proof.Claims

open Sys2Proof.Machine

variable {s : State} {c : Ctx}

/-! ## CALL -/

/-- The warp that CALL leaves, before its word completes: the next offset in w31, one deeper. -/
def called (c : Ctx) (w : Warp) : Warp :=
  { w.writtenW 31 c.lane0 (c.w.ctl.pc + 4) with ctl := { w.ctl with depth := w.ctl.depth + 1 } }

/-- CALL with a target, by the lanes that take it. -/
theorem callEff_target {inv : Bool} {pr : BitVec 3} {off : BitVec 19} {pc : Nat} (h : target c off pc) :
    callEff inv pr off c =
      if taking c inv pr != 0 && staying c inv pr != 0 then laneFault fcUniformity (differing c inv pr)
      else if taking c inv pr == 0 then .done c.s
      else if c.w.ctl.depth ≥ 64 then execFault fcStack
      else .jump (c.s.updWarp c.r (called c)) pc false := by
  have hw : ((c.s.writeDest c.r (.w 31) 1 [(c.lane0, c.w.ctl.pc + 4)]).updWarp c.r fun w => { w with
      ctl := { w.ctl with depth := w.ctl.depth + 1 } }) = c.s.updWarp c.r (called c) := by
    rw [State.writeDest_w]
    exact State.updWarp_updWarp _ _ _ fun _ => rfl
  rw [callEff, target_eq h, ← hw]
  rfl

section
variable {inv : Bool} {pr : BitVec 3} {off : BitVec 19} {pc : Nat}

theorem callEff_none (h : target c off pc) (ht : taking c inv pr = 0) : callEff inv pr off c = .done c.s := by
  rw [callEff_target h]
  simp only [ht, bne_self_eq_false, Bool.false_and, Bool.false_eq_true, if_false, beq_self_eq_true, if_true]

theorem callEff_differ (h : target c off pc) (ht : taking c inv pr ≠ 0) (hs : staying c inv pr ≠ 0) :
    callEff inv pr off c = laneFault fcUniformity (differing c inv pr) := by
  rw [callEff_target h]
  simp only [bne_iff_ne.2 ht, bne_iff_ne.2 hs, Bool.and_self, if_true]

theorem callEff_deep (h : target c off pc) (ht : taking c inv pr ≠ 0) (hs : staying c inv pr = 0)
    (hd : 64 ≤ c.w.ctl.depth) : callEff inv pr off c = execFault fcStack := by
  rw [callEff_target h]
  simp only [hs, bne_self_eq_false, Bool.and_false, Bool.false_eq_true, if_false, beq_false_of_ne ht, if_pos hd]

theorem callEff_jump (h : target c off pc) (ht : taking c inv pr ≠ 0) (hs : staying c inv pr = 0)
    (hd : c.w.ctl.depth < 64) : callEff inv pr off c = .jump (c.s.updWarp c.r (called c)) pc false := by
  rw [callEff_target h]
  simp only [hs, bne_self_eq_false, Bool.and_false, Bool.false_eq_true, if_false, beq_false_of_ne ht,
    if_neg (Nat.not_le.2 hd)]

end

/-! ## RET -/

theorem retEff_empty {a : Operand} (h : c.w.ctl.depth = 0) : retEff a c = execFault fcStack := by
  simp only [retEff, h, beq_self_eq_true, if_true]

theorem retEff_range {a : Operand} (hd : 0 < c.w.ctl.depth)
    (h : (c.one a).toNat % 4 ≠ 0 ∨ c.g.desc.size ≤ (c.one a).toNat) : retEff a c = execFault fcRange := by
  have hx : ((c.one a).toNat % 4 != 0 || decide (c.g.desc.size ≤ (c.one a).toNat)) = true := by simpa using h
  simp only [retEff, beq_false_of_ne hd.ne', Bool.false_eq_true, if_false, hx, if_true]

theorem retEff_jump {a : Operand} (hd : 0 < c.w.ctl.depth) (h4 : (c.one a).toNat % 4 = 0)
    (hsize : (c.one a).toNat < c.g.desc.size) :
    retEff a c = .jump (c.s.updWarp c.r fun w => { w with ctl := { w.ctl with depth := w.ctl.depth - 1 } })
      (c.one a).toNat true := by
  have hx : ((c.one a).toNat % 4 != 0 || decide (c.g.desc.size ≤ (c.one a).toNat)) = false := by
    simpa using ⟨h4, hsize⟩
  simp only [retEff, beq_false_of_ne hd.ne', Bool.false_eq_true, if_false, hx]

/-- Settles O20: CALL by the lanes that take it and the depth, and RET by the depth and its register. -/
theorem callAndReturn : Obligations.CallAndReturn := by
  refine fun sw u inv pr off a s c pc => ⟨fun hs h => ⟨fun ht => ?_, fun ht hst hd => ?_,
      fun ht hst hd => exec_of_fault rfl hs (callEff_deep h ht hst hd),
      fun ht hst => exec_of_fault rfl hs (callEff_differ h ht hst)⟩,
    fun hs hlegal hmarks hrounds hp => ?_, rfl, rfl, fun hs => ⟨fun hd h4 hsize => ?_,
      fun hd => exec_of_fault rfl hs (retEff_empty hd), fun hd h => exec_of_fault rfl hs (retEff_range hd h)⟩⟩
  case refine_1 =>
    refine warps_of_skip rfl hs (callEff_none h ht) fun red now => ?_
    exact ⟨(Steady.refl c).complete rfl _ _ _ _, Warp.complete_pc _ _ _ _ _, (Warp.complete_ctl _ _ _ _ _ _).2.2.1⟩
  case refine_2 =>
    refine warps_of_jump rfl hs (callEff_jump h ht hst hd) (fun _ => rfl) fun red now => ?_
    obtain ⟨hpc, hloops⟩ :=
      (called c c.w).complete_jump (callEntry sw u inv pr c.mode) c.w.ctl.pc pc false red now
    obtain ⟨hactive, hstack, hdepth, -⟩ :=
      (called c c.w).complete_ctl (callEntry sw u inv pr c.mode) c.w.ctl.pc (some (pc, false)) red now
    rw [Warp.complete_regs]
    exact ⟨hpc, hdepth, hactive, hstack, hloops, sparseGet_set_same _ _ _ _, rfl, rfl, rfl,
      fun k hk => sparseGet_set_other _ _ _ hk⟩
  case refine_3 =>
    refine congrArg _ (runWord_pending _ hs hlegal hmarks hrounds ?_ hp)
    exact Entry.mem_reads_or_writes (u := Use.dst (.w 31) 1) (List.mem_singleton.2 rfl) rfl (k := 0) Nat.one_pos rfl _
  case refine_4 =>
    refine warps_of_jump rfl hs (retEff_jump hd h4 hsize) (fun _ => rfl) fun red now => ?_
    refine ⟨Steady.complete ?_ rfl _ _ _ _, (Warp.complete_jump _ _ _ _ _ _ _).1,
      (Warp.complete_ctl _ _ _ _ _ _).2.2.1, (Warp.complete_ctl _ _ _ _ _ _).1, (Warp.complete_ctl _ _ _ _ _ _).2.1⟩
    exact ⟨rfl, rfl, rfl, rfl, rfl⟩

/-! ## LOOP and NOP -/

section
variable {d : Operand} {len : BitVec 7}

theorem loopEff_zero (h : c.one d = 0) : loopEff d len c = .jump c.s (c.w.ctl.pc + 4 + 4 * len.toNat) false := by
  simp only [loopEff, h]
  rfl

theorem loopEff_full (h : c.one d ≠ 0) (hl : 2 ≤ c.w.ctl.loops.length) : loopEff d len c = execFault fcStack := by
  have hn : ((c.one d).toNat == 0) = false := beq_false_of_ne fun e => h (BitVec.eq_of_toNat_eq e)
  simp only [loopEff, hn, Bool.false_eq_true, if_false, if_pos hl]

theorem loopEff_open (h : c.one d ≠ 0) (hl : c.w.ctl.loops.length < 2)
    (hin : ∀ l ∈ c.w.ctl.loops, c.w.ctl.pc + 4 + 4 * len.toNat ≤ l.stop) :
    loopEff d len c = .jump (c.s.updWarp c.r fun w => { w with
      ctl := { w.ctl with loops := { start := c.w.ctl.pc + 4, stop := c.w.ctl.pc + 4 + 4 * len.toNat,
                                     left := (c.one d).toNat } :: w.ctl.loops } }) (c.w.ctl.pc + 4) false := by
  have hn : ((c.one d).toNat == 0) = false := beq_false_of_ne fun e => h (BitVec.eq_of_toNat_eq e)
  have hany : (c.w.ctl.loops.any fun l => decide (l.stop < c.w.ctl.pc + 4 + 4 * len.toNat)) = false := by
    simpa using hin
  simp only [loopEff, hn, Bool.false_eq_true, if_false, if_neg (Nat.not_le.2 hl), hany]

end

/-- NOP meets no fault of items 3 to 8. -/
theorem nop_staticFault (sw : Bool) (w : Warp) (g : Grid) (priv : Bool) :
    ({ sw, ahead := .run } : Entry).staticFault w g priv = none := by
  simp only [Entry.staticFault, Bool.not_true, Bool.or_self, Bool.false_eq_true, if_false, List.any_nil, Bool.false_and,
    anyRole]

/-- The last word of a level with iterations left goes back to its start. -/
theorem stepLoops_back {l : LoopLevel} {rest : List LoopLevel} (h : 1 < l.left) :
    stepLoops l.stop (l :: rest) = (l.start, { l with left := l.left - 1 } :: rest) := by
  simp only [stepLoops, beq_self_eq_true, if_true, if_pos h]

/-- The last word of the only level, with no iteration left, closes it. -/
theorem stepLoops_close {l : LoopLevel} (h : l.left ≤ 1) : stepLoops l.stop [l] = (l.stop, []) := by
  simp only [stepLoops, beq_self_eq_true, if_true, if_neg (Nat.not_lt.2 h)]

/-- A word before the end of the innermost level goes on. -/
theorem stepLoops_inside {l : LoopLevel} {rest : List LoopLevel} {next : Nat} (h : next ≠ l.stop) :
    stepLoops next (l :: rest) = (next, l :: rest) := by
  simp only [stepLoops, beq_false_of_ne h, Bool.false_eq_true, if_false]

/-- NOP goes where the loop levels take it. -/
theorem nop_steps {sw : Bool} {pc : Nat} {loops : List LoopLevel} (hs : s.Issues (fun _ => { sw, ahead := .run }) c)
    (h : stepLoops (c.w.ctl.pc + 4) c.w.ctl.loops = (pc, loops)) :
    Warps (.nop sw) s fun w' => Steady c w' ∧ w'.ctl.pc = pc ∧ w'.ctl.loops = loops := by
  refine warps_of_skip rfl hs rfl fun red now => ⟨(Steady.refl c).complete rfl _ _ _ _, ?_, ?_⟩
  · rw [Warp.complete_pc, h]
  · rw [Warp.complete_loops, h]

/-- A word of which more is known. -/
theorem Warps.imp {i : Instr} {P Q : Warp → Prop} (h : Warps i s P) (hq : ∀ w, P w → Q w) : Warps i s Q := by
  obtain ⟨t, w', ht, hw, honly, hgrids, hrun, hp⟩ := h
  exact ⟨t, w', ht, hw, honly, hgrids, hrun, hq w' hp⟩

/-- Settles O21: LOOP by its count and the open levels, and the step of the levels at a NOP. -/
theorem loopsCount : Obligations.LoopsCount := by
  refine fun sw d len s c => ⟨fun hs => ⟨fun h0 => ?_, fun h0 hl hin => ?_,
      fun h0 hl => exec_of_fault rfl hs (loopEff_full h0 hl)⟩, nop_staticFault sw, rfl, rfl,
    fun hs => ⟨?_, fun h => ?_, fun l rest h hne => ?_, fun l rest h he hleft => ?_, fun l h he hleft => ?_⟩⟩
  case refine_1 =>
    refine warps_of_go rfl hs (loopEff_zero h0) fun red now => ?_
    obtain ⟨hpc, hloops⟩ := c.w.complete_jump (loopEntry sw d len c.mode) c.w.ctl.pc
      (c.w.ctl.pc + 4 + 4 * len.toNat) false red now
    exact ⟨(Steady.refl c).complete rfl _ _ _ _, hpc, hloops⟩
  case refine_2 =>
    refine warps_of_jump rfl hs (loopEff_open h0 hl hin) (fun _ => rfl) fun red now => ?_
    refine ⟨Steady.complete ?_ rfl _ _ _ _, (Warp.complete_jump _ _ _ _ _ _ _).1,
      (Warp.complete_jump _ _ _ _ _ _ _).2⟩
    exact ⟨rfl, rfl, rfl, rfl, rfl⟩
  case refine_3 =>
    refine congrArg _ ((runWord_done hs rfl).trans ?_)
    rw [hs.s_eq]
  case refine_4 => exact (nop_steps hs (by rw [h]; rfl)).imp fun w hw => ⟨hw.1, hw.2.1⟩
  case refine_5 => exact nop_steps hs (by rw [h, stepLoops_inside hne])
  case refine_6 => exact nop_steps hs (by rw [h, he, stepLoops_back hleft])
  case refine_7 => exact nop_steps hs (by rw [h, he, stepLoops_close hleft])

end Sys2Proof.Claims
end

section
/-!
SUPPORT. WAITC and YIELD (R67, R94, R104).
-/

namespace Sys2Proof.Machine

/-- The operations of a class that a report down to `n` takes from the counter, oldest first (R94). -/
def Ctx.reported (c : Ctx) (cls : EngClass) (n : Nat) : List EngOp :=
  (c.w.opsOf cls).take ((c.w.opsOf cls).length - n)

/-- The warp without the operations of a report, their flags merged. -/
def Warp.merged (w : Warp) (cls : EngClass) (done : List EngOp) : Warp :=
  { w.orFlags (done.foldl (fun fl x => fl ||| x.flags) 0) with
    eng := w.eng.filter fun x => !(x.cls == cls && (done.map EngOp.id).contains x.id) }

/-- The warp with event and report of operations of COPY or NET in %status. -/
def Warp.told (w : Warp) (done : List EngOp) : Warp :=
  let refused := Nat.min 4095 (done.foldl (fun k x => k + x.refused) 0)
  let skipped := done.foldl (fun m x => m ||| x.skipped) (0 : BitVec 4)
  w.setStatus (statusEvent w.ctl.status
    (if refused != 0 then evPartial else if skipped != 0 then evSkipped else 0) (BitVec.ofNat 12 refused ++ skipped))

/-- The warp after a report in which no operation carries an error. -/
def Warp.afterReport (w : Warp) (cls : EngClass) (done : List EngOp) : Warp :=
  if cls == .matrix || cls == .spline then w.merged cls done else (w.merged cls done).told done

theorem Warp.afterReport_frame (w : Warp) (cls : EngClass) (done : List EngOp) :
    (w.afterReport cls done).slot = w.slot ∧ (w.afterReport cls done).regs = w.regs
      ∧ (w.afterReport cls done).ctl.loops = w.ctl.loops
      ∧ (w.afterReport cls done).eng = w.eng.filter fun x => !(x.cls == cls && (done.map EngOp.id).contains x.id) := by
  unfold Warp.afterReport
  split <;> exact ⟨rfl, rfl, rfl, rfl⟩

/-- MATRIX and SPLINE leave the flags of their operations in %status. -/
theorem Warp.afterReport_status (w : Warp) {cls : EngClass} (h : cls = .matrix ∨ cls = .spline) (done : List EngOp) :
    (w.afterReport cls done).ctl.status = statusOr w.ctl.status (done.foldl (fun fl x => fl ||| x.flags) 0) := by
  have hcls : (cls == .matrix || cls == .spline) = true := by rcases h with rfl | rfl <;> rfl
  rw [Warp.afterReport, hcls]
  rfl

/-- A report without an error updates the warp alone. -/
theorem Ctx.report_clean {c : Ctx} {cls : EngClass} {n : Nat} (h : ∀ x ∈ c.reported cls n, x.err = none) :
    c.report cls n = (c.s.updWarp c.r fun w => w.afterReport cls (c.reported cls n), none) := by
  have herr : (c.reported cls n).findSome? EngOp.err = none := List.findSome?_eq_none_iff.2 h
  have htold : ((c.s.updWarp c.r fun w => w.merged cls (c.reported cls n)).updWarp c.r fun w =>
      w.told (c.reported cls n)) = c.s.updWarp c.r fun w => (w.merged cls (c.reported cls n)).told (c.reported cls n) :=
    State.updWarp_updWarp _ _ _ fun _ => rfl
  rw [Ctx.reported] at herr htold
  unfold Ctx.report Ctx.reported Warp.afterReport
  dsimp only
  split
  · rfl
  · rw [herr]
    exact congrArg (·, none) htold

end Sys2Proof.Machine

namespace Sys2Proof.Claims

open Sys2Proof.Machine

variable {s : State} {c : Ctx} {cls : BitVec 3} {n : BitVec 4}

theorem waitcEff_wait (h : n.toNat < c.w.counter (engClass cls)) : waitcEff cls n c = .wait c.s .parked := by
  rw [waitcEff, if_pos h]

theorem waitcEff_done (h : c.w.counter (engClass cls) ≤ n.toNat)
    (herr : ∀ x ∈ c.reported (engClass cls) n.toNat, x.err = none) :
    waitcEff cls n c = .done (c.s.updWarp c.r fun w =>
      w.afterReport (engClass cls) (c.reported (engClass cls) n.toNat)) := by
  rw [waitcEff, if_neg (Nat.not_lt.2 h), Ctx.report_clean herr]

theorem yieldEff_wait {off : BitVec 17} {pc : Nat} (ht : target c off pc) (h : n.toNat < c.w.counter (engClass cls)) :
    yieldEff cls n off c = .wait c.s (.yielded (engClass cls) n.toNat pc) := by
  simp only [yieldEff, target_eq ht, if_pos h]

theorem yieldEff_done {off : BitVec 17} {pc : Nat} (ht : target c off pc) (h : c.w.counter (engClass cls) ≤ n.toNat)
    (herr : ∀ x ∈ c.reported (engClass cls) n.toNat, x.err = none) :
    yieldEff cls n off c =
      let t := c.s.updWarp c.r fun w => w.afterReport (engClass cls) (c.reported (engClass cls) n.toNat)
      if pc = c.w.ctl.pc + 4 then .done t else .jump t pc true := by
  simp only [yieldEff, target_eq ht, if_neg (Nat.not_lt.2 h), Ctx.report_clean herr, beq_iff_eq]

/-- Settles O23: WAITC and YIELD by the counter, and what their report leaves. -/
theorem waitcAndYieldReport : Obligations.WaitcAndYieldReport := by
  intro sw cls n off s c pc k ops done
  obtain ⟨hslot, hregs, hloops, heng⟩ :=
    And.intro (fun w : Warp => (w.afterReport_frame k done).1) (c.w.afterReport_frame k done).2
  refine ⟨fun hs => ⟨fun h => exec_of_wait rfl hs (waitcEff_wait h), fun h herr => ?_⟩,
    fun hs ht => ⟨fun h => exec_of_wait rfl hs (yieldEff_wait ht h), fun h herr => ?_⟩⟩
  · refine warps_of_done rfl hs (waitcEff_done h herr) hslot fun red now => ⟨?_, ?_, ?_, fun hsw hk => ?_⟩
    · exact (Warp.complete_regs _ _ _ _ _ _).trans hregs
    · exact (Warp.complete_pc _ _ _ _ _).trans (congrArg (fun x => (stepLoops _ x).1) hloops)
    · exact (Warp.complete_ctl _ _ _ _ _ _).2.2.2.trans heng
    · exact (Warp.complete_status _ hsw _ _ _ _).trans (Warp.afterReport_status _ hk _)
  · have hy := yieldEff_done ht h herr
    by_cases hpc : pc = c.w.ctl.pc + 4
    · rw [if_pos hpc]
      refine warps_of_done rfl hs (hy.trans (if_pos hpc)) hslot fun red now => ⟨?_, ?_, ?_⟩
      · exact (Warp.complete_regs _ _ _ _ _ _).trans hregs
      · exact (Warp.complete_pc _ _ _ _ _).trans (congrArg (fun x => (stepLoops _ x).1) hloops)
      · exact (Warp.complete_ctl _ _ _ _ _ _).2.2.2.trans heng
    · rw [if_neg hpc]
      refine warps_of_jump rfl hs (hy.trans (if_neg hpc)) hslot fun red now => ⟨?_, ?_, ?_⟩
      · exact (Warp.complete_regs _ _ _ _ _ _).trans hregs
      · exact (Warp.complete_jump _ _ _ _ _ _ _).1
      · exact (Warp.complete_ctl _ _ _ _ _ _).2.2.2.trans heng

end Sys2Proof.Claims
end

section
/-!
SUPPORT. What reads and writes of device memory leave: everything but memory, error state, the granary and the
queue of accesses.
-/

namespace Sys2Proof.Machine

/-- The two states differ in error state and the numbers given out alone, and hold the same uncorrectable words. -/
def State.ReadOnly (s t : State) : Prop :=
  (∃ d sc n, t = { s with dev := d, scrubs := sc, nextId := n }) ∧ t.dev.badWords = s.dev.badWords

namespace State.ReadOnly

variable {s t u : State}

theorem refl (s : State) : s.ReadOnly s := ⟨⟨_, _, _, rfl⟩, rfl⟩

theorem trans (h : s.ReadOnly t) (k : t.ReadOnly u) : s.ReadOnly u := by
  obtain ⟨⟨_, _, _, rfl⟩, hb⟩ := h
  obtain ⟨⟨_, _, _, rfl⟩, kb⟩ := k
  exact ⟨⟨_, _, _, rfl⟩, kb.trans hb⟩

theorem foldl {β : Type} {f : State → β → State} (hf : ∀ s x, State.ReadOnly s (f s x)) (l : List β) (s : State) :
    s.ReadOnly (l.foldl f s) := by
  induction l generalizing s with
  | nil => exact refl s
  | cons x l ih => exact (hf s x).trans (ih _)

theorem updDev (s : State) {f : Device → Device} (hf : ∀ d, (f d).badWords = d.badWords) : s.ReadOnly (s.updDev f) :=
  ⟨⟨_, _, _, rfl⟩, hf _⟩
theorem log (s : State) (kind : Nat) (domain : Domain) (loc ctx : Nat) (addr : Dword) :
    s.ReadOnly (s.log kind domain loc ctx addr) := ⟨⟨_, _, _, rfl⟩, rfl⟩

theorem requestReplace (s : State) (domain : Domain) (loc : Nat) : s.ReadOnly (s.requestReplace domain loc) := by
  unfold State.requestReplace
  split
  · exact refl s
  · exact (updDev s fun _ => rfl).trans (log _ _ _ _ _ _)

theorem countCorrected (s : State) (chan : Nat) : s.ReadOnly (s.countCorrected chan) := by
  unfold State.countCorrected
  dsimp only
  split
  · exact (updDev s fun _ => rfl).trans (requestReplace _ _ _)
  · exact updDev s fun _ => rfl

theorem correct (s : State) (ctx line : Nat) : s.ReadOnly (s.correct ctx line) :=
  ((log s _ _ _ _ _).trans (countCorrected _ _)).trans ⟨⟨_, _, _, rfl⟩, rfl⟩

theorem correctSpan (s : State) (ctx pa n : Nat) : s.ReadOnly (s.correctSpan ctx pa n) :=
  foldl (fun s l => correct s ctx l) _ _

/-- A read of device memory (R347). -/
theorem readSpan (s : State) (ctx pa n : Nat) : s.ReadOnly (s.readSpan ctx pa n) := by
  have hc := correctSpan s ctx pa n
  unfold State.readSpan
  dsimp only
  split
  · exact hc.trans (log _ _ _ _ _ _)
  · exact hc

end State.ReadOnly

/-- The two states differ in device memory, error state, the functions' partitions, the accesses under way and the
numbers given out alone. -/
def State.StoreOnly (s t : State) : Prop :=
  ∃ m d v sc co ac n, t = { s with mem := m, dev := d, vfs := v, scrubs := sc, code := co, accs := ac, nextId := n }

namespace State.StoreOnly

variable {s t u : State}

theorem refl (s : State) : s.StoreOnly s := ⟨_, _, _, _, _, _, _, rfl⟩

theorem trans (h : s.StoreOnly t) (k : t.StoreOnly u) : s.StoreOnly u := by
  obtain ⟨_, _, _, _, _, _, _, rfl⟩ := h
  obtain ⟨_, _, _, _, _, _, _, rfl⟩ := k
  exact ⟨_, _, _, _, _, _, _, rfl⟩

theorem foldl {β : Type} {f : State → β → State} (hf : ∀ s x, State.StoreOnly s (f s x)) (l : List β) (s : State) :
    s.StoreOnly (l.foldl f s) := by
  induction l generalizing s with
  | nil => exact refl s
  | cons x l ih => exact (hf s x).trans (ih _)

theorem updVf (s : State) (v : Nat) (f : Vf → Vf) : s.StoreOnly (s.updVf v f) := ⟨_, _, _, _, _, _, _, rfl⟩
theorem updDev (s : State) (f : Device → Device) : s.StoreOnly (s.updDev f) := ⟨_, _, _, _, _, _, _, rfl⟩

theorem readSpan (s : State) (ctx pa n : Nat) : s.StoreOnly (s.readSpan ctx pa n) := by
  obtain ⟨⟨_, _, _, h⟩, -⟩ := ReadOnly.readSpan s ctx pa n
  rw [h]
  exact ⟨_, _, _, _, _, _, _, rfl⟩

theorem adopt (s : State) (v unit : Nat) : s.StoreOnly (s.adopt v unit) := by
  unfold State.adopt
  split
  · exact refl s
  · exact updVf s _ _

theorem takeTag (s : State) (v unit : Nat) (gen : Dword) : s.StoreOnly (s.takeTag v unit gen) := by
  unfold State.takeTag
  split
  · exact adopt s _ _
  · exact refl s

theorem exchangeTags (s : State) (core pa : Nat) : s.StoreOnly (s.exchangeTags core pa) := by
  unfold State.exchangeTags
  split
  · exact refl s
  · dsimp only
    split
    · exact (adopt s _ _).trans (adopt _ _ _)
    · exact refl s

theorem markWords (s : State) (bad : List Nat) : s.StoreOnly (s.markWords bad) := by
  unfold State.markWords
  split
  · exact refl s
  · exact updDev s _

theorem prepare {v pa : Nat} {gen : Dword} (h : s.prepare v pa gen = some t) : s.StoreOnly t := by
  unfold State.prepare at h
  obtain ⟨q, -, rfl⟩ := Option.map_eq_some_iff.mp h
  refine StoreOnly.trans ?_ (updVf _ _ _)
  split
  · exact readSpan s _ _ _
  · exact refl s

/-- A write within a line. -/
theorem modifyLine {pa n : Nat} {g : List Byte → List Byte} {fresh : Bool} {gen : Option Dword}
    (h : s.modifyLine pa n g fresh gen = some t) : s.StoreOnly t := by
  unfold State.modifyLine at h
  dsimp only at h
  split at h
  · cases h
    exact ⟨_, _, _, _, _, _, _, rfl⟩
  · obtain ⟨u, hu, rfl⟩ := Option.map_eq_some_iff.mp h
    refine (prepare hu).trans ?_
    split <;> exact ⟨_, _, _, _, _, _, _, rfl⟩

/-- Lines written one after the other. -/
theorem writeLines {gen : Option Dword} {ps : List (Nat × List Byte)} {o : Option State} (ho : ∀ u, o = some u → s.StoreOnly u)
    (h : ps.foldl (fun acc x => acc.bind fun t => t.writeLine x.1 x.2 gen) o = some t) : s.StoreOnly t := by
  induction ps generalizing o with
  | nil => exact ho t h
  | cons x ps ih =>
    refine ih (fun u hu => ?_) h
    obtain ⟨v, hv, hw⟩ := Option.bind_eq_some_iff.1 hu
    exact (ho v hv).trans (modifyLine hw)

theorem writePhys {pa : Nat} {bytes : List Byte} {gen : Option Dword} (h : s.writePhys pa bytes gen = some t) :
    s.StoreOnly t := by
  refine writeLines (fun u hu => ?_) h
  cases hu
  exact refl s

theorem partPiece (s : State) (ctx pa : Nat) (bytes : List Byte) (gen : Option Dword) (host : Option Nat)
    (bad : List Nat) : s.StoreOnly (s.partPiece ctx pa bytes gen host bad) := by
  unfold State.partPiece
  dsimp only
  split
  · exact ⟨_, _, _, _, _, _, _, rfl⟩
  · split
    next ht => exact (writePhys ht).trans (markWords _ _)
    next => exact ⟨_, _, _, _, _, _, _, rfl⟩

/-- A write of the part. -/
theorem partWrite (s : State) (ctx pa : Nat) (bytes : List Byte) (gen : Option Dword) (host : Option Nat)
    (bad : List Nat) : s.StoreOnly (s.partWrite ctx pa bytes gen host bad) := by
  unfold State.partWrite
  split
  next t ht =>
    split at ht
    · cases ht
    · exact (writePhys ht).trans (markWords _ _)
  next => exact foldl (fun s (x : Nat × List Byte) => partPiece s ctx x.1 x.2 gen host bad) _ _

theorem coreWrite (s : State) (core ctx pa : Nat) (bytes : List Byte) (bad : List Nat) :
    s.StoreOnly (s.coreWrite core ctx pa bytes bad) :=
  (foldl (fun s a => exchangeTags s core a) _ _).trans (partWrite _ _ _ _ _ _ _)

end State.StoreOnly

end Sys2Proof.Machine
end

section
/-!
SUPPORT. What taking a fault leaves (R92, R306 to R308), and the kill of a context (R320).
-/

namespace Sys2Proof.Machine

variable {s t : State} {r : WarpRef} {f : FaultInfo} {pc : Nat} {b : Block} {w : Warp} {g : Grid} {k : Context}

/-! ## Contexts by number -/

theorem State.ctx?_id {id : Nat} (h : s.ctx? id = some k) : k.id = id := by
  simpa using List.find?_some h

/-- A context after its own update. -/
theorem State.ctx?_updCtx (s : State) (id : Nat) (f : Context → Context) (hf : ∀ c, (f c).id = c.id) :
    (s.updCtx id f).ctx? id = (s.ctx? id).map f :=
  find?_map_same Context.id f id s.ctxs fun c h => (hf c).trans h

theorem State.ctx?_pushStop {id : Nat} (h : s.ctx? id = some k) (x : StopRec) :
    (s.pushStop id x).ctx? id = some { k with stops := k.stops ++ [x] } :=
  (State.ctx?_updCtx s id (fun c => { c with stops := c.stops ++ [x] }) fun _ => rfl).trans (by rw [h]; rfl)

theorem State.ctxOf_eq (hg : s.grid? b.grid = some g) : s.ctxOf b = g.ctx := by
  simp only [State.ctxOf, hg]

theorem State.imageOf_eq (hg : s.grid? b.grid = some g) : s.imageOf b = g.packet.image := by
  simp only [State.imageOf, hg]

/-! ## The record of a fault -/

/-- Nothing outside the warp changes when a stop record joins those of a context. -/
theorem State.OnlyWarp.pushStop (h : s.OnlyWarp t r) (ctx : Nat) (x : StopRec) : s.OnlyWarp (t.pushStop ctx x) r :=
  { h with }

/-- A warp that is put in its own slot. -/
theorem State.updWarp_const (s : State) {r : WarpRef} {x : Warp} (h : x.slot = r.slot) :
    (s.updWarp r fun _ => x) = s.updWarp r fun w => { x with slot := w.slot } := by
  have hw (b : Block) : (b.updWarp r.slot fun _ => x) = b.updWarp r.slot fun w => { x with slot := w.slot } := by
    simp only [Block.updWarp]
    congr 1
    refine List.map_congr_left fun w _ => ?_
    by_cases hs : w.slot = r.slot
    · rw [if_pos (beq_iff_eq.2 hs), if_pos (beq_iff_eq.2 hs), hs, ← h]
    · rw [if_neg (by simpa using hs), if_neg (by simpa using hs)]
  simp only [State.updWarp, hw]

theorem State.warp?_slot (h : s.warp? r = some (b, w)) : w.slot = r.slot := by
  have hw := (State.warp?_some.1 h).2
  simpa [Block.warp?] using List.find?_some hw

/-- A warp that is put in its own slot is then found there. -/
theorem State.warpOf_updWarp_const {x : Warp} (h : s.warp? r = some (b, w)) (hx : x.slot = w.slot) :
    Claims.warpOf (s.updWarp r fun _ => x) r = some x := by
  have hslot := State.warp?_slot h
  rw [State.updWarp_const s (hx.trans hslot), warpOf_updWarp (f := fun w => { x with slot := w.slot }) s r fun _ => rfl,
    Claims.warpOf, h]
  simp only [Option.map_some, ← hx]

theorem State.onlyWarp_updWarp_const {x : Warp} (h : s.warp? r = some (b, w)) (hx : x.slot = w.slot) :
    s.OnlyWarp (s.updWarp r fun _ => x) r := by
  rw [State.updWarp_const s (hx.trans (State.warp?_slot h))]
  exact (State.OnlyWarp.refl s r).updWarp _ fun _ => rfl

/-- The warp as a fault at `pc` stops it. -/
def State.stoppedBy (s : State) (f : FaultInfo) (pc : Nat) (w : Warp) : Warp :=
  (s.restarting w pc).faulted f (s.restarting w pc).ctl.pc

/-- A fault is noted in the warp, and in the context's stop records unless a debugger takes it. -/
theorem State.noteFault_eq (h : s.warp? r = some (b, w)) (hg : s.grid? b.grid = some g) (hk : s.ctx? g.ctx = some k)
    (f : FaultInfo) (pc : Nat) :
    s.noteFault r f pc =
      if f.code = fcBreakpoint ∧ k.debugger = true then s.updWarp r fun _ => s.stoppedBy f pc w
      else (s.updWarp r fun _ => s.stoppedBy f pc w).pushStop g.ctx (Claims.stopOf b.core f.word
        (g.packet.image + BitVec.ofNat 64 pc) f b.index (b.place r.slot) s.now) := by
  simp only [State.noteFault, h, State.ctxOf_eq hg, State.imageOf_eq hg, hk, Bool.and_eq_true, beq_iff_eq]
  rfl

theorem State.stoppedBy_slot (s : State) (f : FaultInfo) (pc : Nat) (w : Warp) : (s.stoppedBy f pc w).slot = w.slot := rfl

/-- A fault that is no fatal one, of a warp without older results. -/
theorem State.takeFault_note (h : s.warp? r = some (b, w)) (hres : w.results = []) (hf : f.fatal = false) (pc : Nat) :
    s.takeFault r f pc = s.noteFault r f pc := by
  simp only [State.takeFault, h, hres, List.isEmpty_nil, if_true, State.recordFault, hf, Bool.false_eq_true, if_false]

/-- A fatal one. -/
theorem State.takeFault_kill (h : s.warp? r = some (b, w)) (hres : w.results = []) (hf : f.fatal = true) (pc : Nat) :
    s.takeFault r f pc = (s.noteFault r f pc).kill (s.ctxOf b) (f.code.setWidth 16) := by
  simp only [State.takeFault, h, hres, List.isEmpty_nil, if_true, State.recordFault, hf]

/-- With older results outstanding the fault waits. -/
theorem State.takeFault_wait (h : s.warp? r = some (b, w)) (hres : w.results ≠ []) (f : FaultInfo) (pc : Nat) :
    s.takeFault r f pc = s.updWarp r fun w =>
      { w with run := .faulting, flt := { w.flt with waiting := some (f, pc) } } := by
  have he : w.results.isEmpty = false := by simpa using hres
  simp only [State.takeFault, h, he, Bool.false_eq_true, if_false]

/-- A fault that is no fatal one changes nothing outside its warp but the stop records. -/
theorem State.onlyWarp_takeFault (h : s.warp? r = some (b, w)) (hg : s.grid? b.grid = some g)
    (hk : s.ctx? g.ctx = some k) (hf : f.fatal = false) (pc : Nat) : s.OnlyWarp (s.takeFault r f pc) r := by
  by_cases hres : w.results = []
  · rw [State.takeFault_note h hres hf, State.noteFault_eq h hg hk]
    have honly := State.onlyWarp_updWarp_const h (s.stoppedBy_slot f pc w)
    split
    · exact honly
    · exact honly.pushStop _ _
  · rw [State.takeFault_wait h hres]
    exact (State.OnlyWarp.refl s r).updWarp _ fun _ => rfl

/-- Without a DUALST under way a warp restarts at its word. -/
theorem State.restarting_pc (s : State) {w : Warp} (h : w.dual = none) (pc : Nat) : (s.restarting w pc).ctl.pc = pc := by
  simp only [State.restarting, h]

/-! ## The kill of a context (R320) -/

/-- The context is being killed, and every warp of the grids `gids` has exited. -/
def State.Dying (s : State) (ctx : Nat) (gids : List Nat) : Prop :=
  (∃ k, s.ctx? ctx = some k ∧ k.killing = true) ∧ ∀ b ∈ s.blocks, b.grid ∈ gids → ∀ w ∈ b.warps, w.run = .exited

namespace State.Dying

variable {ctx : Nat} {gids : List Nat}

theorem of_parts (h : s.Dying ctx gids) (hc : t.ctxs = s.ctxs) (hb : ∀ b ∈ t.blocks, b ∈ s.blocks) : t.Dying ctx gids := by
  refine ⟨?_, fun b hm => h.2 b (hb b hm)⟩
  rw [State.ctx?, hc]
  exact h.1

theorem storeOnly (h : s.Dying ctx gids) (k : s.StoreOnly t) : t.Dying ctx gids := by
  obtain ⟨_, _, _, _, _, _, _, rfl⟩ := k
  exact h

theorem foldl {β : Type} {F : State → β → State} (hF : ∀ s x, State.Dying s ctx gids → (F s x).Dying ctx gids)
    (l : List β) (h : s.Dying ctx gids) : (l.foldl F s).Dying ctx gids := by
  induction l generalizing s with
  | nil => exact h
  | cons x l ih => exact ih (hF s x h)

theorem updCtx (h : s.Dying ctx gids) {F : Context → Context} (hid : ∀ c, (F c).id = c.id)
    (hF : ∀ c, (F c).killing = c.killing) : (s.updCtx ctx F).Dying ctx gids := by
  obtain ⟨⟨k, hk, hkill⟩, hb⟩ := h
  refine ⟨⟨F k, ?_, (hF k).trans hkill⟩, hb⟩
  rw [State.ctx?_updCtx s ctx F hid, hk]
  rfl

theorem dropAccs (h : s.Dying ctx gids) (p : Acc → Bool) : (s.dropAccs p).Dying ctx gids :=
  foldl (F := fun s id => s.dropAcc id) (fun _ _ h => h.of_parts rfl fun _ hm => hm) _ h

theorem completionUpdate (h : s.Dying ctx gids) (grid : Nat) (done : Dword) (fn : RemoteKind) (x : Dword) :
    (s.completionUpdate grid ctx done fn x).Dying ctx gids := by
  unfold State.completionUpdate
  split
  next pa _ =>
    refine h.storeOnly (StoreOnly.trans (t := match s.vfAt pa, s.grid? grid with
      | some v, some g => if v == g.vf then s.takeTag v (768 + sliceOf pa) g.gen else s
      | _, _ => s) ?_ ⟨_, _, _, _, _, _, _, rfl⟩)
    split
    · split
      · exact StoreOnly.takeTag s _ _ _
      · exact StoreOnly.refl s
    · exact StoreOnly.refl s
  next => exact h.updCtx (fun _ => rfl) fun _ => rfl

/-- The last steps of the kill. -/
theorem finishKill (h : s.Dying ctx gids) : (s.finishKill ctx).Dying ctx gids := by
  unfold State.finishKill
  extract_lets grids gids' bids waiting s1 s2 s3
  have h3 : s3.Dying ctx gids :=
    dropAccs (foldl (fun _ _ h => h.completionUpdate _ _ _ _) _ (foldl (fun _ _ h => h.completionUpdate _ _ _ _) _ h)) _
  obtain ⟨hk, hb⟩ := h3.updCtx (F := fun c => { c with dead := true, killAt := none, key := 0, halted := false })
    (fun _ => rfl) fun _ => rfl
  exact ⟨hk, fun b hm => hb b (List.mem_of_mem_filter hm)⟩

end State.Dying

/-- What no step of a run changes is as before the run. -/
theorem foldl_keeps {α β : Type} (part : State → α) {F : State → β → State} (hF : ∀ s x, part (F s x) = part s) (l : List β)
    (s : State) : part (l.foldl F s) = part s := by
  induction l generalizing s with
  | nil => rfl
  | cons x l ih => exact (ih _).trans (hF s x)

theorem State.blocks_dropAccs (s : State) (p : Acc → Bool) : (s.dropAccs p).blocks = s.blocks :=
  foldl_keeps (F := fun s id => s.dropAcc id) State.blocks (fun _ _ => rfl) _ s

theorem State.ctxs_dropAccs (s : State) (p : Acc → Bool) : (s.dropAccs p).ctxs = s.ctxs :=
  foldl_keeps (F := fun s id => s.dropAcc id) State.ctxs (fun _ _ => rfl) _ s

/-- The grids of a context. -/
def State.gridsOf (s : State) (ctx : Nat) : List Nat := (s.grids.filter (·.ctx == ctx)).map Grid.id

/-- A kill of a context that no kill has reached. -/
theorem State.dying_kill (hk : s.ctx? k.id = some k) (hkill : k.killing = false) (hdead : k.dead = false)
    (detail : BitVec 16) : (s.kill k.id detail).Dying k.id (s.gridsOf k.id) := by
  unfold State.kill
  split
  next h => rw [hk] at h; cases h
  next k' h =>
    obtain rfl : k' = k := Option.some.inj (h.symm.trans hk)
    split
    next hc => simp [hkill, hdead] at hc
    next =>
      extract_lets s1 gids bids held s2 s3 s4 s5 s6 s7
      have hb2 : s2.blocks = s.blocks := foldl_keeps (F := fun s (e : StreamEntry) => s.dropAcc e.id) State.blocks (fun _ _ => rfl) _ _
      have hc2 : s2.ctxs = s1.ctxs := foldl_keeps (F := fun s (e : StreamEntry) => s.dropAcc e.id) State.ctxs (fun _ _ => rfl) _ _
      have hb4 : s4.blocks = s3.blocks := State.blocks_dropAccs _ _
      have hc4 : s4.ctxs = s2.ctxs := State.ctxs_dropAccs _ _
      obtain ⟨_, _, _, _, _, _, _, h5⟩ : s4.StoreOnly s5 := StoreOnly.foldl (fun s x => by
        split
        · exact StoreOnly.partWrite _ _ _ _ _ _ _
        · exact StoreOnly.refl s) _ _
      have hc5 : s5.ctxs = s1.ctxs := (congrArg State.ctxs h5).trans (hc4.trans hc2)
      have hb5 : s5.blocks = s3.blocks := (congrArg State.blocks h5).trans hb4
      have hctx : s6.ctx? k'.id = s1.ctx? k'.id := congrArg (fun l => l.find? fun c : Context => c.id == k'.id) hc5
      have h7 : s7.Dying k'.id (s.gridsOf k'.id) := by
        refine ⟨?_, fun b hb hgrid w hw => ?_⟩
        · have hc7 := State.ctx?_updCtx s6 k'.id (fun c => { c with
            killing := true, killAt := some (s6.now + 200000), sheaves := [] }) fun _ => rfl
          rw [hctx, State.ctx?_pushStop hk] at hc7
          exact ⟨_, hc7, rfl⟩
        · obtain ⟨b0, hb0, rfl⟩ := List.mem_map.1 (hb5 ▸ hb)
          by_cases hin : bids.contains b0.id = true
          · rw [if_pos hin] at hw
            obtain ⟨w0, -, rfl⟩ := List.mem_map.1 hw
            rfl
          · rw [if_neg hin] at hgrid
            refine absurd (List.contains_iff_mem.2 (List.mem_map_of_mem (List.mem_filter.2 ⟨hb2 ▸ hb0, ?_⟩))) hin
            exact List.contains_iff_mem.2 hgrid
      split
      · exact h7
      · exact h7.finishKill

end Sys2Proof.Machine

namespace Sys2Proof.Claims

open Sys2Proof.Machine

/-- Settles O17: the warp and the context after a stopping fault, the wait for older results, and the kill. -/
theorem faultsAreRecorded : Obligations.FaultsAreRecorded := by
  refine ⟨fun s r f pc b w g k h hg hk hres hf hdbg => ?_, fun s r f pc b w h hres => ?_,
    fun s r f pc b w g k h hg hk hres hf hkill hdead => ?_⟩
  case refine_1 =>
    have honly := State.onlyWarp_takeFault h hg hk hf pc
    rw [State.takeFault_note h hres hf, State.noteFault_eq h hg hk, if_neg hdbg] at honly ⊢
    exact ⟨s.stoppedBy f pc w, _, State.warpOf_updWarp_const h (s.stoppedBy_slot f pc w), State.ctx?_pushStop hk _,
      honly, rfl, rfl, rfl, fun hd => State.restarting_pc s hd pc, rfl, rfl, rfl, rfl, rfl, rfl, rfl, rfl⟩
  case refine_2 =>
    rw [State.takeFault_wait h hres]
    refine ⟨?_, (State.OnlyWarp.refl s r).updWarp _ fun _ => rfl, rfl⟩
    rw [warpOf_updWarp (f := fun w => { w with run := .faulting, flt := { w.flt with waiting := some (f, pc) } }) s r
      fun _ => rfl, warpOf, h]
    rfl
  case refine_3 =>
    rw [State.takeFault_kill h hres hf, State.ctxOf_eq hg]
    obtain ⟨k1, hk1, hid, hkill1, hdead1, hgrids⟩ : ∃ k1, (s.noteFault r f pc).ctx? g.ctx = some k1 ∧ k1.id = g.ctx
        ∧ k1.killing = false ∧ k1.dead = false ∧ (s.noteFault r f pc).grids = s.grids := by
      rw [State.noteFault_eq h hg hk]
      split
      · exact ⟨k, hk, State.ctx?_id hk, hkill, hdead, rfl⟩
      · have hid : k.id = g.ctx := State.ctx?_id hk
        exact ⟨_, State.ctx?_pushStop hk _, hid, hkill, hdead, rfl⟩
    obtain ⟨⟨k', hk', hkilling⟩, hexit⟩ := State.dying_kill (hid.symm ▸ hk1) hkill1 hdead1 (f.code.setWidth 16)
    rw [hid] at hk' hexit
    refine ⟨k', hk', hkilling, fun b' hb' hgrid => hexit b' hb' ?_⟩
    refine List.mem_map.2 ⟨g, List.mem_filter.2 ⟨hgrids ▸ List.mem_of_find?_eq_some hg, beq_self_eq_true _⟩, ?_⟩
    exact (State.grid?_id hg).trans hgrid.symm

/-! ## BAR, TRAP, BKPT and the illegal word (R51, R108, R109, R318) -/

theorem converged_of_whole {c : Ctx} (h : whole c) : c.converged = true := by
  obtain ⟨hactive, hstack⟩ := h
  simpa [Ctx.converged, hactive] using hstack

/-- BAR that has not been released parks, once its warp is whole. -/
theorem barEff_wait {c : Ctx} {scope : BitVec 3} (hrun : c.w.run = .ready) (h : whole c)
    (hco : scope = 4 → c.g.packet.coResident = true) : barEff scope c = .wait c.s (.barrier scope false) := by
  have hgrid : (scope == 4 && !c.g.packet.coResident) = false := by simpa using hco
  simp only [barEff, hrun, converged_of_whole h, Bool.not_true, Bool.false_eq_true, if_false, hgrid]

/-- Released, it completes. -/
theorem barEff_done {c : Ctx} {scope k : BitVec 3} (h : c.w.run = .barrier k true) : barEff scope c = .done c.s := by
  simp only [barEff, h]

/-- Settles O27: BAR by whether it is released, and the faults of TRAP, BKPT and an illegal word. -/
theorem barriersTrapsAndIllegalWords : Obligations.BarriersTrapsAndIllegalWords := by
  refine fun sw scope code bk x s c => ⟨fun hs hrun h hco => exec_of_wait rfl hs (barEff_wait hrun h hco),
    fun hs k h => ?_, fun hs => ⟨exec_of_fault rfl hs rfl, fun f k hcode hk => ?_, exec_of_fault rfl hs rfl⟩, rfl,
    fun hs => congrArg _ (runWord_staticFault _ hs rfl)⟩
  · refine warps_of_skip rfl hs (barEff_done h) fun red now => ?_
    exact ⟨Warp.complete_regs _ _ _ _ _ _, Warp.complete_pc _ _ _ _ _⟩
  · refine State.onlyWarp_takeFault hs.warp hs.grid hk ?_ _
    simp [FaultInfo.fatal, hcode, fcRedundantMismatch, fcTwinMismatch, fcPreemptOverrun, fcScopeRound, fcScopeDisagree,
      fcPage, fcPermission, fcUncorrectable]

end Sys2Proof.Claims
end

section
/-!
SUPPORT. EXIT (R103): the block with its warp retired, the retirement of the block and its restart.
-/

namespace Sys2Proof.Machine

variable {s : State} {r : WarpRef} {b : Block} {w : Warp}

/-! ## The warps of a layout -/

/-- Every warp of a group stands at the entry. -/
theorem mem_groupWarps {entry now : Nat} {gs : List (Role × Group)} {slot t : Nat} {w : Warp}
    (h : w ∈ groupWarps entry now gs slot t) :
    ∃ slot role width budget tOct, w = Warp.start slot role width budget entry tOct now := by
  induction gs generalizing slot t with
  | nil => cases h
  | cons x gs ih =>
    rcases List.mem_append.1 h with h | h
    · obtain ⟨i, -, rfl⟩ := List.mem_map.1 h
      exact ⟨_, _, _, _, _, rfl⟩
    · exact ih h

/-- A warp that has taken what its predecessor left, but for %status, the draws and the fault record. -/
theorem Warp.inherit_frame (w : Warp) (xs : List ExitState) :
    (w.inherit xs).run = w.run ∧ (w.inherit xs).regs = w.regs ∧ (w.inherit xs).ctl.pc = w.ctl.pc
      ∧ (w.inherit xs).ctl.mode = w.ctl.mode ∧ (w.inherit xs).ctl.stack = w.ctl.stack
      ∧ (w.inherit xs).ctl.loops = w.ctl.loops ∧ (w.inherit xs).ctl.depth = w.ctl.depth := by
  unfold Warp.inherit
  split <;> exact ⟨rfl, rfl, rfl, rfl, rfl, rfl, rfl⟩

/-! ## Retiring a warp -/

/-- A block whose warp retires, with the record of what the warp held. -/
def Block.retireWarp (b : Block) (slot now : Nat) : Block :=
  let b := b.updWarp slot Warp.retire
  match b.warp? slot with
  | none => b
  | some w =>
    let x : ExitState := { slot, status := w.ctl.status, draw := w.ctl.draw, word := w.flt.word, addr := w.flt.addr,
                           lanes := w.flt.lanes }
    { b with exited := putBy ExitState.slot x b.exited, freed := b.freed ++ [(slot, now)] }

/-- Only the warps, the exit records and the freed slots differ. -/
theorem Block.retireWarp_rest (b : Block) (slot now : Nat) :
    ∃ xs fs, b.retireWarp slot now = { b.updWarp slot Warp.retire with exited := xs, freed := fs } := by
  unfold Block.retireWarp
  dsimp only
  split
  · exact ⟨_, _, rfl⟩
  · exact ⟨_, _, rfl⟩

theorem Block.retireWarp_id (b : Block) (slot now : Nat) : (b.retireWarp slot now).id = b.id := by
  obtain ⟨xs, fs, h⟩ := b.retireWarp_rest slot now
  rw [h]
  rfl

theorem Block.retireWarp_warps (b : Block) (slot now : Nat) :
    (b.retireWarp slot now).warps = (b.updWarp slot Warp.retire).warps := by
  obtain ⟨xs, fs, h⟩ := b.retireWarp_rest slot now
  rw [h]

/-- Every warp has exited once the last one retires, and not before. -/
theorem Block.all_exited_retireWarp (b : Block) (slot now : Nat) :
    ((b.retireWarp slot now).warps.all fun w => w.run == .exited) = true
      ↔ ∀ w ∈ b.warps, w.slot ≠ slot → w.run = .exited := by
  rw [Block.retireWarp_warps]
  simp only [Block.updWarp, List.all_map, List.all_eq_true, Function.comp_apply, beq_iff_eq]
  refine forall₂_congr fun w _ => ?_
  by_cases h : w.slot = slot
  · simp [h, Warp.retire]
  · simp [h]

/-- The state with the warp retired, before the block is looked at. -/
def State.retiring (s : State) (r : WarpRef) : State := s.updBlock r.blk fun b => b.retireWarp r.slot s.now

theorem State.block?_retiring (h : s.block? r.blk = some b) :
    (s.retiring r).block? r.blk = some (b.retireWarp r.slot s.now) := by
  rw [State.retiring, State.block?_updBlock s _ _ fun b => Block.retireWarp_id b _ _, h]
  rfl

/-- A warp that is not the last one to exit. -/
theorem State.retireWarp_other (h : s.block? r.blk = some b) (hl : ¬ ∀ w ∈ b.warps, w.slot ≠ r.slot → w.run = .exited)
    (idx : Nat) (desc : Desc) : s.retireWarp r idx desc = s.retiring r := by
  have hb := State.block?_retiring h
  have hall := (Block.all_exited_retireWarp b r.slot s.now).not.2 hl
  unfold State.retireWarp
  change (match (s.retiring r).block? r.blk with
    | none => s.retiring r
    | some b => _) = _
  rw [hb]
  exact if_neg hall

/-- The last warp, with and without a successor. -/
theorem State.retireWarp_last (h : s.block? r.blk = some b) (hl : ∀ w ∈ b.warps, w.slot ≠ r.slot → w.run = .exited)
    (idx : Nat) (desc : Desc) : s.retireWarp r idx desc =
      if idx == 0 then (s.retiring r).retireBlock (b.retireWarp r.slot s.now)
      else (s.retiring r).updBlock b.id fun b => b.restart desc idx s.now := by
  have hb := State.block?_retiring h
  have hall := (Block.all_exited_retireWarp b r.slot s.now).2 hl
  unfold State.retireWarp
  change (match (s.retiring r).block? r.blk with
    | none => s.retiring r
    | some b => _) = _
  rw [hb]
  dsimp only
  rw [if_pos hall, Block.retireWarp_id]
  rfl

theorem Block.warp?_retireWarp {slot : Nat} (h : b.warp? slot = some w) (now : Nat) :
    (b.retireWarp slot now).warp? slot = some w.retire := by
  rw [Block.warp?, Block.retireWarp_warps]
  exact (b.warp?_updWarp slot Warp.retire fun _ => rfl).trans (by rw [h]; rfl)

/-- A block that differs in the warp of one slot, and in what it notes of exits, alone. -/
def Block.KeepsStores (b b' : Block) (slot : Nat) : Prop :=
  b'.id = b.id ∧ (b'.scratch = b.scratch ∧ b'.tags = b.tags ∧ b'.opbuf = b.opbuf ∧ b'.resvs = b.resvs
    ∧ b'.tiles = b.tiles ∧ b'.allocs = b.allocs ∧ b'.rings = b.rings ∧ b'.chans = b.chans
    ∧ b'.bindings = b.bindings ∧ b'.core = b.core ∧ b'.index = b.index ∧ b'.grid = b.grid)
    ∧ ∀ k, k ≠ slot → b'.warp? k = b.warp? k

theorem Block.keepsStores_retireWarp (b : Block) (slot now : Nat) : b.KeepsStores (b.retireWarp slot now) slot := by
  obtain ⟨xs, fs, h⟩ := b.retireWarp_rest slot now
  rw [h]
  refine ⟨rfl, ⟨rfl, rfl, rfl, rfl, rfl, rfl, rfl, rfl, rfl, rfl, rfl, rfl⟩, fun k hk => ?_⟩
  exact b.warp?_updWarp_other Warp.retire (fun _ => rfl) hk

/-- Nothing outside the warp changes when its block changes in that warp and its notes of exits alone. -/
theorem State.OnlyWarp.updBlock {t : State} (h : s.OnlyWarp t r) {f : Block → Block}
    (hf : ∀ b, Block.KeepsStores b (f b) r.slot) : s.OnlyWarp (t.updBlock r.blk f) r :=
  { h with
    block := by
      intro id b hb
      obtain ⟨b', hb', ⟨h1, h2, h3, h4, h5, h6, h7, h8, h9, h10, h11, h12, hw⟩⟩ := h.block id b hb
      obtain ⟨-, ⟨k1, k2, k3, k4, k5, k6, k7, k8, k9, k10, k11, k12⟩, kw⟩ := hf b'
      by_cases hid : id = r.blk
      · refine ⟨f b', ?_, k1.trans h1, k2.trans h2, k3.trans h3, k4.trans h4, k5.trans h5, k6.trans h6, k7.trans h7,
          k8.trans h8, k9.trans h9, k10.trans h10, k11.trans h11, k12.trans h12, fun k hk => ?_⟩
        · rw [hid, State.block?_updBlock _ _ _ fun b => (hf b).1, ← hid, hb']
          rfl
        · exact (kw k fun e => hk ⟨hid, e⟩).trans (hw k hk)
      · refine ⟨b', ?_, h1, h2, h3, h4, h5, h6, h7, h8, h9, h10, h11, h12, hw⟩
        rw [State.block?_updBlock_other _ _ (fun b => (hf b).1) hid, hb'] }

/-- A block that restarts at a successor: its stores and registers are kept, and its warps start at the entry. -/
theorem Block.restart_spec {desc : Desc} {i : Nat} {l : Layout} (hl : desc.layouts[i]? = some l) (b : Block) (now : Nat) :
    (b.restart desc i now).id = b.id ∧ (b.restart desc i now).layout = i ∧ (b.restart desc i now).exitIdx = none
      ∧ (b.restart desc i now).warps.length = (l.warps now).length
      ∧ (∀ w' ∈ (b.restart desc i now).warps, w'.run = .ready ∧ w'.ctl.pc = l.entry ∧ w'.ctl.mode = 0
        ∧ w'.ctl.stack = [] ∧ w'.ctl.loops = [] ∧ w'.ctl.depth = 0 ∧ w'.regs.v = [] ∧ w'.regs.o = []
        ∧ w'.regs.w = [] ∧ w'.regs.p = [])
      ∧ (b.restart desc i now).b = b.b ∧ (b.restart desc i now).scratch = b.scratch
      ∧ (b.restart desc i now).opbuf = b.opbuf ∧ (b.restart desc i now).resvs = b.resvs
      ∧ (b.restart desc i now).allocs = b.allocs ∧ (b.restart desc i now).tiles = b.tiles
      ∧ (b.restart desc i now).chans = b.chans := by
  unfold Block.restart
  rw [hl]
  refine ⟨rfl, rfl, rfl, List.length_map _, fun w' hw' => ?_, rfl, rfl, rfl, rfl, rfl, rfl, rfl⟩
  obtain ⟨w, hw, rfl⟩ := List.mem_map.1 hw'
  obtain ⟨slot, role, width, budget, tOct, rfl⟩ := mem_groupWarps hw
  obtain ⟨hrun, hregs, hpc, hmode, hstack, hloops, hdepth⟩ :=
    (Warp.start slot role width budget l.entry tOct now).inherit_frame b.exited
  exact ⟨hrun, hpc, hmode, hstack, hloops, hdepth, congrArg WarpRegs.v hregs, congrArg WarpRegs.o hregs,
    congrArg WarpRegs.w hregs, congrArg WarpRegs.p hregs⟩

/-! ## Retiring a block -/

/-- The credits of unread messages change no block and no grid. -/
theorem State.dropUnread_parts (s : State) (b : Block) :
    (s.dropUnread b).blocks = s.blocks ∧ (s.dropUnread b).grids = s.grids := by
  unfold State.dropUnread
  split
  next g _ _ =>
    have hone (e : ChanEnd × Nat) (n : List Nat) (s : State) :
        (n.foldl (fun (s : State) _ => { s.fresh with credits := s.credits ++
          [{ id := s.nextId, grid := g.id, trail := false, chan := e.2, dest := g.sender e.1.desc b.index }] }) s).blocks
            = s.blocks
          ∧ (n.foldl (fun (s : State) _ => { s.fresh with credits := s.credits ++
          [{ id := s.nextId, grid := g.id, trail := false, chan := e.2, dest := g.sender e.1.desc b.index }] }) s).grids
            = s.grids := by
      induction n generalizing s with
      | nil => exact ⟨rfl, rfl⟩
      | cons x n ih => exact ih _
    exact ⟨foldl_keeps State.blocks (fun s e => (hone e _ s).1) _ s,
      foldl_keeps State.grids (fun s e => (hone e _ s).2) _ s⟩
  next => exact ⟨rfl, rfl⟩

/-- A grid that counts a block among the retired: with the last of its launch cluster the cluster registers go. -/
def Grid.retire (g : Grid) (b : Block) (now : Dword) : Grid :=
  let g : Grid := { g with
    retired := g.retired ++ [(b.index, b.trail)], gone := g.gone ++ [(b.id, b.index, b.places)],
    gen := if g.gen.toNat < now.toNat then now else g.gen }
  if ((List.range g.map.length).filter fun i => g.clusterIndex i == g.clusterIndex b.index).all fun i =>
    g.retired.contains (i, b.trail) then g.setK b RegSet.reset else g

theorem Grid.retire_spec (g : Grid) (b : Block) (now : Dword) :
    (g.retire b now).id = g.id ∧ (b.index, b.trail) ∈ (g.retire b now).retired := by
  unfold Grid.retire
  extract_lets g'
  have hmem : (b.index, b.trail) ∈ g'.retired := List.mem_append_right _ (List.mem_singleton.2 rfl)
  split <;> exact ⟨rfl, hmem⟩

/-- The block is gone, and its grid has it among the retired. -/
theorem State.retireBlock_spec {g : Grid} (hg : s.grid? b.grid = some g) :
    (s.retireBlock b).block? b.id = none
      ∧ ∃ g', (s.retireBlock b).grid? b.grid = some g' ∧ (b.index, b.trail) ∈ g'.retired := by
  obtain ⟨hblocks, hgrids⟩ := s.dropUnread_parts b
  refine ⟨?_, ?_⟩
  · rw [State.block?, List.find?_eq_none]
    intro x hx
    simpa using (List.mem_filter.1 hx).2
  · unfold State.retireBlock
    extract_lets s1 s2 s3
    have hg2 : s2.grid? b.grid = some g := by
      rw [← hg]
      exact congrArg (fun l => l.find? fun x : Grid => x.id == b.grid) hgrids
    have hg3 := State.grid?_updGrid s2 b.grid (fun g => g.retire b ((s2.vf g.vf).part.adopted b.core))
      fun g => (g.retire_spec b _).1
    rw [hg2] at hg3
    exact ⟨_, hg3, (g.retire_spec b _).2⟩

end Sys2Proof.Machine

namespace Sys2Proof.Claims

open Sys2Proof.Machine

variable {s : State} {c : Ctx} {idx : BitVec 8}

theorem whole_of_converged (h : c.converged = true) : whole c := by
  simp only [Ctx.converged, Bool.and_eq_true, beq_iff_eq, List.all_eq_true, Bool.not_eq_true'] at h
  exact h

/-- A block with the successor of an EXIT recorded. -/
def chosen (idx : BitVec 8) (b : Block) : Block := { b with exitIdx := some idx.toNat }

/-- The state with the successor recorded. -/
def exiting (c : Ctx) (idx : BitVec 8) : State := c.s.updBlock c.r.blk (chosen idx)

/-- An EXIT that nothing holds back. -/
theorem exitEff_retires (hw : c.s.warp? c.r = some (c.b, c.w)) (h : mayExit c idx) :
    exitEff idx c = .leave ((exiting c idx).retireWarp c.r idx.toNat c.g.desc) := by
  obtain ⟨hwhole, hidx, hsame, ⟨hpend, -, hidle⟩, hbatch, hred, hland⟩ := h
  have hid : c.b.id = c.r.blk := State.block?_id (State.warp?_some.1 hw).1
  have hany : (c.b.exitIdx.any fun k => k != idx.toNat) = false := by
    cases hk : c.b.exitIdx with
    | none => rfl
    | some k => simp [hsame k hk]
  have hlanding : c.landing = false := by
    have hcmds : (c.s.cmds.any fun x => x.accepted.contains c.b.id && !(x.state == 3 && x.writes == 0)) = false :=
      List.any_eq_false.2 fun x hx => by simp [hland x hx]
    rw [Ctx.landing, hcmds, Bool.and_false]
  have hfind : (exiting c idx).warp? c.r = some (chosen idx c.b, c.w) :=
    State.warp?_updBlock _ hw (fun _ => rfl) rfl
  rw [exiting, show chosen idx = fun b => { b with exitIdx := some idx.toNat } from rfl] at hfind
  simp only [exitEff, converged_of_whole hwhole, Bool.not_true, Bool.false_eq_true, if_false, if_neg (Nat.not_le.2 hidx),
    hany, hbatch, List.isEmpty_nil, Bool.false_and, if_true, hid, hfind, hpend, hidle, Bool.and_self, hred, hlanding,
    Bool.and_false]
  rfl

/-! ## The three ways in which an EXIT ends -/

section
variable {sw : Bool} (hs : s.Issues (exitEntry sw) c) (h : mayExit c idx)

include hs h in
theorem exec_exit : exec (.exit sw idx) s = .next (((exiting c idx).retireWarp c.r idx.toNat c.g.desc).progress c.ctx) := by
  refine congrArg _ (runWord_leave hs (exitEff_retires ?_ h))
  rw [hs.s_eq, hs.r_eq]
  exact hs.warp

include hs in
theorem exiting_block : (exiting c idx).block? s.cur.blk = some (chosen idx c.b) := by
  rw [exiting, hs.s_eq, hs.r_eq, State.block?_updBlock s s.cur.blk (chosen idx) fun _ => rfl,
    (State.warp?_some.1 hs.warp).1]
  rfl

include hs h in
/-- While another warp runs, EXIT retires its own. -/
theorem exit_retires_warp (hl : ¬ lastWarp c) : ∃ t w' b', exec (.exit sw idx) s = .next t ∧ warpOf t s.cur = some w'
    ∧ w'.run = .exited ∧ w'.ctl.status = statusOr c.w.ctl.status c.w.lateFlags
    ∧ t.block? c.b.id = some b' ∧ b'.exitIdx = some idx.toNat ∧ s.OnlyWarp t s.cur := by
  have hb := exiting_block (idx := idx) hs
  have hblk := State.block?_retiring hb
  have he := exec_exit hs h
  rw [hs.r_eq, State.retireWarp_other hb (by rwa [lastWarp, hs.r_eq] at hl)] at he
  obtain ⟨xs, fs, hrest⟩ :=
    (chosen idx c.b).retireWarp_rest s.cur.slot (exiting c idx).now
  refine ⟨_, c.w.retire, (chosen idx c.b).retireWarp s.cur.slot (exiting c idx).now, he, ?_, rfl, ?_, ?_, ?_, ?_⟩
  · have hw := Block.warp?_retireWarp (b := chosen idx c.b) (State.warp?_some.1 hs.warp).2
      (exiting c idx).now
    rw [warpOf_progress, warpOf, State.warp?_some.2 ⟨hblk, hw⟩]
    rfl
  · obtain ⟨-, -, -, ⟨-, hres, -⟩, -⟩ := h
    simp [Warp.retire, hres]
  · rw [State.block?_id (State.warp?_some.1 hs.warp).1]
    exact hblk
  · rw [hrest]
    rfl
  · refine State.OnlyWarp.progress (State.OnlyWarp.updBlock ?_ fun b => b.keepsStores_retireWarp _ _) _
    rw [exiting, hs.s_eq, hs.r_eq]
    exact (State.OnlyWarp.refl s s.cur).updBlock fun b =>
      ⟨rfl, ⟨rfl, rfl, rfl, rfl, rfl, rfl, rfl, rfl, rfl, rfl, rfl, rfl⟩, fun _ _ => rfl⟩

include hs h in
/-- The last warp's EXIT without a successor. -/
theorem exit_retires_block (hl : lastWarp c) (h0 : idx = 0) : ∃ t g', exec (.exit sw idx) s = .next t
    ∧ t.block? c.b.id = none ∧ t.grid? c.b.grid = some g' ∧ (c.b.index, c.b.trail) ∈ g'.retired := by
  have he := exec_exit hs h
  subst h0
  rw [hs.r_eq, State.retireWarp_last (exiting_block hs) (by rwa [lastWarp, hs.r_eq] at hl)] at he
  obtain ⟨xs, fs, hrest⟩ := (chosen 0 c.b).retireWarp_rest s.cur.slot (exiting c 0).now
  have hg : ((exiting c 0).retiring s.cur).grid? c.b.grid = some c.g := by
    rw [State.retiring, State.grid?_updBlock, exiting, State.grid?_updBlock, hs.s_eq]
    exact hs.grid
  rw [hrest] at he
  obtain ⟨hgone, g', hg', hin⟩ := State.retireBlock_spec (b := { (chosen 0 c.b).updWarp s.cur.slot Warp.retire with
    exited := xs, freed := fs }) hg
  exact ⟨_, g', he, hgone, hg', hin⟩

include hs h in
/-- The last warp's EXIT with one. -/
theorem exit_restarts (hl : lastWarp c) (h0 : idx ≠ 0) {l : Layout} (hlay : c.g.desc.layouts[idx.toNat]? = some l) :
    ∃ t b', exec (.exit sw idx) s = .next t ∧ t.block? c.b.id = some b' ∧ b'.layout = idx.toNat
      ∧ b'.exitIdx = none ∧ b'.warps.length = (l.warps s.now).length
      ∧ (∀ w' ∈ b'.warps, w'.run = .ready ∧ w'.ctl.pc = l.entry ∧ w'.ctl.mode = 0 ∧ w'.ctl.stack = []
        ∧ w'.ctl.loops = [] ∧ w'.ctl.depth = 0 ∧ w'.regs.v = [] ∧ w'.regs.o = [] ∧ w'.regs.w = []
        ∧ w'.regs.p = [])
      ∧ b'.b = c.b.b ∧ b'.scratch = c.b.scratch ∧ b'.opbuf = c.b.opbuf ∧ b'.resvs = c.b.resvs
      ∧ b'.allocs = c.b.allocs ∧ b'.tiles = c.b.tiles ∧ b'.chans = c.b.chans := by
  have hn : (idx.toNat == 0) = false := beq_false_of_ne fun e => h0 (BitVec.eq_of_toNat_eq e)
  have hnow : (exiting c idx).now = s.now := by rw [exiting, hs.s_eq]; rfl
  have he := exec_exit hs h
  have hblk := State.block?_retiring (exiting_block (idx := idx) hs)
  rw [hs.r_eq, State.retireWarp_last (exiting_block hs) (by rwa [lastWarp, hs.r_eq] at hl), hn, hnow] at he
  obtain ⟨xs, fs, hrest⟩ := (chosen idx c.b).retireWarp_rest s.cur.slot s.now
  rw [hnow, hrest] at hblk
  obtain ⟨-, hspec⟩ := Block.restart_spec hlay ((chosen idx c.b).retireWarp s.cur.slot s.now) s.now
  rw [hrest] at hspec
  refine ⟨_, _, he, ?_, hspec⟩
  have hid : c.b.id = s.cur.blk := State.block?_id (State.warp?_some.1 hs.warp).1
  refine (State.block?_updBlock _ _ _ fun b => (Block.restart_spec hlay b s.now).1).trans ?_
  rw [hid, hblk]
  rfl

end

/-- Settles O24: the three ways in which an EXIT ends, and the checks that refuse it. -/
theorem exitRetiresOrRestarts : Obligations.ExitRetiresOrRestarts := by
  refine ⟨fun sw idx s c hs h => ⟨exit_retires_warp hs h, exit_retires_block hs h,
      fun hl h0 l hlay => exit_restarts hs h hl h0 hlay⟩,
    fun sw idx s c hs => ⟨fun hw => exec_of_fault rfl hs ?_, fun hw hidx => exec_of_fault rfl hs ?_,
      fun hw hidx k hk hne => exec_of_fault rfl hs ?_⟩⟩
  · have hconv : c.converged = false := Bool.eq_false_iff.2 fun e => hw (whole_of_converged e)
    simp only [exitEff, hconv, Bool.not_false, if_true]
    rfl
  · simp only [exitEff, converged_of_whole hw, Bool.not_true, Bool.false_eq_true, if_false, if_pos hidx]
    rfl
  · have hany : (c.b.exitIdx.any fun x => x != idx.toNat) = true := by simpa [hk] using hne
    simp only [exitEff, converged_of_whole hw, Bool.not_true, Bool.false_eq_true, if_false, if_neg (Nat.not_le.2 hidx),
      hany, if_true]
    rfl

end Sys2Proof.Claims
end

section
/-!
SUPPORT. Registers of a warp that is cut in two or joined from two, and SPLIT (R106).
-/

namespace Sys2Proof.Machine

/-! ## Parts of a sparse store -/

section
variable {α : Type} (d : α)

/-- A part that has no entry for a key is passed over. -/
theorem sparseGet_append_right {m n : Sparse α} {k : Nat} (h : ∀ x ∈ m, x.1 ≠ k) :
    sparseGet d (m ++ n) k = sparseGet d n k := by
  induction m with
  | nil => rfl
  | cons x m ih =>
    obtain ⟨a, v⟩ := x
    have ha : a ≠ k := h _ List.mem_cons_self
    simp only [List.cons_append, sparseGet, if_neg ha]
    exact ih fun y hy => h y (List.mem_cons_of_mem _ hy)

theorem sparseGet_append_left {m n : Sparse α} {k : Nat} (h : ∀ x ∈ n, x.1 ≠ k) :
    sparseGet d (m ++ n) k = sparseGet d m k := by
  induction m with
  | nil => simpa using sparseGet_append_right d (n := []) h
  | cons x m ih =>
    obtain ⟨a, v⟩ := x
    by_cases ha : a = k
    · simp only [List.cons_append, sparseGet, if_pos ha]
    · simp only [List.cons_append, sparseGet, if_neg ha, ih]

/-- Every key moved up. -/
theorem sparseGet_shift (m : Sparse α) (k n : Nat) :
    sparseGet d (m.map fun x => (x.1 + n, x.2)) (k + n) = sparseGet d m k := by
  induction m with
  | nil => rfl
  | cons x m ih =>
    obtain ⟨a, v⟩ := x
    simp only [List.map_cons, sparseGet, Nat.add_right_cancel_iff, ih]

/-- A slice from `sub` on, or later, with its keys moved down by `sub`. -/
theorem sparseGet_sliceKeys (m : Sparse α) {lo hi sub k : Nat} (hsub : sub ≤ lo) (hlo : lo ≤ k + sub) (hhi : k + sub < hi) :
    sparseGet d (sliceKeys lo hi 0 sub m) k = sparseGet d m (k + sub) := by
  induction m with
  | nil => rfl
  | cons x m ih =>
    obtain ⟨a, v⟩ := x
    unfold sliceKeys at ih ⊢
    by_cases hin : (decide (lo ≤ a) && decide (a < hi)) = true
    · rw [List.filter_cons, if_pos hin, List.map_cons]
      simp only [Bool.and_eq_true, decide_eq_true_eq] at hin
      by_cases ha : a = k + sub
      · simp only [sparseGet, if_pos ha, if_pos (show a + 0 - sub = k by omega)]
      · simp only [sparseGet, if_neg ha, if_neg (show ¬ a + 0 - sub = k by omega), ih]
    · rw [List.filter_cons, if_neg hin]
      simp only [Bool.and_eq_true, decide_eq_true_eq] at hin
      simp only [sparseGet, if_neg (show ¬ a = k + sub by omega), ih]

/-- The keys of a slice from 0 on. -/
theorem lt_of_mem_sliceKeys {m : Sparse α} {hi : Nat} {x : Nat × α} (h : x ∈ sliceKeys 0 hi 0 0 m) : x.1 < hi := by
  obtain ⟨y, hy, rfl⟩ := List.mem_map.1 h
  simpa using (List.mem_filter.1 hy).2

end

/-! ## Free slots -/

theorem insertNat_sorted {l : List Nat} (k : Nat) (h : l.Pairwise (· < ·)) : (insertNat k l).Pairwise (· < ·) := by
  have hmem (l : List Nat) : ∀ x ∈ insertNat k l, x = k ∨ x ∈ l := by
    induction l with
    | nil => simp [insertNat]
    | cons a l ih =>
      intro x hx
      simp only [insertNat] at hx
      split at hx
      · simpa using hx
      · split at hx
        · exact .inr hx
        · rcases List.mem_cons.1 hx with rfl | hx
          · exact .inr List.mem_cons_self
          · exact (ih x hx).imp_right (List.mem_cons_of_mem _)
  induction l with
  | nil => exact List.pairwise_singleton _ _
  | cons a l ih =>
    obtain ⟨ha, hl⟩ := List.pairwise_cons.1 h
    simp only [insertNat]
    split
    next hk => exact List.pairwise_cons.2 ⟨fun x hx => (List.mem_cons.1 hx).elim (fun e => e ▸ hk) fun hx => hk.trans (ha x hx), h⟩
    next hk =>
      split
      · exact h
      · refine List.pairwise_cons.2 ⟨fun x hx => ?_, ih hl⟩
        rcases hmem l x hx with rfl | hx
        · omega
        · exact ha x hx

theorem Block.freeSlots_sorted (b : Block) (now : Nat) : (b.freeSlots now).Pairwise (· < ·) :=
  List.Pairwise.filter _ List.pairwise_lt_range

/-! ## Warps that take the place of others -/

/-- A block with the warps of some slots replaced. -/
def Block.replace (b : Block) (gone : Nat → Bool) (ws : List Warp) : Block :=
  { b with warps := (b.warps.filter fun x => !gone x.slot) ++ ws }

/-- What stands in a slot whose warp has gone. -/
theorem Block.warp?_replace {b : Block} {gone : Nat → Bool} {ws : List Warp} {slot : Nat} (h : gone slot = true) :
    (b.replace gone ws).warp? slot = ws.find? (·.slot == slot) := by
  have hnone : (b.warps.filter fun x => !gone x.slot).find? (·.slot == slot) = none := by
    rw [List.find?_eq_none]
    intro x hx he
    obtain ⟨-, hx⟩ := List.mem_filter.1 hx
    rw [beq_iff_eq.1 he, h] at hx
    cases hx
  rw [Block.warp?, Block.replace, List.find?_append, hnone]
  rfl

/-- What is renumbered is neither a block nor the number of a grid. -/
theorem State.renumber_parts (s : State) (blk old new : Nat) :
    (s.renumber blk old new).blocks = s.blocks
      ∧ ∀ id, (s.renumber blk old new).grid? id = (s.grid? id).map fun g => if g.nreds.isEmpty then g else
        { g with nreds := g.nreds.map fun (x : NredWait) =>
            if x.blk == blk && x.slot == old then { x with slot := new } else x } := by
  refine ⟨rfl, fun id => ?_⟩
  simp only [State.grid?, State.renumber, List.find?_map]
  congr 2
  funext g
  dsimp only [Function.comp_apply]
  split <;> rfl

/-- A register of a warp that stands in a slot of its block. -/
theorem laneOf_eq {t : State} {blk slot : Nat} {b : Block} {w : Warp} {g : Grid} (hb : t.block? blk = some b)
    (hw : b.warp? slot = some w) (hg : t.grid? b.grid = some g) (l : Nat) (o : Operand) :
    Claims.laneOf t blk slot l o = readOperand t b g w l o := by
  rw [Claims.laneOf, State.operand_eq (State.warp?_some.2 ⟨hb, hw⟩) hg]

end Sys2Proof.Machine

namespace Sys2Proof.Claims

open Sys2Proof.Machine

variable {s : State} {c : Ctx} {lo hi : Nat}

/-- The state that a SPLIT leaves: the two halves stand in the slots `lo` and `hi`. -/
def splits (sw : Bool) (c : Ctx) (lo hi : Nat) : State :=
  (c.s.updBlock c.b.id fun b => b.replace (fun x => x == c.r.slot || x == lo || x == hi)
    [(c.w.mergeLate sw).half lo 0 c.s.now, (c.w.mergeLate sw).half hi 1 c.s.now]).renumber c.b.id c.r.slot lo

theorem splitEff_leave {sw : Bool} {rest : List Nat} (hwidth : c.w.width ∈ [16, 32, 64])
    (hactive : c.w.ctl.active = fullMask c.w.width) (hstack : c.w.ctl.stack = []) (hloops : c.w.ctl.loops = [])
    (hquiet : quiet c.w) (haccs : c.s.accsOf c.r = []) (hfree : c.b.freeSlots c.s.now ≠ [])
    (hslots : insertNat c.r.slot (c.b.freeSlots c.s.now) = lo :: hi :: rest) :
    splitEff sw c = .leave (splits sw c lo hi) := by
  obtain ⟨hpend, hres, hidle⟩ := hquiet
  have h8 : (c.w.width == 8) = false := by
    simp only [List.mem_cons, List.not_mem_nil, or_false] at hwidth
    simp only [beq_eq_false_iff_ne]
    omega
  have hplain : c.plain = true := by simp [Ctx.plain, hactive, hstack, hloops]
  have hempty : (c.b.freeSlots c.s.now).isEmpty = false := by simpa using hfree
  have hsame : (fun (x : Warp) => x.slot != c.r.slot && x.slot != lo && x.slot != hi)
      = fun x => !(x.slot == c.r.slot || x.slot == lo || x.slot == hi) := by
    funext x
    simp only [bne, Bool.not_or]
  simp only [splitEff, h8, Bool.false_eq_true, if_false, hplain, Bool.not_true, hempty, hpend, hres, hidle, haccs,
    List.isEmpty_nil, Bool.and_self, hslots, hsame]
  rfl

theorem mergeLate_frame (w : Warp) (sw : Bool) :
    (w.mergeLate sw).width = w.width ∧ (w.mergeLate sw).regs = w.regs ∧ (w.mergeLate sw).slot = w.slot
      ∧ (w.mergeLate sw).ctl.pc = w.ctl.pc ∧ (w.mergeLate sw).ctl.mode = w.ctl.mode
      ∧ (w.mergeLate sw).ctl.depth = w.ctl.depth
      ∧ (w.mergeLate sw).ctl.status = if sw then statusOr w.ctl.status w.lateFlags else w.ctl.status := by
  cases sw <;> exact ⟨rfl, rfl, rfl, rfl, rfl, rfl, rfl⟩

/-- A lane of a half reads the registers of its lane in the whole warp. -/
theorem readOperand_half {t : State} {b : Block} {g : Grid} {w : Warp} {slot i now : Nat}
    (hwidth : w.width ∈ [16, 32, 64]) (hi : i < 2) {l : Nat} (hl : l < w.width / 2) (k : BitVec 6) (n : BitVec 5) :
    readOperand t b g (w.half slot i now) l (.v k) = sparseGet 0 w.regs.v (64 * (l + w.width / 2 * i) + k.toNat)
      ∧ readOperand t b g (w.half slot i now) l (.o n)
        = sparseGet 0 w.regs.o (32 * ((l + w.width / 2 * i) / 8) + n.toNat)
      ∧ (w.half slot i now).preds l = w.preds (l + w.width / 2 * i) := by
  have hk := k.isLt
  have hn := n.isLt
  obtain ⟨m, hm⟩ : ∃ m, w.width / 2 = 8 * m := by
    simp only [List.mem_cons, List.not_mem_nil, or_false] at hwidth
    exact ⟨w.width / 16, by omega⟩
  have hcases : i = 0 ∨ i = 1 := by omega
  refine ⟨?_, ?_, ?_⟩
  · refine (sparseGet_sliceKeys 0 w.regs.v (Nat.le_refl _) ?_ ?_).trans (congrArg _ ?_)
    all_goals rcases hcases with rfl | rfl <;> simp only [Nat.mul_zero, Nat.mul_one] <;> omega
  · refine (sparseGet_sliceKeys 0 w.regs.o (Nat.le_refl _) ?_ ?_).trans (congrArg _ ?_)
    all_goals rcases hcases with rfl | rfl <;> simp only [hm, Nat.mul_zero, Nat.mul_one] <;> omega
  · refine congrArg (· ||| 1) ((sparseGet_sliceKeys 0 w.regs.p (Nat.le_refl _) ?_ ?_).trans rfl)
    all_goals rcases hcases with rfl | rfl <;> simp only [Nat.mul_zero, Nat.mul_one] <;> omega

/-- What the lanes of a half that stands in its slot read. -/
theorem laneOf_half {sw : Bool} {t : State} {b : Block} {g : Grid} {blk slot i now : Nat} (hb : t.block? blk = some b)
    (hw : b.warp? slot = some ((c.w.mergeLate sw).half slot i now)) (hg : t.grid? b.grid = some g)
    (hwidth : c.w.width ∈ [16, 32, 64]) (hi : i < 2) {l : Nat} (hl : l < c.w.width / 2) (k : BitVec 6) (n : BitVec 5) :
    laneOf t blk slot l (.v k) = c.opd (l + c.w.width / 2 * i) (.v k)
      ∧ laneOf t blk slot l (.o n) = c.opd (l + c.w.width / 2 * i) (.o n)
      ∧ laneOf t blk slot l (.sp 13) = c.opd (l + c.w.width / 2 * i) (.sp 13) := by
  obtain ⟨hwid, hregs, -⟩ := mergeLate_frame c.w sw
  obtain ⟨hv, ho, hp⟩ := readOperand_half (t := t) (b := b) (g := g) (w := c.w.mergeLate sw) (slot := slot) (now := now)
    (hwid.symm ▸ hwidth) hi (hwid.symm ▸ hl) k n
  rw [hwid, hregs] at hv ho
  refine ⟨(laneOf_eq hb hw hg l _).trans hv, (laneOf_eq hb hw hg l _).trans ho, (laneOf_eq hb hw hg l _).trans ?_⟩
  refine congrArg (BitVec.setWidth 32) (hp.trans ?_)
  rw [hwid, Warp.preds, hregs]
  rfl

/-- The block and the grid that a SPLIT leaves. -/
theorem splits_parts {sw : Bool} (hs : s.Issues (splitEntry sw) c) :
    (splits sw c lo hi).block? s.cur.blk = some (c.b.replace (fun x => x == c.r.slot || x == lo || x == hi)
        [(c.w.mergeLate sw).half lo 0 c.s.now, (c.w.mergeLate sw).half hi 1 c.s.now])
      ∧ ∃ g, (splits sw c lo hi).grid? c.b.grid = some g := by
  have hid : c.b.id = s.cur.blk := State.block?_id (State.warp?_some.1 hs.warp).1
  obtain ⟨hblocks, hgrids⟩ := (c.s.updBlock c.b.id fun b => b.replace (fun x => x == c.r.slot || x == lo || x == hi)
    [(c.w.mergeLate sw).half lo 0 c.s.now, (c.w.mergeLate sw).half hi 1 c.s.now]).renumber_parts c.b.id c.r.slot lo
  refine ⟨?_, ?_⟩
  · rw [splits, State.block?, hblocks, ← State.block?, hid, hs.s_eq]
    rw [State.block?_updBlock s s.cur.blk (Block.replace · (fun x => x == c.r.slot || x == lo || x == hi)
      [(c.w.mergeLate sw).half lo 0 s.now, (c.w.mergeLate sw).half hi 1 s.now]) fun _ => rfl,
      (State.warp?_some.1 hs.warp).1]
    rfl
  · rw [splits, hgrids, State.grid?_updBlock, hs.s_eq, hs.grid]
    exact ⟨_, rfl⟩

/-- Settles O25: the two halves in their slots, and the registers of their lanes. -/
theorem splitHalvesAWarp : Obligations.SplitHalvesAWarp := by
  intro sw s c lo hi rest hs hwidth hactive hstack hloops hquiet haccs hfree hslots
  have hlohi : lo < hi := by
    have h := insertNat_sorted c.r.slot (c.b.freeSlots_sorted s.now)
    rw [hslots] at h
    exact List.rel_of_pairwise_cons h List.mem_cons_self
  have hss := hs.s_eq
  have hid : c.b.id = s.cur.blk := State.block?_id (State.warp?_some.1 hs.warp).1
  have he : exec (.split sw) s = .next ((splits sw c lo hi).progress c.ctx) :=
    congrArg _ (runWord_leave hs (splitEff_leave hwidth hactive hstack hloops hquiet haccs (hss.symm ▸ hfree)
      (hss.symm ▸ hslots)))
  obtain ⟨hwid, hregs, -, hpc, hmode, hdepth, hstatus⟩ := mergeLate_frame c.w sw
  obtain ⟨hb, g, hg⟩ := splits_parts (lo := lo) (hi := hi) hs
  have h0 := (Block.warp?_replace (b := c.b) (gone := fun x => x == c.r.slot || x == lo || x == hi)
    (ws := [(c.w.mergeLate sw).half lo 0 c.s.now, (c.w.mergeLate sw).half hi 1 c.s.now]) (slot := lo) (by simp)).trans
    (List.find?_cons_of_pos (beq_self_eq_true lo))
  have h1 := (Block.warp?_replace (b := c.b) (gone := fun x => x == c.r.slot || x == lo || x == hi)
    (ws := [(c.w.mergeLate sw).half lo 0 c.s.now, (c.w.mergeLate sw).half hi 1 c.s.now]) (slot := hi) (by simp)).trans
    ((List.find?_cons_of_neg (by simpa [Warp.half] using hlohi.ne)).trans
      (List.find?_cons_of_pos (beq_self_eq_true hi)))
  refine ⟨_, (c.w.mergeLate sw).half lo 0 c.s.now, (c.w.mergeLate sw).half hi 1 c.s.now, he, ?_, ?_,
    congrArg (· / 2) hwid, congrArg (· / 2) hwid, congrArg (· + 4) hpc, congrArg (· + 4) hpc, hstatus, rfl, hmode, hmode,
    hdepth, hdepth, congrArg (fun n => fullMask (n / 2)) hwid, congrArg (fun n => fullMask (n / 2)) hwid,
    (congrArg WarpRegs.w hregs :), (congrArg WarpRegs.w hregs :), fun l hl k n => ?_⟩
  · rw [warpOf_progress, warpOf, (State.warp?_some (r := { blk := s.cur.blk, slot := lo })).2 ⟨hb, h0⟩]
    rfl
  · rw [warpOf_progress, warpOf, (State.warp?_some (r := { blk := s.cur.blk, slot := hi })).2 ⟨hb, h1⟩]
    rfl
  · obtain ⟨hv0, ho0, hp0⟩ := laneOf_half (t := (splits sw c lo hi).progress c.ctx) hb h0 hg hwidth Nat.two_pos hl k n
    obtain ⟨hv1, ho1, hp1⟩ := laneOf_half (t := (splits sw c lo hi).progress c.ctx) hb h1 hg hwidth Nat.one_lt_two hl k n
    rw [Nat.mul_zero, Nat.add_zero] at hv0 ho0 hp0
    rw [Nat.mul_one] at hv1 ho1 hp1
    exact ⟨hv0, hv1, ho0, ho1, hp0, hp1⟩

end Sys2Proof.Claims
end

section
/-!
SUPPORT. FUSE (R107): the warp that two join into, and the registers of its lanes.
-/

namespace Sys2Proof.Claims

open Sys2Proof.Machine

variable {s : State} {c : Ctx} {p : BitVec 5} {w : Warp}

/-- The partner of a FUSE in its first try: another slot of the block, with a warp that has not exited. -/
structure FuseFirst (c : Ctx) (p : BitVec 5) (w : Warp) : Prop where
  run : c.w.run = .ready
  other : p.toNat ≠ c.r.slot
  found : c.b.warp? p.toNat = some w
  active : c.w.ctl.active = fullMask c.w.width
  stack : c.w.ctl.stack = []
  loops : c.w.ctl.loops = []

/-- The two halves with their waiting flags merged as their words say, the lower slot first. -/
def fuseHalves (sw : Bool) (c : Ctx) (p : BitVec 5) (w : Warp) : Warp × Warp :=
  let mine := c.w.mergeLate sw
  let other := w.mergeLate ((w.fetched (c.s.imageOf c.b)).any fun x => x.getLsbD 31)
  if c.r.slot < p.toNat then (mine, other) else (other, mine)

/-- The state that a FUSE leaves. -/
def fuses (sw : Bool) (c : Ctx) (p : BitVec 5) (w : Warp) : State :=
  (c.s.updBlock c.b.id fun b => b.replace (fun x => x == c.r.slot || x == p.toNat)
    [(fuseHalves sw c p w).1.fused (fuseHalves sw c p w).2 c.s.now]).renumber c.b.id (fuseHalves sw c p w).2.slot
      (fuseHalves sw c p w).1.slot

theorem FuseFirst.plain (h : FuseFirst c p w) : c.plain = true := by
  simp [Ctx.plain, h.active, h.stack, h.loops]

/-- The partner has not come to its FUSE. -/
theorem fuseEff_wait {sw : Bool} (h : FuseFirst c p w) (hw : w.run = .ready) :
    fuseEff sw p c = .wait c.s (.fuse p.toNat) := by
  have hfound : (c.b.warp? p.toNat).filter (fun w => w.run != .exited) = some w := by
    rw [h.found, Option.filter_some, hw]
    rfl
  simp only [fuseEff, h.run, Bool.not_false, Bool.true_and, beq_false_of_ne h.other, hfound, Option.isNone_some,
    Bool.or_self, Bool.false_eq_true, if_false, h.plain, Bool.not_true, hw]

/-- The partner stands at a FUSE that names this warp, and both are at rest. -/
theorem fuseEff_leave {sw : Bool} (h : FuseFirst c p w) (hw : w.run = .fuse c.r.slot) (hrole : w.role = c.w.role)
    (hwidth : w.width = c.w.width) (hmax : c.w.width ≠ 64) (heven : c.unevenRound c.r.slot p.toNat = false)
    (hrest : c.atRest c.w = true) (hrest' : c.atRest w = true) : fuseEff sw p c = .leave (fuses sw c p w) := by
  have hfound : (c.b.warp? p.toNat).filter (fun w => w.run != .exited) = some w := by
    rw [h.found, Option.filter_some, hw]
    rfl
  have hsame : (fun (x : Warp) => x.slot != c.r.slot && x.slot != p.toNat)
      = fun x => !(x.slot == c.r.slot || x.slot == p.toNat) := by
    funext x
    simp only [bne, Bool.not_or]
  simp only [fuseEff, h.run, Bool.not_false, Bool.true_and, beq_false_of_ne h.other, hfound, Option.isNone_some,
    Bool.or_self, Bool.false_eq_true, if_false, h.plain, Bool.not_true, hw, bne_self_eq_false, hrole, hwidth,
    beq_false_of_ne hmax, heven, hrest, hrest', Bool.and_self, hsame]
  unfold fuses fuseHalves
  split <;> rfl

/-! ## The joined warp -/

/-- Registers of two halves put together: those of the lower one below `per`, those of the upper one above. -/
theorem sparseGet_joined_lower (per : Nat) (x y : Sparse Word) {j : Nat} (hj : j < per) :
    sparseGet 0 (sliceKeys 0 per 0 0 x ++ y.map fun z => (z.1 + per, z.2)) j = sparseGet 0 x j := by
  refine (sparseGet_append_left 0 fun z hz => ?_).trans (sparseGet_sliceKeys 0 x (Nat.le_refl _) (Nat.zero_le _) hj)
  obtain ⟨z', -, rfl⟩ := List.mem_map.1 hz
  show z'.1 + per ≠ j
  omega

theorem sparseGet_joined_upper (per : Nat) (x y : Sparse Word) (j : Nat) :
    sparseGet 0 (sliceKeys 0 per 0 0 x ++ y.map fun z => (z.1 + per, z.2)) (j + per) = sparseGet 0 y j :=
  (sparseGet_append_right 0 fun z hz => by have := lt_of_mem_sliceKeys hz; omega).trans (sparseGet_shift 0 y j per)

/-- A lane of the joined warp reads the registers of its lane in its half. -/
theorem readOperand_fused {t : State} {b : Block} {g : Grid} {lo hi : Warp} {now : Nat} (hwidth : lo.width ∈ [8, 16, 32])
    {l : Nat} (hl : l < lo.width) (k : BitVec 6) (n : BitVec 5) :
    readOperand t b g (lo.fused hi now) l (.v k) = sparseGet 0 lo.regs.v (64 * l + k.toNat)
      ∧ readOperand t b g (lo.fused hi now) (l + lo.width) (.v k) = sparseGet 0 hi.regs.v (64 * l + k.toNat)
      ∧ readOperand t b g (lo.fused hi now) l (.o n) = sparseGet 0 lo.regs.o (32 * (l / 8) + n.toNat)
      ∧ readOperand t b g (lo.fused hi now) (l + lo.width) (.o n) = sparseGet 0 hi.regs.o (32 * (l / 8) + n.toNat) := by
  have hk := k.isLt
  have hn := n.isLt
  obtain ⟨m, hm⟩ : ∃ m, lo.width = 8 * m := by
    simp only [List.mem_cons, List.not_mem_nil, or_false] at hwidth
    exact ⟨lo.width / 8, by omega⟩
  have hv : 64 * (l + lo.width) + k.toNat = 64 * l + k.toNat + 64 * lo.width := by ring
  have ho : 32 * ((l + lo.width) / 8) + n.toNat = 32 * (l / 8) + n.toNat + 32 * (lo.width / 8) := by omega
  refine ⟨sparseGet_joined_lower _ _ _ (by omega), ?_, sparseGet_joined_lower _ _ _ (by omega), ?_⟩
  · exact (congrArg (sparseGet 0 (lo.fused hi now).regs.v) hv).trans (sparseGet_joined_upper _ _ _ _)
  · exact (congrArg (sparseGet 0 (lo.fused hi now).regs.o) ho).trans (sparseGet_joined_upper _ _ _ _)

/-- The sticky flags of the upper half join the %status of the lower. -/
theorem statusOr_lower (x y : Word) : statusOr x (y.extractLsb' 0 7) = x ||| (y &&& 0x7F) := by
  refine congrArg (x ||| ·) (BitVec.eq_of_toNat_eq ?_)
  have hy : y.toNat &&& 127 = y.toNat % 2 ^ 7 := Nat.and_two_pow_sub_one_eq_mod y.toNat 7
  simp only [BitVec.toNat_setWidth, BitVec.extractLsb'_toNat, Nat.shiftRight_zero, BitVec.toNat_and]
  exact (Nat.mod_eq_of_lt (by omega)).trans hy.symm

/-- Merging no flags leaves %status. -/
theorem mergeLate_status {w : Warp} (h : w.lateFlags = 0) (sw : Bool) : (w.mergeLate sw).ctl.status = w.ctl.status := by
  rw [(mergeLate_frame w sw).2.2.2.2.2.2, h]
  cases sw
  · rfl
  · simp [statusOr]

/-- What holds of a state in which the warps `lo` and `hi` of a block of `s` have joined. -/
def Joined (s t : State) (blk : Nat) (lo hi : Warp) : Prop :=
  ∃ w', warpOf t { blk, slot := lo.slot } = some w' ∧ warpOf t { blk, slot := hi.slot } = none
    ∧ w'.width = 2 * lo.width ∧ w'.ctl.pc = lo.ctl.pc + 4 ∧ w'.ctl.mode = lo.ctl.mode
    ∧ w'.ctl.depth = lo.ctl.depth ∧ w'.regs.w = lo.regs.w
    ∧ (lo.lateFlags = 0 → hi.lateFlags = 0 → w'.ctl.status = lo.ctl.status ||| (hi.ctl.status &&& 0x7F))
    ∧ ∀ l, l < lo.width → ∀ k n, laneOf t blk lo.slot l (.v k) = laneOf s blk lo.slot l (.v k)
      ∧ laneOf t blk lo.slot (l + lo.width) (.v k) = laneOf s blk hi.slot l (.v k)
      ∧ laneOf t blk lo.slot l (.o n) = laneOf s blk lo.slot l (.o n)
      ∧ laneOf t blk lo.slot (l + lo.width) (.o n) = laneOf s blk hi.slot l (.o n)

/-- A block of `s` in which the fused warp stands in the place of its halves. -/
theorem joined_of_replace {t : State} {blk : Nat} {b : Block} {g g' : Grid} {gone : Nat → Bool} {lo hi : Warp} {x y : Bool}
    {now : Nat} (hb : s.block? blk = some b) (hg : s.grid? b.grid = some g) (hlo : b.warp? lo.slot = some lo)
    (hhi : b.warp? hi.slot = some hi) (hne : lo.slot ≠ hi.slot) (hwidth : lo.width ∈ [8, 16, 32])
    (hglo : gone lo.slot = true) (hghi : gone hi.slot = true)
    (htb : t.block? blk = some (b.replace gone [(lo.mergeLate x).fused (hi.mergeLate y) now]))
    (htg : t.grid? b.grid = some g') : Joined s t blk lo hi := by
  obtain ⟨hwid, hregs, hslot, hpc, hmode, hdepth, -⟩ := mergeLate_frame lo x
  obtain ⟨-, hregs', -⟩ := mergeLate_frame hi y
  have h1 := (Block.warp?_replace (b := b) (ws := [(lo.mergeLate x).fused (hi.mergeLate y) now]) hglo).trans
    (List.find?_cons_of_pos (beq_iff_eq.2 hslot))
  have h2 := (Block.warp?_replace (b := b) (ws := [(lo.mergeLate x).fused (hi.mergeLate y) now]) hghi).trans
    (List.find?_cons_of_neg fun e => hne (hslot.symm.trans (beq_iff_eq.1 e)))
  refine ⟨(lo.mergeLate x).fused (hi.mergeLate y) now, ?_, ?_, congrArg (2 * ·) hwid, congrArg (· + 4) hpc, hmode, hdepth,
    (congrArg WarpRegs.w hregs :), fun h0 h0' => ?_, fun l hl k n => ?_⟩
  · rw [warpOf, (State.warp?_some (r := { blk, slot := lo.slot })).2 ⟨htb, h1⟩]
    rfl
  · rw [warpOf, State.warp?]
    simp only [htb, h2, List.find?_nil]
    rfl
  · refine (statusOr_lower _ _).trans ?_
    rw [mergeLate_status h0, mergeLate_status h0']
  · obtain ⟨hv, hv', ho, ho'⟩ := readOperand_fused (t := t) (b := b.replace gone
      [(lo.mergeLate x).fused (hi.mergeLate y) now]) (g := g') (lo := lo.mergeLate x) (hi := hi.mergeLate y) (now := now)
      (hwid.symm ▸ hwidth) (hwid.symm ▸ hl) k n
    rw [hregs, hregs', hwid] at *
    have ht (l : Nat) (o : Operand) := laneOf_eq htb h1 htg l o
    exact ⟨((ht _ _).trans hv).trans (laneOf_eq hb hlo hg l (.v k)).symm,
      ((ht _ _).trans hv').trans (laneOf_eq hb hhi hg l (.v k)).symm,
      ((ht _ _).trans ho).trans (laneOf_eq hb hlo hg l (.o n)).symm,
      ((ht _ _).trans ho').trans (laneOf_eq hb hhi hg l (.o n)).symm⟩

/-- The block and the grid that a FUSE leaves. -/
theorem fuses_parts {sw : Bool} (hs : s.Issues (splitEntry sw) c) :
    (fuses sw c p w).block? s.cur.blk = some (c.b.replace (fun x => x == c.r.slot || x == p.toNat)
        [(fuseHalves sw c p w).1.fused (fuseHalves sw c p w).2 c.s.now])
      ∧ ∃ g, (fuses sw c p w).grid? c.b.grid = some g := by
  have hid : c.b.id = s.cur.blk := State.block?_id (State.warp?_some.1 hs.warp).1
  obtain ⟨hblocks, hgrids⟩ := (c.s.updBlock c.b.id fun b => b.replace (fun x => x == c.r.slot || x == p.toNat)
    [(fuseHalves sw c p w).1.fused (fuseHalves sw c p w).2 c.s.now]).renumber_parts c.b.id (fuseHalves sw c p w).2.slot
      (fuseHalves sw c p w).1.slot
  refine ⟨?_, ?_⟩
  · rw [fuses, State.block?, hblocks, ← State.block?, hid, hs.s_eq]
    rw [State.block?_updBlock s s.cur.blk (Block.replace · (fun x => x == c.r.slot || x == p.toNat)
      [(fuseHalves sw c p w).1.fused (fuseHalves sw c p w).2 s.now]) fun _ => rfl, (State.warp?_some.1 hs.warp).1]
    rfl
  · rw [fuses, hgrids, State.grid?_updBlock, hs.s_eq, hs.grid]
    exact ⟨_, rfl⟩

/-- Settles O26: the wait for the partner, and the joined warp. -/
theorem fuseJoinsTwoWarps : Obligations.FuseJoinsTwoWarps := by
  intro sw p s c w hs hrun hother hfound hactive hstack hloops
  have hfirst : FuseFirst c p w := ⟨hrun, hother, hfound, hactive, hstack, hloops⟩
  refine ⟨fun hw => exec_of_wait rfl hs (fuseEff_wait hfirst hw), fun hw hrole hwid hmem heven hrest hrest' => ?_⟩
  have hmax : c.w.width ≠ 64 := fun e => by rw [e] at hmem; exact absurd hmem (by decide)
  have he : exec (.fuse sw p) s = .next ((fuses sw c p w).progress c.ctx) :=
    congrArg _ (runWord_leave hs (fuseEff_leave hfirst hw hrole hwid hmax heven hrest hrest'))
  obtain ⟨htb, g', htg⟩ := fuses_parts (p := p) (w := w) hs
  have hblock := (State.warp?_some.1 hs.warp).1
  have hmine : c.b.warp? s.cur.slot = some c.w := (State.warp?_some.1 hs.warp).2
  have hslot : c.w.slot = s.cur.slot := State.warp?_slot hs.warp
  have hslot' : w.slot = p.toNat := by simpa [Block.warp?] using List.find?_some hfound
  rw [hs.r_eq] at hother htb ⊢
  by_cases hlt : s.cur.slot < p.toNat
  · have hhalves : fuseHalves sw c p w = (c.w.mergeLate sw, w.mergeLate _) := if_pos (hs.r_eq.symm ▸ hlt)
    rw [hhalves] at htb
    rw [if_pos hlt, if_pos hlt]
    obtain ⟨w', h1, h2, h3, h4, h5, h6, h7, h8, h9⟩ := joined_of_replace (t := (fuses sw c p w).progress c.ctx) hblock
      hs.grid (hslot.symm ▸ hmine) (hslot'.symm ▸ hfound) (by omega) hmem (by simp [hslot]) (by simp [hslot']) htb htg
    exact ⟨_, w', he, h1, h2, h3, h4, h5, h6, h7, h8, h9⟩
  · have hhalves : fuseHalves sw c p w = (w.mergeLate _, c.w.mergeLate sw) := if_neg (hs.r_eq.symm ▸ hlt)
    rw [hhalves] at htb
    rw [if_neg hlt, if_neg hlt]
    obtain ⟨w', h1, h2, h3, h4, h5, h6, h7, h8, h9⟩ := joined_of_replace (t := (fuses sw c p w).progress c.ctx) hblock
      hs.grid (hslot'.symm ▸ hfound) (hslot.symm ▸ hmine) (by omega) (hwid.symm ▸ hmem) (by simp [hslot']) (by simp [hslot])
      htb htg
    rw [hwid] at h3 h9
    exact ⟨_, w', he, h1, h2, h3, h4, h5, h6, h7, fun h0 h0' => h8 h0' h0, h9⟩

end Sys2Proof.Claims
end

section
/-!
SUPPORT. What a translation leaves (R294), and LAUNCH (R87).
-/

namespace Sys2Proof.Machine

variable {s t u : State}

/-! ## Functions by number -/

theorem find?_putBy_other {α : Type} {key : α → Nat} {x : α} {k : Nat} (h : key x ≠ k) (l : List α) :
    (putBy key x l).find? (fun y => key y == k) = l.find? fun y => key y == k := by
  have hx : (key x == k) = false := beq_false_of_ne h
  induction l with
  | nil => simp [putBy, hx]
  | cons y l ih =>
    unfold putBy
    split
    next hy => simp only [List.find?_cons, hx, hy]
    next => simp only [List.find?_cons, ih]

theorem State.vf_id (s : State) (v : Nat) : (s.vf v).id = v := by
  unfold State.vf
  cases h : s.vfs.find? fun x => x.id == v with
  | none => rfl
  | some x => simpa using List.find?_some h

/-- A function after its own update. -/
theorem State.vf_updVf (s : State) (v : Nat) {f : Vf → Vf} (hf : ∀ x, (f x).id = x.id) :
    (s.updVf v f).vf v = f (s.vf v) := by
  have h := find?_putBy_same Vf.id (f (s.vf v)) s.vfs
  rw [hf, s.vf_id v] at h
  rw [State.vf, State.updVf, h]
  rfl

theorem State.vf_updVf_other (s : State) {v k : Nat} (hk : k ≠ v) {f : Vf → Vf} (hf : ∀ x, (f x).id = x.id) :
    (s.updVf v f).vf k = s.vf k := by
  have hid : (f (s.vf v)).id ≠ k := by rw [hf, s.vf_id v]; exact hk.symm
  rw [State.vf, State.updVf, find?_putBy_other hid]
  rfl

/-! ## Generations of a partition -/

/-- The two states differ in what the functions' partitions hold alone. -/
def State.Adopts (s t : State) : Prop :=
  (∃ v, t = { s with vfs := v }) ∧ ∀ v, ∃ p, t.vf v = { s.vf v with part := p }

namespace State.Adopts

theorem refl (s : State) : s.Adopts s := ⟨⟨_, rfl⟩, fun _ => ⟨_, rfl⟩⟩

/-- A unit takes the generation of a cut (R329). -/
theorem adopt (s : State) (v unit : Nat) : s.Adopts (s.adopt v unit) := by
  unfold State.adopt
  split
  · exact refl s
  · refine ⟨⟨_, rfl⟩, fun k => ?_⟩
    by_cases hk : k = v
    · rw [hk, State.vf_updVf s v (by exact fun _ => rfl)]
      exact ⟨_, rfl⟩
    · rw [State.vf_updVf_other s hk (by exact fun _ => rfl)]
      exact ⟨_, rfl⟩

theorem takeTag (s : State) (v unit : Nat) (gen : Dword) : s.Adopts (s.takeTag v unit gen) := by
  unfold State.takeTag
  split
  · exact adopt s _ _
  · exact refl s

theorem trans (h : s.Adopts t) (k : t.Adopts u) : s.Adopts u := by
  obtain ⟨⟨_, rfl⟩, hv⟩ := h
  obtain ⟨⟨_, rfl⟩, kv⟩ := k
  refine ⟨⟨_, rfl⟩, fun v => ?_⟩
  obtain ⟨⟨p, hp⟩, q, hq⟩ := And.intro (hv v) (kv v)
  exact ⟨q, by rw [hq, hp]⟩

theorem exchangeTags (s : State) (core pa : Nat) : s.Adopts (s.exchangeTags core pa) := by
  unfold State.exchangeTags
  split
  · exact refl s
  · dsimp only
    split
    · exact (adopt s _ _).trans (adopt _ _ _)
    · exact refl s

theorem exchangeSpan (s : State) (core pa n : Nat) : s.Adopts (s.exchangeSpan core pa n) :=
  List.foldlRecOn (motive := s.Adopts) (linesOf pa n) _ (refl s) fun _ ht a _ => ht.trans (exchangeTags _ core a)

end State.Adopts

/-! ## Translation -/

theorem State.core_id (s : State) (k : Nat) : (s.core k).id = k := by
  unfold State.core
  cases h : s.cores.find? fun x => x.id == k with
  | none => rfl
  | some x => simpa using List.find?_some h

/-- A core after its own update. -/
theorem State.core_updCore (s : State) (k : Nat) {f : Core → Core} (hf : ∀ x, (f x).id = x.id) :
    (s.updCore k f).core k = f (s.core k) := by
  have h := find?_putBy_same Core.id (f (s.core k)) s.cores
  rw [hf, s.core_id k] at h
  rw [State.core, State.updCore, h]
  rfl

theorem State.core_updCore_other (s : State) {k j : Nat} (hj : j ≠ k) {f : Core → Core} (hf : ∀ x, (f x).id = x.id) :
    (s.updCore k f).core j = s.core j := by
  have hid : (f (s.core k)).id ≠ j := by rw [hf, s.core_id k]; exact hj.symm
  rw [State.core, State.updCore, find?_putBy_other hid]
  rfl

/-- The two states differ in caches of translations, error state and the granary's generations alone, and hold the
same uncorrectable words. -/
structure State.WalkOnly (s t : State) : Prop where
  rest : ∃ d v sc co cl sr n,
    t = { s with dev := d, vfs := v, scrubs := sc, cores := co, clusters := cl, sram := sr, nextId := n }
  parts : ∀ v, ∃ p, t.vf v = { s.vf v with part := p }
  badWords : t.dev.badWords = s.dev.badWords
  icache : ∀ k, (t.core k).icache = (s.core k).icache

namespace State.WalkOnly

theorem refl (s : State) : s.WalkOnly s := ⟨⟨_, _, _, _, _, _, _, rfl⟩, fun _ => ⟨_, rfl⟩, rfl, fun _ => rfl⟩

theorem trans (h : s.WalkOnly t) (k : t.WalkOnly u) : s.WalkOnly u := by
  obtain ⟨⟨_, _, _, _, _, _, _, rfl⟩, hv, hb, hi⟩ := h
  obtain ⟨⟨_, _, _, _, _, _, _, rfl⟩, kv, kb, ki⟩ := k
  refine ⟨⟨_, _, _, _, _, _, _, rfl⟩, fun v => ?_, kb.trans hb, fun j => (ki j).trans (hi j)⟩
  obtain ⟨⟨p, hp⟩, q, hq⟩ := And.intro (hv v) (kv v)
  exact ⟨q, by rw [hq, hp]⟩

/-- The device queues are as they were. -/
theorem devq (h : s.WalkOnly t) (v : Nat) : (t.vf v).devq = (s.vf v).devq := by
  obtain ⟨_, hp⟩ := h.parts v
  rw [hp]

theorem foldl {β : Type} {f : State → β → State} (hf : ∀ s x, State.WalkOnly s (f s x)) (l : List β) (s : State) :
    s.WalkOnly (l.foldl f s) := by
  induction l generalizing s with
  | nil => exact refl s
  | cons x l ih => exact (hf s x).trans (ih _)

theorem updCore (s : State) (k : Nat) {f : Core → Core} (hid : ∀ x, (f x).id = x.id)
    (hf : ∀ x, (f x).icache = x.icache) : s.WalkOnly (s.updCore k f) := by
  refine ⟨⟨_, _, _, _, _, _, _, rfl⟩, fun _ => ⟨_, rfl⟩, rfl, fun j => ?_⟩
  by_cases hj : j = k
  · rw [hj, State.core_updCore s k hid, hf]
  · rw [State.core_updCore_other s hj hid]

theorem updCluster (s : State) (k : Nat) (f : Cluster → Cluster) : s.WalkOnly (s.updCluster k f) :=
  ⟨⟨_, _, _, _, _, _, _, rfl⟩, fun _ => ⟨_, rfl⟩, rfl, fun _ => rfl⟩

theorem of_readOnly (h : s.ReadOnly t) : s.WalkOnly t := by
  obtain ⟨⟨_, _, _, rfl⟩, hb⟩ := h
  exact ⟨⟨_, _, _, _, _, _, _, rfl⟩, fun _ => ⟨_, rfl⟩, hb, fun _ => rfl⟩

theorem of_adopts (h : s.Adopts t) : s.WalkOnly t := by
  obtain ⟨⟨_, rfl⟩, hv⟩ := h
  exact ⟨⟨_, _, _, _, _, _, _, rfl⟩, hv, rfl, fun _ => rfl⟩

theorem readSram (s : State) (unit : SramUnit) (owner core ctx : Nat) (p : Nat → Bool) :
    s.WalkOnly (s.readSram unit owner core ctx p).2 := by
  unfold State.readSram
  dsimp only
  split
  · exact refl s
  · exact (of_readOnly (ReadOnly.foldl (fun s (e : SramError) => ReadOnly.log s _ _ _ _ _) _ s)).trans
      ⟨⟨_, _, _, _, _, _, _, rfl⟩, fun _ => ⟨_, rfl⟩, rfl, fun _ => rfl⟩

theorem walked (s : State) (core ctx va : Nat) (levels : List (Nat × Nat × Nat)) (table : Nat) :
    s.WalkOnly (s.walked core ctx va levels table) :=
  foldl (fun s a => (of_adopts (Adopts.exchangeTags s core a)).trans (of_readOnly (ReadOnly.readSpan _ ctx a 8))) _ _

theorem ite {p : Bool} {a b : State} (ha : s.WalkOnly a) (hb : s.WalkOnly b) : s.WalkOnly (if p then a else b) := by
  split
  · exact ha
  · exact hb

/-- The read of the cached translations (R342). -/
theorem readTlbs (s : State) (core ctx va : Nat) (fetch : Bool) : s.WalkOnly (s.readTlbs core ctx va fetch) := by
  unfold State.readTlbs
  split
  · exact refl s
  extract_lets hit keep own
  have h1 := readSram s (if fetch then .itlb else .dtlb) core core ctx (hit (own (s.core core)))
  split
  next bad s1 e1 =>
    rw [e1] at h1
    extract_lets s2
    have h2 : s.WalkOnly s2 := h1.trans (ite (refl _) (ite (updCore _ _ (by exact fun _ => rfl) (by exact fun _ => rfl)) (updCore _ _ (by exact fun _ => rfl) (by exact fun _ => rfl))))
    split
    · exact h2
    have h3 := readSram s2 .clusterTlb (clusterOf core) core ctx (hit (s2.cluster (clusterOf core)).tlb)
    split
    next bad s3 e3 =>
      rw [e3] at h3
      exact (h2.trans h3).trans (ite (refl _) (updCluster _ _ _))

/-- A lookup or walk (R294). -/
theorem leafOf (s : State) (core ctx va : Nat) (fetch : Bool) : s.WalkOnly (s.leafOf core ctx va fetch).2 := by
  unfold State.leafOf
  extract_lets s1 c' k' own install
  have h1 : s.WalkOnly s1 := readTlbs s _ _ _ _
  have hi (x : Tlb) (u : State) : u.WalkOnly (install x u) := ite (ite (updCore _ _ (by exact fun _ => rfl) (by exact fun _ => rfl)) (refl _)) (updCore _ _ (by exact fun _ => rfl) (by exact fun _ => rfl))
  clear_value install s1
  split
  · exact h1
  split
  · exact h1.trans (hi _ _)
  · have hw := h1.trans (walked s1 core ctx va (s1.walkStart k' ctx va).1 (s1.walkStart k' ctx va).2)
    dsimp only
    split
    · exact (hw.trans (updCluster _ _ _)).trans (hi _ _)
    · exact hw

/-- The translation of an address (R178, R292). -/
theorem translate (s : State) (core ctx : Nat) (va : Dword) (acc : Access) :
    s.WalkOnly (s.translate core ctx va acc).2 := by
  have hl := leafOf s core ctx va.toNat (acc == .fetch)
  unfold State.translate
  split
  · dsimp only
    split <;> exact refl s
  split
  · exact refl s
  extract_lets a priv
  split
  · exact refl s
  split
  next w s1 e =>
    rw [e] at hl
    split
    · exact hl
    · exact hl
    · split
      · exact hl
      · split <;> exact hl

end State.WalkOnly

/-- One address that translates to a frame and is aligned. -/
theorem checkAddrs_phys {w pa : Nat} {x : LaneAddr} (acc : Access) (all : Option Mask) (hw : x.va.toNat % w = 0)
    (ht : x.t = .phys pa) : checkAddrs w acc all [x] = .good := by
  have hr : (addrRank w x.va x.t != 0) = false := by simp [addrRank, hw, ht]
  simp only [checkAddrs, List.filter_cons, hr]
  rfl

end Sys2Proof.Machine

namespace Sys2Proof.Claims

open Sys2Proof.Machine

variable {s : State} {c : Ctx} {a : Operand}

theorem paired_single (h : c.g.packet.redundant = false) (req : PairReq) (d : Option Operand) (regs : Nat)
    (perform : Ctx → Eff) : c.paired req d regs perform = perform c := by
  rw [Ctx.paired, h]
  rfl

/-- What releases a LAUNCH is read of the units that a walk leaves. -/
theorem released_of_walkOnly {t : State} (h : c.s.WalkOnly t) : ({ c with s := t } : Ctx).released = c.released := by
  obtain ⟨_, _, _, _, _, _, _, rfl⟩ := h.rest
  rfl

/-- The state after a LAUNCH whose packet address is `va`. -/
def launched (c : Ctx) (va : Dword) : State :=
  (c.s.translate c.b.core c.ctx va .read).2.updVf c.g.vf fun f =>
    { f with devq := f.devq ++ [(va, c.ctx)], devTail := (f.devTail + 1) % deviceQueue }

theorem launchEff_done {pa : Nat} (hr : c.g.packet.redundant = false) (hsh : c.shadow = false)
    (ha : (c.pair64 a).toNat % 64 = 0) (ht : (c.s.translate c.b.core c.ctx (c.pair64 a) .read).1 = .phys pa)
    (hq : (c.s.vf c.g.vf).devq.length < 64) (hrel : c.released = true) :
    launchEff a c = .done (launched c (c.pair64 a)) := by
  have hw := State.WalkOnly.translate c.s c.b.core c.ctx (c.pair64 a) .read
  have hal : ((c.pair64 a).toNat % 64 != 0) = false := by rw [ha]; rfl
  have hroom : decide (((c.s.translate c.b.core c.ctx (c.pair64 a) .read).2.vf c.g.vf).devq.length ≥ deviceQueue)
      = false := by
    rw [hw.devq]
    exact decide_eq_false (Nat.not_le.2 hq)
  simp only [launchEff, hal, Bool.false_eq_true, if_false, ht, checkAddrs_phys (x := ⟨c.lane0, c.pair64 a, .phys pa⟩) .read (some 0) ha rfl, hroom,
    released_of_walkOnly hw, hrel, Bool.not_true, Bool.or_self]
  rw [paired_single (by exact hr)]
  simp only [hsh, Bool.false_eq_true, if_false]
  rfl

/-- Settles O29: with its conditions met a LAUNCH completes with its packet in the queue. -/
theorem launchQueuesItsPacket : Obligations.LaunchQueuesItsPacket := by
  intro sw a s c hs hr ha ⟨pa, ht⟩ hq hrel
  have hb : launchEff a c = .done (launched c (c.pair64 a)) :=
    launchEff_done hr hs.shadow_eq ha (by rw [hs.s_eq]; exact ht) (by rw [hs.s_eq]; exact hq) hrel
  have hwalk := State.WalkOnly.translate s c.b.core c.ctx (c.pair64 a) .read
  obtain ⟨_, _, _, _, _, _, _, hw⟩ := hwalk.rest
  obtain ⟨hmem, haccs, hlaunches, hblocks⟩ : (launched c (c.pair64 a)).mem = s.mem ∧ (launched c (c.pair64 a)).accs = s.accs
      ∧ (launched c (c.pair64 a)).launches = s.launches ∧ (launched c (c.pair64 a)).blocks = s.blocks := by
    rw [launched, hs.s_eq, hw]
    exact ⟨rfl, rfl, rfl, rfl⟩
  refine ⟨_, congrArg Host.Outcome.next (runWord_done hs hb), ?_, hmem, haccs, hlaunches,
    c.w.complete (launchEntry sw a c.mode) c.w.ctl.pc none c.g.packet.redundant (launched c (c.pair64 a)).now, ?_,
    Warp.complete_regs _ _ _ _ _ _, Warp.complete_pc _ _ _ _ _⟩
  · change ((launched c (c.pair64 a)).vf c.g.vf).devq = _
    rw [launched, State.vf_updVf _ _ (by exact fun _ => rfl), hs.s_eq]
    exact congrArg (· ++ [(c.pair64 a, c.ctx)]) (hwalk.devq c.g.vf)
  · rw [Ctx.completes, hs.r_eq, warpOf_complete, warpOf_of_blocks hblocks, hs.warpOf_cur]
    rfl

end Sys2Proof.Claims
end

section
/-!
SUPPORT. The dispatcher (R82 to R85, R370, R371).
-/

namespace Sys2Proof.Machine

variable {s t u : State} {vf q ctx code : Nat} {va : Dword} {bs : List Byte}

/-! ## Completion words (R85) -/

/-- The access of a completion update. -/
def completionAcc (id grid ctx pa : Nat) (done : Dword) (fn : RemoteKind) (x : Dword) : Acc :=
  { id, grid, blk := 0, slot := 0, core := 0, ctx, kind := .atomic fn 3, va := done,
    pa := pa / 8 * 8, remote := false, width := 8, data := x.setWidth 128, lane := 0,
    result := none, cmd := none, twin := none, pc := 0, placed := false, after := [], gen := none,
    waits := false, host := none, far := false, seen := false }

/-- The state once the slice of a completion word has met the grid's generation (R329). -/
def State.tagged (s : State) (grid pa : Nat) : State :=
  match s.vfAt pa, s.grid? grid with
  | some v, some g => if v == g.vf then s.takeTag v (768 + sliceOf pa) g.gen else s
  | _, _ => s

theorem State.Adopts.tagged (s : State) (grid pa : Nat) : s.Adopts (s.tagged grid pa) := by
  unfold State.tagged
  split
  · split
    · exact .takeTag s _ _ _
    · exact .refl s
  · exact .refl s

/-- A completion word that translates is written by an access of its own. -/
theorem State.completionUpdate_addr {pa : Nat} {done : Dword} (h : s.dispatcherAddr ctx done .write = some pa) (grid : Nat)
    (fn : RemoteKind) (x : Dword) : s.completionUpdate grid ctx done fn x =
      { (s.tagged grid pa).fresh with
        accs := (s.tagged grid pa).accs ++ [completionAcc s.nextId grid ctx pa done fn x] } := by
  rw [State.completionUpdate, h]
  rfl

/-- One that does not translate leaves a stop record instead. -/
theorem State.completionUpdate_none {done : Dword} (h : s.dispatcherAddr ctx done .write = none) (grid : Nat)
    (fn : RemoteKind) (x : Dword) : s.completionUpdate grid ctx done fn x =
      s.pushStop ctx { s.notice 0x00030000 done done with cycles := 0 } := by
  rw [State.completionUpdate, h]

/-- What a completion update leaves. -/
theorem State.completionUpdate_frame (s : State) (grid ctx : Nat) (done : Dword) (fn : RemoteKind) (x : Dword) :
    (∃ n v c a, s.completionUpdate grid ctx done fn x = { s with nextId := n, vfs := v, ctxs := c, accs := a })
      ∧ ∀ k, ∃ p, (s.completionUpdate grid ctx done fn x).vf k = { s.vf k with part := p } := by
  cases h : s.dispatcherAddr ctx done .write with
  | none =>
    rw [State.completionUpdate_none h]
    exact ⟨⟨_, _, _, _, rfl⟩, fun _ => ⟨_, rfl⟩⟩
  | some pa =>
    have hu := State.Adopts.tagged s grid pa
    rw [State.completionUpdate_addr h]
    generalize s.tagged grid pa = u at hu ⊢
    obtain ⟨⟨_, rfl⟩, hv⟩ := hu
    exact ⟨⟨_, _, _, _, rfl⟩, hv⟩

/-! ## What the dispatcher meets in what it reads (R344, R347) -/

/-- The two states differ in error state and the numbers given out alone; the functions are the same, number by
number. -/
def State.Looked (s t : State) : Prop :=
  (∃ d v sc n, t = { s with dev := d, vfs := v, scrubs := sc, nextId := n }) ∧ ∀ k, t.vf k = s.vf k

theorem State.ReadOnly.looked (h : s.ReadOnly t) : s.Looked t := by
  obtain ⟨⟨_, _, _, rfl⟩, -⟩ := h
  exact ⟨⟨_, _, _, _, rfl⟩, fun _ => rfl⟩

theorem State.Looked.trans (h : s.Looked t) (k : t.Looked u) : s.Looked u := by
  obtain ⟨⟨_, _, _, _, rfl⟩, hv⟩ := h
  obtain ⟨⟨_, _, _, _, rfl⟩, kv⟩ := k
  exact ⟨⟨_, _, _, _, rfl⟩, fun v => (kv v).trans (hv v)⟩

theorem State.ReadOnly.dispatcherMeets (s : State) (ctx : Nat) (spans : List (Nat × Nat)) :
    s.ReadOnly (s.dispatcherMeets ctx spans) := by
  refine ReadOnly.foldl (fun s x => ?_) spans s
  exact ReadOnly.foldl (fun s (y : Nat × Nat) => ReadOnly.readSpan s ctx y.1 y.2) _ s

/-- Without a write of the host under way nothing is performed. -/
theorem State.Looked.runPosted (h : (s.vf vf).posted = []) : s.Looked (s.runPosted vf (s.vf vf).posted) := by
  rw [h]
  refine ⟨⟨_, _, _, _, rfl⟩, fun k => ?_⟩
  by_cases hk : k = vf
  · rw [State.runPosted, hk, State.vf_updVf s vf (by exact fun _ => rfl), ← h]
  · rw [State.runPosted, State.vf_updVf_other s hk (by exact fun _ => rfl)]

theorem State.Looked.dispatcherAddr (h : s.Looked t) (ctx : Nat) (a : Dword) (acc : Access) :
    t.dispatcherAddr ctx a acc = s.dispatcherAddr ctx a acc := by
  obtain ⟨⟨_, _, _, _, rfl⟩, -⟩ := h
  rfl

theorem State.Looked.entry (h : s.Looked t) (vf q : Nat) : t.entry vf q = s.entry vf q := by
  obtain ⟨⟨_, _, _, _, rfl⟩, hv⟩ := h
  unfold State.entry
  rw [hv]
  rfl

theorem State.Looked.dispatcherRead (h : s.Looked t) (ctx a n : Nat) :
    t.dispatcherRead ctx a n = s.dispatcherRead ctx a n := by
  have hm : t.mem = s.mem := by
    obtain ⟨⟨_, _, _, _, rfl⟩, -⟩ := h
    rfl
  induction n generalizing a with
  | zero => rfl
  | succ n ih => simp only [State.dispatcherRead, h.dispatcherAddr, hm, ih]

theorem State.Looked.readImage (h : s.Looked t) (ctx : Nat) (p : Packet) : t.readImage ctx p = s.readImage ctx p := by
  simp only [State.readImage, State.executable, State.readable, h.dispatcherRead, h.dispatcherAddr] <;> rfl

theorem State.Looked.deps (h : s.Looked t) (ctx : Nat) (p : Packet) : t.deps ctx p = s.deps ctx p := by
  simp only [State.deps, State.depWord, h.dispatcherRead]

/-- What a completion update keeps, in a state that has been read before. -/
theorem State.Looked.completionUpdate_keeps (h : s.Looked u) (grid ctx : Nat) (done : Dword) (fn : RemoteKind) (x : Dword) :
    let t := u.completionUpdate grid ctx done fn x
    (t.mem = s.mem ∧ t.host = s.host ∧ t.low = s.low) ∧ t.launches = s.launches ∧ t.blocks = s.blocks
      ∧ t.grids = s.grids ∧ ∀ k, ∃ p, t.vf k = { s.vf k with part := p } := by
  obtain ⟨⟨_, _, _, _, ht⟩, htv⟩ := State.completionUpdate_frame u grid ctx done fn x
  dsimp only
  have hv (k : Nat) : ∃ p, (u.completionUpdate grid ctx done fn x).vf k = { s.vf k with part := p } := by
    rw [← h.2 k]
    exact htv k
  obtain ⟨⟨_, _, _, _, rfl⟩, -⟩ := h
  refine ⟨?_, ?_, ?_, ?_, hv⟩
  all_goals rw [ht]
  exact ⟨rfl, rfl, rfl⟩

/-- The checks of a packet read memory, the functions and which clusters are absent. -/
theorem State.Looked.checkLaunch (h : s.Looked t) (hd : t.dev = s.dev) (vf ctx : Nat) (bs : List Byte) :
    t.checkLaunch vf ctx bs = s.checkLaunch vf ctx bs := by
  simp only [State.checkLaunch, State.mapCode, h.readImage, h.deps, h.2, hd] <;> rfl

/-! ## Entries of a queue (R370, R371) -/

/-- The launch of a packet that the dispatcher accepts. -/
def State.accepted (s : State) (vf q ctx : Nat) (p : Packet) (desc : Desc) (map : List (Nat × Nat)) (met : Bool) : Launch :=
  let cap := if q == 15 then (s.vf vf).devCap.toNat else ((s.vf vf).queue q).cap
  { id := s.nextId, vf, queue := q, ctx
    packet := { p with priority := Nat.min p.priority (Nat.min cap ((s.vf vf).ctl.extractLsb' 8 3).toNat) }
    desc, map, met, grid := s.nextId + 1, waiting := List.range (p.units p.blocks) }

/-- The state once the dispatcher has read what an entry names. -/
def State.reading (s : State) (q ctx : Nat) (va : Dword) (bs : List Byte) : State :=
  let head := match s.dispatcherRead ctx (Packet.of bs).image.toNat 64 with
    | .ok x => x
    | .error _ => []
  (if q < 15 then s.onLink else s).dispatcherMeets ctx
    (if packetOk bs then packetSpans va.toNat (Packet.of bs) head else [(va.toNat, 128)])

theorem State.ReadOnly.reading (s : State) (q ctx : Nat) (va : Dword) (bs : List Byte) :
    s.ReadOnly (s.reading q ctx va bs) := by
  have hlink : s.ReadOnly (if q < 15 then s.onLink else s) := by
    split
    · exact .updDev s fun _ => rfl
    · exact .refl s
  exact hlink.trans (.dispatcherMeets _ _ _)

section

variable (he : s.entry vf q = some (va, ctx)) (ha : va.toNat % 64 = 0) (hr : s.dispatcherRead ctx va.toNat 128 = .ok bs)

include he ha hr

/-- A packet that fails its checks is rejected with their code. -/
theorem State.takeEntry_error (hc : s.checkLaunch vf ctx bs = .error code) :
    s.takeEntry vf q = ((s.reading q ctx va bs).reject ctx (Packet.of bs).done code).popQueue vf q := by
  have hal : (va.toNat % 64 != 0) = false := by rw [ha]; rfl
  simp only [State.takeEntry, he, hal, Bool.false_eq_true, if_false, hr, hc]
  rfl

/-- A packet that passes them is a launch. -/
theorem State.takeEntry_ok {desc : Desc} {map : List (Nat × Nat)} {met : Bool}
    (hc : s.checkLaunch vf ctx bs = .ok (desc, map, met)) :
    s.takeEntry vf q = { (s.reading q ctx va bs).fresh.fresh with
      launches := (s.reading q ctx va bs).launches
        ++ [(s.reading q ctx va bs).accepted vf q ctx (Packet.of bs) desc map met] } := by
  have hal : (va.toNat % 64 != 0) = false := by rw [ha]; rfl
  simp only [State.takeEntry, he, hal, Bool.false_eq_true, if_false, hr, hc]
  rfl

end

/-- An entry that is not aligned leaves its queue with a stop record. -/
theorem State.takeEntry_misaligned (he : s.entry vf q = some (va, ctx)) (ha : va.toNat % 64 ≠ 0) :
    s.takeEntry vf q = (s.pushStop ctx (s.notice 0x00020000 va (BitVec.ofNat 64 va.toNat))).popQueue vf q := by
  simp only [State.takeEntry, he, bne_iff_ne.2 ha, if_true]

/-- The head of a queue once its entry has left. -/
theorem State.vf_popQueue (s : State) (vf q : Nat) :
    if q = 15 then ((s.popQueue vf q).vf vf).devq = (s.vf vf).devq.drop 1
    else ((s.popQueue vf q).vf vf).queue q = ((s.vf vf).queue q).pop := by
  rw [State.popQueue, State.vf_updVf]
  case hf =>
    intro x
    split <;> rfl
  by_cases h : q = 15
  · simp only [h, if_true, beq_self_eq_true]
  · simp only [h, if_false, beq_false_of_ne h, Bool.false_eq_true]
    exact sparseGet_set_same _ _ _ _

theorem Queue.pop_head (x : Queue) : x.pop.head.toNat = (x.head.toNat + 1) % 2 ^ x.n := by
  have hn : x.n < 16 := (x.ctl.extractLsb' 0 4).isLt
  have hlt : (x.head.toNat + 1) % 2 ^ x.n < 2 ^ x.n := Nat.mod_lt _ (Nat.two_pow_pos _)
  have hp : 2 ^ x.n ≤ 2 ^ 15 := Nat.pow_le_pow_right (by decide) (by omega)
  simp only [Queue.pop, BitVec.toNat_ofNat]
  exact Nat.mod_eq_of_lt (by omega)

/-- The launch clusters of a packet are those that hold a block. -/
theorem Packet.mem_units (bs : List Byte) (u : Nat) :
    u ∈ List.range ((Packet.of bs).units (Packet.of bs).blocks) ↔ u * (Packet.of bs).cluster < (Packet.of bs).blocks := by
  have hc : 0 < (Packet.of bs).cluster := Nat.two_pow_pos _
  rw [List.mem_range, Packet.units, Nat.lt_div_iff_mul_lt hc]
  omega

/-! ## Dependences (R84) -/

/-- One step of the check of the dependences. -/
def depStep (v : Dword → Dword) (acc : Option Bool) (d : Dword × Dword) : Option Bool :=
  acc.bind fun m => if (v d.1).getLsbD 63 then none else some (m && d.2.toNat ≤ (v d.1).toNat % 2 ^ 56)

/-- The dependences whose words can be read. -/
theorem State.deps_eq {p : Packet} {v : Dword → Dword} (h : ∀ d ∈ p.deps, s.depWord ctx d.1 = some (v d.1)) :
    s.deps ctx p = p.deps.foldl (depStep v) (some true) := by
  unfold State.deps
  refine List.foldl_ext _ _ _ fun acc d hd => ?_
  rw [h d hd]
  cases acc with
  | none => rfl
  | some m =>
    simp only [depStep, Option.bind_some, BitVec.extractLsb'_toNat, Nat.shiftRight_zero]

/-- A failure code among the dependences ends the check. -/
theorem foldl_depStep_failed {v : Dword → Dword} {ds : List (Dword × Dword)} (h : ∃ d ∈ ds, (v d.1).getLsbD 63 = true)
    (acc : Option Bool) : ds.foldl (depStep v) acc = none := by
  induction ds generalizing acc with
  | nil =>
    obtain ⟨_, hd, -⟩ := h
    cases hd
  | cons e ds ih =>
    by_cases htail : ∃ d ∈ ds, (v d.1).getLsbD 63 = true
    · exact ih htail _
    · have hhead : (v e.1).getLsbD 63 = true := by
        obtain ⟨d, hd, hv⟩ := h
        rcases List.mem_cons.1 hd with rfl | hd
        · exact hv
        · exact absurd ⟨d, hd, hv⟩ htail
      have hstep : depStep v acc e = none := by
        cases acc <;> simp only [depStep, hhead, if_true, Option.bind_none, Option.bind_some]
      rw [List.foldl_cons, hstep]
      exact List.foldlRecOn (motive := fun a : Option Bool => a = none) ds _ rfl fun _ ha _ _ => by rw [ha]; rfl

/-- Without one the dependences are met when each value is reached. -/
theorem foldl_depStep_met {v : Dword → Dword} {ds : List (Dword × Dword)} (h : ∀ d ∈ ds, (v d.1).getLsbD 63 = false)
    (m : Bool) : ds.foldl (depStep v) (some m)
      = some (m && ds.all fun d => d.2.toNat ≤ (v d.1).toNat % 2 ^ 56) := by
  induction ds generalizing m with
  | nil => simp
  | cons e ds ih =>
    have hstep : depStep v (some m) e = some (m && decide (e.2.toNat ≤ (v e.1).toNat % 2 ^ 56)) := by
      simp only [depStep, h e List.mem_cons_self, Option.bind_some, Bool.false_eq_true, if_false]
    rw [List.foldl_cons, hstep, ih fun d hd => h d (List.mem_cons_of_mem _ hd), List.all_cons, Bool.and_assoc]

section

variable {id : Nat} {l : Launch} (hl : s.launches.find? (·.id == id) = some l) (hm : l.met = false)
  (hc : s.ctxUsable l.ctx = true)

include hl hm hc

theorem State.reread_met {met : Bool} (hd : s.deps l.ctx l.packet = some met) :
    ∃ u, s.Looked u ∧ s.reread id = { u with launches := u.launches.map fun (x : Launch) =>
      if x.id == id then { x with met := met } else x } := by
  refine ⟨_, (ReadOnly.dispatcherMeets s l.ctx (l.packet.deps.map fun d => (d.1.toNat, 8))).looked, ?_⟩
  simp only [State.reread, hl, hm, hc, hd, Bool.not_true, Bool.or_self, Bool.false_eq_true, if_false]

theorem State.reread_failed (hd : s.deps l.ctx l.packet = none) :
    ∃ u, s.Looked u ∧ s.reread id = { (u.reject l.ctx l.packet.done 8).popQueue l.vf l.queue with
      launches := ((u.reject l.ctx l.packet.done 8).popQueue l.vf l.queue).launches.filter (·.id != id) } := by
  refine ⟨_, (ReadOnly.dispatcherMeets s l.ctx (l.packet.deps.map fun d => (d.1.toNat, 8))).looked, ?_⟩
  simp only [State.reread, hl, hm, hc, hd, Bool.not_true, Bool.or_self, Bool.false_eq_true, if_false]

end

/-- The completion of a grid whose blocks have retired (R85). -/
theorem State.completeGrid_quiet {id : Nat} {g : Grid} (hg : s.grid? id = some g) (hf : g.finished = true)
    (hq : s.gridQuiet g = true) :
    s.completeGrid id =
      let u := s.completionUpdate id g.ctx g.packet.done .add (g.packet.increment.setWidth 64)
      { u with
        grids := u.grids.filter (·.id != id), messages := u.messages.filter (·.grid != id)
        credits := u.credits.filter (·.grid != id), treePkts := u.treePkts.filter (·.grid != id) } := by
  simp only [State.completeGrid, hg, hf, hq, Bool.not_true, Bool.or_self, Bool.false_eq_true, if_false]

end Sys2Proof.Machine

namespace Sys2Proof.Claims

open Sys2Proof.Machine

variable {s t u : State}

theorem completes_completionUpdate {ctx pa : Nat} {done : Dword} (h : s.dispatcherAddr ctx done .write = some pa)
    (grid : Nat) (fn : RemoteKind) (x : Dword) : Completes s (s.completionUpdate grid ctx done fn x) pa fn x := by
  rw [State.completionUpdate_addr h]
  obtain ⟨⟨_, hu⟩, -⟩ := State.Adopts.tagged s grid pa
  rw [hu]
  exact ⟨_, rfl, rfl, rfl, rfl, rfl, rfl, rfl⟩

theorem notices_pushStop (ctx : Nat) {x : StopRec} {record : Word} {pc addr : Dword}
    (h : x.record = record ∧ x.core = 0xFFFF ∧ x.pc = pc ∧ x.addr = addr) : Notices s (s.pushStop ctx x) ctx record pc addr :=
  fun _ hc => ⟨_, x, State.ctx?_pushStop hc x, rfl, h⟩

theorem notices_completionUpdate {ctx : Nat} {done : Dword} (h : s.dispatcherAddr ctx done .write = none)
    (grid : Nat) (fn : RemoteKind) (x : Dword) :
    Notices s (s.completionUpdate grid ctx done fn x) ctx 0x00030000 done done := by
  rw [State.completionUpdate_none h]
  exact notices_pushStop ctx ⟨rfl, rfl, rfl, rfl⟩

/-- What a completion update tells the host, in a state that has been read before. -/
theorem answered_completionUpdate (h : s.Looked u) (ctx : Nat) (done : Dword) (grid : Nat) (fn : RemoteKind) (x : Dword) :
    match s.dispatcherAddr ctx done .write with
    | some pa => Completes s (u.completionUpdate grid ctx done fn x) pa fn x
    | none => Notices s (u.completionUpdate grid ctx done fn x) ctx 0x00030000 done done := by
  have ha := h.dispatcherAddr ctx done .write
  split
  next pa hpa =>
    have hc := completes_completionUpdate (ha.trans hpa) grid fn x
    obtain ⟨⟨_, _, _, _, rfl⟩, -⟩ := h
    exact hc
  next hn =>
    have hc := notices_completionUpdate (ha.trans hn) grid fn x
    obtain ⟨⟨_, _, _, _, rfl⟩, -⟩ := h
    exact hc

/-! ## Events -/

section

variable {vf q ctx : Nat} {va : Dword} {bs : List Byte}

/-- What taking an entry sees of a state whose host writes have been performed. -/
theorem Looked_runPosted_entryRead (h : entryRead s vf q ctx va bs) :
    ∃ u, s.Looked u ∧ u.dev = s.dev ∧ s.dispatchEntry vf q = u.takeEntry vf q ∧ u.entry vf q = some (va, ctx)
      ∧ u.dispatcherRead ctx va.toNat 128 = .ok bs := by
  obtain ⟨hp, he, -, hr⟩ := h
  have hu := State.Looked.runPosted hp
  refine ⟨_, hu, by rw [hp]; rfl, rfl, (hu.entry vf q).trans he, (hu.dispatcherRead _ _ _).trans hr⟩

/-- An accepted entry. -/
theorem dispatchQueueEntry_accepted {d : Desc} {map : List (Nat × Nat)} {met : Bool} (h : entryRead s vf q ctx va bs)
    (hc : s.checkLaunch vf ctx bs = .ok (d, map, met)) :
    ∃ u, s.Looked u ∧ s.dispatchEntry vf q =
      { u.fresh.fresh with launches := u.launches ++ [u.accepted vf q ctx (Packet.of bs) d map met] } := by
  obtain ⟨u, hu, hd, ht, he, hr⟩ := Looked_runPosted_entryRead h
  rw [← hu.checkLaunch hd] at hc
  exact ⟨_, hu.trans (State.ReadOnly.reading u q ctx va bs).looked, ht.trans (State.takeEntry_ok he h.2.2.1 hr hc)⟩

/-- A rejected one. -/
theorem dispatchQueueEntry_rejected {code : Nat} (h : entryRead s vf q ctx va bs)
    (hc : s.checkLaunch vf ctx bs = .error code) :
    ∃ u, s.Looked u ∧ s.dispatchEntry vf q = (u.reject ctx (Packet.of bs).done code).popQueue vf q := by
  obtain ⟨u, hu, hd, ht, he, hr⟩ := Looked_runPosted_entryRead h
  rw [← hu.checkLaunch hd] at hc
  exact ⟨_, hu.trans (State.ReadOnly.reading u q ctx va bs).looked, ht.trans (State.takeEntry_error he h.2.2.1 hr hc)⟩

end

end Sys2Proof.Claims
end

section
/-!
SUPPORT. The start of blocks (R83), and the events of the dispatcher.
-/

namespace Sys2Proof.Machine

variable {s t u : State} {l : Launch} {i core : Nat} {trail : Bool}

/-- Blocks are starting: those that there are keep all but their channels, and memory, accesses and launches stay. -/
def State.Starting (s t : State) : Prop :=
  (∃ n v d gs bs cs, t = { s with nextId := n, vfs := v, dev := d, grids := gs, blocks := bs, cores := cs })
    ∧ ∀ b ∈ s.blocks, ∃ y ∈ t.blocks, ∃ ch, y = { b with chans := ch }

namespace State.Starting

theorem of_blocks {n v d gs cs} (h : t = { s with nextId := n, vfs := v, dev := d, grids := gs, cores := cs }) :
    s.Starting t := by
  subst h
  exact ⟨⟨_, _, _, _, _, _, rfl⟩, fun b hb => ⟨b, hb, b.chans, rfl⟩⟩

theorem refl (s : State) : s.Starting s := of_blocks rfl

theorem trans (h : s.Starting t) (k : t.Starting u) : s.Starting u := by
  obtain ⟨⟨_, _, _, _, _, _, rfl⟩, hb⟩ := h
  obtain ⟨⟨_, _, _, _, _, _, rfl⟩, kb⟩ := k
  refine ⟨⟨_, _, _, _, _, _, rfl⟩, fun b hmem => ?_⟩
  obtain ⟨y, hy, ch, rfl⟩ := hb b hmem
  obtain ⟨z, hz, ch', rfl⟩ := kb _ hy
  exact ⟨_, hz, ch', rfl⟩

theorem now_eq (h : s.Starting t) : t.now = s.now := by
  obtain ⟨⟨_, _, _, _, _, _, rfl⟩, -⟩ := h
  rfl

theorem foldl {β : Type} {f : State → β → State} (hf : ∀ s x, State.Starting s (f s x)) (xs : List β) (s : State) :
    s.Starting (xs.foldl f s) := by
  induction xs generalizing s with
  | nil => exact refl s
  | cons x xs ih => exact (hf s x).trans (ih _)

/-- What each step establishes for its own element, and later steps keep, holds of all of them after. -/
theorem foldl_establishes {β : Type} {f : State → β → State} {P : β → State → Prop} (hf : ∀ s x, State.Starting s (f s x))
    (hp : ∀ s x, P x (f s x)) (hk : ∀ x {s t : State}, s.Starting t → P x s → P x t) (xs : List β) (s : State) :
    ∀ x ∈ xs, P x (xs.foldl f s) := by
  induction xs generalizing s with
  | nil => exact fun _ h => nomatch h
  | cons y ys ih =>
    intro x hx
    rcases List.mem_cons.1 hx with rfl | hx
    · exact hk x (foldl hf ys _) (hp s x)
    · exact ih _ x hx

/-- Credits change channels alone (R276). -/
theorem startCredits (s : State) (b : Block) (g : Grid) : s.Starting (s.startCredits b g) := by
  refine ⟨⟨_, _, _, _, _, _, rfl⟩, fun x hx => ?_⟩
  refine ⟨_, List.mem_map.2 ⟨x, hx, rfl⟩, ?_⟩
  split
  · exact ⟨x.chans, rfl⟩
  · exact ⟨_, rfl⟩

theorem endPreempt (s : State) (core : Nat) : s.Starting (s.endPreempt core) := by
  unfold State.endPreempt
  dsimp only
  split <;> exact of_blocks rfl

end State.Starting

/-- A debugger has halted the context (R319). -/
def State.haltsNew (s : State) (ctx : Nat) : Bool :=
  match s.ctx? ctx with
  | some c => c.halted
  | none => false

/-- A block of a launch that starts, halted if its context is. -/
def State.newBlock (s : State) (l : Launch) (index core : Nat) (trail : Bool) : Block :=
  let b : Block := { l.block s.nextId index core trail s.now with places := s.freePlaces l.ctx core l.desc.warps }
  if s.haltsNew l.ctx then { b with warps := b.warps.map fun w => { w with halted := true } } else b

/-- A block as it joins those of the part. -/
theorem State.startBlock_spec (s : State) (l : Launch) (index core : Nat) (trail : Bool) :
    s.Starting (s.startBlock l index core trail) ∧ ∃ y ∈ (s.startBlock l index core trail).blocks, ∃ ch,
      y = { s.newBlock l index core trail with chans := ch } := by
  unfold State.startBlock
  extract_lets halted b0 b1 b first u u1 v nb
  have hblocks : v.blocks = s.blocks ++ [b] := rfl
  have hv : s.Starting v :=
    ⟨⟨_, _, _, _, _, _, rfl⟩, fun x hx => ⟨x, hblocks ▸ List.mem_append_left _ hx, x.chans, rfl⟩⟩
  have hb : b ∈ v.blocks := hblocks ▸ List.mem_append_right _ (List.mem_singleton.2 rfl)
  split
  next g _ =>
    have hc := State.Starting.startCredits v b g
    exact ⟨hv.trans hc, hc.2 b hb⟩
  next => exact ⟨hv, b, hb, b.chans, rfl⟩

end Sys2Proof.Machine

namespace Sys2Proof.Claims

open Sys2Proof.Machine

variable {s t : State} {l : Launch} {i core now : Nat} {trail : Bool}

theorem Started.of_starting (h : Started s l i core trail now) (hs : s.Starting t) : Started t l i core trail now := by
  obtain ⟨b, hb, hrest⟩ := h
  obtain ⟨y, hy, ch, rfl⟩ := hs.2 b hb
  exact ⟨_, hy, hrest⟩

/-- The warps of a new block. -/
theorem mem_newBlock_warps {w : Warp} (h : w ∈ (s.newBlock l i core trail).warps) :
    ∃ slot role width budget tOct hl, w = { Warp.start slot role width budget
      ((l.desc.layouts.head?.map Layout.entry).getD 0) tOct s.now with halted := hl } := by
  have hstart {w : Warp} (hw : w ∈ (l.block s.nextId i core trail s.now).warps) :
      ∃ slot role width budget tOct, w = Warp.start slot role width budget
        ((l.desc.layouts.head?.map Layout.entry).getD 0) tOct s.now := by
    unfold Launch.block at hw
    dsimp only at hw
    split at hw
    next x xs hx =>
      rw [hx]
      exact mem_groupWarps hw
    next => cases hw
  unfold State.newBlock at h
  dsimp only at h
  split at h
  · obtain ⟨x, hx, rfl⟩ := List.mem_map.1 h
    obtain ⟨_, _, _, _, _, rfl⟩ := hstart hx
    exact ⟨_, _, _, _, _, true, rfl⟩
  · obtain ⟨_, _, _, _, _, rfl⟩ := hstart h
    exact ⟨_, _, _, _, _, _, rfl⟩

/-- The rings of a new block are at their first phase (R236). -/
theorem mem_newBlock_rings {x : Ring} (h : x ∈ (s.newBlock l i core trail).rings) :
    ∀ y ∈ x.stages, y = { phase := false, left := x.expect } := by
  have hr : x ∈ l.desc.rings.map Ring.initial := by
    unfold State.newBlock at h
    dsimp only at h
    split at h <;> exact h
  obtain ⟨r, -, rfl⟩ := List.mem_map.1 hr
  intro y hy
  obtain ⟨_, -, rfl⟩ := List.mem_map.1 hy
  rfl

theorem started_startBlock (s : State) (l : Launch) (i core : Nat) (trail : Bool) :
    Started (s.startBlock l i core trail) l i core trail s.now := by
  obtain ⟨-, y, hy, ch, rfl⟩ := s.startBlock_spec l i core trail
  have hw {w : Warp} (h : w ∈ (s.newBlock l i core trail).warps) := mem_newBlock_warps h
  have hr {x : Ring} (h : x ∈ (s.newBlock l i core trail).rings) := mem_newBlock_rings h
  have hrest : (s.newBlock l i core trail).grid = l.grid ∧ (s.newBlock l i core trail).index = i
      ∧ (s.newBlock l i core trail).core = core ∧ (s.newBlock l i core trail).trail = trail
      ∧ (s.newBlock l i core trail).layout = 0 ∧ (s.newBlock l i core trail).b = []
      ∧ (s.newBlock l i core trail).scratch = [] ∧ (s.newBlock l i core trail).tags = []
      ∧ (s.newBlock l i core trail).opbuf = [] ∧ (s.newBlock l i core trail).tiles = []
      ∧ (s.newBlock l i core trail).resvs = [] ∧ (s.newBlock l i core trail).allocs = [] := by
    unfold State.newBlock
    dsimp only
    split <;> exact ⟨rfl, rfl, rfl, rfl, rfl, rfl, rfl, rfl, rfl, rfl, rfl, rfl⟩
  obtain ⟨h1, h2, h3, h4, h5, h6, h7, h8, h9, h10, h11, h12⟩ := hrest
  refine ⟨_, hy, h1, h2, h3, h4, h5, h6, h7, h8, h9, h10, h11, h12, fun x hx => hr hx, fun w h => ?_⟩
  obtain ⟨_, _, _, _, _, _, rfl⟩ := hw h
  exact ⟨rfl, rfl, rfl, rfl, rfl, rfl, rfl, rfl, rfl, rfl, rfl, rfl, rfl, rfl, rfl⟩

/-! ## Launches -/

end Sys2Proof.Claims

namespace Sys2Proof.Machine

/-- The blocks of an index start, one in each copy. -/
def State.startIndex (l : Launch) (s : State) (i : Nat) : State :=
  match l.map[i]? with
  | none => s
  | some e =>
    if l.packet.redundant then (s.startBlock l i e.1 false).startBlock l i e.2 true else s.startBlock l i e.1 false

/-- The state in which the first blocks of a launch start (R370). -/
def State.firstStart (s : State) (l : Launch) : State :=
  if (s.grid? l.grid).isNone then
    { (s.popQueue l.vf l.queue) with
      grids := s.grids ++ [Grid.start l.grid l.ctx l.vf l.packet l.desc l.map l.packet.priority] }
  else s

/-- The state once the blocks of a launch cluster have started. -/
def State.blocksStarted (s : State) (l : Launch) (unit : Nat) : State :=
  (l.coresOf (l.together unit)).eraseDups.foldl (fun s c => s.endPreempt c)
    ((l.together unit).foldl (State.startIndex l) (s.firstStart l))

/-- What is left of a launch once a launch cluster of it has started. -/
def Launch.without (l : Launch) (id unit : Nat) (x : Launch) : Option Launch :=
  let left := if l.packet.coResident then [] else l.waiting.filter (· != unit)
  if x.id != id then some x else if left.isEmpty then none else some { x with waiting := left }

theorem State.start_eq {s : State} {id unit : Nat} {l : Launch} (hl : s.launches.find? (fun x => x.id == id) = some l)
    (hm : l.met = true) (hu : unit ∈ l.waiting) (hc : s.ctxUsable l.ctx = true) (hf : s.fits l (l.together unit) = true)
    (ht : ∀ c ∈ l.coresOf (l.together unit), s.mayTake c l.ctx l.packet.priority = true) :
    s.start id unit = { s.blocksStarted l unit with
      launches := (s.blocksStarted l unit).launches.filterMap (l.without id unit) } := by
  have hw : l.waiting.contains unit = true := List.contains_iff_mem.2 hu
  have hall : ((l.coresOf (l.together unit)).all fun c => s.mayTake c l.ctx l.packet.priority) = true := List.all_eq_true.2 ht
  simp only [State.start, hl, hm, hw, hc, hf, hall, Bool.not_true, Bool.or_self, Bool.false_eq_true, if_false]
  rfl

namespace State.Starting

theorem startIndex (l : Launch) (s : State) (i : Nat) : s.Starting (s.startIndex l i) := by
  unfold State.startIndex
  split
  · exact refl s
  · split
    · exact (State.startBlock_spec s l _ _ _).1.trans (State.startBlock_spec _ l _ _ _).1
    · exact (State.startBlock_spec s l _ _ _).1

theorem firstStart (s : State) (l : Launch) : s.Starting (s.firstStart l) := by
  unfold State.firstStart
  split
  · exact of_blocks rfl
  · exact refl s

theorem blocksStarted (s : State) (l : Launch) (unit : Nat) : s.Starting (s.blocksStarted l unit) :=
  ((firstStart s l).trans (foldl (startIndex l) _ _)).trans (foldl endPreempt _ _)

end State.Starting

/-- The launch that a launch cluster has left does not wait for it any more. -/
theorem Launch.not_mem_without {l x y : Launch} {id unit : Nat} (h : l.without id unit y = some x) (hx : x.id = id) :
    unit ∉ x.waiting := by
  unfold Launch.without at h
  extract_lets left at h
  have hleft : unit ∉ left := by
    unfold left
    split
    · exact List.not_mem_nil
    · exact fun hm => by simpa using (List.mem_filter.1 hm).2
  split at h
  next hne =>
    cases h
    exact absurd hx (bne_iff_ne.1 hne)
  next =>
    split at h
    · cases h
    · cases h
      exact hleft

end Sys2Proof.Machine

namespace Sys2Proof.Claims

open Sys2Proof.Machine

/-- Both copies of the blocks of an index have started. -/
def StartedAt (l : Launch) (i : Nat) (t : State) : Prop :=
  ∀ e, l.map[i]? = some e → Started t l i e.1 false t.now ∧ (l.packet.redundant = true → Started t l i e.2 true t.now)

theorem StartedAt.of_starting (h : StartedAt l i s) (hs : s.Starting t) : StartedAt l i t := by
  intro e he
  rw [hs.now_eq]
  obtain ⟨h1, h2⟩ := h e he
  exact ⟨h1.of_starting hs, fun hr => (h2 hr).of_starting hs⟩

theorem startedAt_startIndex (l : Launch) (s : State) (i : Nat) : StartedAt l i (s.startIndex l i) := by
  intro e he
  rw [(State.Starting.startIndex l s i).now_eq]
  have hnow := (s.startBlock_spec l i e.1 false).1.now_eq
  have h1 := started_startBlock s l i e.1 false
  have h2 := started_startBlock (s.startBlock l i e.1 false) l i e.2 true
  rw [hnow] at h2
  unfold State.startIndex
  rw [he]
  dsimp only
  split
  next => exact ⟨h1.of_starting (State.startBlock_spec _ l _ _ _).1, fun _ => h2⟩
  next hr => exact ⟨h1, fun h => absurd h hr⟩

theorem startedAt_blocksStarted (s : State) (l : Launch) (unit : Nat) :
    ∀ i ∈ l.together unit, StartedAt l i (s.blocksStarted l unit) := fun i hi =>
  (State.Starting.foldl_establishes (P := StartedAt l) (State.Starting.startIndex l) (startedAt_startIndex l)
    (fun _ _ _ hs h => h.of_starting hs) _ _ i hi).of_starting (State.Starting.foldl State.Starting.endPreempt _ _)

/-- Settles O46: the events of the dispatcher, one after the other. -/
theorem dispatcherEvents : Obligations.DispatcherEvents := by
  refine ⟨fun s vf q ctx va bs d map met h hc => ?_, fun s vf q ctx va bs code h hc => ⟨fun hp => ?_, ?_⟩,
    fun s vf q ctx va hp he ha => ?_, fun s id l v hl hm hc hd => ⟨fun h => ?_, fun h => ?_⟩,
    fun s id unit l hl hm hu hc hf ht => ?_, fun s id g hg hf hq => ?_⟩
  · obtain ⟨u, hu, ht⟩ := dispatchQueueEntry_accepted h hc
    refine ⟨_, congrArg Host.Outcome.next ht, ?_⟩
    have hvf := hu.2 vf
    obtain ⟨⟨_, _, _, _, rfl⟩, hv⟩ := hu
    refine ⟨⟨rfl, rfl, rfl⟩, hv, rfl, _, rfl, rfl, rfl, rfl, rfl, rfl, rfl, rfl, ?_, Packet.mem_units bs⟩
    rw [← hvf]
    rfl
  · unfold State.checkLaunch at hc
    rw [hp] at hc
    exact (Except.error.inj hc).symm
  · obtain ⟨u, hu, ht⟩ := dispatchQueueEntry_rejected h hc
    have hans := answered_completionUpdate hu ctx (Packet.of bs).done 0 .or (failureWord code)
    obtain ⟨hmem, hlaunches, -, -, hv⟩ := hu.completionUpdate_keeps 0 ctx (Packet.of bs).done .or (failureWord code)
    have hpop := State.vf_popQueue (u.completionUpdate 0 ctx (Packet.of bs).done .or (failureWord code)) vf q
    obtain ⟨p, hp⟩ := hv vf
    rw [hp] at hpop
    refine ⟨_, congrArg Host.Outcome.next ht, hmem, hlaunches, hans, ?_⟩
    split
    next hq => exact (if_pos hq).mp hpop
    next hq =>
      rw [if_neg hq] at hpop
      exact (congrArg (fun x => x.head.toNat) hpop).trans (Queue.pop_head _)
  · have hu := State.Looked.runPosted hp
    have ht := State.takeEntry_misaligned ((hu.entry vf q).trans he) ha
    refine ⟨_, congrArg Host.Outcome.next ht, ?_⟩
    have hn := notices_pushStop (s := s.runPosted vf (s.vf vf).posted) ctx
      (x := (s.runPosted vf (s.vf vf).posted).notice 0x00020000 va (BitVec.ofNat 64 va.toNat)) (record := 0x00020000) (pc := va)
      (addr := va) ⟨rfl, rfl, rfl, BitVec.ofNat_toNat 64 va⟩
    generalize s.runPosted vf (s.vf vf).posted = u at hu hn ⊢
    obtain ⟨⟨_, _, _, _, rfl⟩, -⟩ := hu
    exact ⟨⟨rfl, rfl, rfl⟩, rfl, rfl, hn⟩
  · have hdeps := (State.deps_eq hd).trans (foldl_depStep_met h true)
    obtain ⟨u, hu, ht⟩ := State.reread_met hl hm hc hdeps
    refine ⟨_, congrArg Host.Outcome.next ht, ?_⟩
    obtain ⟨⟨_, _, _, _, rfl⟩, -⟩ := hu
    have hfind := find?_map_same Launch.id (fun x => { x with met := l.packet.deps.all fun d =>
      d.2.toNat ≤ (v d.1).toNat % 2 ^ 56 }) id s.launches fun _ hx => hx
    rw [hl] at hfind
    exact ⟨⟨rfl, rfl, rfl⟩, hfind⟩
  · have hdeps := (State.deps_eq hd).trans (foldl_depStep_failed h (some true))
    obtain ⟨u, hu, ht⟩ := State.reread_failed hl hm hc hdeps
    have hans := answered_completionUpdate hu l.ctx l.packet.done 0 .or (failureWord 8)
    obtain ⟨hmem, hlaunches, -⟩ := hu.completionUpdate_keeps 0 l.ctx l.packet.done .or (failureWord 8)
    refine ⟨_, congrArg Host.Outcome.next ht, hmem, congrArg (List.filter fun x => x.id != id) hlaunches, fun pa hpa => ?_⟩
    rw [hpa] at hans
    exact hans
  · have hst := State.Starting.blocksStarted s l unit
    have hnow := hst.now_eq
    have hat := startedAt_blocksStarted s l unit
    refine ⟨_, congrArg Host.Outcome.next (State.start_eq hl hm hu hc hf ht), ?_⟩
    generalize s.blocksStarted l unit = u at hst hnow hat ⊢
    refine ⟨?_, ?_, fun i hi e he => ?_, fun b hb => ?_, fun x hx hid => ?_⟩
    · obtain ⟨⟨_, _, _, _, _, _, rfl⟩, -⟩ := hst
      exact ⟨rfl, rfl, rfl⟩
    · obtain ⟨⟨_, _, _, _, _, _, rfl⟩, -⟩ := hst
      rfl
    · rw [← hnow]
      exact hat i hi e he
    · obtain ⟨y, hy, ch, rfl⟩ := hst.2 b hb
      exact ⟨_, hy, rfl, rfl, rfl⟩
    · obtain ⟨y, -, hy⟩ := List.mem_filterMap.1 hx
      exact Launch.not_mem_without hy hid
  · have hans := answered_completionUpdate (State.ReadOnly.refl s).looked g.ctx g.packet.done id .add
      (g.packet.increment.setWidth 64)
    obtain ⟨hmem, -, hblocks, -⟩ := (State.ReadOnly.refl s).looked.completionUpdate_keeps id g.ctx g.packet.done .add
      (g.packet.increment.setWidth 64)
    refine ⟨_, congrArg Host.Outcome.next (State.completeGrid_quiet hg hf hq), hmem, ?_, hblocks, hans⟩
    exact List.find?_eq_none.2 fun x hx => by simpa using (List.mem_filter.1 hx).2

end Sys2Proof.Claims
end

section
/-!
SUPPORT. Promotion, the end of a run-ahead, table walks and shootdowns (R95, R294, R295, R299, R302).
-/

namespace Sys2Proof.Machine

variable {s t u : State}

/-- The state at the end of a TLBI, but for the request itself. -/
def State.tlbiDone (s : State) (q : TlbiReq) : State :=
  let s := if q.purged then s else s.shootdown q
  if q.exec then s.refetchCode q else s

theorem State.tlbiDone_frame (s : State) (q : TlbiReq) : ∃ code co cl bs,
    s.tlbiDone q = { s with code := code, cores := co, clusters := cl, blocks := bs } := by
  unfold State.tlbiDone
  dsimp only
  split <;> split <;> exact ⟨_, _, _, _, rfl⟩

/-- The request leaves the part and the warp that waits for it. -/
def State.withoutTlbi (s : State) (id : Nat) : State :=
  { s with
    tlbis := s.tlbis.filter (·.id != id)
    blocks := s.blocks.map fun (b : Block) => { b with
      warps := b.warps.map fun (w : Warp) => { w with tlbis := w.tlbis.filter (· != id) } } }

theorem State.not_mem_withoutTlbi (s : State) (id : Nat) : ∀ b ∈ (s.withoutTlbi id).blocks, ∀ w ∈ b.warps, id ∉ w.tlbis := by
  intro b hb w hw hid
  obtain ⟨b0, -, rfl⟩ := List.mem_map.1 hb
  obtain ⟨w0, -, rfl⟩ := List.mem_map.1 hw
  simpa using (List.mem_filter.1 hid).2

section

variable {q : TlbiReq} (hq : s.tlbis.find? (·.id == q.id) = some q) (ha : q.accs = []) (ho : q.own = [])
  (hh : s.heldReach q = false)

include hq ho hh

include ha in
/-- A TLBI whose accesses are performed ends. -/
theorem State.endTlbi_done (h : q.purged = true ∨ s.translated q = []) :
    s.endTlbi q.id = (s.tlbiDone q).withoutTlbi q.id := by
  have hp : (!q.purged && !(s.translated q).isEmpty) = false := by
    rcases h with h | h <;> simp [h]
  simp only [State.endTlbi, hq, ha, ho, hh, hp, List.isEmpty_nil, Bool.not_true, Bool.or_self, Bool.false_eq_true, if_false]
  rfl

/-- One with accesses out waits for them, its entries purged. -/
theorem State.endTlbi_purge (hn : q.purged = false) (h : s.translated q ≠ []) : s.endTlbi q.id = s.purge q := by
  have hp : (!q.purged && !(s.translated q).isEmpty) = true := by
    rw [hn, Bool.not_false, Bool.true_and, Bool.not_eq_true', List.isEmpty_eq_false_iff]
    exact h
  simp only [State.endTlbi, hq, ho, hh, hp, List.isEmpty_nil, Bool.not_true, Bool.or_self, Bool.false_eq_true, if_false,
    if_true]

end

/-! ## The warp of a run-ahead (R299) -/

/-- An update that gives every warp the slot of the one that it names. -/
theorem State.updWarp_slot (s : State) {r : WarpRef} {f : Warp → Warp} (hf : ∀ w, (f w).slot = r.slot) :
    s.updWarp r f = s.updWarp r fun w => { f w with slot := w.slot } := by
  have hb (b : Block) : b.updWarp r.slot f = b.updWarp r.slot fun w => { f w with slot := w.slot } := by
    simp only [Block.updWarp]
    congr 1
    refine List.map_congr_left fun w _ => ?_
    by_cases h : w.slot = r.slot
    · simp only [h, beq_self_eq_true, if_true, ← hf w]
    · simp only [beq_false_of_ne h, Bool.false_eq_true, if_false]
  simp only [State.updWarp, hb]

/-- The state once the loads of a run-ahead have been dropped and its buffer is free. -/
def State.unrun (s : State) (core : Nat) (r : WarpRef) : State :=
  let gone := ((s.accsOf r).filter fun x => x.kind == .load).map Acc.id
  (gone.foldl (fun s id => s.dropAcc id) s).updCore core fun c => { c with ahead := none }

theorem State.unrun_frame (s : State) (core : Nat) (r : WarpRef) :
    (∃ m ac tl cs, s.unrun core r = { s with accs := ac, messages := m, tlbis := tl, cores := cs })
      ∧ ((s.unrun core r).core core).ahead = none := by
  have hfold (l : List Nat) (s : State) : ∃ m ac tl,
      l.foldl (fun s id => s.dropAcc id) s = { s with accs := ac, messages := m, tlbis := tl } := by
    induction l generalizing s with
    | nil => exact ⟨_, _, _, rfl⟩
    | cons i l ih =>
      obtain ⟨_, _, _, h⟩ := ih (s.dropAcc i)
      exact ⟨_, _, _, h⟩
  obtain ⟨m, ac, tl, h⟩ := hfold (((s.accsOf r).filter fun x => x.kind == .load).map Acc.id) s
  unfold State.unrun
  dsimp only
  rw [h]
  refine ⟨⟨_, _, _, _, rfl⟩, ?_⟩
  rw [State.core_updCore _ _ (by exact fun _ => rfl)]

theorem State.rewind_eq {core : Nat} {a : Ahead} (h : (s.core core).ahead = some a) :
    s.rewind core = (s.unrun core { blk := a.blk, slot := a.slot }).updWarp { blk := a.blk, slot := a.slot }
      fun w => a.saved.rewound w := by
  simp only [State.rewind, h]
  rfl

/-! ## Walks from empty translation caches (R294) -/

/-- What a bounded list takes last is in it. -/
theorem mem_pushBounded {α : Type} {cap : Nat} (hcap : 0 < cap) (x : α) (l : List α) : x ∈ pushBounded cap x l := by
  unfold pushBounded
  dsimp only
  split
  next h =>
    have hl : 1 ≤ l.length := by
      rw [List.length_append, List.length_singleton] at h
      omega
    rw [List.drop_append_of_le_length hl]
    exact List.mem_append_right _ (List.mem_singleton.2 rfl)
  next => exact List.mem_append_right _ (List.mem_singleton.2 rfl)

/-- A leaf that a walk finds covers the address. -/
theorem covers_of_walkFrom {m : Memory} {ctx va : Nat} {ls : List (Nat × Nat × Nat)} {table : Nat} {e : Tlb}
    (h : walkFrom m ctx va ls table = .leaf e) : e.covers ctx va = true := by
  induction ls generalizing table with
  | nil => cases h
  | cons l ls ih =>
    obtain ⟨low, bits, align⟩ := l
    unfold walkFrom at h
    dsimp only at h
    split at h
    · cases h
    split at h
    · cases h
    split at h
    · cases h
      have hle := Nat.div_mul_le_self va (2 ^ low)
      have hlt : va < va / 2 ^ low * 2 ^ low + 2 ^ low := by
        have := Nat.lt_div_mul_add (a := va) (Nat.two_pow_pos low)
        omega
      simp [Tlb.covers, hle, hlt]
    · exact ih h

end Sys2Proof.Machine

namespace Sys2Proof.Claims

open Sys2Proof.Machine

variable {s : State}

theorem warpOf_eq_some {r : WarpRef} {w : Warp} (h : warpOf s r = some w) : ∃ b, s.warp? r = some (b, w) := by
  obtain ⟨x, hx, rfl⟩ := Option.map_eq_some_iff.1 h
  exact ⟨x.1, hx⟩

/-- The promotion of a warp that is ready (R95). -/
theorem promotion_ready {r : WarpRef} {b : Block} {w : Warp} (h : s.warp? r = some (b, w)) (hr : isReady s (r, b, w)) :
    Happens (.promotion r) s fun t => SameMemory s t ∧
      ∃ b', t.warp? r = some (b', if w.since + 4096 ≤ s.now then { w with promoted := true } else w) := by
  obtain ⟨hrun, hmay, hfetch, hslack⟩ := hr
  have hstands : s.standsReady (r, b, w) = true := by
    simp only [State.standsReady, hmay, hfetch, hslack, Bool.not_false, Bool.and_true, beq_iff_eq]
    exact hrun
  have he : exec (.promotion r) s = .next (if w.since + 4096 ≤ s.now then
      s.updWarp r fun w => { w with promoted := true } else s) := by
    change execPromotion r s = _
    simp only [execPromotion, h, hstands, Bool.true_or, Bool.true_and, decide_eq_true_eq]
    rfl
  refine ⟨_, he, ?_⟩
  split
  · refine ⟨⟨rfl, rfl, rfl⟩, warpOf_eq_some ?_⟩
    rw [warpOf_updWarp s r (by exact fun _ => rfl), warpOf, h]
    rfl
  · exact ⟨⟨rfl, rfl, rfl⟩, b, h⟩

/-- The end of a run-ahead at its bound (R299). -/
theorem runAheadRollback_full {core : Nat} {a : Ahead} {b : Block} {w : Warp} (ha : (s.core core).ahead = some a)
    (hn : 513 ≤ a.words) (hslot : a.saved.slot = a.slot) (hw : s.warp? { blk := a.blk, slot := a.slot } = some (b, w)) :
    Happens (.runAheadRollback core) s fun t => SameMemory s t ∧ (t.core core).ahead = none
      ∧ ∃ w', warpOf t { blk := a.blk, slot := a.slot } = some w' ∧ w'.regs = a.saved.regs
        ∧ w'.ctl = a.saved.ctl ∧ w'.run = a.saved.run ∧ w'.pend = a.saved.pend := by
  have he : exec (.runAheadRollback core) s = .next (s.rewind core) := by
    change execRunAheadRollback core s = _
    simp only [execRunAheadRollback, ha]
    exact congrArg Host.Outcome.next (if_pos hn)
  obtain ⟨⟨_, _, _, _, hu⟩, hfree⟩ := s.unrun_frame core { blk := a.blk, slot := a.slot }
  rw [State.rewind_eq ha] at he
  refine ⟨_, he, ?_, hfree, ?_⟩
  · rw [hu]
    exact ⟨rfl, rfl, rfl⟩
  · refine ⟨{ a.saved.rewound w with slot := w.slot }, ?_, rfl, rfl, rfl, rfl⟩
    rw [State.updWarp_slot _ (by exact fun _ => hslot), warpOf_updWarp _ _ (by exact fun _ => rfl),
      warpOf_of_blocks (s := s) (by rw [hu]), warpOf, hw]
    rfl

/-- A TLBI that ends (R302). -/
theorem tlbiPerformed_done {q : TlbiReq} (hq : s.tlbis.find? (fun x => x.id == q.id) = some q) (ha : q.accs = [])
    (ho : q.own = []) (hh : s.heldReach q = false) (h : q.purged = true ∨ s.translated q = []) :
    Happens (.tlbiPerformed q.id) s fun t => SameMemory s t
      ∧ t.tlbis = s.tlbis.filter (fun x => x.id != q.id) ∧ t.accs = s.accs
      ∧ ∀ b ∈ t.blocks, ∀ w ∈ b.warps, q.id ∉ w.tlbis := by
  refine ⟨_, congrArg Host.Outcome.next (State.endTlbi_done hq ha ho hh h), ?_⟩
  obtain ⟨_, _, _, _, hu⟩ := s.tlbiDone_frame q
  refine ⟨?_, ?_, ?_, State.not_mem_withoutTlbi _ _⟩
  all_goals rw [hu]
  exact ⟨rfl, rfl, rfl⟩
  · rfl
  · rfl

/-- One that purges its entries first (R302). -/
theorem tlbiPerformed_purge {q : TlbiReq} (hq : s.tlbis.find? (fun x => x.id == q.id) = some q)
    (ho : q.own = []) (hh : s.heldReach q = false) (hn : q.purged = false) (h : s.translated q ≠ []) :
    Happens (.tlbiPerformed q.id) s fun t => SameMemory s t
      ∧ t.accs = s.accs ∧ t.tlbis = s.tlbis.map fun x =>
          if x.id == q.id then { x with accs := s.translated q, purged := true } else x :=
  ⟨_, congrArg Host.Outcome.next (State.endTlbi_purge hq ho hh hn h), ⟨rfl, rfl, rfl⟩, rfl, rfl⟩

end Sys2Proof.Claims
end

section
/-!
SUPPORT. A table walk installs the leaf that it finds (R294, R295).
-/

namespace Sys2Proof.Machine

variable {s t u : State} {core : Nat}

/-- The core's data TLB and its cluster's hold no entry that was not there. -/
def State.Fewer (s t : State) (core : Nat) : Prop :=
  (∀ e ∈ (t.core core).dtlb, e ∈ (s.core core).dtlb)
    ∧ ∀ e ∈ (t.cluster (clusterOf core)).tlb, e ∈ (s.cluster (clusterOf core)).tlb

namespace State.Fewer

theorem refl (s : State) (core : Nat) : s.Fewer s core := ⟨fun _ h => h, fun _ h => h⟩

theorem trans (h : s.Fewer t core) (k : t.Fewer u core) : s.Fewer u core :=
  ⟨fun e he => h.1 e (k.1 e he), fun e he => h.2 e (k.2 e he)⟩

theorem of_eq (hc : t.cores = s.cores) (hk : t.clusters = s.clusters) : s.Fewer t core := by
  have h1 : t.core core = s.core core := by simp only [State.core, hc]
  have h2 : t.cluster (clusterOf core) = s.cluster (clusterOf core) := by simp only [State.cluster, hk]
  rw [State.Fewer, h1, h2]
  exact ⟨fun _ h => h, fun _ h => h⟩

theorem ite {p : Bool} {a b : State} (ha : s.Fewer a core) (hb : s.Fewer b core) : s.Fewer (if p then a else b) core := by
  split
  · exact ha
  · exact hb

theorem readSram (s : State) (unit : SramUnit) (owner ctx : Nat) (p : Nat → Bool) :
    s.Fewer (s.readSram unit owner core ctx p).2 core := by
  unfold State.readSram
  dsimp only
  split
  · exact refl s core
  · obtain ⟨⟨_, _, _, h⟩, -⟩ := State.ReadOnly.foldl (fun s (e : SramError) => State.ReadOnly.log s
      (if e.hard then 2 else 1) .sram core ctx 0) (s.sram.filter fun e => e.unit == unit && e.owner == owner && p e.key) s
    rw [h]
    exact of_eq rfl rfl

theorem updCore (s : State) {f : Core → Core} (hid : ∀ x, (f x).id = x.id) (hf : ∀ x, ∀ e ∈ (f x).dtlb, e ∈ x.dtlb) :
    s.Fewer (s.updCore core f) core := by
  refine ⟨fun e he => ?_, fun e he => he⟩
  rw [State.core_updCore s core hid] at he
  exact hf _ e he

theorem updCluster (s : State) {f : Cluster → Cluster} (hid : ∀ x, (f x).id = x.id) (hf : ∀ x, ∀ e ∈ (f x).tlb, e ∈ x.tlb) :
    s.Fewer (s.updCluster (clusterOf core) f) core := by
  refine ⟨fun e he => he, fun e he => ?_⟩
  rw [State.cluster_updCluster s _ hid] at he
  exact hf _ e he

theorem readTlbs (s : State) (ctx va : Nat) (fetch : Bool) : s.Fewer (s.readTlbs core ctx va fetch) core := by
  unfold State.readTlbs
  split
  · exact refl s core
  extract_lets hit keep own
  have h1 := readSram (core := core) s (if fetch then .itlb else .dtlb) core ctx (hit (own (s.core core)))
  split
  next bad s1 e1 =>
    rw [e1] at h1
    extract_lets s2
    have h2 : s.Fewer s2 core := h1.trans (ite (refl _ core) (ite
      (updCore _ (by exact fun _ => rfl) (by exact fun _ _ he => he))
      (updCore _ (by exact fun _ => rfl) (by exact fun _ _ he => (List.mem_filter.1 he).1))))
    split
    · exact h2
    have h3 := readSram (core := core) s2 .clusterTlb (clusterOf core) ctx (hit (s2.cluster (clusterOf core)).tlb)
    split
    next bad s3 e3 =>
      rw [e3] at h3
      exact (h2.trans h3).trans (ite (refl _ core)
        (updCluster _ (by exact fun _ => rfl) (by exact fun _ _ he => (List.mem_filter.1 he).1)))

end State.Fewer

/-- Without an entry for an address the walk of it starts at the root. -/
theorem State.walkStart_untranslated {k ctx va : Nat} (h : ∀ e ∈ (s.cluster k).tlb, e.covers ctx va = false) :
    s.walkStart k ctx va = match s.ctx? ctx with
      | some c => (walkLevels, c.root)
      | none => ([], 0) := by
  have hf : (s.cluster k).tlb.filter (fun t => t.node && t.covers ctx va) = [] :=
    List.filter_eq_nil_iff.2 fun e he => by simp [h e he]
  unfold State.walkStart
  rw [hf]
  rfl

theorem State.cluster_updCore (s : State) (k : Nat) (f : Core → Core) (j : Nat) :
    (s.updCore k f).cluster j = s.cluster j := rfl

/-- What a fold of bounded entries takes last is in it. -/
theorem mem_foldl_pushBounded {α : Type} {cap : Nat} (hcap : 0 < cap) (xs : List α) (x : α) (l : List α) :
    x ∈ (xs ++ [x]).foldl (fun l t => pushBounded cap t l) l := by
  rw [List.foldl_append]
  exact mem_pushBounded hcap x _

/-- A walk from empty caches installs its leaf in both (R294). -/
theorem State.leafOf_walks {ctx va : Nat} {e : Tlb} (h1 : ∀ e ∈ (s.core core).dtlb, e.covers ctx va = false)
    (h2 : ∀ e ∈ (s.cluster (clusterOf core)).tlb, e.covers ctx va = false) (hw : s.walk ctx va = .leaf e) :
    e ∈ ((s.leafOf core ctx va false).2.core core).dtlb
      ∧ e ∈ ((s.leafOf core ctx va false).2.cluster (clusterOf core)).tlb := by
  obtain ⟨hf1, hf2⟩ := State.Fewer.readTlbs (core := core) s ctx va false
  obtain ⟨_, _, _, _, _, _, _, hr⟩ := (State.WalkOnly.readTlbs s core ctx va false).rest
  have hctx : (s.readTlbs core ctx va false).ctx? ctx = s.ctx? ctx := by rw [hr]; rfl
  have hmem : (s.readTlbs core ctx va false).mem = s.mem := by rw [hr]
  clear hr
  obtain ⟨c, hc, hwalk⟩ : ∃ c, s.ctx? ctx = some c ∧ walkFrom s.mem ctx va walkLevels c.root = .leaf e := by
    unfold State.walk at hw
    split at hw
    next c hc => exact ⟨c, hc, hw⟩
    next => cases hw
  have hown : ((s.readTlbs core ctx va false).core core).dtlb.find? (fun t => t.covers ctx va) = none :=
    List.find?_eq_none.2 fun x hx => by simp [h1 x (hf1 x hx)]
  have hshared : ((s.readTlbs core ctx va false).cluster (clusterOf core)).tlb.find?
      (fun t => !t.node && t.covers ctx va) = none :=
    List.find?_eq_none.2 fun x hx => by simp [h2 x (hf2 x hx)]
  have hstart : (s.readTlbs core ctx va false).walkStart (clusterOf core) ctx va = (walkLevels, c.root) := by
    rw [State.walkStart_untranslated fun x hx => h2 x (hf2 x hx), hctx, hc]
  simp only [State.leafOf, Bool.false_eq_true, if_false, hown, hshared, hstart, hctx, hc, Option.isSome_some, if_true,
    hmem, hwalk]
  refine ⟨?_, ?_⟩
  · rw [State.core_updCore _ core (by exact fun _ => rfl)]
    exact mem_pushBounded (by decide) e _
  · rw [State.cluster_updCore, State.cluster_updCluster _ _ (by exact fun _ => rfl)]
    exact mem_foldl_pushBounded (by decide) _ e _

end Sys2Proof.Machine

namespace Sys2Proof.Claims

open Sys2Proof.Machine

variable {s : State}

/-- A walk from empty translation caches (R295). -/
theorem tableWalk_untranslated {core ctx va : Nat} {acc : Access} {e : Tlb} (hva : va < 2 ^ 57) (ha : acc ≠ .fetch)
    (hu : untranslated s core ctx va) (hw : s.walk ctx va = .leaf e) :
    Happens (.tableWalk core ctx va acc) s fun t => SameMemory s t ∧ e.covers ctx va = true
      ∧ e ∈ (t.core core).dtlb ∧ e ∈ (t.cluster (clusterOf core)).tlb := by
  have he : exec (.tableWalk core ctx va acc) s = .next (s.leafOf core ctx va false).2 := by
    change execTableWalk core ctx va acc s = _
    rw [execTableWalk, if_pos hva, beq_false_of_ne ha]
  refine ⟨_, he, ?_, ?_, State.leafOf_walks hu.1 hu.2 hw⟩
  · obtain ⟨_, _, _, _, _, _, _, hr⟩ := (State.WalkOnly.leafOf s core ctx va false).rest
    rw [hr]
    exact ⟨rfl, rfl, rfl⟩
  · unfold State.walk at hw
    split at hw
    · exact covers_of_walkFrom hw
    · cases hw

end Sys2Proof.Claims
end

section
/-!
SUPPORT. What a write of a core to device memory leaves while no image is frozen (R180, R329, R330), and the posting
of a sheaf (R300).
-/

namespace Sys2Proof.Machine

variable {s t u : State}

/-! ## Bytes written in pieces -/

theorem writeBytes_append (m : Memory) (a : Nat) (xs ys : List Byte) :
    writeBytes m a (xs ++ ys) = writeBytes (writeBytes m a xs) (a + xs.length) ys := by
  induction xs generalizing m a with
  | nil => rfl
  | cons x xs ih => rw [List.cons_append, writeBytes, writeBytes, ih, List.length_cons, Nat.add_comm xs.length, Nat.add_assoc]

theorem readBytes_eq (m : Memory) (a n : Nat) : readBytes m a n = (List.range n).map fun i => memGet m (a + i) := by
  induction n generalizing a with
  | zero => rfl
  | succ n ih =>
    rw [readBytes, ih, List.range_succ_eq_map, List.map_cons, List.map_map]
    refine congrArg _ (List.map_congr_left fun i _ => ?_)
    exact congrArg (memGet m) (by omega)

/-- What has been written is read. -/
theorem readBytes_writeBytes (m : Memory) (a : Nat) (bs : List Byte) : readBytes (writeBytes m a bs) a bs.length = bs := by
  rw [readBytes_eq]
  refine List.ext_getElem (by simp) fun i h1 h2 => ?_
  rw [List.getElem_map, List.getElem_range, memGet_writeBytes, if_pos ⟨by omega, by omega⟩]
  simp [h2]

/-- The pieces of a write by lines are the write. -/
theorem foldl_linePieces {n pa : Nat} {bs : List Byte} (h : pa % 128 + bs.length ≤ 128 * n) (m : Memory) :
    (linePieces n pa bs).foldl (fun m x => writeBytes m x.1 x.2) m = writeBytes m pa bs := by
  induction n generalizing pa bs m with
  | zero =>
    have hbs : bs = [] := List.length_eq_zero_iff.1 (by omega)
    rw [hbs]
    rfl
  | succ n ih =>
    cases bs with
    | nil => rfl
    | cons b bs =>
      rw [linePieces, List.foldl_cons, ih (by rw [List.length_drop]; omega)]
      by_cases hk : 128 - pa % 128 ≤ (b :: bs).length
      · conv_rhs => rw [← List.take_append_drop (128 - pa % 128) (b :: bs), writeBytes_append]
        rw [List.length_take_of_le hk]
      · rw [List.drop_of_length_le (by omega), List.take_of_length_le (by omega)]
        rfl
      · simp

/-! ## Writes while no image is frozen -/

/-- No partition has a frozen image. -/
def State.Thawed (s : State) : Prop := ∀ v, (s.vf v).part.frozen = none

theorem State.Thawed.updVf (h : s.Thawed) (v : Nat) {f : Vf → Vf} (hid : ∀ x, (f x).id = x.id)
    (hf : (f (s.vf v)).part.frozen = none) : (s.updVf v f).Thawed := by
  intro k
  by_cases hk : k = v
  · rw [hk, State.vf_updVf s v hid, hf]
  · rw [State.vf_updVf_other s hk hid]
    exact h k

theorem State.Thawed.adopt (h : s.Thawed) (v unit : Nat) : (s.adopt v unit).Thawed := by
  unfold State.adopt
  split
  · exact h
  · exact h.updVf v (by exact fun _ => rfl) (h v)

theorem State.Thawed.exchangeTags (h : s.Thawed) (core pa : Nat) : (s.exchangeTags core pa).Thawed := by
  unfold State.exchangeTags
  split
  · exact h
  · dsimp only
    split
    · exact (h.adopt _ _).adopt _ _
    · exact h

theorem State.Thawed.exchangeSpan (h : s.Thawed) (core pa n : Nat) : (s.exchangeSpan core pa n).Thawed :=
  List.foldlRecOn (motive := State.Thawed) (linesOf pa n) _ h fun _ ht a _ => ht.exchangeTags core a

/-- Before a write only the granules that it touches are noted (R330). -/
theorem State.Thawed.prepare (h : s.Thawed) (v pa : Nat) (gen : Dword) :
    ∃ t, s.prepare v pa gen = some t ∧ t.Thawed ∧ t.mem = s.mem := by
  have hw : ((s.vf v).part.onWrite s.mem s.dev.badWords pa gen)
      = some { (s.vf v).part with touched := insertNat (pa / 4096 * 4096) (s.vf v).part.touched } := by
    simp only [Partition.onWrite, h v]
  have hp : s.prepare v pa gen = some (s.updVf v fun f =>
      { f with part := { (s.vf v).part with touched := insertNat (pa / 4096 * 4096) (s.vf v).part.touched } }) := by
    simp only [State.prepare, hw, Option.map_some, Partition.copied, h v, Nat.lt_irrefl, if_false]
  exact ⟨_, hp, h.updVf v (by exact fun _ => rfl) (h v), rfl⟩

/-- A write within a line is performed. -/
theorem State.Thawed.modifyLine (h : s.Thawed) (pa n : Nat) (g : List Byte → List Byte) (fresh : Bool) (gen : Option Dword) :
    ∃ t, s.modifyLine pa n g fresh gen = some t ∧ t.Thawed ∧ t.mem = writeBytes s.mem pa (g (readBytes s.mem pa n)) := by
  unfold State.modifyLine
  extract_lets bytes done
  have hdone (t : State) : ((done t).mem = writeBytes t.mem pa bytes) ∧ (t.Thawed → (done t).Thawed) := ⟨rfl, fun h => h⟩
  clear_value done
  split
  next => exact ⟨_, rfl, (hdone s).2 h, (hdone s).1⟩
  next v _ =>
    extract_lets p own
    obtain ⟨t, ht, hthawed, hmem⟩ := h.prepare v pa own
    rw [ht]
    refine ⟨_, rfl, (hdone _).2 ?_, (hdone _).1.trans ?_⟩
    · split
      · exact hthawed.updVf v (by exact fun _ => rfl) (by simp only [hthawed v, Option.map_none])
      · exact hthawed
    · split
      · exact congrArg (writeBytes · pa bytes) hmem
      · exact congrArg (writeBytes · pa bytes) hmem

/-- Lines written one after the other are all performed. -/
theorem State.Thawed.writeLines (h : s.Thawed) (gen : Option Dword) (ps : List (Nat × List Byte)) :
    ∃ t, ps.foldl (fun acc x => acc.bind fun t => t.writeLine x.1 x.2 gen) (some s) = some t ∧ t.Thawed
      ∧ t.mem = ps.foldl (fun m x => writeBytes m x.1 x.2) s.mem := by
  induction ps generalizing s with
  | nil => exact ⟨s, rfl, h, rfl⟩
  | cons x ps ih =>
    obtain ⟨u, hu, huthawed, hmem⟩ := h.modifyLine x.1 x.2.length (fun _ => x.2) true gen
    obtain ⟨t, ht, htthawed, htmem⟩ := ih huthawed
    refine ⟨t, ?_, htthawed, ?_⟩
    · rw [List.foldl_cons, Option.bind_some, State.writeLine, hu]
      exact ht
    · rw [htmem, hmem]
      rfl

theorem State.Thawed.writePhys (h : s.Thawed) (pa : Nat) (bytes : List Byte) (gen : Option Dword) :
    ∃ t, s.writePhys pa bytes gen = some t ∧ t.Thawed ∧ t.mem = writeBytes s.mem pa bytes := by
  obtain ⟨t, ht, hthawed, hmem⟩ := h.writeLines gen (linePieces (bytes.length / 128 + 2) pa bytes)
  exact ⟨t, ht, hthawed, hmem.trans (foldl_linePieces (by omega) s.mem)⟩

/-- A write of a core is performed at once when no image is frozen and no write waits at its lines. -/
theorem State.Thawed.coreWrite (h : s.Thawed) {pa : Nat} {bytes : List Byte} (hb : s.lineBusy pa bytes.length = false)
    (core ctx : Nat) : (s.coreWrite core ctx pa bytes []).mem = writeBytes s.mem pa bytes := by
  obtain ⟨⟨_, hx⟩, -⟩ := State.Adopts.exchangeSpan s core pa bytes.length
  have hbusy : (s.exchangeSpan core pa bytes.length).lineBusy pa bytes.length = false := by rw [hx]; exact hb
  have hmem : (s.exchangeSpan core pa bytes.length).mem = s.mem := by rw [hx]
  obtain ⟨t, ht, -, htmem⟩ := (h.exchangeSpan core pa bytes.length).writePhys pa bytes
    ((s.exchangeSpan core pa bytes.length).coreGen core pa)
  rw [hmem] at htmem
  simp only [State.coreWrite, State.partWrite, hbusy, Bool.false_eq_true, if_false, ht]
  exact htmem

theorem length_leBytes (n x : Nat) : (leBytes n x).length = n := by
  induction n generalizing x with
  | zero => rfl
  | succ n ih => rw [leBytes, List.length_cons, ih]

/-- A context in which a sheaf has got its slot. -/
def Context.posted (id p : Nat) (c : Context) : Context :=
  { c with sheaves := c.sheaves.map fun (y : Sheaf) => if y.id == id then { y with place := some p } else y }

theorem Context.place_of_posted {id p : Nat} {c : Context} {y : Sheaf} (hy : y ∈ (c.posted id p).sheaves) (h : y.id = id) :
    y.place = some p := by
  obtain ⟨z, -, rfl⟩ := List.mem_map.1 hy
  by_cases hz : z.id = id
  · rw [if_pos (beq_iff_eq.2 hz)]
  · rw [if_neg (by simpa using hz)] at h
    exact absurd h hz

/-- A sheaf record has 256 bytes (R300). -/
theorem Sheaf.length_record (x : Sheaf) (place : Nat) : (x.record place).length = 256 := by
  simp only [Sheaf.record, List.length_flatMap, length_leBytes]
  simp

end Sys2Proof.Machine

namespace Sys2Proof.Claims

open Sys2Proof.Machine

variable {s t : State}

theorem thawed_of_noFrozen (h : noFrozen s) : s.Thawed := by
  intro v
  unfold State.vf
  cases hf : s.vfs.find? fun x => x.id == v with
  | none => rfl
  | some x => exact h x (List.mem_of_find?_eq_some hf)

/-- A memory in which bytes have been written holds them. -/
theorem holds_of_writeBytes {p : Nat} {bs : List Byte} (h : t.mem = writeBytes s.mem p bs) : Holds s t p bs := by
  rw [Holds, h]
  refine ⟨readBytes_writeBytes _ _ _, fun a ha => ?_⟩
  rw [memGet_writeBytes, if_neg (by omega)]

/-- A sheaf is posted (R300). -/
theorem sheafPost_next {core p : Nat} {x : Sheaf} (hx : s.nextSheaf core = some (x, p)) (hf : noFrozen s)
    (hb : s.lineBusy p 256 = false) : Happens (.sheafPost core) s fun t =>
      Holds s t p (x.record (match s.block? x.blk with
        | some b => b.place x.slot
        | none => x.slot))
      ∧ (t.cluster (clusterOf core)).intake = (s.cluster (clusterOf core)).intake ++ [(x.ctx, p)]
      ∧ ∀ c, s.ctx? x.ctx = some c → ∃ c', t.ctx? x.ctx = some c'
        ∧ ∀ y' ∈ c'.sheaves, y'.id = x.id → y'.place = some p := by
  let place := match s.block? x.blk with
    | some b => b.place x.slot
    | none => x.slot
  have hlen : (x.record place).length = 256 := Sheaf.length_record x place
  have hmem := (thawed_of_noFrozen hf).coreWrite (bytes := x.record place) (by rw [hlen]; exact hb) core x.ctx
  obtain ⟨_, _, _, _, _, _, _, hw⟩ := State.StoreOnly.coreWrite s core x.ctx p (x.record place) []
  have he : exec (.sheafPost core) s = .next (((s.coreWrite core x.ctx p (x.record place) []).updCtx x.ctx
      (Context.posted x.id p)).updCluster (clusterOf core) fun k => { k with intake := k.intake ++ [(x.ctx, p)] }) := by
    change execSheafPost core s = _
    simp only [execSheafPost, State.postSheaf, hx]
    rfl
  refine ⟨_, he, holds_of_writeBytes hmem, ?_, fun c hc => ?_⟩
  · rw [State.cluster_updCluster _ _ (by exact fun _ => rfl)]
    exact congrArg (fun l => l ++ [(x.ctx, p)]) (congrArg Cluster.intake (State.cluster_of_clusters (by rw [hw]; rfl) _))
  · refine ⟨c.posted x.id p, ?_, fun y hy hid => Context.place_of_posted hy hid⟩
    have hctx : (s.coreWrite core x.ctx p (x.record place) []).ctx? x.ctx = some c := by
      rw [hw]
      exact hc
    exact (State.ctx?_updCtx _ x.ctx (Context.posted x.id p) fun _ => rfl).trans (congrArg _ hctx)

end Sys2Proof.Claims
end

section
/-!
SUPPORT. A fetch of a block that the instruction cache does not hold (R305).
-/

namespace Sys2Proof.Machine

variable {s t u : State} {core ctx block pa : Nat}

theorem leOf_bytes (m : Memory) (a n : Nat) : leOf ((List.range n).map fun j => memGet m (a + j)) = readLE m a n := by
  induction n generalizing a with
  | zero => rfl
  | succ n ih =>
    rw [List.range_succ_eq_map, List.map_cons, List.map_map, leOf, readLE, ← ih]
    simp only [Nat.add_zero]
    congr 3
    refine List.map_congr_left fun j _ => ?_
    exact congrArg (memGet m) (by simp only [Nat.succ_eq_add_one]; omega)

/-- The words of a block that no cache and no older code page holds are those of memory. -/
theorem State.codeWords_memory (hh : s.codeHeld core ctx block = none)
    (hc : ∀ x ∈ s.code, ∀ k, k < 64 → x.leaf.covers ctx (block + k) = false) (pa : Nat) :
    s.codeWords core ctx block pa = (List.range 16).map fun i => BitVec.ofNat 32 (readLE s.mem (pa + 4 * i) 4) := by
  have hbyte (i j : Nat) (hi : i < 16) (hj : j < 4) :
      s.codeByte ctx (block + 4 * i + j) (pa + 4 * i + j) = memGet s.mem (pa + 4 * i + j) := by
    have hnone : s.code.find? (fun c => c.leaf.covers ctx (block + 4 * i + j)) = none :=
      List.find?_eq_none.2 fun x hx => by
        rw [Nat.add_assoc, hc x hx (4 * i + j) (by omega)]
        exact Bool.false_ne_true
    rw [State.codeByte, hnone]
  simp only [State.codeWords, hh]
  refine List.map_congr_left fun i hi => congrArg (BitVec.ofNat 32) ?_
  rw [← leOf_bytes]
  exact congrArg leOf (List.map_congr_left fun j hj => hbyte i j (List.mem_range.1 hi) (List.mem_range.1 hj))

/-- Entering a block gives the warp its words, and keeps memory. -/
theorem State.enterBlock_frame (s : State) (r : WarpRef) (core ctx block pa : Nat) (leaf : Tlb) :
    ∃ u, (∃ co cs, u = { s with code := co, cores := cs }) ∧ s.enterBlock r core ctx block pa leaf =
      u.updWarp r fun w => { w with fetch := some (block, s.codeWords core ctx block pa), since := s.now } := by
  unfold State.enterBlock
  extract_lets words held x s1 s2
  have h1 : ∃ co cs, s1 = { s with code := co, cores := cs } := by
    unfold s1
    split <;> exact ⟨_, _, rfl⟩
  have hnow : s2.now = s.now := by
    obtain ⟨_, _, h1⟩ := h1
    unfold s2
    split <;> rw [h1]
  refine ⟨s2, ?_, ?_⟩
  · obtain ⟨_, _, h1⟩ := h1
    unfold s2
    split
    · exact ⟨_, _, h1⟩
    · rw [h1]
      exact ⟨_, _, rfl⟩
  · rw [hnow]

/-- The state in which a fetch takes its block. -/
def State.fetched (s : State) (core ctx pa : Nat) : State := (s.exchangeTags core pa).correctSpan ctx pa 64

theorem State.WalkOnly.fetched (s : State) (core ctx pa : Nat) : s.WalkOnly (s.fetched core ctx pa) :=
  (of_adopts (.exchangeTags s core pa)).trans (of_readOnly (.correctSpan _ ctx pa 64))

theorem State.WalkOnly.codeHeld (h : s.WalkOnly t) : t.codeHeld core ctx block = s.codeHeld core ctx block := by
  rw [State.codeHeld, h.icache]
  rfl

/-- A fetch that misses and finds its frame. -/
theorem State.fetch_miss {r : WarpRef} {b : Block} {w : Warp} (hw : s.warp? r = some (b, w))
    (hwant : w.wantsFetch (s.imageOf b) = true)
    (hcmp : w.flt.skipComp = some w.ctl.pc ∨ s.comparators (s.ctxOf b) (s.imageOf b + BitVec.ofNat 64 w.ctl.pc) = 0)
    (hrun : s.aheadOf b.core r = none)
    (ht : s.translate b.core (s.ctxOf b) ((s.imageOf b + BitVec.ofNat 64 w.ctl.pc) &&& ~~~63#64) .fetch = (.phys pa, u))
    (hpa : pa + 64 ≤ Config.dramBytes) (hbad : s.spanBad pa 64 = false)
    (hh : s.codeHeld b.core (s.ctxOf b) ((s.imageOf b + BitVec.ofNat 64 w.ctl.pc) &&& ~~~63#64).toNat = none) :
    ∃ leaf, s.fetch r = .ok ((u.fetched b.core (s.ctxOf b) pa).enterBlock r b.core (s.ctxOf b)
      ((s.imageOf b + BitVec.ofNat 64 w.ctl.pc) &&& ~~~63#64).toNat pa leaf) := by
  have hu : s.WalkOnly u := by
    have h := State.WalkOnly.translate s b.core (s.ctxOf b) ((s.imageOf b + BitVec.ofNat 64 w.ctl.pc) &&& ~~~63#64) .fetch
    rwa [ht] at h
  have hhit : (if w.flt.skipComp == some w.ctl.pc then 0
      else s.comparators (s.ctxOf b) (s.imageOf b + BitVec.ofNat 64 w.ctl.pc)) = 0 := by
    rcases hcmp with h | h
    · simp [h]
    · simp [h]
  have hheld := hu.codeHeld.trans hh
  have hread : u.readCode b.core (s.ctxOf b) ((s.imageOf b + BitVec.ofNat 64 w.ctl.pc) &&& ~~~63#64).toNat = u := by
    rw [State.readCode, hheld]
    rfl
  have hbad' : (u.exchangeTags b.core pa).spanBad pa 64 = false := by
    have hx := hu.trans (.of_adopts (.exchangeTags u b.core pa))
    rw [State.spanBad, hx.badWords]
    exact hbad
  have hdram : ¬ Config.dramBytes < pa + 64 := Nat.not_lt.2 hpa
  refine ⟨((u.core b.core).itlb.find? fun x => x.covers (s.ctxOf b)
    ((s.imageOf b + BitVec.ofNat 64 w.ctl.pc) &&& ~~~63#64).toNat).getD
    (windowLeaf (s.ctxOf b) ((s.imageOf b + BitVec.ofNat 64 w.ctl.pc) &&& ~~~63#64).toNat pa), ?_⟩
  simp only [State.fetch, hw, hwant, hhit, hrun, State.fetchLeaf, ht, hread, hheld, hbad', hdram, Option.isSome_none,
    Bool.not_true, Bool.false_eq_true, if_false, bne_self_eq_false]
  rfl

end Sys2Proof.Machine

namespace Sys2Proof.Claims

open Sys2Proof.Machine

variable {s u : State}

/-- A fetch from memory (R305). -/
theorem instructionFetch_miss {r : WarpRef} {b : Block} {w : Warp} {pa : Nat} (hw : s.warp? r = some (b, w))
    (hwant : w.wantsFetch (s.imageOf b) = true)
    (hcmp : w.flt.skipComp = some w.ctl.pc ∨ s.comparators (s.ctxOf b) (nextVa s b w) = 0)
    (hrun : s.aheadOf b.core r = none)
    (ht : s.translate b.core (s.ctxOf b) (nextVa s b w &&& ~~~63#64) .fetch = (.phys pa, u))
    (hpa : pa + 64 ≤ Config.dramBytes) (hbad : s.spanBad pa 64 = false)
    (hcache : ∀ x ∈ (s.core b.core).icache, ¬ (x.ctx = s.ctxOf b ∧ x.va = (nextVa s b w &&& ~~~63#64).toNat))
    (hcode : ∀ x ∈ s.code, ∀ k, k < 64 →
      x.leaf.covers (s.ctxOf b) ((nextVa s b w &&& ~~~63#64).toNat + k) = false) :
    Happens (.instructionFetch r) s fun t => SameMemory s t
      ∧ ∃ w', warpOf t r = some w' ∧ w'.ctl = w.ctl ∧ w'.regs = w.regs ∧ w'.run = w.run
        ∧ w'.fetch = some ((nextVa s b w &&& ~~~63#64).toNat,
            (List.range 16).map fun i => BitVec.ofNat 32 (readLE s.mem (pa + 4 * i) 4)) := by
  have hheld : s.codeHeld b.core (s.ctxOf b) (nextVa s b w &&& ~~~63#64).toNat = none :=
    List.find?_eq_none.2 fun x hx => by simpa using hcache x hx
  have hwalk : s.WalkOnly (u.fetched b.core (s.ctxOf b) pa) := by
    have h := State.WalkOnly.translate s b.core (s.ctxOf b) (nextVa s b w &&& ~~~63#64) .fetch
    rw [ht] at h
    exact h.trans (.fetched u _ _ _)
  obtain ⟨leaf, hfetch⟩ := State.fetch_miss hw hwant hcmp hrun ht hpa hbad hheld
  have hheld' := hwalk.codeHeld.trans hheld
  generalize u.fetched b.core (s.ctxOf b) pa = v at hwalk hfetch hheld'
  obtain ⟨_, _, _, _, _, _, _, hv⟩ := hwalk.rest
  have hwords := State.codeWords_memory hheld' (by rw [hv]; exact hcode) pa
  have hmem : v.mem = s.mem := by rw [hv]
  rw [hmem] at hwords
  obtain ⟨x, ⟨_, _, hx⟩, henter⟩ := v.enterBlock_frame r b.core (s.ctxOf b) (nextVa s b w &&& ~~~63#64).toNat pa leaf
  have he : exec (.instructionFetch r) s = .next (v.enterBlock r b.core (s.ctxOf b) (nextVa s b w &&& ~~~63#64).toNat pa leaf) := by
    change execInstructionFetch r s = _
    rw [execInstructionFetch, hfetch]
    rfl
  rw [henter, hwords] at he
  refine ⟨_, he, ?_, { w with fetch := some _, since := v.now }, ?_, rfl, rfl, rfl, rfl⟩
  · rw [hx, hv]
    exact ⟨rfl, rfl, rfl⟩
  · rw [warpOf_updWarp _ _ (by exact fun _ => rfl), warpOf_of_blocks (s := s) (by rw [hx, hv]), warpOf, hw]
    rfl

end Sys2Proof.Claims
end

section
/-!
SUPPORT. The delivery of a complete result to a v register (R91).
-/

namespace Sys2Proof.Machine

variable {s t : State} {r : WarpRef} {b : Block} {w : Warp} {i : BitVec 6} {x : Result}

/-- The warp with values in a v register, lane by lane. -/
def Warp.putV (w : Warp) (i : Nat) (vals : List (Nat × Nat)) : Warp :=
  vals.foldl (fun w y => w.setV y.1 i (BitVec.ofNat 32 y.2)) w

/-- What a v register holds after values went to it. -/
theorem Warp.putV_other (w : Warp) (i : Nat) {vals : List (Nat × Nat)} {l j : Nat} (hi : i < 64) (hj : j < 64)
    (h : j ≠ i ∨ l ∉ vals.map Prod.fst) :
    sparseGet 0 (w.putV i vals).regs.v (64 * l + j) = sparseGet 0 w.regs.v (64 * l + j) := by
  induction vals generalizing w with
  | nil => rfl
  | cons y ys ih =>
    have hne : 64 * l + j ≠ 64 * y.1 + i := by
      rcases h with h | h
      · omega
      · have : l ≠ y.1 := fun e => h (by simp [e])
        omega
    refine (ih (w.setV y.1 i (BitVec.ofNat 32 y.2)) (h.imp id fun h hm => h (List.mem_cons_of_mem _ hm))).trans ?_
    exact sparseGet_set_other _ _ _ hne

theorem Warp.putV_same (w : Warp) {i : Nat} {vals : List (Nat × Nat)} {y : Nat × Nat} (hi : i < 64)
    (hn : (vals.map Prod.fst).Nodup) (hy : y ∈ vals) :
    sparseGet 0 (w.putV i vals).regs.v (64 * y.1 + i) = BitVec.ofNat 32 y.2 := by
  induction vals generalizing w with
  | nil => cases hy
  | cons z zs ih =>
    rw [List.map_cons, List.nodup_cons] at hn
    rcases List.mem_cons.1 hy with rfl | hy
    · exact (Warp.putV_other (w.setV y.1 i (BitVec.ofNat 32 y.2)) i hi hi (.inr hn.1)).trans (sparseGet_set_same _ _ _ _)
    · exact ih (w.setV z.1 i (BitVec.ofNat 32 z.2)) hn.2 hy

/-- A put changes the v registers alone. -/
theorem Warp.putV_frame (w : Warp) (i : Nat) (vals : List (Nat × Nat)) :
    ∃ v, w.putV i vals = { w with regs := { w.regs with v := v } } := by
  induction vals generalizing w with
  | nil => exact ⟨_, rfl⟩
  | cons y ys ih =>
    obtain ⟨v, hv⟩ := ih (w.setV y.1 i (BitVec.ofNat 32 y.2))
    exact ⟨v, hv⟩

/-- The lanes of a result are listed once. -/
theorem Result.nodup_values (x : Result) : (x.values.map Prod.fst).Nodup := by
  rw [Result.values, List.map_map]
  exact (List.map_id _).symm ▸ List.nodup_range.filter _

/-- Values that go to a v register. -/
theorem State.foldl_writeRegs_v (s : State) (r : WarpRef) (i : BitVec 6) (vals : List (Nat × Nat)) :
    vals.foldl (fun s y => s.writeRegs r y.1 (.v i) 1 y.2) s = s.updWarp r fun w => w.putV i.toNat vals := by
  induction vals generalizing s with
  | nil => exact (State.updWarp_self s r).symm
  | cons y ys ih =>
    refine (ih _).trans ?_
    exact State.updWarp_updWarp s r _ fun _ => rfl

/-- The warp with values in a v register whose lanes lose their marks (R312). -/
def Warp.takeV (w : Warp) (i : BitVec 6) (vals : List (Nat × Nat)) : Warp :=
  let w := w.putV i.toNat vals
  { w with flt := { w.flt with marks := clearMarks (.v i) 1 (maskOf (vals.map Prod.fst)) w.flt.marks } }

theorem Warp.takeV_frame (w : Warp) (i : BitVec 6) (vals : List (Nat × Nat)) :
    ∃ f, w.takeV i vals = { w with regs := { w.regs with v := (w.putV i.toNat vals).regs.v }, flt := f } := by
  obtain ⟨v, hv⟩ := w.putV_frame i.toNat vals
  unfold Warp.takeV
  rw [hv]
  exact ⟨_, rfl⟩

theorem Warp.slot_takeV (w : Warp) (i : BitVec 6) (vals : List (Nat × Nat)) : (w.takeV i vals).slot = w.slot := by
  obtain ⟨_, h⟩ := w.takeV_frame i vals
  rw [h]

theorem State.writeDest_v (s : State) (r : WarpRef) (i : BitVec 6) (vals : List (Nat × Nat)) :
    s.writeDest r (.v i) 1 vals = s.updWarp r fun w => w.takeV i vals := by
  have hput (w : Warp) : (w.putV i.toNat vals).slot = w.slot := by
    obtain ⟨_, h⟩ := w.putV_frame i.toNat vals
    rw [h]
  have hpass (t : State) : t.passTags r (if vals.isEmpty then .sp 0 else .v i) = t := by
    split <;> rfl
  rw [State.writeDest, hpass, destVals, State.foldl_writeRegs_v]
  exact State.updWarp_updWarp (f := fun w => w.putV i.toNat vals) s r _ hput

/-- The warp with the marks of a result. -/
def Warp.marked (w : Warp) (ms : List Mark) : Warp := { w with flt := { w.flt with marks := w.flt.marks ++ ms } }

theorem Warp.marked_nil (w : Warp) : w.marked [] = w := by
  rw [Warp.marked, List.append_nil]

theorem Warp.marked_marked (w : Warp) (ms ns : List Mark) : (w.marked ms).marked ns = w.marked (ms ++ ns) := by
  unfold Warp.marked
  rw [← List.append_assoc]

/-- Marks of v registers join those of the warp. -/
theorem State.addMarks_v (s : State) (r : WarpRef) {ms : List Mark} (h : ∀ m ∈ ms, ∃ n, m.reg = .v n) :
    s.addMarks r ms = s.updWarp r fun w => w.marked ms := by
  induction ms generalizing s with
  | nil =>
    simp only [Warp.marked_nil]
    exact (State.updWarp_self s r).symm
  | cons m ms ih =>
    obtain ⟨n, hn⟩ := h m List.mem_cons_self
    have hstep : s.addMarks r (m :: ms) = (s.updWarp r fun w => w.marked [m]).addMarks r ms := by
      simp only [State.addMarks, List.foldl_cons, hn]
      rfl
    rw [hstep, ih _ fun x hx => h x (List.mem_cons_of_mem _ hx),
      State.updWarp_updWarp (f := fun w => w.marked [m]) _ _ _ fun _ => rfl]
    simp only [Warp.marked_marked, List.singleton_append]

/-- The marks of a result for a v register are v registers'. -/
theorem Result.reg_marks (hd : x.dst = some (.v i)) : ∀ m ∈ x.marks, ∃ n, m.reg = .v n := by
  intro m hm
  unfold Result.marks at hm
  split at hm
  · cases hm
  · rw [hd] at hm
    obtain ⟨k, -, hm⟩ := List.mem_flatMap.1 hm
    simp only [Operand.nth, Operand.reg?, Option.toList_some, List.flatMap_cons, List.flatMap_nil, List.append_nil,
      Reg.each, List.map_cons, List.map_nil, List.mem_singleton] at hm
    exact ⟨_, congrArg Mark.reg hm⟩

/-- The delivery of a complete result of an ordinary word to a v register. -/
theorem State.deliver_v (hw : s.warp? r = some (b, w)) (hf : w.results.find? (fun y => y.id == x.id) = some x)
    (hready : s.resultReady b x = true) (hfault : x.fault = none) (hpair : x.pair = none) (hd : x.dst = some (.v i))
    (hregs : x.regs = 1) (hwrite : x.write = true) (hkeep : x.discard = false) (hrun : w.run = .ready) :
    s.deliver r x.id = s.updWarp r fun w =>
      (((w.retireResult x).takeV i x.values).marked x.marks).endSwitch s.now := by
  have hmirror (t : State) : t.mirror r b x = t := by
    rw [State.mirror, hpair]
  have hslot (w : Warp) : ((w.retireResult x).takeV i x.values).slot = w.slot := Warp.slot_takeV _ _ _
  have hall : ((s.updWarp r fun w => w.retireResult x).writeDest r (.v i) 1 x.values).addMarks r x.marks
      = s.updWarp r fun w => ((w.retireResult x).takeV i x.values).marked x.marks := by
    rw [State.writeDest_v, State.updWarp_updWarp (f := fun w => w.retireResult x) _ _ _ fun _ => rfl,
      State.addMarks_v _ _ (Result.reg_marks hd),
      State.updWarp_updWarp (f := fun w => (w.retireResult x).takeV i x.values) _ _ _ hslot]
  have hthere := State.warp?_updWarp (fun w => ((w.retireResult x).takeV i x.values).marked x.marks) hw hslot
  have hrun' : (((w.retireResult x).takeV i x.values).marked x.marks).run = .ready := by
    obtain ⟨_, hv⟩ := (w.retireResult x).takeV_frame i x.values
    unfold Warp.marked
    rw [hv]
    exact hrun
  simp only [State.deliver, hw, hf, hready, hfault, hd, hregs, hwrite, hkeep, hmirror, hall, Bool.not_true, Bool.not_false,
    Bool.and_self, Bool.false_eq_true, if_false, if_true]
  rw [State.settle, hthere]
  simp only [hrun']
  exact State.updWarp_updWarp (f := fun w => ((w.retireResult x).takeV i x.values).marked x.marks) s r _ hslot

/-- The warp after the delivery of a result to a v register. -/
def Warp.delivered (w : Warp) (i : BitVec 6) (x : Result) (now : Nat) : Warp :=
  (((w.retireResult x).takeV i x.values).marked x.marks).endSwitch now

theorem Warp.endSwitch_ready (h : w.run = .ready) (now : Nat) : w.endSwitch now = w := by
  rw [Warp.endSwitch, h]
  rfl

/-- A ready warp goes on with its registers, control state and lists as the result leaves them. -/
theorem Warp.delivered_ready (h : w.run = .ready) (i : BitVec 6) (x : Result) (now : Nat) :
    ∃ f, w.delivered i x now = { w.retireResult x with
      regs := { w.regs with v := ((w.retireResult x).putV i.toNat x.values).regs.v }, flt := f } := by
  obtain ⟨f, hv⟩ := (w.retireResult x).takeV_frame i x.values
  have hrun : (((w.retireResult x).takeV i x.values).marked x.marks).run = .ready := by
    rw [hv]
    exact h
  rw [Warp.delivered, Warp.endSwitch_ready hrun, hv]
  exact ⟨_, rfl⟩

theorem Warp.slot_delivered (w : Warp) (i : BitVec 6) (x : Result) (now : Nat) : (w.delivered i x now).slot = w.slot := by
  have hswitch (w : Warp) : (w.endSwitch now).slot = w.slot := by
    unfold Warp.endSwitch
    split <;> rfl
  exact (hswitch _).trans (Warp.slot_takeV (w.retireResult x) i x.values)

end Sys2Proof.Machine

namespace Sys2Proof.Claims

open Sys2Proof.Machine

variable {s : State} {r : WarpRef} {b : Block} {w : Warp} {g : Grid} {x : Result} {i : BitVec 6}

/-- The delivery of a plain result (R91). -/
theorem exec_variableLatencyResult (hw : s.warp? r = some (b, w)) (hrun : w.run = .ready) (hev : w.evicted = false)
    (hf : w.results.find? (fun y => y.id == x.id) = some x) (hx : plainResult s x i) :
    exec (.variableLatencyResult r x.id) s = .next (s.updWarp r fun w => w.delivered i x s.now) := by
  obtain ⟨hneed, hdue, hready, hafter, hpair, hwrite, hkeep, hjudged, -, -, hd, hregs⟩ := hx
  have hres : s.resultReady b x = true := by
    simp only [State.resultReady, hneed, hready, hafter, beq_self_eq_true, Bool.true_or, Bool.and_true, Bool.true_and,
      decide_eq_true_eq]
    exact hdue
  have hfault : x.fault = none := by
    simp only [Result.fault, hd, hjudged, Bool.and_false, Bool.false_eq_true, if_false]
  have hdel := State.deliver_v hw hf hres hfault hpair hd hregs hwrite hkeep hrun
  have hthere := State.warp?_updWarp (fun w => w.delivered i x s.now) hw fun w => w.slot_delivered i x s.now
  have hin : (w.delivered i x s.now).evicted = false := by
    obtain ⟨_, h⟩ := Warp.delivered_ready hrun i x s.now
    rw [h]
    exact hev
  change Host.Outcome.next ((s.deliver r x.id).refresh r) = _
  rw [hdel]
  refine congrArg Host.Outcome.next ?_
  change State.refresh (s.updWarp r fun w => w.delivered i x s.now) r = _
  have hnone (o : Option Nat) : o.filter (fun _ => false) = none := by cases o <;> rfl
  simp only [State.refresh, hthere, hin, hnone]

theorem variableLatencyResult_plain (hw : s.warp? r = some (b, w)) (hg : s.grid? b.grid = some g) (hrun : w.run = .ready)
    (hev : w.evicted = false) (hf : w.results.find? (fun y => y.id == x.id) = some x) (hx : plainResult s x i) :
    Happens (.variableLatencyResult r x.id) s fun t => SameMemory s t
      ∧ (∀ y ∈ x.values, t.operand r y.1 (.v i) = BitVec.ofNat 32 y.2)
      ∧ (∀ (l : Nat) (j : BitVec 6), l < 64 → (j ≠ i ∨ l ∉ x.values.map Prod.fst) →
          t.operand r l (.v j) = s.operand r l (.v j))
      ∧ ∃ w', warpOf t r = some w' ∧ w'.pend = clearPend w.pend x.pend
        ∧ w'.results = w.results.filter (fun y => y.id != x.id) ∧ w'.run = .ready
        ∧ w'.ctl.status = statusOr w.ctl.status x.flags ∧ w'.ctl.pc = w.ctl.pc := by
  have hthere := State.warp?_updWarp (fun w => w.delivered i x s.now) hw fun w => w.slot_delivered i x s.now
  obtain ⟨f, hwarp⟩ := Warp.delivered_ready hrun i x s.now
  have hop (l : Nat) (j : BitVec 6) : (s.updWarp r fun w => w.delivered i x s.now).operand r l (.v j)
      = sparseGet 0 ((w.retireResult x).putV i.toNat x.values).regs.v (64 * l + j.toNat) := by
    rw [State.operand_eq hthere hg, hwarp]
    rfl
  refine ⟨_, exec_variableLatencyResult hw hrun hev hf hx, ⟨rfl, rfl, rfl⟩, fun y hy => ?_, fun l j hl h => ?_,
    w.delivered i x s.now, ?_, ?_⟩
  · rw [hop]
    exact Warp.putV_same _ i.isLt x.nodup_values hy
  · rw [hop, State.operand_eq hw hg]
    exact Warp.putV_other _ _ i.isLt j.isLt (h.imp (fun h e => h (BitVec.eq_of_toNat_eq e)) id)
  · rw [warpOf, hthere]
    rfl
  · obtain ⟨-, -, -, -, -, -, hkeep, -, hlate, hevent, -, -⟩ := hx
    rw [hwarp]
    refine ⟨rfl, rfl, hrun, ?_, rfl⟩
    simp only [Warp.retireResult, hkeep, hlate, hevent, Bool.false_eq_true, if_false]
    rfl

end Sys2Proof.Claims
end

section
/-!
SUPPORT. The order and the packing of a window (R88, R89).
-/

namespace Sys2Proof.Machine

/-! ## Sorting by an order -/

section

variable {α β : Type} {before : α → α → Bool}

theorem insertBy_perm (x : α) (l : List α) : (insertBy before x l).Perm (x :: l) := by
  induction l with
  | nil => exact List.Perm.refl _
  | cons y ys ih =>
    unfold insertBy
    split
    · exact List.Perm.refl _
    · exact (ih.cons y).trans (List.Perm.swap x y ys)

theorem foldl_insertBy_perm (l m : List α) : (l.foldl (fun m x => insertBy before x m) m).Perm (l ++ m) := by
  induction l generalizing m with
  | nil => exact List.Perm.refl _
  | cons x l ih => exact (ih _).trans (((insertBy_perm x m).append_left l).trans List.perm_middle)

theorem sortBy_perm (l : List α) : (sortBy before l).Perm l := by
  have h := foldl_insertBy_perm (before := before) l []
  rwa [List.append_nil] at h

/-- An item inserted behind what is not after it keeps a list in order. -/
theorem pairwise_insertBy (ht : ∀ x y z, before x y = true → before y z = true → before x z = true)
    (ha : ∀ x y, before x y = true → before y x = false) (x : α) {l : List α}
    (h : l.Pairwise fun a b => before b a = false) : (insertBy before x l).Pairwise fun a b => before b a = false := by
  induction l with
  | nil => exact List.pairwise_singleton _ x
  | cons y ys ih =>
    obtain ⟨hy, hys⟩ := List.pairwise_cons.1 h
    unfold insertBy
    split
    next hxy =>
      refine List.pairwise_cons.2 ⟨fun z hz => ?_, h⟩
      rcases List.mem_cons.1 hz with rfl | hz
      · exact ha _ _ hxy
      · by_contra hzx
        have := ht _ _ _ (Bool.eq_true_of_not_eq_false hzx) hxy
        rw [hy z hz] at this
        cases this
    next hxy =>
      refine List.pairwise_cons.2 ⟨fun z hz => ?_, ih hys⟩
      rcases List.mem_cons.1 ((insertBy_perm x ys).mem_iff.1 hz) with rfl | hz
      · exact Bool.eq_false_of_not_eq_true hxy
      · exact hy z hz

theorem pairwise_sortBy (ht : ∀ x y z, before x y = true → before y z = true → before x z = true)
    (ha : ∀ x y, before x y = true → before y x = false) (l : List α) :
    (sortBy before l).Pairwise fun a b => before b a = false :=
  List.foldlRecOn (motive := List.Pairwise fun a b => before b a = false) l _ List.Pairwise.nil
    fun _ h x _ => pairwise_insertBy ht ha x h

/-- Sorting of images is the image of a sorting. -/
theorem sortBy_map (before : β → β → Bool) (f : α → β) (l : List α) :
    sortBy before (l.map f) = (sortBy (fun x y => before (f x) (f y)) l).map f := by
  have hins (x : α) (m : List α) : insertBy before (f x) (m.map f) = (insertBy (fun x y => before (f x) (f y)) x m).map f := by
    induction m with
    | nil => rfl
    | cons y ys ih =>
      rw [List.map_cons, insertBy, insertBy]
      split
      · rfl
      · rw [ih, List.map_cons]
  have hfold (l m : List α) : (l.map f).foldl (fun m x => insertBy before x m) (m.map f)
      = (l.foldl (fun m x => insertBy (fun x y => before (f x) (f y)) x m) m).map f := by
    induction l generalizing m with
    | nil => rfl
    | cons x l ih => rw [List.map_cons, List.foldl_cons, List.foldl_cons, hins, ih]
  exact hfold l []

end

/-! ## The order of R88 -/

/-- What a warp stands by in the order, first things first. -/
def Candidate.key (x : Candidate) : List Int :=
  if x.promoted then [0, x.since, x.r.slot, x.r.blk] else [1, -x.rank, x.born, x.r.slot, x.r.blk]

/-- The order of R88 is that of the keys. -/
theorem Candidate.before_iff (x y : Candidate) : x.before y = true ↔ x.key < y.key := by
  cases hx : x.promoted <;> cases hy : y.promoted <;>
    simp only [Candidate.before, Candidate.key, hx, hy, List.cons_lt_cons_iff, bne_self_eq_false, Bool.not_true,
      Bool.not_false, Bool.true_and, Bool.false_and, Bool.false_eq_true, if_true, if_false, bne_iff_ne, List.not_lt_nil]
  · grind
  · simp
  · simp
  · grind

theorem Candidate.before_trans (x y z : Candidate) (h : x.before y = true) (k : y.before z = true) : x.before z = true := by
  rw [Candidate.before_iff] at *
  exact lt_trans h k

theorem Candidate.before_asymm (x y : Candidate) (h : x.before y = true) : y.before x = false := by
  rw [Candidate.before_iff] at h
  refine Bool.eq_false_of_not_eq_true fun k => ?_
  rw [Candidate.before_iff] at k
  exact lt_asymm h k

theorem slotBefore_trans (x y z : WarpRef) (h : slotBefore x y = true) (k : slotBefore y z = true) :
    slotBefore x z = true := by
  unfold slotBefore at *
  grind

theorem slotBefore_asymm (x y : WarpRef) (h : slotBefore x y = true) : slotBefore y x = false := by
  unfold slotBefore at *
  grind

theorem slot_le_of_slotBefore {x y : WarpRef} (h : slotBefore y x = false) : x.slot ≤ y.slot := by
  unfold slotBefore at h
  grind

end Sys2Proof.Machine
end

section
/-!
SUPPORT. An issue window (R88, R89), and the events of the scheduler together.
-/

namespace Sys2Proof.Machine

/-! ## Greedy packing (R89) -/

section

variable {α : Type}

/-- The packing of items that stand for candidates. -/
def packBy (f : α → Candidate) : Nat → Nat → Bool → List α → List α
  | _, _, _, [] => []
  | slots, n, uni, x :: t =>
    if (f x).uniform then
      if n != 0 && uni then x :: packBy f slots (n - 1) false t else packBy f slots n uni t
    else if n != 0 && (f x).width ≤ slots then x :: packBy f (slots - (f x).width) (n - 1) uni t
    else packBy f slots n uni t

theorem packWindow_map (f : α → Candidate) (slots n : Nat) (uni : Bool) (l : List α) :
    packWindow slots n uni (l.map f) = (packBy f slots n uni l).map f := by
  induction l generalizing slots n uni with
  | nil => rfl
  | cons x l ih =>
    rw [List.map_cons, packWindow, packBy]
    split
    · split
      · rw [ih, List.map_cons]
      · exact ih _ _ _
    · split
      · rw [ih, List.map_cons]
      · exact ih _ _ _

/-- Thread-slots that a word takes. -/
def Candidate.cost (x : Candidate) : Nat := if x.uniform then 0 else x.width

/-- A word has room in a window with so many thread-slots and places left. -/
def Candidate.hasRoom (x : Candidate) (slots n : Nat) (uni : Bool) : Prop :=
  n ≠ 0 ∧ if x.uniform then uni = true else x.width ≤ slots

/-- The packing takes a word that has room. -/
theorem packBy_cons_room {f : α → Candidate} {slots n : Nat} {uni : Bool} {x : α} (l : List α)
    (h : (f x).hasRoom slots n uni) :
    packBy f slots n uni (x :: l) = x :: packBy f (slots - (f x).cost) (n - 1) (uni && !(f x).uniform) l := by
  obtain ⟨hn, hroom⟩ := h
  have hn : (n != 0) = true := bne_iff_ne.2 hn
  rw [packBy, Candidate.cost]
  split
  next hu =>
    rw [if_pos hu] at hroom
    simp [hn, hroom, hu]
  next hu =>
    rw [if_neg hu] at hroom
    simp [hn, hroom, hu]

/-- And passes over one that has not. -/
theorem packBy_cons_full {f : α → Candidate} {slots n : Nat} {uni : Bool} {x : α} (l : List α)
    (h : ¬ (f x).hasRoom slots n uni) : packBy f slots n uni (x :: l) = packBy f slots n uni l := by
  rw [packBy]
  split
  next hu =>
    refine if_neg fun hc => h ?_
    simp only [Bool.and_eq_true, bne_iff_ne] at hc
    exact ⟨hc.1, by rw [if_pos hu]; exact hc.2⟩
  next hu =>
    refine if_neg fun hc => h ?_
    simp only [Bool.and_eq_true, bne_iff_ne, decide_eq_true_eq] at hc
    exact ⟨hc.1, by rw [if_neg hu]; exact hc.2⟩

variable {f : α → Candidate}

theorem packBy_sublist (slots n : Nat) (uni : Bool) (l : List α) : (packBy f slots n uni l).Sublist l := by
  induction l generalizing slots n uni with
  | nil => exact List.Sublist.refl _
  | cons x l ih =>
    by_cases h : (f x).hasRoom slots n uni
    · rw [packBy_cons_room l h]
      exact (ih _ _ _).cons_cons x
    · rw [packBy_cons_full l h]
      exact (ih _ _ _).cons x

/-- A window keeps within its places, its thread-slots and its one uniform word. -/
theorem packBy_bounds (slots n : Nat) (uni : Bool) (l : List α) :
    (packBy f slots n uni l).length ≤ n ∧ ((packBy f slots n uni l).map fun x => (f x).cost).sum ≤ slots
      ∧ ((packBy f slots n uni l).filter fun x => (f x).uniform).length ≤ uni.toNat := by
  induction l generalizing slots n uni with
  | nil => simp [packBy]
  | cons x l ih =>
    by_cases h : (f x).hasRoom slots n uni
    · rw [packBy_cons_room l h]
      obtain ⟨hlen, hsum, huni⟩ := ih (slots - (f x).cost) (n - 1) (uni && !(f x).uniform)
      obtain ⟨hn, hroom⟩ := h
      generalize packBy f (slots - (f x).cost) (n - 1) (uni && !(f x).uniform) l = p at hlen hsum huni ⊢
      rw [List.length_cons, List.map_cons, List.sum_cons, List.filter_cons]
      cases hu : (f x).uniform
      · have hcost : (f x).cost = (f x).width := by simp [Candidate.cost, hu]
        simp only [hu, Bool.false_eq_true, if_false, Bool.not_false, Bool.and_true] at hroom huni ⊢
        exact ⟨by omega, by omega, huni⟩
      · have hcost : (f x).cost = 0 := by simp [Candidate.cost, hu]
        simp only [hu, if_true, Bool.not_true, Bool.and_false, Bool.toNat_false, List.length_cons] at hroom huni ⊢
        rw [hroom, Bool.toNat_true]
        exact ⟨by omega, by omega, by omega⟩
    · rw [packBy_cons_full l h]
      exact ih _ _ _

/-- A word that is left out has no room beside those that are packed. -/
theorem packBy_left_out {slots n : Nat} {uni : Bool} {l : List α} {y : α} (hy : y ∈ l) (hout : y ∉ packBy f slots n uni l) :
    (packBy f slots n uni l).length = n ∨ if (f y).uniform then
        uni = false ∨ ∃ x ∈ packBy f slots n uni l, (f x).uniform = true
      else slots < ((packBy f slots n uni l).map fun x => (f x).cost).sum + (f y).width := by
  induction l generalizing slots n uni with
  | nil => cases hy
  | cons x l ih =>
    have hb := packBy_bounds (f := f) slots n uni (x :: l)
    by_cases h : (f x).hasRoom slots n uni
    · rw [packBy_cons_room l h] at hout hb ⊢
      have hne : y ≠ x := fun e => hout (e ▸ List.mem_cons_self)
      have hyl : y ∈ l := (List.mem_cons.1 hy).resolve_left hne
      have hrest := ih hyl fun hm => hout (List.mem_cons_of_mem _ hm)
      obtain ⟨hn, hroom⟩ := h
      rw [List.length_cons, List.map_cons, List.sum_cons] at hb ⊢
      rcases hrest with hfull | hrest
      · exact .inl (by omega)
      · refine .inr ?_
        split at hrest
        next hu =>
          rw [if_pos hu]
          rcases hrest with hnone | ⟨z, hz, hzu⟩
          · cases huni : uni
            · exact .inl rfl
            · rw [huni, Bool.true_and, Bool.not_eq_false'] at hnone
              exact .inr ⟨x, List.mem_cons_self, hnone⟩
          · exact .inr ⟨z, List.mem_cons_of_mem _ hz, hzu⟩
        next hu =>
          rw [if_neg hu]
          omega
    · rw [packBy_cons_full l h] at hout ⊢
      rcases List.mem_cons.1 hy with rfl | hyl
      · by_cases hn : n = 0
        · have hlen := (packBy_bounds (f := f) slots n uni l).1
          exact .inl (by omega)
        · refine .inr ?_
          split
          next hu => exact .inl (Bool.eq_false_of_not_eq_true fun hc => h ⟨hn, by rw [if_pos hu]; exact hc⟩)
          next hu =>
            have hw : ¬ (f y).width ≤ slots := fun hc => h ⟨hn, by rw [if_neg hu]; exact hc⟩
            omega
      · exact ih hyl hout

/-- Where a word is packed, one of its kind that is no wider has room. -/
theorem hasRoom_of_packed {slots n : Nat} {uni : Bool} {l : List α} {x y : α} (hx : x ∈ packBy f slots n uni l)
    (hu : (f x).uniform = (f y).uniform) (hw : (f y).width ≤ (f x).width) : (f y).hasRoom slots n uni := by
  obtain ⟨hlen, hsum, huni⟩ := packBy_bounds (f := f) slots n uni l
  have hpos := List.length_pos_of_mem hx
  refine ⟨by omega, ?_⟩
  split
  next hy =>
    have hmem : x ∈ (packBy f slots n uni l).filter fun x => (f x).uniform := List.mem_filter.2 ⟨hx, hu.trans hy⟩
    have hone := List.length_pos_of_mem hmem
    cases uni
    · exact absurd huni (Nat.not_le.2 hone)
    · rfl
  next hy =>
    have hcost : (f x).cost = (f x).width := by rw [Candidate.cost, hu, if_neg hy]
    have hle := List.le_sum_of_mem (List.mem_map_of_mem (f := fun x => (f x).cost) hx)
    omega

/-- A word that is left out does not come before a packed one that is as wide. -/
theorem packBy_not_before {slots n : Nat} {uni : Bool} {l : List α}
    (hl : l.Pairwise fun a b => (f b).before (f a) = false) {x y : α} (hy : y ∈ l) (hout : y ∉ packBy f slots n uni l)
    (hx : x ∈ packBy f slots n uni l) (hu : (f x).uniform = (f y).uniform) (hw : (f y).width ≤ (f x).width) :
    (f y).before (f x) = false := by
  induction l generalizing slots n uni with
  | nil => cases hy
  | cons z l ih =>
    obtain ⟨hz, hl⟩ := List.pairwise_cons.1 hl
    by_cases h : (f z).hasRoom slots n uni
    · rw [packBy_cons_room l h] at hout hx
      have hyl : y ∈ l := (List.mem_cons.1 hy).resolve_left fun e => hout (e ▸ List.mem_cons_self)
      rcases List.mem_cons.1 hx with rfl | hx
      · exact hz y hyl
      · exact ih hl hyl (fun hm => hout (List.mem_cons_of_mem _ hm)) hx
    · rw [packBy_cons_full l h] at hout hx
      rcases List.mem_cons.1 hy with rfl | hyl
      · exact absurd (hasRoom_of_packed hx hu hw) h
      · exact ih hl hyl hout hx

end

/-! ## The window (R88) -/

/-- The warps of a pipe that stand in a window's order. -/
def State.standing (s : State) (core pipe : Nat) : List (WarpRef × Block × Warp) :=
  (s.pipeWarps core pipe).filter fun x => s.standsReady x || s.stirred.contains x.1

/-- The warps that a window packs. -/
def State.picked (s : State) (core pipe : Nat) : List (WarpRef × Block × Warp) :=
  packBy s.candidate 64 4 true
    (sortBy (fun x y => (s.candidate x).before (s.candidate y)) (s.standing core pipe))

theorem State.packWindow_candidates (s : State) (core pipe : Nat) :
    (packWindow 64 4 true (sortBy Candidate.before (s.candidates core pipe))).map Candidate.r
      = (s.picked core pipe).map Prod.fst := by
  have hc : s.candidates core pipe = (s.standing core pipe).map s.candidate := rfl
  rw [hc, sortBy_map, packWindow_map, List.map_map]
  rfl

/-- The order that a window packs its warps by. -/
theorem State.pairwise_standing (s : State) (core pipe : Nat) :
    (sortBy (fun x y => (s.candidate x).before (s.candidate y)) (s.standing core pipe)).Pairwise
      fun a b => (s.candidate b).before (s.candidate a) = false :=
  pairwise_sortBy (fun x y z => Candidate.before_trans (s.candidate x) (s.candidate y) (s.candidate z))
    (fun x y => Candidate.before_asymm (s.candidate x) (s.candidate y)) _

/-- The clock's step leaves memory, blocks and what is packed or issues. -/
theorem State.tick_frame (s : State) : ∃ d v c, s.tick = { s with now := s.now + 4, dev := d, vfs := v, ctxs := c } := by
  unfold State.tick
  dsimp only
  split <;> exact ⟨_, _, _, rfl⟩

/-- How long a warp has been ready is noted in it alone. -/
theorem State.noteReady_eq (s : State) (x : WarpRef × Block × Warp) :
    ∃ (n : Warp → Nat) (a : Warp → Bool), s.noteReady x = s.updWarp x.1 fun w => { w with since := n w, awake := a w } := by
  unfold State.noteReady
  dsimp only
  split
  · exact ⟨fun _ => s.now, Warp.awake, rfl⟩
  split
  · exact ⟨fun _ => s.now, fun _ => true, rfl⟩
  split
  · exact ⟨fun _ => s.now, fun _ => false, rfl⟩
  · exact ⟨Warp.since, Warp.awake, (State.updWarp_self s x.1).symm⟩

/-- What a window has packed, for this core's pipes so far. -/
def State.packedNow (s : State) (core pipe : Nat) : List WarpRef :=
  s.packed ++ ((s.picked core pipe).map Prod.fst).filter fun r => !s.issue.contains r && !s.packed.contains r

/-- What a window leaves once it has noted how long its warps have been ready. -/
theorem State.window_frame (s : State) (core pipe : Nat) :
    ∃ (last : Bool) (now : Nat) (d : Device) (v : List Vf) (c : List Context) (cur : Nat × Nat),
      (now = ((s.pipeWarps core pipe).foldl State.noteReady s).now
        ∨ now = ((s.pipeWarps core pipe).foldl State.noteReady s).now + 4) ∧
      s.window core pipe = { (s.pipeWarps core pipe).foldl State.noteReady s with
        now := now, dev := d, vfs := v, ctxs := c, stirred := [], cursor := cur
        issue := if last then ((s.pipeWarps core pipe).foldl State.noteReady s).issue ++ sortBy slotBefore (s.packedNow core pipe)
          else ((s.pipeWarps core pipe).foldl State.noteReady s).issue
        packed := if last then [] else s.packedNow core pipe } := by
  unfold State.window
  rw [State.packWindow_candidates]
  extract_lets picked packed u next wraps last t
  have ht : ∃ d v c cur, t = { u with dev := d, vfs := v, ctxs := c, stirred := [], cursor := cur
                                      issue := if last then u.issue ++ sortBy slotBefore packed else u.issue
                                      packed := if last then [] else packed } := ⟨_, _, _, _, rfl⟩
  clear_value t
  obtain ⟨_, _, _, _, ht⟩ := ht
  by_cases hw : wraps
  · obtain ⟨_, _, _, htick⟩ := t.tick_frame
    rw [if_pos hw, htick, ht]
    exact ⟨last, _, _, _, _, _, .inr rfl, rfl⟩
  · rw [if_neg hw, ht]
    exact ⟨last, _, _, _, _, _, .inl rfl, rfl⟩

end Sys2Proof.Machine

namespace Sys2Proof.Claims

open Sys2Proof.Machine

variable {s : State} {core pipe : Nat} {x : WarpRef × Block × Warp}

theorem standsReady_iff (s : State) (x : WarpRef × Block × Warp) : s.standsReady x = true ↔ isReady s x := by
  simp only [State.standsReady, isReady, Bool.and_eq_true, Bool.not_eq_true', and_assoc, beq_iff_eq]

/-- The candidates of a window are the warps that are ready at it. -/
theorem mem_standing : x ∈ s.standing core pipe ↔ readyAt s core pipe x := by
  simp only [State.standing, State.pipeWarps, readyAt, List.mem_filter, Bool.and_eq_true, Bool.or_eq_true, beq_iff_eq,
    standsReady_iff, List.contains_iff_mem, and_assoc]

/-- Noting how long warps have been ready changes nothing else. -/
theorem foldl_noteReady (xs : List (WarpRef × Block × Warp)) (s : State) :
    ∃ bs, xs.foldl State.noteReady s = { s with blocks := bs } ∧ bs.map ageless = s.blocks.map ageless := by
  induction xs generalizing s with
  | nil => exact ⟨_, rfl, rfl⟩
  | cons x xs ih =>
    obtain ⟨n, a, hx⟩ := s.noteReady_eq x
    obtain ⟨bs, hbs, hage⟩ := ih (s.noteReady x)
    rw [hx] at hbs hage
    rw [List.foldl_cons, hx]
    refine ⟨bs, hbs, hage.trans ?_⟩
    simp only [State.updWarp, State.updBlock, List.map_map]
    refine List.map_congr_left fun b _ => ?_
    have hb : ageless (b.updWarp x.1.slot fun w => { w with since := n w, awake := a w }) = ageless b := by
      simp only [ageless, Block.updWarp, List.map_map]
      congr 1
      refine List.map_congr_left fun w _ => ?_
      simp only [Function.comp_apply]
      split <;> rfl
    simp only [Function.comp_apply]
    split
    · exact hb
    · rfl

theorem packed_picked (s : State) (core pipe : Nat) : Packed s core pipe (s.picked core pipe) := by
  have hperm := sortBy_perm (before := fun x y => (s.candidate x).before (s.candidate y)) (s.standing core pipe)
  obtain ⟨hlen, hsum, huni⟩ := packBy_bounds (f := s.candidate) 64 4 true
    (sortBy (fun x y => (s.candidate x).before (s.candidate y)) (s.standing core pipe))
  refine ⟨fun x hx => mem_standing.1 (hperm.mem_iff.1 ((packBy_sublist _ _ _ _).mem hx)), hlen, hsum, huni, fun y hy hout => ?_⟩
  have hmem := hperm.mem_iff.2 (mem_standing.2 hy)
  refine ⟨?_, fun x hx hu hw => packBy_not_before (s.pairwise_standing core pipe) hmem hout hx hu hw⟩
  have hleft := packBy_left_out hmem hout
  refine hleft.imp id fun h => ?_
  split at h
  next hu =>
    rw [if_pos hu]
    exact h.resolve_left Bool.noConfusion
  next hu =>
    rw [if_neg hu]
    exact h

theorem issueWindow_packs (s : State) (core pipe : Nat) : Happens (.issueWindow core pipe) s fun t =>
    SameMemory s t ∧ t.blocks.map ageless = s.blocks.map ageless ∧ (t.now = s.now ∨ t.now = s.now + 4)
    ∧ ∃ picked : List (WarpRef × Block × Warp), Packed s core pipe picked ∧
      let new := (picked.map Prod.fst).filter fun r => !s.issue.contains r && !s.packed.contains r
      (t.issue = s.issue ∧ t.packed = s.packed ++ new)
        ∨ (t.packed = [] ∧ ∃ rs, t.issue = s.issue ++ rs ∧ rs.Perm (s.packed ++ new)
          ∧ rs.Pairwise fun x y => x.slot ≤ y.slot) := by
  obtain ⟨bs, hbs, hage⟩ := foldl_noteReady (s.pipeWarps core pipe) s
  obtain ⟨last, now, _, _, _, _, hnow, hw⟩ := s.window_frame core pipe
  rw [hbs] at hw hnow
  refine ⟨_, congrArg Host.Outcome.next hw, ⟨rfl, rfl, rfl⟩, hage, hnow, s.picked core pipe, packed_picked s core pipe, ?_⟩
  cases last
  · exact .inl ⟨rfl, rfl⟩
  · refine .inr ⟨rfl, sortBy slotBefore (s.packedNow core pipe), rfl, sortBy_perm _, ?_⟩
    exact (pairwise_sortBy slotBefore_trans slotBefore_asymm _).imp slot_le_of_slotBefore

/-- Settles O45: the events of the scheduler and of translation, one after the other. -/
theorem schedulingEvents : Obligations.SchedulingEvents :=
  ⟨issueWindow_packs, fun _ _ _ _ h hr => promotion_ready h hr,
    fun _ _ _ _ _ _ _ hw hg hrun hev hf hx => variableLatencyResult_plain hw hg hrun hev hf hx,
    fun _ _ _ _ _ _ hw hwant hcmp hrun ht hpa hbad hcache hcode =>
      instructionFetch_miss hw hwant hcmp hrun ht hpa hbad hcache hcode,
    fun _ _ _ _ _ ha hn hslot hw => runAheadRollback_full ha hn hslot hw,
    fun _ _ _ _ hx hf hb => sheafPost_next hx hf hb,
    fun _ _ _ _ _ _ hva ha hu hw => tableWalk_untranslated hva ha hu hw,
    fun _ _ hq ha ho hh => ⟨fun h => tlbiPerformed_done hq ha ho hh h, fun hn h => tlbiPerformed_purge hq ho hh hn h⟩⟩

end Sys2Proof.Claims
end

section
/-!
SUPPORT. What a lane word's destination then reads (R115, R132).
-/

namespace Sys2Proof.Claims

open Sys2Proof.Machine

/-- Settles O2: a register that receives a value reads that of the lane that gives it. -/
theorem laneResultIsRead : Obligations.LaneResultIsRead := by
  intro i x hx
  refine gives_of_value fun y c l hy => ?_
  obtain rfl : x = y := Option.some.inj (hx.symm.trans hy)
  rfl

end Sys2Proof.Claims
end

section
/-!
SUPPORT. Combines over the lanes of a warp: the tree of R71 on the functions of RAISE whose result does not depend
on the order (R127).
-/

namespace Sys2Proof.Machine

open Sys2Proof.Claims (orderless combine)

/-! ## One step -/

/-- One step of `combine`, on two values. -/
def combineOp (fn : Nat) (x y : Word) : Word :=
  match fn with
  | 1 => x + y
  | 4 => x &&& y
  | 5 => x ||| y
  | 6 => x ^^^ y
  | _ => x

variable {fn : Nat} {m : Word}

/-- A function without a step of its own keeps the first of its values. -/
theorem combineOp_first (h1 : fn ≠ 1) (h4 : fn ≠ 4) (h5 : fn ≠ 5) (h6 : fn ≠ 6) (x y : Word) :
    combineOp fn x y = x := by
  unfold combineOp
  split
  · exact absurd rfl h1
  · exact absurd rfl h4
  · exact absurd rfl h5
  · exact absurd rfl h6
  · rfl

theorem combine_cons (fn : Nat) (x : Word) (xs : List Word) : combine fn (x :: xs) = xs.foldl (combineOp fn) x := by
  unfold combine
  split
  · exact congrArg (xs.foldl (combineOp 1)) (BitVec.zero_add x)
  · exact congrArg (xs.foldl (combineOp 4)) BitVec.allOnes_and
  · exact congrArg (xs.foldl (combineOp 5)) BitVec.zero_or
  · exact congrArg (xs.foldl (combineOp 6)) BitVec.zero_xor
  next h1 h4 h5 h6 =>
    induction xs with
    | nil => rfl
    | cons y ys ih => rw [List.foldl_cons, combineOp_first h1 h4 h5 h6, ← ih, List.headD_cons, List.headD_cons]

theorem combineOp_assoc (fn : Nat) (x y z : Word) :
    combineOp fn (combineOp fn x y) z = combineOp fn x (combineOp fn y z) := by
  by_cases h : fn = 1 ∨ fn = 4 ∨ fn = 5 ∨ fn = 6
  · rcases h with rfl | rfl | rfl | rfl
    · exact BitVec.add_assoc x y z
    · exact BitVec.and_assoc x y z
    · exact BitVec.or_assoc x y z
    · exact BitVec.xor_assoc x y z
  · simp only [not_or] at h
    obtain ⟨h1, h4, h5, h6⟩ := h
    simp only [combineOp_first h1 h4 h5 h6]

/-- The model's step on two words. -/
theorem raiseStep_toNat (h : orderless fn m) (x y : Word) :
    (raiseStep fn (modeTy m) x.toNat y.toNat).1 = (combineOp fn x y).toNat := by
  rcases h with h | ⟨rfl, hty⟩
  · simp only [List.mem_cons, List.not_mem_nil, or_false] at h
    rcases h with rfl | rfl | rfl | rfl
    · rfl
    · exact (BitVec.toNat_and x y).symm
    · exact (BitVec.toNat_or x y).symm
    · exact (BitVec.toNat_xor x y).symm
  · have hflt : (modeTy m == 4) = false := beq_eq_false_iff_ne.2 fun e => hty (congrArg BitVec.toNat e)
    simp only [raiseStep, hflt, Bool.false_eq_true, if_false]
    exact (BitVec.toNat_add x y).symm

/-! ## Values that may be absent -/

theorem raiseNode_map (h : orderless fn m) (x y : Option Word) :
    (raiseNode fn (modeTy m) (x.map BitVec.toNat) (y.map BitVec.toNat)).1
      = (Option.merge (combineOp fn) x y).map BitVec.toNat := by
  match x, y with
  | some x, some y => exact congrArg some (raiseStep_toNat h x y)
  | some _, none | none, some _ | none, none => rfl

theorem merge_combineOp_assoc (fn : Nat) (x y z : Option Word) :
    Option.merge (combineOp fn) (Option.merge (combineOp fn) x y) z
      = Option.merge (combineOp fn) x (Option.merge (combineOp fn) y z) := by
  match x, y, z with
  | some x, some y, some z => exact congrArg some (combineOp_assoc fn x y z)
  | none, some _, some _ | some _, none, some _ | some _, some _, none | none, none, some _ | none, some _, none
  | some _, none, none | none, none, none => rfl

/-- A level of the tree halves the values and keeps what they combine to. -/
theorem raiseLevel_map (h : orderless fn m) : ∀ l : List (Option Word), ∃ l' : List (Option Word),
    (raiseLevel fn (modeTy m) (l.map (Option.map BitVec.toNat))).1 = l'.map (Option.map BitVec.toNat)
      ∧ l'.length = (l.length + 1) / 2
      ∧ ∀ x, l'.foldl (Option.merge (combineOp fn)) x = l.foldl (Option.merge (combineOp fn)) x
  | [] => ⟨[], rfl, rfl, fun _ => rfl⟩
  | [a] => ⟨[a], rfl, by simp, fun _ => rfl⟩
  | a :: b :: rest => by
    obtain ⟨t, ht, hlen, hfold⟩ := raiseLevel_map h rest
    refine ⟨Option.merge (combineOp fn) a b :: t, ?_, ?_, fun x => ?_⟩
    · rw [List.map_cons, List.map_cons, List.map_cons, ← raiseNode_map h, ← ht]
      rfl
    · simp only [List.length_cons, hlen]
      omega
    · rw [List.foldl_cons, hfold, ← merge_combineOp_assoc]
      rfl

/-- A tree with room for its leaves combines them all. -/
theorem raiseTree_map (h : orderless fn m) (n : Nat) {l : List (Option Word)} (hl : l.length ≤ 2 ^ n) :
    (raiseTree fn (modeTy m) n (l.map (Option.map BitVec.toNat))).1
      = (l.foldl (Option.merge (combineOp fn)) none).map BitVec.toNat := by
  induction n generalizing l with
  | zero =>
    match l, hl with
    | [], _ => rfl
    | [none], _ | [some _], _ => rfl
  | succ n ih =>
    obtain ⟨t, ht, hlen, hfold⟩ := raiseLevel_map h l
    rw [← hfold, ← ih (l := t) (by omega), ← ht]
    rfl

/-- Values that may be absent combine to what those that are there do. -/
theorem foldl_merge_combineOp (fn : Nat) (l : List (Option Word)) :
    l.foldl (Option.merge (combineOp fn)) none
      = if l.reduceOption = [] then none else some (combine fn l.reduceOption) := by
  have there (l : List (Option Word)) (x : Word) :
      l.foldl (Option.merge (combineOp fn)) (some x) = some (l.reduceOption.foldl (combineOp fn) x) := by
    induction l generalizing x with
    | nil => rfl
    | cons a t ih =>
      cases a with
      | none => exact ih x
      | some y => exact ih (combineOp fn x y)
  induction l with
  | nil => rfl
  | cons a t ih =>
    cases a with
    | none => exact ih
    | some x =>
      rw [List.reduceOption_cons_of_some, if_neg (List.cons_ne_nil _ _), combine_cons]
      exact there t x

end Sys2Proof.Machine
end

section
/-!
SUPPORT. The lanes of C, in rising order (R36), and the leaves that they give to the tree of RAISE (R71, R127).
-/

namespace Sys2Proof.Machine

open Sys2Proof.Claims (orderless agreeing combine)

variable {s : State} {mk : Word → Entry} {c : Ctx}

/-! ## The lanes of C -/

/-- A word that names a lane operand works in each lane of C (R36). -/
theorem State.Stands.uni_of_lane (h : s.Stands mk c) {u : Use} (hu : u ∈ (mk c.w.ctl.mode).uses)
    (hl : u.o.isLane = true) : c.uni = false := by
  have hany : (mk c.w.ctl.mode).uses.any (·.o.isLane) = true := List.any_eq_true.2 ⟨u, hu, hl⟩
  have hc : c.uni = !(mk c.w.ctl.mode).laneClass c.w.ctl.mode := congrArg Ctx.uni h.ctx
  rw [hc, Entry.laneClass, hany, Bool.or_true, Bool.true_or]
  rfl

/-- So does one with a lane-class source (R127). -/
theorem State.Issues.uni_of_laneSrc (h : s.Issues mk c) {a : Operand} (hu : Use.laneSrc a ∈ (mk c.w.ctl.mode).uses) :
    c.uni = false :=
  h.toStands.uni_of_lane hu (Entry.uses_ok h.legal _ hu)

theorem State.Stands.lanes_sublist (h : s.Stands mk c) : c.lanes.Sublist (lanesOf c.w.width c.w.ctl.active) := by
  have hl : c.lanes = (mkCtx s s.cur c.b c.w c.g (mk c.w.ctl.mode)).lanes := congrArg Ctx.lanes h.ctx
  have hin : (if (mk c.w.ctl.mode).selector then
        (if modeGd c.w.ctl.mode == 8 then [] else lanesOf c.w.width c.w.ctl.active)
      else if (mk c.w.ctl.mode).gd then (lanesOf c.w.width c.w.ctl.active).filter (guardHolds c.w)
      else lanesOf c.w.width c.w.ctl.active).Sublist (lanesOf c.w.width c.w.ctl.active) := by
    split
    · split
      · exact List.nil_sublist _
      · exact .refl _
    · split
      · exact List.filter_sublist
      · exact .refl _
  rw [hl]
  simp only [mkCtx]
  split
  · exact (List.take_sublist _ _).trans hin
  · exact hin

/-- A lane of C is a lane of the warp, and there are no more than 64. -/
theorem State.Stands.lane_lt (h : s.Stands mk c) {l : Nat} (hl : l ∈ c.lanes) : l < c.w.width ∧ l < 64 := by
  obtain ⟨hr, hm⟩ := List.mem_filter.1 (h.lanes_sublist.mem hl)
  exact ⟨List.mem_range.1 hr, BitVec.lt_of_getLsbD hm⟩

theorem State.Stands.lanes_pairwise (h : s.Stands mk c) : c.lanes.Pairwise (· < ·) :=
  (List.pairwise_lt_range.filter _).sublist h.lanes_sublist

/-- The lanes of a mask. -/
theorem getLsbD_maskOf (ls : List Nat) {k : Nat} (hk : k < 64) : (maskOf ls).getLsbD k = decide (k ∈ ls) := by
  induction ls with
  | nil => simp [maskOf]
  | cons l t ih =>
    have hbit : (BitVec.ofNat 64 (1 <<< l)).getLsbD k = decide (k = l) := by
      rw [BitVec.getLsbD_ofNat, Nat.one_shiftLeft, Nat.testBit_two_pow, decide_eq_true hk, Bool.true_and]
      exact decide_eq_decide.2 eq_comm
    have hmask : maskOf (l :: t) = BitVec.ofNat 64 (1 <<< l) ||| maskOf t := rfl
    rw [hmask, BitVec.getLsbD_or, ih, hbit, ← Bool.decide_or]
    simp only [List.mem_cons]

/-! ## The leaves of the tree (R71) -/

/-- The lanes of C from `lo` to `lo + n - 1`. -/
def Ctx.lanesIn (c : Ctx) (lo n : Nat) : List Nat := c.lanes.filter fun l => decide (lo ≤ l ∧ l < lo + n)

theorem State.Stands.lanesIn_eq (h : s.Stands mk c) (lo n : Nat) :
    c.lanesIn lo n = (List.range' lo n).filter fun l => c.lanes.contains l := by
  refine List.Pairwise.eq_of_mem_iff (h.lanes_pairwise.filter _) ((List.pairwise_lt_range' _).filter _) fun l => ?_
  simp [Ctx.lanesIn, List.mem_range'_1, and_comm]

/-- The leaves that are there are the values of the lanes of C. -/
theorem State.Stands.leaves_eq (h : s.Stands mk c) (a : Operand) (lo n : Nat) : ∃ l : List (Option Word),
    c.leaves a lo n = l.map (Option.map BitVec.toNat) ∧ l.length = n
      ∧ l.reduceOption = (c.lanesIn lo n).map fun l => c.opd l a := by
  refine ⟨(List.range' lo n).map fun l => if c.lanes.contains l then some (c.opd l a) else none, ?_, by simp, ?_⟩
  · rw [Ctx.leaves, List.range'_eq_map_range, List.map_map, List.map_map]
    refine List.map_congr_left fun i _ => ?_
    simp only [Function.comp_apply]
    split <;> rfl
  · rw [h.lanesIn_eq]
    induction List.range' lo n with
    | nil => rfl
    | cons l t ih =>
      by_cases hl : c.lanes.contains l = true
      · rw [List.filter_cons_of_pos hl, List.map_cons, List.map_cons, if_pos hl, List.reduceOption_cons_of_some, ih]
      · rw [List.filter_cons_of_neg hl, List.map_cons, if_neg hl, List.reduceOption_cons_of_none, ih]

/-- What the values of A in some lanes combine to (R127). -/
def Ctx.combined (c : Ctx) (a : Operand) (fn : Nat) (ls : List Nat) : Word := combine fn (ls.map fun l => c.opd l a)

/-- What the tree makes of 2^`n` lanes is what those of them in C combine to. -/
theorem State.Stands.raiseTree_leaves (h : s.Stands mk c) {fn : Nat} (ho : orderless fn c.mode) (a : Operand)
    (lo n : Nat) : (raiseTree fn (modeTy c.mode) n (c.leaves a lo (2 ^ n))).1 =
      if c.lanesIn lo (2 ^ n) = [] then none
      else some (c.combined a fn (c.lanesIn lo (2 ^ n))).toNat := by
  obtain ⟨l, hl, hlen, hred⟩ := h.leaves_eq a lo (2 ^ n)
  rw [hl, raiseTree_map ho n hlen.le, foldl_merge_combineOp, hred]
  simp only [List.map_eq_nil_iff]
  split <;> rfl

/-! ## Agreement (R127) -/

/-- No lane differs from the lowest one where all hold one value. -/
theorem Ctx.unlike_eq_nil (c : Ctx) (a : Operand) (ls : List Nat) : c.unlike a ls = []
    ↔ ∀ x ∈ ls.map fun l => c.opd l a, x = (ls.map fun l => c.opd l a).headD 0 := by
  cases ls with
  | nil => simp [Ctx.unlike]
  | cons l t => simp [Ctx.unlike, List.filter_eq_nil_iff]

/-- The check of agree (R127). -/
theorem Ctx.unlike_isEmpty (c : Ctx) (a : Operand) (fn : Nat) (ls : List Nat) :
    (fn == 0 && !(c.unlike a ls).isEmpty) = false ↔ agreeing fn (ls.map fun l => c.opd l a) := by
  rw [agreeing, ← Ctx.unlike_eq_nil]
  by_cases h : fn = 0 <;> simp [h]

end Sys2Proof.Machine
end

section
/-!
SUPPORT. Words whose effect is the write of a destination (R66, R115): the check of its values, and what the word
leaves where the destination is the warp's own.
-/

namespace Sys2Proof.Machine

open Sys2Proof.Claims (warpOf)

variable {s t : State} {r : WarpRef} {c : Ctx} {d : Operand} {vals : List (Nat × Nat)}

/-! ## Values that pass the checks of a destination (R115) -/

/-- Values that agree wherever they share a register are written. -/
theorem destFault_eq_none (hd : d.isReg = true)
    (h : ∀ x ∈ vals, ∀ y ∈ vals, sameReg d d x.1 y.1 = true → x.2 = y.2) : destFault d vals = none := by
  have key (same : Nat → Nat → Bool) (hs : ∀ x ∈ vals, ∀ y ∈ vals, same x.1 y.1 = true → x.2 = y.2) :
      (vals.filter fun x => match vals.find? fun y => same x.1 y.1 with
        | some y => y.2 != x.2
        | none => false).map Prod.fst = [] := by
    rw [List.map_eq_nil_iff, List.filter_eq_nil_iff]
    intro x hx
    split
    · next y hy =>
      have hxy := List.find?_some (p := fun y : Nat × Nat => same x.1 y.1) hy
      simp [hs x hx y (List.mem_of_find?_eq_some hy) hxy]
    · exact Bool.false_ne_true
  have hnone : disagreeing d vals = [] := by
    cases d with
    | v i => rfl
    | o i => exact key (fun l m => l / 8 == m / 8) fun x hx y hy hs => h x hx y hy (by simpa [sameReg] using hs)
    | w i | b i | k i | g i => exact key (fun _ _ => true) fun x hx y hy _ => h x hx y hy (beq_self_eq_true _)
    | sp i => exact absurd hd Bool.false_ne_true
  have hsp : d ≠ .sp 12 := by
    rintro rfl
    exact Bool.false_ne_true hd
  simp only [destFault, hnone, beq_eq_false_iff_ne.2 hsp, Bool.false_and, Bool.false_eq_true, if_false,
    List.isEmpty_nil, Bool.not_true]

/-- A word that is not uniform writes the values as they are. -/
theorem Ctx.put_lanes (hu : c.uni = false) (hf : destFault d vals = none) (t : State) (n : Nat) (fl : Flags) :
    c.put t d n vals fl = .done ((t.writeDest c.r d n vals).updWarp c.r fun w => w.orFlags fl) := by
  simp only [Ctx.put, Ctx.spread, hu, Bool.false_eq_true, if_false, hf]

/-! ## Registers of octets and of the warp -/

/-- The warp with one value in a register of an octet or of the warp. -/
def Warp.putScoped (d : Operand) (w : Warp) (y : Nat × Nat) : Warp :=
  match d with
  | .o i => w.setO (y.1 / 8) i.toNat (BitVec.ofNat 32 y.2)
  | .w i => w.setW i.toNat (BitVec.ofNat 32 y.2)
  | _ => w

/-- The warp with values in such a destination, whose marks they take (R312). -/
def Warp.takeScoped (d : Operand) (vals : List (Nat × Nat)) (w : Warp) : Warp :=
  let w := (destVals d vals).foldl (Warp.putScoped d) w
  { w with flt := { w.flt with marks := clearMarks d 1 (maskOf (vals.map Prod.fst)) w.flt.marks } }

theorem Warp.putScoped_slot (d : Operand) (w : Warp) (y : Nat × Nat) : (w.putScoped d y).slot = w.slot := by
  cases d <;> rfl

theorem Warp.foldl_putScoped_slot (d : Operand) (vals : List (Nat × Nat)) (w : Warp) :
    (vals.foldl (Warp.putScoped d) w).slot = w.slot := by
  induction vals generalizing w with
  | nil => rfl
  | cons y ys ih => exact (ih _).trans (w.putScoped_slot d y)

theorem Warp.takeScoped_slot (d : Operand) (vals : List (Nat × Nat)) (w : Warp) :
    (w.takeScoped d vals).slot = w.slot :=
  Warp.foldl_putScoped_slot d _ w

/-- The destination is an octet or a warp register: its write is an update of the warp. -/
theorem State.writeDest_scoped (hd : (∃ i, d = .o i) ∨ ∃ i, d = .w i) (s : State) (r : WarpRef)
    (vals : List (Nat × Nat)) : s.writeDest r d 1 vals = s.updWarp r (Warp.takeScoped d vals) := by
  have hone (s : State) (y : Nat × Nat) : s.writeRegs r y.1 d 1 y.2 = s.updWarp r fun w => w.putScoped d y := by
    rcases hd with ⟨i, rfl⟩ | ⟨i, rfl⟩ <;> rfl
  have hfold (l : List (Nat × Nat)) (s : State) : l.foldl (fun s y => s.writeRegs r y.1 d 1 y.2) s
      = s.updWarp r fun w => l.foldl (Warp.putScoped d) w := by
    induction l generalizing s with
    | nil => exact (State.updWarp_self s r).symm
    | cons y ys ih =>
      rw [List.foldl_cons, ih, hone]
      exact State.updWarp_updWarp (f := fun w => w.putScoped d y) _ _ _ fun w => w.putScoped_slot d y
  have hpass (t : State) : t.passTags r (if vals.isEmpty then .sp 0 else d) = t := by
    rcases hd with ⟨i, rfl⟩ | ⟨i, rfl⟩ <;> split <;> rfl
  rw [State.writeDest, hpass, hfold]
  exact State.updWarp_updWarp (f := fun w => (destVals d vals).foldl (Warp.putScoped d) w) _ _ _
    fun w => w.foldl_putScoped_slot d _

/-- The write of such a destination and of the word's flags. -/
theorem Ctx.put_scoped (hd : (∃ i, d = .o i) ∨ ∃ i, d = .w i) (hu : c.uni = false) (hf : destFault d vals = none)
    (t : State) (fl : Flags) :
    c.put t d 1 vals fl = .done (t.updWarp c.r fun w => (w.takeScoped d vals).orFlags fl) := by
  rw [Ctx.put_lanes hu hf, State.writeDest_scoped hd,
    State.updWarp_updWarp (f := Warp.takeScoped d vals) _ _ _ fun w => w.takeScoped_slot d vals]

/-- The write of a lane register and of the word's flags. -/
theorem Ctx.put_v (hu : c.uni = false) (i : BitVec 6) (t : State) (fl : Flags) :
    c.put t (.v i) 1 vals fl = .done (t.updWarp c.r fun w => (w.takeV i vals).orFlags fl) := by
  rw [Ctx.put_lanes hu rfl, State.writeDest_v,
    State.updWarp_updWarp (f := fun w => w.takeV i vals) _ _ _ fun w => w.slot_takeV i vals]

/-- One value for the whole warp: its register holds it, and no other register changes. -/
theorem Warp.takeScoped_w (w : Warp) (i : BitVec 5) (v : Nat) {ls : List Nat} (hl : ls ≠ []) :
    (w.takeScoped (.w i) (ls.map fun l => (l, v))).regs
      = { w.regs with w := sparseSet 0 w.regs.w i.toNat (BitVec.ofNat 32 v) } := by
  obtain ⟨l, t, rfl⟩ := List.exists_cons_of_ne_nil hl
  rfl

/-- An octet register holds its octet's value after values that each octet's lanes agree on. -/
theorem Warp.foldl_putScoped_o (w : Warp) (i : BitVec 5) {V : Nat → Nat}
    (hv : ∀ y ∈ vals, y.2 = V (y.1 / 8)) (q : Nat) :
    sparseGet 0 (vals.foldl (Warp.putScoped (.o i)) w).regs.o (32 * q + i.toNat)
      = if ∃ y ∈ vals, y.1 / 8 = q then BitVec.ofNat 32 (V q) else sparseGet 0 w.regs.o (32 * q + i.toNat) := by
  induction vals generalizing w with
  | nil => simp
  | cons y ys ih =>
    rw [List.foldl_cons, ih _ fun z hz => hv z (List.mem_cons_of_mem _ hz)]
    have hone : sparseGet 0 (w.putScoped (.o i) y).regs.o (32 * q + i.toNat)
        = if y.1 / 8 = q then BitVec.ofNat 32 (V q) else sparseGet 0 w.regs.o (32 * q + i.toNat) := by
      refine (sparseGet_set _ _ _ _ _).trans ?_
      have hkey : (32 * q + i.toNat = 32 * (y.1 / 8) + i.toNat) ↔ y.1 / 8 = q := by omega
      simp only [hkey]
      split
      · next h => rw [hv y List.mem_cons_self, h]
      · rfl
    rw [hone]
    simp only [List.exists_mem_cons_iff]
    by_cases hys : ∃ z ∈ ys, z.1 / 8 = q
    · rw [if_pos hys, if_pos (.inr hys)]
    · rw [if_neg hys]
      exact if_congr (or_iff_left hys).symm rfl rfl

end Sys2Proof.Machine

namespace Sys2Proof.Claims

open Sys2Proof.Machine

variable {i : Instr} {s : State} {mk : Word → Entry} {body : Ctx → Eff} {c : Ctx} {f : Warp → Warp}

/-- What a word whose effect is an update of its warp leaves. -/
theorem exec_updWarp (he : exec i s = .next (runWord s mk body)) (hs : s.Issues mk c)
    (hb : body c = .done (c.s.updWarp c.r f)) (hf : ∀ w, (f w).slot = w.slot) :
    ∃ t, exec i s = .next t ∧ t.cur = s.cur ∧ s.OnlyWarp t s.cur ∧ t.grids = s.grids ∧ warpOf t s.cur
      = some ((f c.w).complete (mk c.mode) c.w.ctl.pc none c.g.packet.redundant s.now) := by
  rw [hs.s_eq, hs.r_eq] at hb
  rw [runWord_done hs hb, hs.completes_eq] at he
  refine ⟨_, he, rfl, ((State.OnlyWarp.refl s s.cur).updWarp f hf).complete _ _ _ _, rfl, ?_⟩
  rw [warpOf_complete, warpOf_updWarp s _ hf, hs.warpOf_cur]
  rfl

/-- The warp's operands are read from the warp that it has become, in a block and a grid of the new state. -/
theorem operand_of_warpOf {t : State} {w' : Warp} (hs : s.Stands mk c) (ho : s.OnlyWarp t s.cur)
    (hg : t.grids = s.grids) (hw : warpOf t s.cur = some w') :
    ∃ b g, ∀ l o, t.operand s.cur l o = readOperand t b g w' l o := by
  obtain ⟨b, hb, hrest⟩ := ho.block _ _ (State.warp?_some.1 hs.warp).1
  obtain ⟨⟨b', w''⟩, hwarp, rfl⟩ := Option.map_eq_some_iff.1 hw
  obtain rfl : b' = b := Option.some.inj ((State.warp?_some.1 hwarp).1.symm.trans hb)
  obtain ⟨-, -, -, -, -, -, -, -, -, -, -, hgrid, -⟩ := hrest
  refine ⟨b', c.g, fun l o => State.operand_eq hwarp ?_ l o⟩
  rw [hgrid, State.grid?, hg]
  exact hs.grid

end Sys2Proof.Claims
end

section
/-!
SUPPORT. RAISE (R120, R122, R127): its combine into a register of the warp or of each octet, and its contribution
to a round on a register of the block.
-/

namespace Sys2Proof.Machine

open Sys2Proof.Claims (orderless agreeing whole)

variable {s : State} {mk : Word → Entry} {c : Ctx} {a : Operand} {fn : Nat}

/-- A warp whose word has completed, with its block. -/
theorem State.warp?_complete {r : WarpRef} {b : Block} {w : Warp} (h : s.warp? r = some (b, w)) (k : Grid) (e : Entry)
    (pc : Nat) (j : Option (Nat × Bool)) : (s.complete r k e pc j).warp? r
      = some (b.updWarp r.slot fun w => w.complete e pc j k.packet.redundant s.now,
        w.complete e pc j k.packet.redundant s.now) :=
  State.warp?_updWarp (fun w => w.complete e pc j k.packet.redundant s.now) h fun _ => Warp.complete_slot _ _ _ _ _ _

/-! ## The lanes of an octet -/

/-- The lanes of C in an octet. -/
def Ctx.octet (c : Ctx) (q : Nat) : List Nat := c.lanes.filter fun l => l / 8 == q

theorem Ctx.lanesIn_octet (c : Ctx) (q : Nat) : c.lanesIn (8 * q) (2 ^ 3) = c.octet q := by
  refine List.filter_congr fun l _ => ?_
  rw [Bool.eq_iff_iff, decide_eq_true_eq, beq_iff_eq]
  omega

theorem State.Stands.lanesIn_all (h : s.Stands mk c) : c.lanesIn 0 (2 ^ 6) = c.lanes :=
  List.filter_eq_self.2 fun l hl => decide_eq_true ⟨Nat.zero_le l, by have := (h.lane_lt hl).2; omega⟩

/-! ## What RAISE writes -/

/-- The combine of all lanes of C. -/
theorem State.Stands.raiseTree_all (h : s.Stands mk c) (ho : orderless fn c.mode) (hl : c.lanes ≠ []) :
    (raiseTree fn (modeTy c.mode) 6 (c.leaves a 0 64)).1 = some (c.combined a fn c.lanes).toNat := by
  refine (h.raiseTree_leaves ho a 0 6).trans ?_
  rw [h.lanesIn_all, if_neg hl]

/-- The combine of the lanes of C in an octet, if there are any. -/
theorem State.Stands.raiseTree_octet (h : s.Stands mk c) (ho : orderless fn c.mode) (q : Nat) :
    (raiseTree fn (modeTy c.mode) 3 (c.leaves a (8 * q) 8)).1 = if c.octet q = [] then none
      else some (c.combined a fn (c.octet q)).toNat := by
  refine (h.raiseTree_leaves ho a (8 * q) 3).trans ?_
  rw [c.lanesIn_octet]

/-- RAISE to a w register writes the combine for each lane of C. -/
theorem raiseEff_w (h : s.Stands mk c) (ho : orderless fn c.mode) (hl : c.lanes ≠ [])
    (hag : agreeing fn (c.lanes.map fun l => c.opd l a)) (i : BitVec 5) :
    ∃ fl, raiseEff (.w i) a fn c
      = c.put c.s (.w i) 1 (c.lanes.map fun l => (l, (c.combined a fn c.lanes).toNat)) fl := by
  simp only [raiseEff, (c.unlike_isEmpty a fn c.lanes).2 hag, Bool.false_eq_true, if_false, h.raiseTree_all ho hl,
    Operand.isW, if_true]
  exact ⟨_, rfl⟩

/-- Lanes that disagree (R115, R127). -/
theorem raiseEff_w_disagree (hag : ¬ agreeing fn (c.lanes.map fun l => c.opd l a)) (i : BitVec 5) :
    raiseEff (.w i) a fn c = .fault (scopeDisagree 1 (c.unlike a c.lanes)) := by
  have hbad := mt (c.unlike_isEmpty a fn c.lanes).1 hag
  simp only [raiseEff, Bool.eq_true_of_not_eq_false hbad, if_true]

/-- What RAISE writes to an o register: for each lane of C, the combine of its octet. -/
def Ctx.octetVals (c : Ctx) (a : Operand) (fn : Nat) : List (Nat × Nat) :=
  (List.range (c.w.width / 8)).flatMap fun q =>
    (c.octet q).map fun l => (l, (c.combined a fn (c.octet q)).toNat)

theorem Ctx.octetVals_snd {y : Nat × Nat} (hy : y ∈ c.octetVals a fn) :
    y.2 = (c.combined a fn (c.octet (y.1 / 8))).toNat := by
  obtain ⟨q, -, hy⟩ := List.mem_flatMap.1 hy
  obtain ⟨l, hl, rfl⟩ := List.mem_map.1 hy
  rw [← beq_iff_eq.1 (List.mem_filter.1 hl).2]

/-- An octet has a value if it has a lane in C. -/
theorem State.Stands.exists_octetVals (h : s.Stands mk c) (hw : 8 ∣ c.w.width) (q : Nat) :
    (∃ y ∈ c.octetVals a fn, y.1 / 8 = q) ↔ c.octet q ≠ [] := by
  constructor
  · rintro ⟨y, hy, rfl⟩
    obtain ⟨q, -, hy⟩ := List.mem_flatMap.1 hy
    obtain ⟨l, hl, rfl⟩ := List.mem_map.1 hy
    rw [beq_iff_eq.1 (List.mem_filter.1 hl).2]
    exact List.ne_nil_of_mem hl
  · intro hne
    obtain ⟨l, hl⟩ := List.exists_mem_of_ne_nil _ hne
    obtain ⟨hlane, hq⟩ := List.mem_filter.1 hl
    have hlt := (h.lane_lt hlane).1
    have hq := beq_iff_eq.1 hq
    exact ⟨(l, _), List.mem_flatMap.2 ⟨q, List.mem_range.2 (by omega), List.mem_map.2 ⟨l, hl, rfl⟩⟩, hq⟩

theorem raiseEff_o (h : s.Stands mk c) (ho : orderless fn c.mode)
    (hag : ∀ q, q < c.w.width / 8 → agreeing fn ((c.octet q).map fun l => c.opd l a)) (i : BitVec 5) :
    ∃ fl, raiseEff (.o i) a fn c = c.put c.s (.o i) 1 (c.octetVals a fn) fl := by
  have hbad : (fn == 0 && !((((List.range (c.w.width / 8)).map fun q => c.unlike a (c.octet q)).find?
      fun ls => !ls.isEmpty).getD []).isEmpty) = false := by
    rw [Bool.and_eq_false_iff, or_iff_not_imp_left]
    intro h0
    have hnone : ((List.range (c.w.width / 8)).map fun q => c.unlike a (c.octet q)).find? (fun ls => !ls.isEmpty)
        = none := by
      rw [List.find?_eq_none]
      intro ls hls
      obtain ⟨q, hq, rfl⟩ := List.mem_map.1 hls
      have := (c.unlike_isEmpty a fn (c.octet q)).2 (hag q (List.mem_range.1 hq))
      rw [Bool.eq_true_of_not_eq_false h0, Bool.true_and] at this
      exact Bool.eq_false_iff.1 this
    rw [hnone]
    rfl
  have hvals : (((List.range (c.w.width / 8)).map fun q =>
      (q, raiseTree fn (modeTy c.mode) 3 (c.leaves a (8 * q) 8))).flatMap fun x => match x.2.1 with
        | some v => (c.octet x.1).map fun l => (l, v)
        | none => []) = c.octetVals a fn := by
    rw [List.flatMap_map]
    refine List.flatMap_congr fun q _ => ?_
    rw [h.raiseTree_octet ho]
    by_cases hq : c.octet q = []
    · rw [if_pos hq, hq]
      rfl
    · rw [if_neg hq]
  unfold Ctx.octet at hbad hvals
  simp only [raiseEff, hbad, Bool.false_eq_true, if_false]
  exact ⟨_, congrArg (fun vals => c.put c.s (.o i) 1 vals _) hvals⟩

/-! ## A round on a b register (R120, R125) -/

/-- The contribution of the word to the round that it names. -/
def Ctx.part (c : Ctx) (fn : Nat) (x : Option Nat) (fl : Flags) : Contribution :=
  { blk := c.b.id, block := c.b.index, slot := c.r.slot, result := c.s.nextId, fn
    ty := modeTy c.mode, val := x.map (BitVec.ofNat 32), flags := fl, pc := c.w.ctl.pc }

/-- A contribution to a round stands in a round of its register. -/
theorem mem_addPart (reg : Nat) (p : Contribution) (rs : List Round) :
    ∃ x ∈ addPart reg p rs, x.reg = reg ∧ p ∈ x.parts := by
  unfold addPart
  split
  · next h =>
    obtain ⟨x, hx, hreg⟩ := List.any_eq_true.1 h
    refine ⟨_, List.mem_map_of_mem hx, ?_⟩
    rw [if_pos hreg]
    exact ⟨beq_iff_eq.1 hreg, List.mem_append_right _ (List.mem_singleton_self p)⟩
  · exact ⟨_, List.mem_append_right _ (List.mem_singleton_self _), rfl, List.mem_singleton_self p⟩

/-- The warp with a result outstanding and these registers pending for it (R91, R120). -/
def Warp.awaiting (x : Result) (rs : List Reg) (w : Warp) : Warp :=
  { w with results := w.results ++ [x], pend := w.pend ++ rs }

/-- The block with one more contribution to a round of its own registers. -/
def Block.joined (reg : Nat) (p : Contribution) (b : Block) : Block := { b with rounds := addPart reg p b.rounds }

/-- With room for the round the word contributes, and its register and %status become pending. -/
theorem Ctx.contribute_b (c : Ctx) {i : BitVec 5} (hroom : c.b.rounds.length < 8 ∨ ∃ x ∈ c.b.rounds, x.reg = i.toNat)
    (fn : Nat) (x : Option Nat) (fl : Flags) : ∃ res : Result, c.contribute (.b i) fn x fl
      = .done ((c.s.fresh.updWarp c.r (Warp.awaiting res [.b i.toNat, .status])).updBlock c.b.id
          (Block.joined i.toNat (c.part fn x fl))) := by
  have hwait : ¬ (!(c.b.rounds.any (·.reg == i.toNat)) && decide (8 ≤ c.b.rounds.length)) = true := by
    rw [Bool.and_eq_true, decide_eq_true_eq, Bool.not_eq_true', List.any_eq_false]
    rintro ⟨hnone, hfull⟩
    rcases hroom with hlt | ⟨x, hx, hreg⟩
    · omega
    · exact hnone x hx (beq_iff_eq.2 hreg)
  have hpend : (c.result c.s (some (.b i)) 1).pend = [.b i.toNat] := by
    simp only [Ctx.result, List.range_one, List.filterMap_cons, Operand.nth_zero, List.filterMap_nil]
    rfl
  refine ⟨{ c.result c.s (some (.b i)) 1 with
    ready := false, round := true, write := false, judged := false, flags := fl
    pend := [.b i.toNat] ++ [.status] }, ?_⟩
  refine (if_neg hwait).trans ?_
  rw [hpend]
  rfl

/-- RAISE to a b register, converged, contributes the combine of the lanes of C. -/
theorem raiseEff_b (h : s.Stands mk c) (ho : orderless fn c.mode) (hl : c.lanes ≠ []) (hwhole : whole c)
    (hag : agreeing fn (c.lanes.map fun l => c.opd l a)) (i : BitVec 5) : ∃ fl, raiseEff (.b i) a fn c
      = c.contribute (.b i) fn (some (c.combined a fn c.lanes).toNat) fl := by
  have hconv : c.converged = true := by
    obtain ⟨hact, hstack⟩ := hwhole
    rw [Ctx.converged, hact, beq_self_eq_true, Bool.true_and, List.all_eq_true]
    exact fun e he => by rw [hstack e he]; rfl
  simp only [raiseEff, (c.unlike_isEmpty a fn c.lanes).2 hag, Bool.false_eq_true, if_false, h.raiseTree_all ho hl,
    Operand.isW, hconv, Bool.not_true]
  exact ⟨_, rfl⟩

end Sys2Proof.Machine

namespace Sys2Proof.Claims

open Sys2Proof.Machine

variable {s : State} {c : Ctx} {sw : Bool} {a : Operand} {fn : BitVec 5}

theorem raise_uni {d : Operand} (hs : s.Issues (raiseEntry sw d a fn) c) : c.uni = false :=
  hs.uni_of_laneSrc (List.mem_cons_of_mem _ List.mem_cons_self)

/-- RAISE to a w register of lanes that agree. -/
theorem raise_w {i : BitVec 5} (hs : s.Issues (raiseEntry sw (.w i) a fn) c) (ho : orderless fn.toNat c.mode)
    (hag : agreeing fn.toNat (c.lanes.map fun l => c.opd l a)) (hl : c.lanes ≠ []) :
    Warps (.raise sw (.w i) a fn) s fun w' => w'.regs = { c.w.regs with
      w := sparseSet 0 c.w.regs.w i.toNat (c.combined a fn.toNat c.lanes) } := by
  obtain ⟨fl, heff⟩ := raiseEff_w hs.toStands ho hl hag i
  have hpass := destFault_const (d := .w i) rfl c.lanes (c.combined a fn.toNat c.lanes).toNat
  refine warps_of_done (body := raiseEff (.w i) a fn.toNat) rfl hs
    (heff.trans (Ctx.put_scoped (.inr ⟨i, rfl⟩) (raise_uni hs) hpass _ _))
    (fun w => w.takeScoped_slot _ _) fun red now => ?_
  refine (Warp.complete_regs _ _ _ _ _ _).trans ((c.w.takeScoped_w i _ hl).trans ?_)
  rw [BitVec.ofNat_toNat, BitVec.setWidth_eq]

/-- RAISE to an o register of lanes that agree in each octet. -/
theorem raise_o {j : BitVec 5} (hs : s.Issues (raiseEntry sw (.o j) a fn) c) (ho : orderless fn.toNat c.mode)
    (hw : 8 ∣ c.w.width) (hag : ∀ q, q < c.w.width / 8 → agreeing fn.toNat ((c.octet q).map fun l => c.opd l a)) :
    Warps (.raise sw (.o j) a fn) s fun w' => ∀ q, sparseGet 0 w'.regs.o (32 * q + j.toNat) =
      if c.octet q = [] then sparseGet 0 c.w.regs.o (32 * q + j.toNat)
      else c.combined a fn.toNat (c.octet q) := by
  obtain ⟨fl, heff⟩ := raiseEff_o hs.toStands ho hag j
  have hpass : destFault (.o j) (c.octetVals a fn.toNat) = none := by
    refine destFault_eq_none rfl fun x hx y hy hs => ?_
    have hq : x.1 / 8 = y.1 / 8 := by simpa [sameReg] using hs
    rw [Ctx.octetVals_snd hx, Ctx.octetVals_snd hy, hq]
  refine warps_of_done (body := raiseEff (.o j) a fn.toNat) rfl hs
    (heff.trans (Ctx.put_scoped (.inl ⟨j, rfl⟩) (raise_uni hs) hpass _ _))
    (fun w => w.takeScoped_slot _ _) fun red now q => ?_
  rw [Warp.complete_regs]
  refine (Warp.foldl_putScoped_o c.w j (V := fun q => (c.combined a fn.toNat (c.octet q)).toNat)
    (fun _ hy => Ctx.octetVals_snd hy) q).trans ?_
  simp only [hs.exists_octetVals hw, BitVec.ofNat_toNat, BitVec.setWidth_eq, ne_eq, ite_not]

/-- RAISE to a b register with room for its round. -/
theorem raise_b {i : BitVec 5} (hs : s.Issues (raiseEntry sw (.b i) a fn) c) (ho : orderless fn.toNat c.mode)
    (hag : agreeing fn.toNat (c.lanes.map fun l => c.opd l a)) (hwhole : whole c) (hl : c.lanes ≠ [])
    (hroom : c.b.rounds.length < 8 ∨ ∃ x ∈ c.b.rounds, x.reg = i.toNat) :
    ∃ t w' b' x p, exec (.raise sw (.b i) a fn) s = .next t ∧ warpOf t s.cur = some w'
      ∧ w'.pend = c.w.pend ++ [.b i.toNat, .status] ∧ w'.regs = c.w.regs
      ∧ t.block? c.b.id = some b' ∧ b'.b = c.b.b ∧ x ∈ b'.rounds ∧ x.reg = i.toNat ∧ p ∈ x.parts
      ∧ p.slot = c.r.slot ∧ p.fn = fn.toNat ∧ p.val = some (c.combined a fn.toNat c.lanes) := by
  obtain ⟨fl, heff⟩ := raiseEff_b hs.toStands ho hl hwhole hag i
  obtain ⟨res, hdone⟩ := c.contribute_b hroom fn.toNat (some (c.combined a fn.toNat c.lanes).toNat) fl
  obtain ⟨x, hx, hreg, hp⟩ := mem_addPart i.toNat
    (c.part fn.toNat (some (c.combined a fn.toNat c.lanes).toNat) fl) c.b.rounds
  have hid := State.block?_id (State.warp?_some.1 hs.warp).1
  have hrun := runWord_done (body := raiseEff (.b i) a fn.toNat) hs (heff.trans hdone)
  rw [hs.completes_eq, hs.s_eq, hs.r_eq, hid] at hrun
  have hwarp := State.warp?_complete (State.warp?_updBlock (Block.joined i.toNat (c.part fn.toNat
      (some (c.combined a fn.toNat c.lanes).toNat) fl))
    (State.warp?_updWarp (s := s.fresh) (Warp.awaiting res [.b i.toNat, .status]) hs.warp fun _ => rfl)
    (fun _ => rfl) rfl) c.g (raiseEntry sw (.b i) a fn c.mode) c.w.ctl.pc none
  refine ⟨_, _, _, x, _, congrArg Host.Outcome.next hrun, warpOf_of_warp? hwarp, rfl, Warp.complete_regs _ _ _ _ _ _,
    (congrArg _ hid).trans (State.warp?_some.1 hwarp).1, rfl, hx, hreg, hp, rfl, rfl, ?_⟩
  rw [Ctx.part, Option.map_some, BitVec.ofNat_toNat, BitVec.setWidth_eq]

/-- Settles O30: the tree combines the lanes of C, and RAISE writes what it makes or contributes it to the round. -/
theorem raiseCombinesItsLanes : Obligations.RaiseCombinesItsLanes := by
  refine ⟨fun sw a i j fn s c => ⟨fun hs ho => ⟨fun hag hl => ?_, fun hag => ?_⟩, fun hs ho hw hag => ?_⟩,
    fun sw a i fn s c hs ho hag hwhole hl hroom => raise_b hs ho hag hwhole hl hroom⟩
  · refine (raise_w hs ho hag hl).imp fun w' hregs => ?_
    rw [hregs]
    exact ⟨sparseGet_set_same _ _ _ _, rfl, rfl, rfl, fun k hk => sparseGet_set_other _ _ _ hk⟩
  · exact ⟨_, exec_of_fault (body := raiseEff (.w i) a fn.toNat) rfl hs (raiseEff_w_disagree hag i)⟩
  · have hdvd : 8 ∣ c.w.width ∧ c.w.width / 8 ≤ 8 := by
      simp only [List.mem_cons, List.not_mem_nil, or_false] at hw
      omega
    exact (raise_o hs ho hdvd.1 fun q hq => hag q (by omega)).imp fun w' h q _ => h q

end Sys2Proof.Claims
end

section
/-!
SUPPORT. VOTE (R128): its value over the lanes of C, and its destination of any class.
-/

namespace Sys2Proof.Machine

open Sys2Proof.Claims (warpOf)

variable {s : State} {mk : Word → Entry} {c : Ctx} {d : Operand} {vals : List (Nat × Nat)}

/-! ## The value of a vote -/

theorem State.Stands.lanes_length (h : s.Stands mk c) : c.lanes.length ≤ 64 := by
  have hnodup : c.lanes.Nodup := h.lanes_pairwise.imp Nat.ne_of_lt
  have hsub : c.lanes ⊆ List.range 64 := fun l hl => List.mem_range.2 (h.lane_lt hl).2
  exact (hnodup.subperm hsub).length_le.trans_eq List.length_range

/-- A ballot has a bit for each of 32 lanes from `lo` on. -/
theorem getLsbD_ballot (ls : List Nat) (t : Nat → Bool) {lo k : Nat} (hk : k < 32) (hlo : lo + k < 64) :
    ((maskOf (ls.filter t)).extractLsb' lo 32).getLsbD k = (decide (lo + k ∈ ls) && t (lo + k)) := by
  rw [BitVec.getLsbD_extractLsb', decide_eq_true hk, Bool.true_and, getLsbD_maskOf _ hlo, Bool.eq_iff_iff]
  simp

/-- What a register reads that holds a vote: any, all, the two ballots and the count. -/
theorem State.Stands.voteValue_word (h : s.Stands mk c) (t : Nat → Bool) :
    BitVec.ofNat 32 (voteValue 0 c.lanes t) = (if c.lanes.any t then 1 else 0)
      ∧ BitVec.ofNat 32 (voteValue 1 c.lanes t) = (if c.lanes.all t then 1 else 0)
      ∧ (∀ k, k < 32 → (BitVec.ofNat 32 (voteValue 2 c.lanes t)).getLsbD k = (decide (k ∈ c.lanes) && t k))
      ∧ (∀ k, k < 32 → (BitVec.ofNat 32 (voteValue 3 c.lanes t)).getLsbD k
        = (decide (k + 32 ∈ c.lanes) && t (k + 32)))
      ∧ (BitVec.ofNat 32 (voteValue 4 c.lanes t)).toNat = (c.lanes.filter t).length := by
  refine ⟨apply_ite _ _ _ _, apply_ite _ _ _ _, fun k hk => ?_, fun k hk => ?_, ?_⟩
  · rw [voteValue, BitVec.ofNat_toNat, BitVec.setWidth_eq, getLsbD_ballot _ _ hk (by omega), Nat.zero_add]
  · rw [voteValue, BitVec.ofNat_toNat, BitVec.setWidth_eq, getLsbD_ballot _ _ hk (by omega), Nat.add_comm]
  · have hlen := (List.length_filter_le t c.lanes).trans h.lanes_length
    exact (BitVec.toNat_ofNat _ 32).trans (Nat.mod_eq_of_lt (Nat.lt_of_le_of_lt hlen (by decide)))

/-! ## A destination of any class -/

/-- The state in which a word has written its destination and completed. -/
def State.written (s : State) (c : Ctx) (e : Entry) (d : Operand) (vals : List (Nat × Nat)) (fl : Flags) : State :=
  ((s.writeDest s.cur d 1 vals).updWarp s.cur fun w => w.orFlags fl).complete s.cur c.g e c.w.ctl.pc none

variable {e : Entry} {fl : Flags}

/-- In a lane with a value the destination reads it. -/
theorem State.Stands.operand_written (h : s.Stands mk c) (hd : d.isReg = true)
    (hv : ∀ x ∈ vals, ∀ y ∈ vals, sameReg d d x.1 y.1 = true → x.2 = y.2) {l v : Nat} (hl : (l, v) ∈ vals) :
    (s.written c e d vals fl).operand s.cur l d = BitVec.ofNat 32 v := by
  have hself (l : Nat) : sameReg d d l l = true := by
    cases d <;> simp [sameReg]
  have hhas := Claims.has_cur h
  have hread := hhas.operand_writeDest hd (n := 1) (by decide) (disagreeing_of_destFault (destFault_eq_none hd hv))
    (fun x hx y hy hxy => hv x hx y hy (hxy ▸ hself x.1)) hl Nat.one_pos
  rw [Operand.nth_zero, Nat.mul_zero, Nat.pow_zero, Nat.div_one] at hread
  exact ((hhas.writeDest d 1 vals).operand_orFlags_complete _ _ _ _ _ l hd).trans hread

/-- The warp, its flags set and its word complete. -/
theorem State.Stands.warpOf_written (h : s.Stands mk c) (hd : d.isReg = true) :
    ∃ w', warpOf (s.written c e d vals fl) s.cur = some w'
      ∧ (e.sw = false → w'.ctl.status = statusOr c.w.ctl.status fl) := by
  obtain ⟨b, w, hw, -, hre⟩ := (State.Rewrites.writeDest s s.cur (.inl hd) 1 vals).warp c.b c.w h.warp
  obtain ⟨-, -, -, hctl, -⟩ := hre.frame
  have hflags := State.warp?_updWarp (fun w => w.orFlags fl) hw fun _ => rfl
  refine ⟨_, warpOf_of_warp? (State.warp?_complete hflags _ _ _ _),
    fun hsw => (Warp.complete_status _ hsw _ _ _ _).trans ?_⟩
  rw [Warp.orFlags, hctl]
  rfl

/-- With no value no register is written. -/
theorem State.writeDest_nil (s : State) (r : WarpRef) (d : Operand) (n : Nat) : ∃ f : Warp → Warp,
    (∀ w, (f w).slot = w.slot ∧ (f w).regs = w.regs) ∧ s.writeDest r d n [] = s.updWarp r f := by
  have hd : destVals d [] = [] := by
    unfold destVals
    split
    · rfl
    · rfl
    · split <;> rfl
    · rfl
  refine ⟨fun w => { w with flt := { w.flt with marks := clearMarks d n (maskOf []) w.flt.marks } },
    fun _ => ⟨rfl, rfl⟩, ?_⟩
  rw [State.writeDest, hd]
  rfl

/-- An update of the issuing warp leaves the stores of its block and the other warps. -/
theorem State.blocksKept_updWarp (s : State) {f : Warp → Warp} (hf : ∀ w, (f w).slot = w.slot) :
    Claims.BlocksKept s (s.updWarp s.cur f) := by
  intro id b hb
  by_cases hid : id = s.cur.blk
  · subst hid
    refine ⟨b.updWarp s.cur.slot f, ?_, rfl, rfl, rfl, rfl, rfl, rfl, rfl, rfl, rfl, rfl, fun k hk =>
      Block.warp?_updWarp_other b f hf fun e => hk ⟨rfl, e⟩⟩
    rw [State.updWarp, State.block?_updBlock _ _ _ fun b => Block.updWarp_id b s.cur.slot f, hb]
    rfl
  · refine ⟨b, ?_, rfl, rfl, rfl, rfl, rfl, rfl, rfl, rfl, rfl, rfl, fun _ _ => rfl⟩
    rw [State.updWarp, State.block?_updBlock_other _ _ (fun b => Block.updWarp_id b s.cur.slot f) hid, hb]

/-- A word with no value to write is an update of its warp that keeps the registers. -/
theorem State.written_nil (s : State) (c : Ctx) (e : Entry) (d : Operand) (fl : Flags) :
    ∃ f : Warp → Warp, (∀ w, (f w).slot = w.slot) ∧ (∀ w, (f w).regs = w.regs)
      ∧ s.written c e d [] fl = (s.updWarp s.cur f).progress c.g.ctx := by
  obtain ⟨f, hf, hwrite⟩ := s.writeDest_nil s.cur d 1
  refine ⟨fun w => ((f w).orFlags fl).complete e c.w.ctl.pc none c.g.packet.redundant s.now,
    fun w => (Warp.complete_slot _ _ _ _ _ _).trans (hf w).1,
    fun w => (Warp.complete_regs _ _ _ _ _ _).trans (hf w).2, ?_⟩
  rw [State.written, hwrite, State.updWarp_updWarp (f := f) _ _ _ fun w => (hf w).1, State.complete,
    State.updWarp_updWarp (f := fun w => (f w).orFlags fl) _ _ _ fun w => (hf w).1]
  rfl

end Sys2Proof.Machine

namespace Sys2Proof.Claims

open Sys2Proof.Machine

variable {s : State} {c : Ctx} {sw : Bool} {a d : Operand} {fn : BitVec 5}

/-- The lanes that receive the value of a VOTE (R36, R128). -/
def voteLanes (c : Ctx) (d : Operand) : List Nat := if d.isV then c.lanes else if modeGd c.mode = 8 then [] else c.act

/-- What VOTE makes of the lanes of C. -/
def voteOf (c : Ctx) (a : Operand) (fn : Nat) : Nat := voteValue fn c.lanes fun l => c.opd l a != 0

/-- Its value, for each lane that receives it. -/
def voteVals (c : Ctx) (d a : Operand) (fn : Nat) : List (Nat × Nat) := (voteLanes c d).map fun l => (l, voteOf c a fn)

theorem voteVals_agree {k : Nat} : ∀ x ∈ voteVals c d a k, ∀ y ∈ voteVals c d a k,
    sameReg d d x.1 y.1 = true → x.2 = y.2 := by
  intro x hx y hy _
  obtain ⟨_, -, rfl⟩ := List.mem_map.1 hx
  obtain ⟨_, -, rfl⟩ := List.mem_map.1 hy
  rfl

/-- VOTE writes its value for each of those lanes. -/
theorem exec_vote (hs : s.Issues (voteEntry sw d a fn) c) : d.isReg = true ∧ exec (.vote sw d a fn) s
    = .next (s.written c (voteEntry sw d a fn c.mode) d (voteVals c d a fn.toNat) 0) := by
  have hd : d.isReg = true := Entry.uses_ok hs.legal _ List.mem_cons_self
  have hu := hs.uni_of_laneSrc (List.mem_cons_of_mem _ List.mem_cons_self : Use.laneSrc a ∈ _)
  have hbody : voteEff d a fn.toNat c = c.put c.s d 1 (voteVals c d a fn.toNat) 0 := by
    simp only [voteEff, voteVals, voteLanes, voteOf, beq_iff_eq]
  have hrun := runWord_done (body := voteEff d a fn.toNat) hs
    (hbody.trans (Ctx.put_lanes hu (destFault_eq_none hd voteVals_agree) _ _ _))
  rw [hs.completes_eq, hs.s_eq, hs.r_eq] at hrun
  exact ⟨hd, congrArg Host.Outcome.next hrun⟩

/-- Settles O31: VOTE writes one value, and a register that holds it reads the vote. -/
theorem voteCountsItsLanes : Obligations.VoteCountsItsLanes := by
  intro sw a d fn s c hs holds out
  obtain ⟨hd, he⟩ := exec_vote hs
  obtain ⟨w', hw, hstatus⟩ := hs.toStands.warpOf_written (e := voteEntry sw d a fn c.mode) (fl := 0) hd
    (vals := voteVals c d a fn.toNat)
  refine ⟨by decide, _, w', he, hw, fun hsw => (hstatus hsw).trans ?_, fun hout => ?_, fun l hl => ?_⟩
  · simp [statusOr]
  · obtain ⟨f, hslot, hregs, hf⟩ := s.written_nil c (voteEntry sw d a fn c.mode) d 0
    have hnil : voteVals c d a fn.toNat = [] := List.map_eq_nil_iff.2 hout
    rw [hnil, hf] at hw ⊢
    rw [warpOf_progress, warpOf_updWarp s _ hslot, hs.warpOf_cur] at hw
    exact ⟨s.blocksKept_updWarp hslot, rfl, Option.some.inj hw ▸ hregs c.w⟩
  · have hmem : (l, voteOf c a fn.toNat) ∈ voteVals c d a fn.toNat := List.mem_map.2 ⟨l, hl, rfl⟩
    rw [hs.operand_written hd voteVals_agree hmem]
    obtain ⟨hany, hall, hlo, hhi, hcount⟩ := hs.voteValue_word holds
    exact ⟨fun h => h ▸ hany, fun h => h ▸ hall, fun h => h ▸ hlo, fun h => h ▸ hhi, fun h => h ▸ hcount⟩

end Sys2Proof.Claims
end

section
/-!
SUPPORT. The shuffles (R129) and PLOG (R130): the values that they write, and their warp afterwards.
-/

namespace Sys2Proof.Machine

open Sys2Proof.Claims (shuffled)

variable {s : State} {mk : Word → Entry} {c : Ctx}

/-! ## Shuffles -/

/-- What a shuffle writes: for each lane of C, its source lane's value of A. -/
def Ctx.shuffleVals (c : Ctx) (a b : Operand) (f : Word → Word → Word) : List (Nat × Nat) :=
  c.lanes.map fun l => (l, (c.opd (shuffled c l (f (BitVec.ofNat 32 l) (c.opd l b))) a).toNat)

/-- Arithmetic on lane numbers is that of n32 (R129). -/
theorem shfEff_eq {d a b : Operand} {g : Nat → Nat → Nat} {f : Word → Word → Word}
    (h : ∀ l (k : Word), l < 64 → g l k.toNat % 2 ^ 32 = (f (BitVec.ofNat 32 l) k).toNat) (hs : s.Stands mk c) :
    shfEff d a b g c = c.put c.s d 1 (c.shuffleVals a b f) 0 := by
  have hflags (ls : List Nat) : (ls.map fun _ => (0 : Flags)).foldr (fun f fl => f ||| fl) 0 = 0 := by
    induction ls with
    | nil => rfl
    | cons l t ih => rw [List.map_cons, List.foldr_cons, ih]; rfl
  simp only [shfEff, laneEff, Ctx.lanewise_eq, hflags]
  refine congrArg (fun vals => c.put c.s d 1 vals 0) (List.map_congr_left fun l hl => ?_)
  rw [h l _ (hs.lane_lt hl).2]
  rfl

theorem Ctx.shuffleVals_fst (c : Ctx) (a b : Operand) (f : Word → Word → Word) :
    (c.shuffleVals a b f).map Prod.fst = c.lanes := by
  rw [Ctx.shuffleVals, List.map_map]
  exact List.map_id _

/-- A lane register after a shuffle: the lanes of C hold their source lane's value, and nothing else changes. -/
theorem State.Stands.takeV_shuffleVals (h : s.Stands mk c) (i k : BitVec 6) (a b : Operand) (f : Word → Word → Word)
    (l : Nat) : sparseGet 0 (c.w.takeV i (c.shuffleVals a b f)).regs.v (64 * l + k.toNat)
      = if k = i ∧ l ∈ c.lanes then c.opd (shuffled c l (f (BitVec.ofNat 32 l) (c.opd l b))) a
        else sparseGet 0 c.w.regs.v (64 * l + k.toNat) := by
  split
  · next hin =>
    obtain ⟨rfl, hl⟩ := hin
    have hnodup : ((c.shuffleVals a b f).map Prod.fst).Nodup := by
      rw [c.shuffleVals_fst]
      exact h.lanes_pairwise.imp Nat.ne_of_lt
    refine (c.w.putV_same k.isLt hnodup (List.mem_map.2 ⟨l, hl, rfl⟩)).trans ?_
    rw [BitVec.ofNat_toNat, BitVec.setWidth_eq]
  · next hout =>
    refine c.w.putV_other i.toNat i.isLt k.isLt ?_
    rw [c.shuffleVals_fst]
    exact (not_and_or.1 hout).imp (fun hk e => hk (BitVec.eq_of_toNat_eq e)) id

/-! ## Predicates -/

/-- A word that passes its checks does not name p0 as a destination (R45). -/
theorem Entry.p0_eq_false {e : Entry} {w : Warp} {g : Grid} {priv : Bool} (h : e.staticFault w g priv = none) :
    e.p0 = false := by
  by_contra hp
  have hany : (e.p0 || e.uses.any fun u => !u.ok) = true := by rw [Bool.eq_true_of_not_eq_false hp, Bool.true_or]
  unfold Entry.staticFault at h
  rw [if_pos hany] at h
  split at h <;> cases h

/-- p0 always holds (R39, R45). -/
theorem Warp.pred_zero (w : Warp) (l : Nat) : w.pred l 0 = true := by
  simp [Warp.pred, Warp.preds, -BitVec.getLsbD_eq_getElem]

/-- A byte with one bit set or cleared. -/
theorem getLsbD_setBit (y : Byte) (p : Nat) {k : Nat} (hk : k < 8) (x : Bool) :
    (if x then y ||| BitVec.ofNat 8 (2 ^ p) else y &&& ~~~BitVec.ofNat 8 (2 ^ p)).getLsbD k
      = if k = p then x else y.getLsbD k := by
  have hbit : (BitVec.ofNat 8 (2 ^ p)).getLsbD k = decide (p = k) := by
    rw [BitVec.getLsbD_ofNat, Nat.testBit_two_pow, decide_eq_true hk, Bool.true_and]
  generalize BitVec.ofNat 8 (2 ^ p) = bit at hbit
  by_cases h : k = p
  · subst h
    rw [if_pos rfl]
    cases x
    · rw [if_neg Bool.false_ne_true, BitVec.getLsbD_and, BitVec.getLsbD_not, hbit, decide_eq_true rfl]
      simp
    · rw [if_pos rfl, BitVec.getLsbD_or, hbit, decide_eq_true rfl, Bool.or_true]
  · rw [if_neg h]
    cases x
    · rw [if_neg Bool.false_ne_true, BitVec.getLsbD_and, BitVec.getLsbD_not, hbit, decide_eq_false (Ne.symm h),
        decide_eq_true hk]
      simp
    · rw [if_pos rfl, BitVec.getLsbD_or, hbit, decide_eq_false (Ne.symm h), Bool.or_false]

/-- A predicate but p0 that is set in a lane is the one value that changes. -/
theorem Warp.setPred_pred (w : Warp) (m : Nat) {p k : Nat} (hp : p ≠ 0) (hk : k < 8) (x : Bool) (l : Nat) :
    (w.setPred m p x).pred l k = if l = m ∧ k = p then x else w.pred l k := by
  have hpreds : (w.setPred m p x).preds l = if l = m then
      (if x then w.preds m ||| BitVec.ofNat 8 (2 ^ p) else w.preds m &&& ~~~BitVec.ofNat 8 (2 ^ p)) ||| 1
      else w.preds l := (w.setPreds_preds _ _ _).trans (by rw [preds_byte])
  by_cases hl : l = m
  · subst hl
    by_cases h0 : k = 0
    · subst h0
      rw [Warp.pred_zero, Warp.pred_zero, if_neg fun h => hp h.2.symm]
    · have hone : (1 : Byte).getLsbD k = false :=
        (BitVec.getLsbD_one (w := 8)).trans (by rw [decide_eq_false h0, Bool.and_false])
      rw [Warp.pred, hpreds, if_pos rfl, BitVec.getLsbD_or, hone, Bool.or_false, getLsbD_setBit _ _ hk]
      simp only [true_and]
      rfl
  · rw [Warp.pred, hpreds, if_neg hl, if_neg fun h => hl h.1]
    rfl

/-- A predicate after a run of such writes, each lane's with a value of its own. -/
theorem Warp.foldl_setPred_pred (w : Warp) {p k : Nat} (hp : p ≠ 0) (hk : k < 8) (V : Nat → Bool)
    (ls : List Nat) (l : Nat) :
    ((ls.map fun l => (l, V l)).foldl (fun (w : Warp) x => w.setPred x.1 p x.2) w).pred l k
      = if l ∈ ls ∧ k = p then V l else w.pred l k := by
  induction ls generalizing w with
  | nil => simp
  | cons m t ih =>
    rw [List.map_cons, List.foldl_cons, ih, Warp.setPred_pred w m hp hk]
    by_cases hl : l ∈ t ∧ k = p
    · rw [if_pos hl, if_pos ⟨List.mem_cons_of_mem _ hl.1, hl.2⟩]
    · rw [if_neg hl]
      by_cases hm : l = m ∧ k = p
      · obtain ⟨rfl, hkp⟩ := hm
        rw [if_pos ⟨rfl, hkp⟩, if_pos ⟨List.mem_cons_self, hkp⟩]
      · rw [if_neg hm, if_neg]
        rintro ⟨hmem, hkp⟩
        rcases List.mem_cons.1 hmem with rfl | hmem
        · exact hm ⟨rfl, hkp⟩
        · exact hl ⟨hmem, hkp⟩

/-- The warp with a predicate written (R140, R145, R312). -/
def Warp.takePred (p : Nat) (vals : List (Nat × Bool)) (w : Warp) : Warp :=
  let w := vals.foldl (fun (w : Warp) x => w.setPred x.1 p x.2) w
  { w with flt := { w.flt with marks := clearMarksOf [.p p] (maskOf (vals.map Prod.fst)) w.flt.marks } }

theorem State.writePred_eq (s : State) (r : WarpRef) (p : Nat) (vals : List (Nat × Bool)) :
    s.writePred r p vals = s.updWarp r (Warp.takePred p vals) := rfl

/-- The write of a predicate changes predicates alone. -/
theorem Warp.takePred_frame (p : Nat) (vals : List (Nat × Bool)) (w : Warp) :
    ∃ x f, w.takePred p vals = { w with regs := { w.regs with p := x }, flt := f } := by
  have hfold (vals : List (Nat × Bool)) (w : Warp) : ∃ x, vals.foldl (fun (w : Warp) x => w.setPred x.1 p x.2) w
      = { w with regs := { w.regs with p := x } } := by
    induction vals generalizing w with
    | nil => exact ⟨_, rfl⟩
    | cons y ys ih =>
      obtain ⟨x, hx⟩ := ih (w.setPred y.1 p y.2)
      exact ⟨x, hx⟩
  obtain ⟨x, hx⟩ := hfold vals w
  unfold Warp.takePred
  rw [hx]
  exact ⟨_, _, rfl⟩

theorem Warp.takePred_slot (p : Nat) (vals : List (Nat × Bool)) (w : Warp) : (w.takePred p vals).slot = w.slot := by
  obtain ⟨_, _, h⟩ := w.takePred_frame p vals
  rw [h]

end Sys2Proof.Machine

namespace Sys2Proof.Claims

open Sys2Proof.Machine

variable {s : State} {c : Ctx} {sw : Bool}

/-! ## The shuffles -/

/-- A word that is a shuffle whose source lane is `f` of its own lane and the selector. -/
theorem shuffle_issues {i : Instr} {d a : BitVec 6} {b : Operand} {g : Nat → Nat → Nat} {f : Word → Word → Word}
    (hi : exec i s = .next (runWord s (fun _ => shfEntry sw (.v d) (.v a) b) (shfEff (.v d) (.v a) b g)))
    (hg : ∀ l (k : Word), l < 64 → g l k.toNat % 2 ^ 32 = (f (BitVec.ofNat 32 l) k).toNat)
    (hs : s.Issues (fun _ => shfEntry sw (.v d) (.v a) b) c) : ∃ t w', exec i s = .next t ∧ s.OnlyWarp t s.cur
      ∧ warpOf t s.cur = some w' ∧ (sw = false → w'.ctl.status = c.w.ctl.status) ∧ ∀ l, l < 64 →
        (t.operand s.cur l (.v d) = if l ∈ c.lanes then
            c.opd (shuffled c l (f (BitVec.ofNat 32 l) (c.opd l b))) (.v a)
          else s.operand s.cur l (.v d))
        ∧ (∀ k, k ≠ d → t.operand s.cur l (.v k) = s.operand s.cur l (.v k))
        ∧ w'.regs.o = c.w.regs.o ∧ w'.regs.w = c.w.regs.w ∧ w'.regs.p = c.w.regs.p := by
  have hu := hs.toStands.uni_of_lane (u := { Use.dst (.v d) 1 with ok := (Operand.v d).isV }) List.mem_cons_self rfl
  obtain ⟨t, he, -, hout, hgrids, hw⟩ := exec_updWarp hi hs ((shfEff_eq hg hs.toStands).trans (Ctx.put_v hu d _ _))
    fun w => w.slot_takeV d _
  obtain ⟨b', g', hread⟩ := operand_of_warpOf hs.toStands hout hgrids hw
  have hv (l : Nat) (k : BitVec 6) : t.operand s.cur l (.v k) = if k = d ∧ l ∈ c.lanes then
      c.opd (shuffled c l (f (BitVec.ofNat 32 l) (c.opd l b))) (.v a) else s.operand s.cur l (.v k) := by
    rw [hread, State.operand_eq hs.warp hs.grid]
    simp only [readOperand, Warp.complete_regs]
    exact hs.takeV_shuffleVals d k (.v a) b f l
  obtain ⟨_, hframe⟩ := c.w.takeV_frame d (c.shuffleVals (.v a) b f)
  refine ⟨t, _, he, hout, hw, fun hsw => (Warp.complete_status _ hsw _ _ _ _).trans ?_,
    fun l _ => ⟨?_, fun k hk => ?_, ?_⟩⟩
  · rw [hframe]
    simp [Warp.orFlags, Warp.setStatus, statusOr]
  · rw [hv]
    simp only [true_and]
  · rw [hv, if_neg fun h => hk h.1]
  · rw [Warp.complete_regs, hframe]
    exact ⟨rfl, rfl, rfl⟩

/-- A shuffle to a register of another class is refused (R129). -/
theorem shuffle_refused {i : Instr} {x y b : Operand} {body : Ctx → Eff}
    (hi : exec i s = .next (runWord s (fun _ => shfEntry sw x y b) body)) (hx : x.isV = false)
    (hs : s.Stands (fun _ => shfEntry sw x y b) c) :
    exec i s = .next (s.takeFault s.cur (faultAt fcIllegalOperand 0) c.w.ctl.pc) := by
  refine hi.trans (congrArg _ (runWord_staticFault _ hs ?_))
  simp [Entry.staticFault, shfEntry, hx]

/-! ## PLOG -/

/-- What %pred reads of a predicate (R39). -/
theorem readOperand_preds (t : State) (b : Block) (g : Grid) (w : Warp) (l : Nat) {k : Nat} (hk : k < 8) :
    (readOperand t b g w l (.sp 13)).getLsbD k = w.pred l k := by
  have h32 : k < 32 := by omega
  exact (BitVec.getLsbD_setWidth 32 (w.preds l) k).trans (by rw [decide_eq_true h32, Bool.true_and]; rfl)

/-- PLOG writes its predicate in the lanes that receive a value. -/
theorem plog_issues {fn : BitVec 4} {pd pa pb : BitVec 3} {ia ib : Bool}
    (hs : s.Issues (plogEntry sw fn pd ia pa ib pb) c) :
    ∃ t w', exec (.plog sw fn pd ia pa ib pb) s = .next t ∧ t.cur = s.cur ∧ s.OnlyWarp t s.cur
      ∧ warpOf t s.cur = some w' ∧ w'.regs.v = c.w.regs.v ∧ w'.regs.o = c.w.regs.o
      ∧ w'.regs.w = c.w.regs.w ∧ ∀ l k, k < 8 → predOf t l k = if l ∈ c.outLanes ∧ k = pd.toNat then
        plogOp fn.toNat (c.w.pred l pa.toNat != ia) (c.w.pred l pb.toNat != ib) else predOf s l k := by
  have hp : pd.toNat ≠ 0 := fun h0 =>
    beq_eq_false_iff_ne.1 (Entry.p0_eq_false hs.legal : (pd == 0) = false) (BitVec.eq_of_toNat_eq h0)
  obtain ⟨t, he, hcur, hout, hgrids, hw⟩ := exec_updWarp
    (i := .plog sw fn pd ia pa ib pb) (body := plogEff fn.toNat pd ia pa ib pb) rfl hs
    (congrArg Eff.done (State.writePred_eq _ _ _ _)) fun w => w.takePred_slot _ _
  obtain ⟨b', g', hread⟩ := operand_of_warpOf hs.toStands hout hgrids hw
  obtain ⟨_, _, hframe⟩ := c.w.takePred_frame pd.toNat (c.outLanes.map fun l =>
    (l, plogOp fn.toNat (c.w.pred l pa.toNat != ia) (c.w.pred l pb.toNat != ib)))
  have hregs := Warp.complete_regs
  refine ⟨t, _, he, hcur, hout, hw, by rw [hregs, hframe], by rw [hregs, hframe], by rw [hregs, hframe],
    fun l k hk => ?_⟩
  rw [predOf, predOf, hcur, hread, State.operand_eq hs.warp hs.grid, readOperand_preds _ _ _ _ _ hk,
    readOperand_preds _ _ _ _ _ hk, Warp.pred, Warp.complete_preds]
  exact c.w.foldl_setPred_pred hp hk _ c.outLanes l

/-- Settles O32: each shuffle by its source lane, and PLOG by its write. -/
theorem shufflesAndPredicateLogic : Obligations.ShufflesAndPredicateLogic := by
  intro sw d a b fn pd pa pb ia ib s c
  refine ⟨fun hs i f hi => ?_, fun x y i hx hs hi => ?_, by decide, by decide, fun hs hfn => ?_, fun hs => ?_⟩
  · simp only [List.mem_cons, List.not_mem_nil, or_false, Prod.mk.injEq] at hi
    rcases hi with ⟨rfl, rfl⟩ | ⟨rfl, rfl⟩ | ⟨rfl, rfl⟩ | ⟨rfl, rfl⟩
    · exact shuffle_issues (f := fun _ k => k) rfl (fun l k _ => Nat.mod_eq_of_lt k.isLt) hs
    · refine shuffle_issues (f := fun l k => l ^^^ k) rfl (fun l k _ => ?_) hs
      rw [BitVec.toNat_xor, BitVec.toNat_ofNat]
      have hk := Nat.mod_eq_of_lt k.isLt
      exact (Nat.xor_mod_two_pow).trans (by rw [hk])
    · refine shuffle_issues (f := fun l k => l - k) rfl (fun l k hl => ?_) hs
      rw [BitVec.toNat_sub, BitVec.toNat_ofNat, Nat.mod_eq_of_lt (by omega : l < 2 ^ 32)]
      have hk := k.isLt
      congr 1
      omega
    · exact shuffle_issues (f := fun l k => l + k) rfl (fun l k hl => by simp [BitVec.toNat_add]) hs
  · simp only [List.mem_cons, List.not_mem_nil, or_false] at hi
    rcases hi with rfl | rfl | rfl | rfl <;> exact shuffle_refused rfl hx hs
  · refine congrArg _ (runWord_staticFault _ hs (Entry.staticFault_p0 ?_ rfl rfl))
    simpa [plogEntry, Instr.codesOk] using hfn
  · obtain ⟨t, w', he, hcur, hout, hw, hv, ho, hwr, hp⟩ := plog_issues hs
    refine ⟨t, w', he, hcur, hout, hw, hv, ho, hwr, fun l k hk => (hp l k hk).trans ?_⟩
    rfl

end Sys2Proof.Claims
end

section
/-!
The lane words of the vector pipes: every one completes with its lanes written (R132), or its result outstanding.
-/

namespace Sys2Proof.Claims
open Sys2Proof.Machine
variable {i : Instr} {x : LaneForm} {s : State} {c : Ctx} {tys : List Nat}

/-- With no lane in C a late word has nothing outstanding; else its result is pushed (R134, R135). -/
theorem lateEff_eq (hs : s.Issues x.entry c) : lateEff x.dest (x.regs c.mode) x.value c
    = .done (if c.lanes = [] then s else s.pushResult s.cur (x.outstanding s c)) := by
  have hdue : (if (x.regs c.mode == 2) = true then 40 else 12) = if x.regs c.mode = 2 then 40 else 12 :=
    ite_congr (propext beq_iff_eq) (fun _h => rfl) fun _h => rfl
  refine Eq.trans ?_ (apply_ite Eff.done ..).symm
  delta lateEff
  rw [Ctx.lanewise_eq, hs.s_eq, hs.r_eq]
  refine ite_congr ((congrArg (fun z => z = true) List.isEmpty_map).trans (propext List.isEmpty_iff))
    (fun _h => rfl) fun _h =>
      congrArg (fun due => Eff.done (s.pushResult s.cur { x.outstanding s c with due := s.now + due })) hdue

set_option tactic.hygienic false in
/-- A word of FRCP to FCOSPI leaves its result outstanding (R134, R154). -/
theorem exec_late (i : Instr) (s : State) : (lateForm i).elim True fun x =>
    exec i s = .next (runWord s x.entry fun c => lateEff x.dest (x.regs c.mode) x.value c) := by
  induction i
  case frcp | frsq | fsqrt | fexp2 | flog2 | fsinpi | fcospi => rfl
  all_goals exact trivial

/-- Settles O1: a lane word by the write of its destination, and a late word by the result that it pushes. -/
theorem laneWordsComplete : Obligations.LaneWordsComplete := by
  refine ⟨fun i x s c h hs hd => exec_laneForm_completes h hs hd, fun i x s c h hs => ?_⟩
  have hrun := exec_late i s
  rw [h] at hrun
  exact hrun.trans (congrArg _ (runWord_done hs (lateEff_eq hs)))
end Sys2Proof.Claims
end

section
/-!
SUPPORT. What a lane word accepts and gives; the bitwise words, the moves and SEL (R141, R146, R147).
-/

namespace Sys2Proof.Machine

-- A word that passes its checks has accepted codes and an accepted MODE (R43, R51).
theorem Entry.codes_modeOk {e : Entry} {w : Warp} {g : Grid} {priv : Bool} (h : e.staticFault w g priv = none) :
    e.codes = true ∧ e.modeOk = true := by
  have hbool : ∀ p q : Bool, ¬ (!p || !q) = true → p = true ∧ q = true := by decide
  exact hbool _ _ fun hbad => Option.some_ne_none _ ((if_pos hbad).symm.trans h)

-- A word under a type that it does not accept is refused (R43, R133).
theorem Entry.staticFault_mode {e : Entry} (hm : e.modeOk = false) (w : Warp) (g : Grid) (priv : Bool) :
    e.staticFault w g priv = some (faultAt fcIllegalInstruction 0) :=
  if_pos (by rw [hm]; exact Bool.or_true _)

theorem foldr_or_zero {α : Type} {f : α → Flags} (h : ∀ l, f l = 0) (ls : List α) :
    (ls.map f).foldr (fun f fl => f ||| fl) 0 = 0 := by
  induction ls with
  | nil => rfl
  | cons l t ih => exact (congrArg₂ (fun z y => z ||| y) (h l) ih).trans BitVec.or_zero

-- Elements that set no flag make a value that sets none (R132).
theorem mapElems_flags {count w : Nat} {g : Nat → Nat × Flags} (h : ∀ n, 0 = (g n).2) : 0 = (mapElems count w g).2 := by
  induction count with
  | zero => rfl
  | succ k ih =>
    rw [mapElems, List.range_succ, List.foldl_append]
    exact BitVec.or_zero.symm.trans (congrArg₂ (fun z y => z ||| y) ih (h k))

-- A value of `n` registers has 32 bits for each of them (R56).
theorem readRegs_lt (s : State) (b : Block) (g : Grid) (w : Warp) (l : Nat) (o : Operand) (n : Nat) :
    readRegs s b g w l o n < 2 ^ (32 * n) := by
  induction n generalizing o with
  | zero => exact Nat.one_pos
  | succ n ih =>
    refine (?_ : _ < 2 ^ 32 * 2 ^ (32 * n)).trans_eq ((Nat.pow_add 2 32 _).symm.trans ?_)
    · exact (Nat.add_lt_add_right (BitVec.isLt _) _).trans_le
        ((Nat.add_comm _ _).trans_le (Nat.mul_le_mul_left _ (ih _)))
    · rw [Nat.mul_succ, Nat.add_comm]

theorem Ctx.val_lt (c : Ctx) (l : Nat) (o : Operand) (n : Nat) : c.val l o n < 2 ^ (32 * n) :=
  readRegs_lt _ _ _ _ _ _ _

end Sys2Proof.Machine

namespace Sys2Proof.Claims

open Sys2Proof.Machine

variable {i : Instr} {x : LaneForm} {s : State} {c : Ctx} {tys : List Nat}

-- A lane word that no check stops has a type that its entry accepts.
theorem ty_mem_of_issues {mk : Word → Entry} (hm : ∀ m, tys.contains (tyOf m) = (mk m).modeOk) (hs : s.Issues mk c) :
    ty c ∈ tys :=
  List.contains_iff_mem.1 ((hm _).trans (Entry.codes_modeOk hs.legal).2)

-- Of a lane word only the types that its entry accepts are in question.
theorem Gives.of_types {P : Ctx → Nat → Nat → Prop} (hi : laneForm i = some x)
    (hm : ∀ m, tys.contains (tyOf m) = (x.entry m).modeOk) (h : Gives i fun c l y => ty c ∈ tys → P c l y) :
    Gives i P := by
  intro y s c hy hs hreg hd
  obtain rfl := Option.some.inj (hi.symm.trans hy)
  exact (h x s c hy hs hreg hd).imp fun t ht => ⟨ht.1, fun l hl => ht.2 l hl (ty_mem_of_issues hm hs)⟩

/-- A lane word whose entry looks at the type alone and whose value sets no flag. -/
theorem accepts_of_form (hi : laneForm i = some x) (hm : ∀ m, tys.contains (tyOf m) = (x.entry m).modeOk)
    (hf : ∀ c l, 0 = (x.value c l).2) : Accepts i tys := by
  intro y s c hy hs
  obtain rfl := Option.some.inj (hi.symm.trans hy)
  refine ⟨foldr_or_zero (fun l => (hf c l).symm) _,
    fun ht => (hm _).symm.trans (List.contains_iff_mem.2 ht), fun ht => ?_⟩
  have hbad : (x.entry c.w.ctl.mode).modeOk = false :=
    (hm _).symm.trans (Bool.eq_false_iff.2 fun h => ht (List.contains_iff_mem.1 h))
  rw [exec_laneForm hi, runWord_staticFault _ hs (Entry.staticFault_mode hbad _ _ _)]

theorem regs_eq (c : Ctx) : regs c = if ty c = 2 ∨ ty c = 3 ∨ ty c = 5 then 2 else 1 := by
  refine ite_congr (propext (Bool.or_eq_true_iff.trans ?_)) (fun _h => rfl) fun _h => rfl
  exact (or_congr (Bool.or_eq_true_iff.trans (or_congr beq_iff_eq beq_iff_eq)) beq_iff_eq).trans or_assoc

-- A register of a lane word reads the value of the lane that gives it, cut to the registers of the word.
theorem gives_form {P : Ctx → Nat → Nat → Prop} (hi : laneForm i = some x)
    (h : ∀ c l, P c l ((x.value c l).1 % 2 ^ (32 * x.regs c.mode))) : Gives i P := by
  refine gives_of_value fun y c l hy => ?_
  obtain rfl := Option.some.inj (hi.symm.trans hy)
  exact h c l

-- A word whose value is known bit by bit.
theorem gives_bits {B : Ctx → Nat → Nat → Bool} (hi : laneForm i = some x) (hr : x.regs = tyWide)
    (h : ∀ c l k, k < 32 * regs c → (x.value c l).1.testBit k = B c l k) :
    Gives i fun c l y => ∀ k, k < 32 * regs c → y.testBit k = B c l k := by
  refine gives_form hi fun c l k hk => ?_
  rw [hr]
  exact (Nat.testBit_mod_two_pow ..).trans ((congrArg (fun z => z && _) (decide_eq_true hk)).trans (h c l k hk))

/-- Settles O4: each word by the bits of its value. -/
theorem bitwiseWordsWorkOnEachBit : Obligations.BitwiseWordsWorkOnEachBit := by
  intro sw d a b
  refine ⟨gives_bits rfl rfl fun c l k _h => Nat.testBit_land ..,
    gives_bits rfl rfl fun c l k _h => Nat.testBit_lor ..,
    gives_bits rfl rfl fun c l k _h => Nat.testBit_xor ..,
    gives_bits rfl rfl fun c l k hk => ?_,
    List.forall_iff_forall_mem.1 (show _ ∧ _ ∧ _ ∧ _ from ⟨?_, ?_, ?_, ?_⟩), regs_eq, rfl, rfl, rfl, rfl⟩
  · have hnot := Nat.testBit_two_pow_sub_succ (c.val_lt l a (regs c)) k
    rw [decide_eq_true hk, Nat.add_comm, ← Nat.sub_sub] at hnot
    exact hnot
  all_goals exact accepts_of_form rfl (fun _h => rfl) fun _h _h => rfl

/-- SEL works in every lane of ACTIVE, but under `~p0` (R36, R146). -/
theorem lanes_of_selector {mk : Word → Entry} (hsel : (mk c.mode).selector = true)
    (hc : c = mkCtx c.s c.r c.b c.w c.g (mk c.mode)) :
    (modeGd c.mode ≠ 8 → c.uni = false → c.lanes = c.act) ∧ (modeGd c.mode = 8 → c.outLanes = []) := by
  have hlanes : c.lanes = if c.uni = true then (if (modeGd c.mode == 8) = true then [] else c.act).take 1
      else if (modeGd c.mode == 8) = true then [] else c.act := by
    rw [hc]
    exact congrArg (fun ls => if (!(mk c.mode).laneClass c.w.ctl.mode) = true then List.take 1 ls else ls) (if_pos hsel)
  refine ⟨fun hg hu => hlanes.trans ((if_neg (ne_true_of_eq_false hu)).trans (if_neg (mt eq_of_beq hg))), fun hg => ?_⟩
  have hnil : c.lanes = [] := by
    rw [hlanes, if_pos (beq_iff_eq.2 hg)]
    exact ite_self _
  rw [Ctx.outLanes, hnil]
  exact ite_self _

-- MOVH puts its immediate over the low half of D (R147).
theorem movh_value (imm : BitVec 16) (x : Word) :
    imm.toNat * 65536 + x.toNat % 65536 = (imm ++ x.extractLsb' 0 16).toNat := by
  rw [BitVec.toNat_append, BitVec.extractLsb'_toNat, Nat.shiftRight_zero,
    ← Nat.shiftLeft_add_eq_or_of_lt (Nat.mod_lt _ (Nat.two_pow_pos _)), Nat.shiftLeft_eq]

theorem selector_of_sel {sw : Bool} {d a b : Operand} (h : laneForm (.sel sw d a b) = some x) (m : Word) :
    (x.entry m).selector = true :=
  (congrArg (fun y : LaneForm => (y.entry m).selector) (Option.some.inj h)).symm

/-- Settles O7: each word by its value, and SEL by the lanes of its selector. -/
theorem movesAndSelect : Obligations.MovesAndSelect := by
  intro sw d a b imm
  refine ⟨gives_form rfl fun c l => Nat.mod_eq_of_lt (c.val_lt ..),
    gives_form rfl fun _h _h => Nat.mod_eq_of_lt (BitVec.isLt _),
    gives_form rfl fun c l => (congrArg (fun z => z % _) (movh_value imm (c.opd l d))).trans
      (Nat.mod_eq_of_lt (BitVec.isLt _)),
    gives_form rfl fun c l => Nat.mod_eq_of_lt (c.val_lt ..),
    List.forall_iff_forall_mem.1 (show _ ∧ _ from ⟨?_, ?_⟩),
    List.forall_iff_forall_mem.1 (show _ ∧ _ from ⟨?_, ?_⟩),
    fun x c hx hc => (lanes_of_selector (selector_of_sel hx c.mode) hc).1,
    fun x c hx hc => (lanes_of_selector (selector_of_sel hx c.mode) hc).2, rfl, rfl, rfl, rfl⟩
  case refine_1 | refine_2 => exact accepts_of_form rfl (fun _h => rfl) fun _h _h => rfl
  case refine_3 | refine_4 =>
    exact accepts_of_form rfl
      (fun m => List.contains_iff_mem.2 (List.mem_range.2 (modeTy m).isLt)) fun _h _h => rfl
end Sys2Proof.Claims
end

section
/-!
SUPPORT. Integer elements (R54, R64): an integer brought into its width, and the words of R136 to R139 and R142.
-/

namespace Sys2Proof.Machine

variable {t w x y : Nat}

/-! ## Integers brought into their width -/

-- A value with a sign, by its highest bit.
theorem toSigned_eq (w x : Nat) : toSigned w x = if decide (2 ^ (w - 1) ≤ x) = true then (x : Int) - 2 ^ w else x :=
  (ite_not _ _ _).symm.trans (ite_congr (propext (not_lt.trans decide_eq_true_iff.symm)) (fun _h => rfl) fun _h => rfl)

-- An integer type has no floating format (R54).
theorem tyFmt_of_int (h : t ∈ tyInt) : tyFmt t = none :=
  Option.isNone_iff_eq_none.1 ((by decide : ∀ t ∈ tyInt, (tyFmt t).isNone = true) t h)

-- Where a type has no format, an operation goes by its integers.
theorem eq_of_no_format {α : Type} (h : tyFmt t = none) (f : Fmt → α) (z : α) :
    (match tyFmt t with | some g => f g | none => z) = z := by
  rw [h]

-- Where a type has a format, it goes by its values.
theorem eq_of_format {α : Type} {g : Fmt} (h : tyFmt t = some g) (f : Fmt → α) (z : α) :
    (match tyFmt t with | some g => f g | none => z) = f g := by
  rw [h]

-- The elements of an integer type fill its registers (R54).
theorem tyWidth_mul_count : ∀ t ∈ tyInt, tyWidth t * tyCount t = 32 * tyRegs t := by decide

theorem natCast_two_pow (w : Nat) : ((2 ^ w : Nat) : Int) = 2 ^ w := Nat.cast_pow 2 w

-- A residue keeps its value as a natural number.
theorem toNat_emod_two_pow (e : Int) (w : Nat) : ((e % (2 ^ w : Nat)).toNat : Int) = e % 2 ^ w := by
  rw [← natCast_two_pow]
  exact Int.toNat_of_nonneg (Int.emod_nonneg _ (Int.natCast_ne_zero.2 (Nat.two_pow_pos w).ne'))

-- What is a residue modulo 2^w is below 2^w.
theorem lt_of_eq_emod {e : Int} (h : (x : Int) = e % 2 ^ w) : x < 2 ^ w := by
  rw [← Int.ofNat_lt, natCast_two_pow]
  exact h.trans_lt (Int.emod_lt_of_pos _ (pow_pos two_pos w))

theorem ite_lt {p : Prop} [Decidable p] {u v k : Nat} (hu : u < k) (hv : v < k) : (if p then u else v) < k :=
  iteInduction (motive := (fun z => z < k)) (fun _h => hu) fun _h => hv

/-- A choice by bounds is that of the value brought between them, under sat. -/
theorem clamp_fst (f : Int → Nat) (fl : Flags) (sat : Bool) {lo hi : Int} (hle : lo ≤ hi) (e : Int) :
    (if sat && e < lo then (f lo, fl) else if sat && hi < e then (f hi, fl) else (f e, 0) : Nat × Flags).1
    = f (if sat then max lo (min hi e) else e) := by
  induction sat with
  | false => rfl
  | true =>
    refine iteInduction (motive := fun z : Nat × Flags => z.1 = f (max lo (min hi e))) (fun h => ?_) fun h =>
      iteInduction (motive := fun z : Nat × Flags => z.1 = f (max lo (min hi e))) (fun h' => ?_) fun h' => ?_
    · exact congrArg f (max_eq_left ((min_le_right hi e).trans (of_decide_eq_true h).le)).symm
    · exact congrArg f ((congrArg (max lo) (min_eq_left (of_decide_eq_true h').le)).trans (max_eq_right hle)).symm
    · exact congrArg f ((congrArg (max lo) (min_eq_right (not_lt.1 (mt decide_eq_true h')))).trans
        (max_eq_right (not_lt.1 (mt decide_eq_true h)))).symm

end Sys2Proof.Machine

namespace Sys2Proof.Claims

open Sys2Proof.Machine

variable {i : Instr} {x : LaneForm} {c : Ctx}

-- The bounds of an element, as the model writes them.
theorem least_eq (c : Ctx) : (if tySigned (ty c) then -((2 ^ (wd c - 1) : Nat) : Int) else 0) = least c := by
  rw [natCast_two_pow]; rfl

theorem greatest_eq (c : Ctx) : (if tySigned (ty c) then ((2 ^ (wd c - 1) : Nat) : Int) - 1
    else ((2 ^ wd c : Nat) : Int) - 1) = greatest c := by
  rw [natCast_two_pow, natCast_two_pow]; rfl

theorem least_le_greatest (c : Ctx) : least c ≤ greatest c := by
  have hpos (k : Nat) : (0 : Int) ≤ 2 ^ k - 1 := sub_nonneg.2 (one_le_pow₀ one_le_two)
  unfold least greatest
  induction tySigned (ty c)
  · exact hpos _
  · exact (neg_nonpos.2 (pow_pos two_pos _).le).trans (hpos _)

-- An integer result, modulo 2^width, or brought into range first under sat (R64).
theorem intFit_value (c : Ctx) (e : Int) : ((intFit c.sat (tySigned (ty c)) (wd c) e).1 : Int)
    = (if c.sat then max (least c) (min (greatest c) e) else e) % 2 ^ wd c :=
  ((congrArg Nat.cast (clamp_fst (fun z => (z % (2 ^ wd c : Nat)).toNat) Flags.sat c.sat
    (((least_eq c).trans_le (least_le_greatest c)).trans_eq (greatest_eq c).symm) e)).trans
      (toNat_emod_two_pow _ _)).trans (congrArg₂ (fun lo hi => (if c.sat then max lo (min hi e) else e) % 2 ^ wd c)
        (least_eq c) (greatest_eq c))

/-! ## Words of integer elements -/

theorem intVal_el (c : Ctx) (l : Nat) (o : Operand) (n : Nat) : intVal (ty c) (el c l o n) = num c l o n := by
  unfold intVal num
  induction tySigned (ty c)
  · exact (if_neg Bool.false_ne_true).trans (if_neg Bool.false_ne_true).symm
  · exact (if_pos rfl).trans (toSigned_eq _ _)

theorem intLess_iff (t x y : Nat) : intLess (tySigned t) (tyWidth t) x y = true ↔ intVal t x < intVal t y := by
  unfold intLess intVal
  induction tySigned t
  · exact decide_eq_true_iff.trans Int.ofNat_lt.symm
  · exact decide_eq_true_iff

/-- A word that makes its value element by element, each within the width, by what it makes. -/
theorem gives_elements {op : Ctx → Nat → Nat → Nat × Flags} (Q : Ctx → Nat → Nat → Nat → Prop)
    (hi : laneForm i = some x) (hr : x.regs = tyWide)
    (hv : ∀ c l, x.value c l = mapElems (tyCount (ty c)) (wd c) (op c l))
    (hlt : ∀ c l n, ty c ∈ tyInt → (op c l n).1 < 2 ^ wd c) (h : ∀ c l n, ty c ∈ tyInt → Q c l n (op c l n).1) :
    Gives i fun c l y => ty c ∈ tyInt → ∀ n, n < tyCount (ty c) → Q c l n (elem y n (wd c)) := by
  refine gives_form hi fun c l ht n hn => ?_
  rw [hr, hv]
  exact (congrArg (Q c l n) ((elem_mod _ ((Nat.mul_le_mul_left _ hn).trans_eq (tyWidth_mul_count _ ht))).trans
    (elem_mapElems hn fun k _h => hlt c l k ht))).mpr (h c l n ht)

/-- A word that brings an exact integer of its operands into each element. -/
theorem gives_int {op : Ctx → Nat → Nat → Nat × Flags} (e : (Operand → Int) → Int) (hi : laneForm i = some x)
    (hr : x.regs = tyWide) (hv : ∀ c l, x.value c l = mapElems (tyCount (ty c)) (wd c) (op c l))
    (h : ∀ c l n, ty c ∈ tyInt → op c l n
      = intFit c.sat (tySigned (ty c)) (wd c) (e fun o => intVal (ty c) (el c l o n))) :
    Gives i fun c l y => IntElements c y fun n => e (fun z => num c l z n) := by
  have hval (c l n) (ht : ty c ∈ tyInt) : ((op c l n).1 : Int)
      = (if c.sat then max (least c) (min (greatest c) (e (fun z => num c l z n)))
          else e (fun z => num c l z n)) % 2 ^ wd c := by
    rw [h c l n ht, funext fun o => intVal_el c l o n]
    exact intFit_value c _
  exact gives_elements (fun c l n z => (z : Int) = _) hi hr hv (fun c l n ht => lt_of_eq_emod (hval c l n ht)) hval

-- The model's absolute value.
theorem ite_neg_eq_abs (z : Int) : (if z < 0 then -z else z) = |z| :=
  (ite_congr (propext lt_neg_self_iff.symm) (fun _h => rfl) fun _h => rfl).trans (max_def_lt z (-z)).symm

-- MIN and MAX choose by the order of the integers.
theorem minMaxOp_int (ht : ty c ∈ tyInt) (mx : Bool) (l : Nat) (a b : Operand) (n : Nat) :
    minMaxOp mx (ty c) (el c l a n) (el c l b n)
      = if mx then (if num c l a n < num c l b n then el c l b n else el c l a n)
        else if num c l a n < num c l b n then el c l a n else el c l b n := by
  have hless : (intLess (tySigned (ty c)) (tyWidth (ty c)) (el c l a n) (el c l b n) = true)
      = (num c l a n < num c l b n) := by
    rw [← intVal_el, ← intVal_el]
    exact propext (intLess_iff _ _ _)
  have hif (u v : Nat) : (if intLess (tySigned (ty c)) (tyWidth (ty c)) (el c l a n) (el c l b n) then u else v)
      = if num c l a n < num c l b n then u else v := ite_congr hless (fun _h => rfl) fun _h => rfl
  exact (eq_of_no_format (tyFmt_of_int ht) _ _).trans (ite_congr rfl (fun _h => hif _ _) fun _h => hif _ _)

theorem minMaxOp_lt (ht : ty c ∈ tyInt) (mx : Bool) (l : Nat) (a b : Operand) (n : Nat) :
    minMaxOp mx (ty c) (el c l a n) (el c l b n) < 2 ^ wd c :=
  (minMaxOp_int ht mx l a b n).trans_lt
    (ite_lt (ite_lt (elem_lt ..) (elem_lt ..)) (ite_lt (elem_lt ..) (elem_lt ..)))

/-- Settles O3: each word by the exact integer of its elements. -/
theorem integerArithmeticIsExact : Obligations.IntegerArithmeticIsExact := by
  intro sw d a b
  refine ⟨gives_int (fun v => v a + v b) rfl rfl (fun _h _h => rfl) fun c l n h => eq_of_no_format (tyFmt_of_int h) _ _,
    gives_int (fun v => v a - v b) rfl rfl (fun _h _h => rfl) fun c l n h => eq_of_no_format (tyFmt_of_int h) _ _,
    gives_int (fun v => v a * v b) rfl rfl (fun _h _h => rfl) fun c l n h => eq_of_no_format (tyFmt_of_int h) _ _,
    gives_int (fun v => v a * v b + v d) rfl rfl (fun _h _h => rfl) fun c l n h => eq_of_no_format (tyFmt_of_int h) _ _,
    gives_int (fun v => v d - v a * v b) rfl rfl (fun _h _h => rfl) fun c l n h => eq_of_no_format (tyFmt_of_int h) _ _,
    gives_int (fun v => |v a|) rfl rfl (fun _h _h => rfl) fun c l n h =>
      (eq_of_no_format (tyFmt_of_int h) _ _).trans ?_,
    gives_int (fun v => -v a) rfl rfl (fun _h _h => rfl) fun c l n h => eq_of_no_format (tyFmt_of_int h) _ _,
    gives_elements (fun c l n z => (z : Int) = num c l a n * num c l b n / 2 ^ wd c % 2 ^ wd c) rfl rfl
      (fun _h _h => rfl) (fun c l n _h => lt_of_eq_emod (toNat_emod_two_pow _ _)) fun c l n ht => ?_,
    accepts_of_form rfl (fun _h => rfl) fun c l => mapElems_flags fun _h => rfl, rfl,
    gives_elements (fun c l n z => z = if num c l a n < num c l b n then el c l a n else el c l b n) rfl rfl
      (fun _h _h => rfl) (fun c l n ht => minMaxOp_lt ht false l a b n) fun c l n ht => minMaxOp_int ht false l a b n,
    gives_elements (fun c l n z => z = if num c l a n < num c l b n then el c l b n else el c l a n) rfl rfl
      (fun _h _h => rfl) (fun c l n ht => minMaxOp_lt ht true l a b n) fun c l n ht => minMaxOp_int ht true l a b n⟩
  · exact congrArg (intFit _ _ _) (ite_neg_eq_abs _)
  · exact (toNat_emod_two_pow _ _).trans (congrArg (fun z => z % _) (congrArg₂ (fun z y => z / y)
      (congrArg₂ (fun z y => z * y) (intVal_el c l a n) (intVal_el c l b n)) (natCast_two_pow _)))

end Sys2Proof.Claims
end

section
/-!
SUPPORT. Shifts bit by bit, for every count (R142).
-/

namespace Sys2Proof.Machine

variable {w k j x : Nat}

-- SHL is a product cut to the width.
theorem shl_eq (w x k : Nat) : (if k < w then x * 2 ^ k % 2 ^ w else 0) = x * 2 ^ k % 2 ^ w :=
  ite_eq_left_iff.2 fun h => (Nat.mod_eq_zero_of_dvd ((Nat.pow_dvd_pow 2 (not_lt.1 h)).mul_left x)).symm

-- Bits that SHL moves in are 0.
theorem testBit_shl (hj : j < w) : (if k < w then x * 2 ^ k % 2 ^ w else 0).testBit j
    = (decide (k ≤ j) && x.testBit (j - k)) := by
  rw [shl_eq, Nat.testBit_mod_two_pow, decide_eq_true hj, Nat.testBit_mul_two_pow]
  rfl

-- SHR is a quotient.
theorem shr_eq (hx : x < 2 ^ w) : (if k < w then x / 2 ^ k else 0) = x / 2 ^ k :=
  ite_eq_left_iff.2 fun h =>
    (Nat.div_eq_of_lt (hx.trans_le (Nat.pow_le_pow_right Nat.two_pos (not_lt.1 h)))).symm

-- Bits that SHR moves in are 0.
theorem testBit_shr (hx : x < 2 ^ w) : (if k < w then x / 2 ^ k else 0).testBit j
    = (decide (j + k < w) && x.testBit (j + k)) := by
  rw [shr_eq hx, Nat.testBit_div_two_pow, ← Nat.testBit_mod_two_pow, Nat.mod_eq_of_lt hx]

-- The sign bit is the highest one.
theorem signBit_eq (w x : Nat) : signBit w x = x.testBit (w - 1) :=
  (beq_eq_decide _ _).trans Nat.testBit_eq_decide_div_mod_eq.symm

-- The shift of SAR by fewer bits than the width is that of bit vectors.
theorem sar_eq (y : BitVec w) (k : Nat) :
    (toSigned w y.toNat / (2 ^ k : Nat) % (2 ^ w : Nat)).toNat = (y.sshiftRight k).toNat := by
  have hint : toSigned w y.toNat = y.toInt := by
    rw [BitVec.toInt_eq_msb_cond, BitVec.msb_eq_decide, natCast_two_pow]
    exact toSigned_eq w _
  rw [hint, ← BitVec.toNat_ofInt, ← Int.shiftRight_eq_div_pow, ← BitVec.toInt_sshiftRight, BitVec.ofInt_toInt]

/-- Bits that SAR moves in are the sign bit. -/
theorem testBit_sar (y : BitVec w) (hj : j < w) :
    (if k < w then (toSigned w y.toNat / (2 ^ k : Nat) % (2 ^ w : Nat)).toNat
      else if signBit w y.toNat then 2 ^ w - 1 else 0).testBit j
    = y.toNat.testBit (if j + k < w then j + k else w - 1) := by
  refine iteInduction (motive := fun z : Nat => z.testBit j = _) (fun _h => ?_) fun hk => ?_
  · refine (congrArg (fun z => Nat.testBit z j) (sar_eq y k)).trans ((BitVec.getLsbD_sshiftRight ..).trans
      ((congrArg (fun z => !z && _) (decide_eq_false hj.not_ge)).trans
        (Eq.trans ?_ (apply_ite y.toNat.testBit ..).symm)))
    rw [Nat.add_comm k j]
    exact ite_congr rfl (fun _h => rfl) fun _h => BitVec.msb_eq_getLsbD_last _
  · have hlast : y.toNat.testBit (if j + k < w then j + k else w - 1) = signBit w y.toNat :=
      (congrArg y.toNat.testBit (if_neg fun h => hk ((Nat.le_add_left k j).trans_lt h))).trans (signBit_eq w _).symm
    rw [hlast]
    induction signBit w y.toNat
    · exact Nat.zero_testBit j
    · exact (Nat.testBit_two_pow_sub_one ..).trans (decide_eq_true hj)

end Sys2Proof.Machine

namespace Sys2Proof.Claims

open Sys2Proof.Machine

-- The count of a packed element is its own half of B (R142).
theorem count_eq {c : Ctx} (ht : ty c ∈ tyInt) (l : Nat) (b : Operand) (n : Nat) :
    (if tyWidth (ty c) == 16 then elem (c.opd l b).toNat n 16 else (c.opd l b).toNat) = count c l b n := by
  have hpacked : ∀ t ∈ tyInt, tyWidth t == 16 ↔ t = 8 ∨ t = 9 := by decide
  exact ite_congr (propext (hpacked _ ht)) (fun _h => rfl) fun _h => rfl

-- A shift, by the bits that it makes of an element.
theorem gives_shift {sw : Bool} {d a b : Operand} {i : Instr} {f : Nat → Nat → Nat → Nat}
    (B : Nat → Nat → Nat → Nat → Bool) (hi : laneForm i = some (.shift sw d a b f))
    (hlt : ∀ w x k, x < 2 ^ w → f w x k < 2 ^ w) (h : ∀ w x k j, x < 2 ^ w → j < w → (f w x k).testBit j = B w x k j) :
    Gives i fun c l y => ∀ n, n < tyCount (ty c) → ∀ k, k < wd c →
      (elem y n (wd c)).testBit k = B (wd c) (el c l a n) (count c l b n) k := by
  refine Gives.of_types hi (fun _h => rfl) ?_
  exact gives_elements (fun c l n z => ∀ k, k < wd c → z.testBit k = B (wd c) (el c l a n) (count c l b n) k) hi rfl
    (fun _h _h => rfl) (fun c l n _h => hlt _ _ _ (elem_lt ..)) fun c l n ht k hk =>
      (congrArg (fun z => (f _ _ z).testBit k) (count_eq ht l b n)).trans (h _ _ _ k (elem_lt ..) hk)

/-- Settles O5: each shift by the bits that it moves in. -/
theorem shiftsFillAndDrop : Obligations.ShiftsFillAndDrop := by
  intro sw d a b
  refine ⟨gives_shift (fun w x k j => decide (k ≤ j) && x.testBit (j - k)) rfl
      (fun w x k _h => (shl_eq w x k).trans_lt (Nat.mod_lt _ (Nat.two_pow_pos w))) fun w x k j _h => testBit_shl,
    gives_shift (fun w x k j => decide (j + k < w) && x.testBit (j + k)) rfl
      (fun w x k hx => (shr_eq hx).trans_lt ((Nat.div_le_self _ _).trans_lt hx)) fun w x k j hx _h => testBit_shr hx,
    gives_shift (fun w x k j => x.testBit (if j + k < w then j + k else w - 1)) rfl
      (fun w x k _h => ite_lt (lt_of_eq_emod (toNat_emod_two_pow _ w))
        (ite_lt (Nat.sub_one_lt (Nat.two_pow_pos w).ne') (Nat.two_pow_pos w)))
      fun w x k j hx => testBit_sar (.ofNatLT x hx),
    List.forall_iff_forall_mem.1 (show _ ∧ _ ∧ _ from ⟨?_, ?_, ?_⟩), rfl, rfl, rfl⟩
  all_goals exact accepts_of_form rfl (fun _h => rfl) fun c l => mapElems_flags fun _h => rfl

end Sys2Proof.Claims
end

section
/-!
SUPPORT. Words that write a predicate beside their result (R140, R145).
-/

namespace Sys2Proof.Machine

open Sys2Proof.Claims (predOf)

variable {s t u : State} {r : WarpRef} {c : Ctx} {mk : Word → Entry} {d : Operand} {vals : List (Nat × Nat)} {w : Warp}
  {P : Warp → Prop}

/-! ## What the write of a destination leaves of the control fields and of %pred -/

theorem State.Finds.elim {p : Prop} (h : s.Finds r P)
    (hp : ∀ b v g, s.warp? r = some (b, v) → s.grid? b.grid = some g → P v → p) : p := by
  obtain ⟨b, v, g, hw, hg, hv⟩ := h
  exact hp b v g hw hg hv

theorem State.Rewrites.cur_eq {s t : State} {r : WarpRef} (h : s.Rewrites t r) : t.cur = s.cur := by
  obtain ⟨b, w, n, hrest⟩ := h.rest
  subst hrest
  rfl

theorem Block.Rewritten.grid_eq {b b' : Block} (h : b.Rewritten b') : b'.grid = b.grid := by
  obtain ⟨w, k, m, hb⟩ := h
  subst hb
  rfl

/-- What the write of a destination leaves of a warp: %status, unless it is the destination, and the predicates of a
lane without a value. -/
def Warp.Kept (w : Warp) (d : Operand) (vals : List (Nat × Nat)) (l : Nat) (v : Warp) : Prop :=
  (d ≠ .sp 20 → v.ctl.status = w.ctl.status) ∧ (l ∉ vals.map Prod.fst → v.preds l = w.preds l)

theorem Warp.Kept.congr {u v : Warp} {l : Nat} (h : w.Kept d vals l u) (hc : v.ctl = u.ctl) (hp : v.regs.p = u.regs.p) :
    w.Kept d vals l v :=
  ⟨fun hd => (congrArg WarpCtl.status hc).trans (h.1 hd),
    fun hl => (congrArg (fun z => sparseGet 0 z l ||| 1) hp).trans (h.2 hl)⟩

/-- The same warp issues, and the warp `r` is as `P` says. -/
def State.Keeps (s : State) (r : WarpRef) (P : Warp → Prop) (t : State) : Prop := t.cur = s.cur ∧ t.Finds r P

theorem State.Keeps.updWarp (h : s.Keeps r P t) {f : Warp → Warp} (hs : ∀ w, (f w).slot = w.slot)
    (hf : ∀ w, P w → P (f w)) : s.Keeps r P (t.updWarp r f) :=
  ⟨h.1, h.2.updWarp f hs hf⟩

variable {b : Block} {g : Grid}

theorem State.Rewrites.finds (hre : s.Rewrites t r) (hw : s.warp? r = some (b, w)) (hg : s.grid? b.grid = some g)
    (hP : ∀ v : Warp, v.ctl = w.ctl → v.regs.p = w.regs.p → P v) : t.Finds r P := by
  obtain ⟨b', w', hw', hb, hr⟩ := hre.warp b w hw
  obtain ⟨g', hg', -⟩ := hre.grid _ g hg
  exact .intro hw' ((congrArg t.grid? hb.grid_eq).trans hg') (hP w' hr.frame.2.2.2.1 hr.frame.2.2.2.2.1)

theorem Warp.Kept.refl {l : Nat} : w.Kept d vals l w := ⟨fun _h => rfl, fun _h => rfl⟩

theorem State.keeps_writeDest_sp {k : BitVec 5} {l : Nat} (h : s.Finds r (w.Kept (.sp k) vals l)) :
    s.Keeps r (w.Kept (.sp k) vals l) (s.writeDest r (.sp k) 1 vals) := by
  have hsub : destVals (.sp k) vals ⊆ vals :=
    iteInduction (motive := (fun z => z ⊆ vals)) (fun _h => List.Subset.refl _) fun _h => List.take_subset _ _
  rw [State.writeDest_sp]
  refine .updWarp (List.foldlRecOn (motive := s.Keeps r (w.Kept (.sp k) vals l)) (destVals (.sp k) vals) _
    ⟨rfl, h⟩ fun t ht x hx => ?_) (fun _h => rfl) fun u h => h
  refine iteInduction (motive := s.Keeps r _) (fun _h => ?_) fun _h => iteInduction (motive := s.Keeps r _)
    (fun _h => ?_) fun _h => iteInduction (motive := s.Keeps r _) (fun hk => ?_) fun _h => ht
  · exact ht.updWarp (fun _h => rfl) fun u h => h
  · exact ht.updWarp (fun _h => rfl) fun u h => ⟨h.1, fun hl => (Warp.setPreds_preds ..).trans
      ((if_neg (ne_of_mem_of_not_mem (List.mem_map_of_mem (hsub hx)) hl).symm).trans (h.2 hl))⟩
  · exact ht.updWarp (fun _h => rfl) fun u h => ⟨fun hd => absurd (congrArg _ (eq_of_beq hk)) hd, h.2⟩

/-- The write of a destination keeps what it can keep of %status and of %pred (R39, R40). -/
theorem State.keeps_writeDest (hw : s.warp? r = some (b, w)) (hg : s.grid? b.grid = some g)
    (d : Operand) (vals : List (Nat × Nat)) (l : Nat) : s.Keeps r (w.Kept d vals l) (s.writeDest r d 1 vals) := by
  have hregs (d : Operand) (hd : d.isReg = true) : s.Keeps r (w.Kept d vals l) (s.writeDest r d 1 vals) :=
    have hre := State.Rewrites.writeDest s r (.inl hd) 1 vals
    ⟨hre.cur_eq, hre.finds hw hg fun v hc hp => .congr .refl hc hp⟩
  induction d with
  | sp k => exact State.keeps_writeDest_sp (.intro hw hg .refl)
  | _ => exact hregs _ rfl

-- In a lane with a value a register of the destination reads it.
theorem State.Has.operand_lane (h : s.Has r) (hd : d.isReg = true) (hf : destFault d vals = none)
    (hu : ∀ x ∈ vals, ∀ y ∈ vals, x.1 = y.1 → x.2 = y.2) {l v : Nat} (hl : (l, v) ∈ vals) :
    (s.writeDest r d 1 vals).operand r l d = BitVec.ofNat 32 v := by
  have hread := h.operand_writeDest hd (n := 1) (by decide) (disagreeing_of_destFault hf) hu hl Nat.one_pos
  rw [Operand.nth_zero] at hread
  exact hread.trans (congrArg (BitVec.ofNat 32) (Nat.div_one v))

/-! ## The write of a predicate -/

-- The write of a predicate leaves the other registers of the warp.
theorem Warp.takePred_rest (w : Warp) (p : Nat) (vs : List (Nat × Bool)) : (w.takePred p vs).ctl = w.ctl
    ∧ (w.takePred p vs).regs.v = w.regs.v ∧ (w.takePred p vs).regs.o = w.regs.o ∧ (w.takePred p vs).regs.w = w.regs.w :=
  List.foldlRecOn (motive := fun v : Warp => v.ctl = w.ctl ∧ v.regs.v = w.regs.v ∧ v.regs.o = w.regs.o
    ∧ v.regs.w = w.regs.w) vs (fun (w : Warp) x => w.setPred x.1 p x.2) ⟨rfl, rfl, rfl, rfl⟩ fun _h h _h _h => h

-- A predicate of the issuing warp, as %pred reads it (R39).
theorem State.Finds.predOf_eq {l k : Nat} {x : Bool} (h : s.Finds r fun w => w.pred l k = x) (hr : s.cur = r)
    (hk : k < 8) : predOf s l k = x := by
  subst hr
  exact h.elim fun b w g hw hg hx => (congrArg (fun z => BitVec.getLsbD z k) (State.operand_eq hw hg ..)).trans
    ((Claims.readOperand_preds _ _ _ _ _ hk).trans hx)

-- A predicate of the issuing warp.
theorem State.Stands.predOf_eq (h : s.Stands mk c) {l k : Nat} (hk : k < 8) : predOf s l k = c.w.pred l k :=
  State.Finds.predOf_eq (.intro h.warp h.grid rfl) rfl hk

variable {fl : Flags} {g : Grid} {e : Entry} {pc p : Nat} {lanes : List Nat} {V : Nat → Bool}

theorem State.cur_writePred {ps : List (Nat × Bool)}
    (hu : u = ((t.writePred r p ps).updWarp r fun w => w.orFlags fl).complete r g e pc none) : u.cur = t.cur := by
  subst hu
  rfl

/-- A word that writes predicate `p` in some lanes, sets flags and completes leaves the rest of %status. -/
theorem State.Finds.status_writePred {x : Word} (h : t.Finds r P) (hP : ∀ w, P w → w.ctl.status = x)
    (hsw : e.sw = false)
    (hu : u = ((t.writePred r p (lanes.map fun l => (l, V l))).updWarp r fun w => w.orFlags fl).complete r g e pc none) :
    u.operand r 0 (.sp 20) = statusOr x fl := by
  subst hu
  refine State.Finds.status (.orFlags_complete (h.updWarp (Q := fun w => w.ctl.status = x) (Warp.takePred p _)
    (fun w => w.takePred_slot _ _) fun w hw => ?_) fl g e pc none fun w red now hw => ?_) 0
  · exact (congrArg WarpCtl.status (w.takePred_rest p _).1).trans (hP w hw)
  · exact (Warp.complete_status _ hsw ..).trans (congrArg (fun z => statusOr z fl) hw)

/-- Its predicate then reads what it wrote there, and every other predicate what it read. -/
theorem State.Finds.predOf_writePred {l k : Nat} {y : Bool} (h : t.Finds r P)
    (hy : ∀ w, P w → (if l ∈ lanes ∧ k = p then V l else w.pred l k) = y) (hr : t.cur = r) (hp : p ≠ 0) (hk : k < 8)
    (hu : u = ((t.writePred r p (lanes.map fun l => (l, V l))).updWarp r fun w => w.orFlags fl).complete r g e pc none) :
    predOf u l k = y := by
  subst hu
  refine State.Finds.predOf_eq (.orFlags_complete (h.updWarp (Q := fun w => w.pred l k = y) (Warp.takePred p _)
    (fun w => w.takePred_slot _ _) fun w hw => ?_) fl g e pc none fun w red now hw => ?_) hr hk
  · exact (w.foldl_setPred_pred hp hk V lanes l).trans (hy w hw)
  · exact (congrArg (fun z => BitVec.getLsbD z k) (Warp.complete_preds ..)).trans hw

end Sys2Proof.Machine
end

section
/-!
SUPPORT. The chained words ADDC and SUBB (R140).
-/

namespace Sys2Proof.Machine

open Sys2Proof.Claims (carryIn)

variable {s : State} {r : WarpRef} {c : Ctx} {d a b : Operand} {vals : List (Nat × Nat)} {minus : Bool}

-- What a register reads depends on no predicate.
theorem readOperand_takePred {t : State} (b : Block) (g : Grid) (w : Warp) (p : Nat) (vs : List (Nat × Bool)) (k l : Nat)
    {f : Warp → Warp} {o : Operand} (ho : o.isReg = true) :
    readOperand t (b.updWarp k f) g (w.takePred p vs) l o = readOperand s b g w l o := by
  have hrest := w.takePred_rest p vs
  induction o with
  | v i => exact congrArg (fun z => sparseGet 0 z _) hrest.2.1
  | o i => exact congrArg (fun z => sparseGet 0 z _) hrest.2.2.1
  | w i => exact congrArg (fun z => sparseGet 0 z _) hrest.2.2.2
  | b i | k i | g i => rfl
  | sp i => exact absurd ho Bool.false_ne_true

theorem State.Has.elim {p : Prop} (h : s.Has r)
    (hp : ∀ b w g, s.warp? r = some (b, w) → s.grid? b.grid = some g → p) : p := by
  obtain ⟨b, w, g, hw, hg⟩ := h
  exact hp b w g hw hg

-- The write of a predicate, the flags and the completion of a word change no register.
theorem State.Has.operand_writePred (h : s.Has r) {u : State} {p : Nat} {vs : List (Nat × Bool)} {fl : Flags} {g : Grid}
    {e : Entry} {pc : Nat} (hu : u = ((s.writePred r p vs).updWarp r fun w => w.orFlags fl).complete r g e pc none)
    (l : Nat) {o : Operand} (ho : o.isReg = true) : u.operand r l o = s.operand r l o := by
  refine h.elim fun b w k hw hk => ?_
  have hw' := State.warp?_updWarp (Warp.takePred p vs) hw fun w => w.takePred_slot _ _
  have hhas : (s.writePred r p vs).Has r := ⟨_, _, k, hw', hk⟩
  subst hu
  exact (hhas.operand_orFlags_complete _ _ _ _ _ _ ho).trans ((State.operand_eq hw' hk ..).trans
    ((readOperand_takePred b k w p vs r.slot l ho).trans (State.operand_eq hw hk ..).symm))

theorem Warp.orFlags_zero (w : Warp) : w.orFlags 0 = w := congrArg w.setStatus BitVec.or_zero

-- Flags of a word that sets none are set before or after its predicate.
theorem State.writePred_noFlags (s : State) (r : WarpRef) (p : Nat) (vs : List (Nat × Bool)) :
    (s.updWarp r fun w => w.orFlags 0).writePred r p vs = (s.writePred r p vs).updWarp r fun w => w.orFlags 0 := by
  refine (s.updWarp_updWarp (f := fun w => w.orFlags 0) r (Warp.takePred p vs) fun _h => rfl).trans (Eq.trans ?_
    (s.updWarp_updWarp (f := Warp.takePred p vs) r (fun w => w.orFlags 0) fun w => w.takePred_slot p vs).symm)
  exact congrArg (s.updWarp r) (funext fun w => (congrArg _ w.orFlags_zero).trans (Warp.orFlags_zero _).symm)

-- The values of a word, where its destination asks for an agreement that they do not have (R115).
theorem Ctx.put_fault {f : FaultInfo} (hf : destFault d (c.spread vals) = some f) (t : State) (n : Nat) (fl : Flags) :
    c.put t d n vals fl = .fault f := by
  unfold Ctx.put
  dsimp only
  rw [hf]

/-- The sum or difference of a chained word in a lane, exactly (R140). -/
noncomputable def Ctx.chained (c : Ctx) (minus : Bool) (a b : Operand) (l : Nat) : Int :=
  let k : Int := if c.w.pred l 7 then 1 else 0
  if minus then (c.opd l a).toNat - (c.opd l b).toNat - k else (c.opd l a).toNat + (c.opd l b).toNat + k

end Sys2Proof.Machine

namespace Sys2Proof.Claims

open Sys2Proof.Machine

variable {i : Instr} {s : State} {c : Ctx} {sw minus : Bool} {d a b : Operand}

-- A chained word writes D, and then p7 (R140).
theorem carryEff_put {V : Nat → Nat} {K : Nat → Bool} (h : ∀ l, (c.chained minus a b l % 2 ^ 32).toNat = V l
    ∧ (c.chained minus a b l < 0 || 2 ^ 32 ≤ c.chained minus a b l) = K l) : carryEff minus d a b c
    = match c.put c.s d 1 (c.lanes.map fun l => (l, V l)) 0 with
      | .done u => .done (u.writePred c.r 7 (c.lanes.map fun l => (l, K l)))
      | x => x := by
  rw [← funext fun l => (h l).1, ← funext fun l => (h l).2]
  rfl

theorem carryEff_done {V : Nat → Nat} {K : Nat → Bool} (hs : s.Issues (carries sw d a b) c)
    (h : ∀ l, (c.chained minus a b l % 2 ^ 32).toNat = V l
      ∧ (c.chained minus a b l < 0 || 2 ^ 32 ≤ c.chained minus a b l) = K l)
    (hf : destFault d (c.lanes.map fun l => (l, V l)) = none) : carryEff minus d a b c
    = .done (((s.writeDest s.cur d 1 (c.lanes.map fun l => (l, V l))).writePred s.cur 7
      (c.lanes.map fun l => (l, K l))).updWarp s.cur fun w => w.orFlags 0) := by
  rw [carryEff_put h, Ctx.put_lanes (congrArg Ctx.uni hs.ctx) hf, hs.s_eq, hs.r_eq, ← State.writePred_noFlags]

-- A residue as a word.
theorem ofNat_residue (z : Int) : BitVec.ofNat 32 (z % 2 ^ 32).toNat = BitVec.ofInt 32 z :=
  BitVec.eq_of_toNat_eq ((Nat.mod_eq_of_lt (lt_of_eq_emod (toNat_emod_two_pow z 32))).trans (BitVec.toNat_ofInt z).symm)

-- Lanes with one value each.
theorem lanes_unique (V : Nat → Nat) (ls : List Nat) : ∀ x ∈ ls.map fun l => (l, V l), ∀ y ∈ ls.map fun l => (l, V l),
    x.1 = y.1 → x.2 = y.2 :=
  List.forall_mem_map.2 fun _l _hl => List.forall_mem_map.2 fun _m _hm e => congrArg V e

/-- What a chained word leaves in D, in p7 and in %status, where its sum or difference is `V` modulo 2^32, `X` as a
word, and carries or borrows where `K` says. -/
theorem chained_word (hi : exec i s = .next (runWord s (carries sw d a b) (carryEff minus d a b)))
    (hs : s.Issues (carries sw d a b) c) {V : Nat → Nat} {K : Nat → Bool} {X : Nat → Word}
    (h : ∀ l, (c.chained minus a b l % 2 ^ 32).toNat = V l
      ∧ (c.chained minus a b l < 0 || 2 ^ 32 ≤ c.chained minus a b l) = K l)
    (hX : ∀ l, BitVec.ofInt 32 (c.chained minus a b l) = X l)
    (hf : destFault d (c.lanes.map fun l => (l, V l)) = none) : ∃ t, exec i s = .next t ∧ t.cur = s.cur
      ∧ (sw = false → d ≠ .sp 20 → t.operand s.cur 0 (.sp 20) = c.w.ctl.status) ∧ ∀ l, l < 64 →
        (l ∈ c.lanes → d.isReg = true → t.operand s.cur l d = X l)
        ∧ predOf t l 7 = if l ∈ c.lanes then K l else predOf s l 7 := by
  have ht := (runWord_done hs (carryEff_done hs h hf)).trans (hs.completes_eq ..)
  have hkeep := State.keeps_writeDest hs.warp hs.grid d (c.lanes.map fun l => (l, V l))
  refine ⟨_, hi, (State.cur_writePred ht).trans (hkeep 0).1, fun hsw hd => ?_, fun l _hl => ⟨fun hl hd => ?_, ?_⟩⟩
  · exact ((hkeep 0).2.status_writePred (fun w h => h.1 hd) hsw ht).trans BitVec.or_zero
  · have hhas := has_cur hs.toStands
    exact ((hhas.writeDest d 1 _).operand_writePred ht _ hd).trans ((hhas.operand_lane hd hf (lanes_unique V c.lanes)
      (List.mem_map_of_mem hl)).trans
      ((congrArg _ (h l).1.symm).trans ((ofNat_residue _).trans (hX l))))
  · have hmem : ∀ m ∈ (c.lanes.map fun l => (l, V l)).map Prod.fst, m ∈ c.lanes :=
      List.forall_mem_map.2 (List.forall_mem_map.2 fun _l h => h)
    exact (hkeep l).2.predOf_writePred (fun w hw => ite_congr (propext (and_iff_left rfl)) (fun _h => rfl) fun hl =>
      (congrArg (fun z => BitVec.getLsbD z 7) (hw.2 (mt (hmem l) hl))).trans (hs.predOf_eq (by decide)).symm) (hkeep 0).1
      (by decide) (by decide) ht

-- A chained word whose values do not agree where its destination asks for it takes the fault.
theorem chained_fault (hi : exec i s = .next (runWord s (carries sw d a b) (carryEff minus d a b)))
    (hs : s.Issues (carries sw d a b) c) {V : Nat → Nat} {K : Nat → Bool}
    (h : ∀ l, (c.chained minus a b l % 2 ^ 32).toNat = V l
      ∧ (c.chained minus a b l < 0 || 2 ^ 32 ≤ c.chained minus a b l) = K l)
    {f : FaultInfo} (hf : destFault d (c.lanes.map fun l => (l, V l)) = some f) :
    exec i s = .next (s.takeFault s.cur f c.w.ctl.pc) := by
  have hspread : c.spread (c.lanes.map fun l => (l, V l)) = c.lanes.map fun l => (l, V l) :=
    if_neg (ne_true_of_eq_false (congrArg Ctx.uni hs.ctx))
  exact hi.trans (congrArg _ (runWord_fault hs ((carryEff_put (d := d) h).trans (by
    rw [Ctx.put_fault ((congrArg (destFault d) hspread).trans hf)]))))

-- A number modulo 2^32, and its carry.
theorem add_numbers {z : Int} {n : Nat} (hz : z = n) : (z % 2 ^ 32).toNat = n % 2 ^ 32
    ∧ (z < 0 || 2 ^ 32 ≤ z) = decide (2 ^ 32 ≤ n) := by
  subst hz
  rw [← natCast_two_pow]
  exact ⟨rfl, (congrArg (fun z => z || _) (decide_eq_false (Int.not_lt.2 (Int.natCast_nonneg n)))).trans
    (decide_eq_decide.2 Int.ofNat_le)⟩

-- The sum or difference, with the carry that comes in.
theorem chained_eq (c : Ctx) (minus : Bool) (a b : Operand) (l : Nat) : c.chained minus a b l
    = if minus then ((c.opd l a).toNat : Int) - (c.opd l b).toNat - (carryIn c l : Nat)
      else ((c.opd l a).toNat : Int) + (c.opd l b).toNat + (carryIn c l : Nat) :=
  congrArg (fun k : Int => if minus then ((c.opd l a).toNat : Int) - (c.opd l b).toNat - k
    else ((c.opd l a).toNat : Int) + (c.opd l b).toNat + k) (apply_ite Nat.cast _ _ _).symm

-- ADDC in numbers: the sum with the carry that comes in.
theorem chained_add (c : Ctx) (a b : Operand) (l : Nat) :
    (c.chained false a b l % 2 ^ 32).toNat = ((c.opd l a).toNat + (c.opd l b).toNat + carryIn c l) % 2 ^ 32
    ∧ (c.chained false a b l < 0 || 2 ^ 32 ≤ c.chained false a b l)
      = decide (2 ^ 32 ≤ (c.opd l a).toNat + (c.opd l b).toNat + carryIn c l) :=
  add_numbers (chained_eq ..)

/-- The difference of two numbers modulo 2^32, and its borrow. -/
theorem sub_numbers {z : Int} {n m : Nat} (hz : z = n - m) (hn : n < 2 ^ 32) (hm : m ≤ n + 2 ^ 33) :
    (z % 2 ^ 32).toNat = (n + 2 ^ 33 - m) % 2 ^ 32 ∧ (z < 0 || 2 ^ 32 ≤ z) = decide (n < m) := by
  have hbig : ¬ 2 ^ 32 ≤ z := Int.not_le_of_gt (hz.trans_lt (Int.lt_of_le_of_lt
    (Int.sub_le_self _ (Int.natCast_nonneg m)) (Int.ofNat_lt.2 hn)))
  have hsum : z + 2 * 2 ^ 32 = (n + 2 ^ 33 - m : Nat) :=
    (congrArg (fun z => z + 2 * 2 ^ 32) hz).trans ((sub_add_eq_add_sub ..).trans (Int.ofNat_sub hm).symm)
  have hlt : z < 0 ↔ n < m := hz ▸ ⟨fun h => Int.ofNat_lt.1 (Int.lt_of_sub_neg h), fun h =>
    Int.sub_neg_of_lt (Int.ofNat_lt.2 h)⟩
  exact ⟨(congrArg Int.toNat ((Int.add_mul_emod_self_right z 2 _).symm.trans
    (congrArg (fun z => z % (2 : Int) ^ 32) hsum))).trans (add_numbers rfl).1,
    (congrArg₂ or (decide_eq_decide.2 hlt) (decide_eq_false hbig)).trans (Bool.or_false _)⟩

-- What SUBB takes from its operand is less than 2^33.
theorem borrow_le (c : Ctx) (a b : Operand) (l : Nat) :
    (c.opd l b).toNat + carryIn c l ≤ (c.opd l a).toNat + 2 ^ 33 :=
  (Nat.add_le_add (c.opd l b).isLt.le
    (iteInduction (motive := (fun z => z ≤ 1)) (fun _h => le_rfl) fun _h => Nat.zero_le 1)).trans
    ((by decide : 2 ^ 32 + 1 ≤ 2 ^ 33).trans (Nat.le_add_left ..))

-- SUBB in numbers: the difference with the borrow that comes in.
theorem chained_sub (c : Ctx) (a b : Operand) (l : Nat) :
    (c.chained true a b l % 2 ^ 32).toNat
      = ((c.opd l a).toNat + 2 ^ 33 - (c.opd l b).toNat - carryIn c l) % 2 ^ 32
    ∧ (c.chained true a b l < 0 || 2 ^ 32 ≤ c.chained true a b l)
      = decide ((c.opd l a).toNat < (c.opd l b).toNat + carryIn c l) := by
  rw [Nat.sub_sub]
  exact sub_numbers ((chained_eq ..).trans (Int.sub_sub ..)) (c.opd l a).isLt (borrow_le c a b l)

theorem ofInt_toNat (x : Word) : BitVec.ofInt 32 x.toNat = x := BitVec.eq_of_toNat_eq (Nat.mod_eq_of_lt x.isLt)

-- ADDC and SUBB as words.
theorem addc_word (c : Ctx) (a b : Operand) (l : Nat) : BitVec.ofInt 32 (c.chained false a b l)
    = c.opd l a + c.opd l b + BitVec.ofNat 32 (carryIn c l) :=
  (congrArg _ (chained_eq ..)).trans ((Int.cast_add (R := Word) ..).trans (congrArg (fun z => z + _)
    ((Int.cast_add (R := Word) ..).trans (congrArg₂ (fun z y => z + y) (ofInt_toNat _) (ofInt_toNat _)))))

theorem subb_word (c : Ctx) (a b : Operand) (l : Nat) : BitVec.ofInt 32 (c.chained true a b l)
    = c.opd l a - c.opd l b - BitVec.ofNat 32 (carryIn c l) :=
  (congrArg _ (chained_eq ..)).trans ((Int.cast_sub (R := Word) ..).trans (congrArg (fun z => z - _)
    ((Int.cast_sub (R := Word) ..).trans (congrArg₂ (fun z y => z - y) (ofInt_toNat _) (ofInt_toNat _)))))

/-- Settles O8: ADDC and SUBB by what a chained word leaves, its exact sum and carry put in numbers. -/
theorem carryChain : Obligations.CarryChain := by
  intro sw d a b s c hs
  refine ⟨?_, chained_word (i := .addc sw d a b) rfl hs (chained_add c a b) (addc_word c a b),
    fun f => chained_fault (i := .addc sw d a b) rfl hs (chained_add c a b),
    chained_word (i := .subb sw d a b) rfl hs (chained_sub c a b) (subb_word c a b),
    fun f => chained_fault (i := .subb sw d a b) rfl hs (chained_sub c a b)⟩
  exact (List.mem_cons.1 (ty_mem_of_issues (tys := [0, 1]) (fun _m => rfl) hs)).imp_right List.mem_singleton.1

end Sys2Proof.Claims
end

section
/-!
SUPPORT. UNPK (R151): the element named, widened, and the lanes whose index names none.
-/

namespace Sys2Proof.Machine

-- An element of a packed type widens to 32 bits (R151).
theorem widen_lt (t x : Nat) : widen t x < 2 ^ 32 := by
  unfold widen
  induction tyFmt t
  · exact lt_of_eq_emod (toNat_emod_two_pow _ 32)
  · exact Fmt.round_lt (f := .f32) (Fmt.regular (by decide)) _ _ _

-- The value of a word with a sign, modulo 2^32.
theorem toInt_emod_two_pow (x : Word) : x.toInt % 2 ^ 32 = x.toNat :=
  ((congrArg (fun z => z % 2 ^ 32) (BitVec.toInt_eq_toNat_bmod x)).trans Int.bmod_emod).trans
    (Int.emod_eq_of_lt (Int.natCast_nonneg _) (Int.ofNat_lt.2 x.isLt))

-- The write of a destination whose values agree where it asks for it (R66).
theorem Ctx.put_done {c : Ctx} {d : Operand} {vals : List (Nat × Nat)} (hf : destFault d (c.spread vals) = none)
    (t : State) (n : Nat) (fl : Flags) : c.put t d n vals fl
    = .done ((t.writeDest c.r d n (c.spread vals)).updWarp c.r fun w => w.orFlags fl) := by
  unfold Ctx.put
  dsimp only
  rw [hf]

-- A word whose index names an element in every lane of C is a lane word; another one is refused (R55, R151).
theorem unpkEff_eq {c : Ctx} (d : Operand) {a b : Operand}
    (h : ∀ l ∈ c.lanes, (c.opd l b).toNat < tyCount (tyOf c.mode)) :
    unpkEff d a b c = laneEff d 1 (fun c l =>
      (widen (tyOf c.mode) (elem (c.opd l a).toNat (c.opd l b).toNat (tyWidth (tyOf c.mode))), 0)) c := by
  have hbad : (c.lanes.filter fun l => tyCount (tyOf c.mode) ≤ (c.opd l b).toNat) = [] :=
    List.filter_eq_nil_iff.2 fun l hl => mt of_decide_eq_true (h l hl).not_ge
  exact if_neg (by rw [hbad]; exact Bool.false_ne_true)

theorem unpkEff_fault {c : Ctx} (d a : Operand) {b : Operand}
    (h : ∃ l ∈ c.lanes, tyCount (tyOf c.mode) ≤ (c.opd l b).toNat) :
    ∃ m, unpkEff d a b c = .fault { faultAt fcRange 1 with lanes := m } := by
  refine h.elim fun l hl => ?_
  exact ⟨_, if_pos (congrArg not (List.isEmpty_eq_false_iff_exists_mem.2
    ⟨l, List.mem_filter.2 ⟨hl.1, decide_eq_true hl.2⟩⟩))⟩

end Sys2Proof.Machine

namespace Sys2Proof.Claims

open Sys2Proof.Machine

variable {s : State} {c : Ctx} {x : LaneForm} {body : Ctx → Eff}

/-- A word with the effect of a lane form of one register writes the form's values where they agree: in a lane that
receives a value, the destination then reads that of the lane that gives it (R66, R132). -/
theorem operand_laneEff (hs : s.Issues x.entry c) (hgd : (x.entry c.w.ctl.mode).gd = true)
    (hb : body c = laneEff x.dest 1 x.value c) (hd : destFault x.dest (x.values c) = none) {l : Nat}
    (hl : l ∈ c.outLanes) (hreg : x.dest.isReg = true) :
    (runWord s x.entry body).operand s.cur l x.dest = BitVec.ofNat 32 (x.value c (c.giver l)).1 := by
  have hput : laneEff x.dest 1 x.value c
      = .done ((c.s.writeDest c.r x.dest 1 (x.values c)).updWarp c.r fun w => w.orFlags (x.flags c)) :=
    (congrArg (fun v : _ × Flags => c.put c.s x.dest 1 v.1 v.2) (Ctx.lanewise_eq c _)).trans (Ctx.put_done hd _ _ _)
  rw [hs.s_eq, hs.r_eq] at hput
  rw [runWord_done hs (hb.trans hput), hs.completes_eq]
  have hu := hs.lanes_of_uni hgd
  have hhas := has_cur hs.toStands
  exact ((hhas.writeDest x.dest 1 _).operand_orFlags_complete _ _ _ _ _ l hreg).trans (hhas.operand_lane hreg hd
    (fun y hy z hz e => (LaneForm.values_giver hu hy).trans ((congrArg (fun m => (x.value c (c.giver m)).1) e).trans
      (LaneForm.values_giver hu hz).symm)) (LaneForm.mem_values hu hl))

/-- UNPK as a lane form. -/
noncomputable def unpackForm (sw : Bool) (d a b : Operand) : LaneForm :=
  { entry := unpacks sw d a b, dest := d, regs := fun _h => 1
    value := fun c l => (widen (ty c) (elem (c.opd l a).toNat (c.opd l b).toNat (wd c)), 0) }

-- The number that a register holds which got an element widened, and that number with its sign.
theorem widened {y : Word} {t u : Nat} (h : y = BitVec.ofNat 32 (widen t u)) : y.toNat = widen t u
    ∧ (t ∈ tyInt ∨ t = 10 ∨ t = 11 → y.toInt % 2 ^ 32 = intVal t u % 2 ^ 32) := by
  have hval : y.toNat = widen t u :=
    (congrArg BitVec.toNat h).trans ((BitVec.toNat_ofNat ..).trans (Nat.mod_eq_of_lt (widen_lt t u)))
  refine ⟨hval, fun ht => (toInt_emod_two_pow y).trans ((congrArg Nat.cast hval).trans ?_)⟩
  have hfmt : tyFmt t = none := ht.elim tyFmt_of_int fun h => h.elim (congrArg tyFmt) (congrArg tyFmt)
  exact (congrArg Nat.cast (eq_of_no_format hfmt _ _)).trans (toNat_emod_two_pow _ 32)

/-- Settles O10: UNPK as a lane form where every index names an element, and its refusal. -/
theorem unpackChecksItsIndex : Obligations.UnpackChecksItsIndex := by
  intro sw d a b s c hs
  refine ⟨fun hidx hd => ⟨runWord s (unpacks sw d a b) (unpkEff d a b), rfl, fun l hl hreg =>
    widened (operand_laneEff (x := unpackForm sw d a b) hs rfl (unpkEff_eq d hidx) hd hl hreg)⟩, fun hidx => ?_⟩
  exact (unpkEff_fault d a hidx).imp fun m hm => congrArg Host.Outcome.next (runWord_fault hs hm)

end Sys2Proof.Claims
end

section
/-!
SUPPORT. The order of exact values, and the conditions that CMP finds of two values (R145).
-/

namespace Sys2Proof.Machine

open Sys2Proof.Claims (signed lies intCond floatCond)

variable {x y : Val} {t k u v : Nat} {f : Fmt}

/-! ## The order of exact values -/

-- Two magnitudes brought to one scale compare as the numbers do.
theorem shiftLeft_lt_iff (m n : Nat) {e g z : Nat} (he : z ≤ e) (hg : z ≤ g) :
    m <<< (e - z) < n <<< (g - z) ↔ m * 2 ^ e < n * 2 ^ g := by
  have hscale (m : Nat) {e : Nat} (h : z ≤ e) : m <<< (e - z) * 2 ^ z = m * 2 ^ e := by
    rw [Nat.shiftLeft_eq, Nat.mul_assoc, ← Nat.pow_add, Nat.sub_add_cancel h]
  rw [← hscale m he, ← hscale n hg]
  exact (Nat.mul_lt_mul_right (Nat.two_pow_pos _)).symm

theorem signed_of_zero {m : Nat} (h : (m == 0) = true) (p : Bool) (e : Nat) : signed p m e = 0 :=
  (congrArg (fun u : Nat => if p = true then -(u : Int) else u) ((congrArg (fun z => z * _) (eq_of_beq h)).trans
    (Nat.zero_mul _))).trans (ite_self _)

-- The order of two finite values, in which the two zeros are equal.
theorem Val.lt_fin (p q : Bool) (m e n g : Nat) :
    Val.lt false (.fin p m e) (.fin q n g) = true ↔ signed p m e < signed q n g := by
  refine iteInduction (motive := fun z : Bool => z = true ↔ signed p m e < signed q n g) (fun h0 => ?_) fun h0 => ?_
  · have hz := Bool.and_eq_true_iff.1 h0
    exact iff_of_false Bool.false_ne_true ((signed_of_zero hz.1 p e).trans (signed_of_zero hz.2 q g).symm).not_lt
  · induction p <;> induction q
    · exact decide_eq_true_iff.trans
        ((shiftLeft_lt_iff m n (Nat.min_le_left ..) (Nat.min_le_right ..)).trans Int.ofNat_lt.symm)
    · exact iff_of_false Bool.false_ne_true
        ((Int.neg_nonpos_of_nonneg (Int.natCast_nonneg _)).trans (Int.natCast_nonneg _)).not_gt
    · have hm {m e : Nat} (h : m * 2 ^ e = 0) : (m == 0) = true :=
        beq_iff_eq.2 ((Nat.mul_eq_zero.1 h).resolve_right (Nat.two_pow_pos e).ne')
      exact iff_of_true rfl (Int.neg_lt_sub_left_of_lt_add (a := (m * 2 ^ e : Nat)) (b := (n * 2 ^ g : Nat)) (c := 0)
        (Int.natCast_pos.2 (Nat.pos_of_ne_zero fun h =>
          h0 (Bool.and_eq_true_iff.2 ((Nat.add_eq_zero_iff.1 h).imp hm hm)))))
    · exact decide_eq_true_iff.trans ((shiftLeft_lt_iff n m (Nat.min_le_right ..) (Nat.min_le_left ..)).trans
        (Int.ofNat_lt.symm.trans Int.neg_lt_neg_iff.symm))

/-- The model's order is that of the numbers, in which no NaN stands. -/
theorem Val.lt_iff_lies (x y : Val) : Val.lt false x y = true ↔ lies x y := by
  induction x with
  | nan => exact iff_of_false Bool.false_ne_true id
  | inf p =>
    induction y with
    | nan => exact iff_of_false Bool.false_ne_true id
    | inf q => exact (by decide : ∀ p q : Bool, (p && !q) = true ↔ p = true ∧ q = false) p q
    | fin q n g => exact Iff.rfl
  | fin p m e =>
    induction y with
    | nan => exact iff_of_false Bool.false_ne_true id
    | inf q => exact Bool.not_eq_true' q ▸ Iff.rfl
    | fin q n g => exact Val.lt_fin p q m e n g

theorem lies_asymm (h : lies x y) (h' : lies y x) : False := by
  induction x with
  | nan => exact h
  | inf p =>
    induction y with
    | nan => exact h
    | inf q => exact Bool.false_ne_true (h.2.symm.trans h'.1)
    | fin q n g => exact Bool.false_ne_true (Eq.trans (Eq.symm h') h)
  | fin p m e =>
    induction y with
    | nan => exact h
    | inf q => exact Bool.false_ne_true (Eq.trans (Eq.symm h) h')
    | fin q n g => exact lt_asymm (a := signed p m e) h h'

-- A NaN is neither below nor above another value.
theorem Val.lt_nan (h : (x.isNan || y.isNan) = true) : Val.lt false x y = false := by
  induction x with
  | nan => rfl
  | _ =>
    induction y with
    | nan => rfl
    | _ => exact Bool.noConfusion h

/-! ## The conditions (R145) -/

/-- A condition of CMP, from whether one value is below the other, equal to it or unordered, and the bits of tst. -/
noncomputable def condOf (k : Nat) (lt eq un bits : Bool) : Bool :=
  match k with
  | 0 => eq
  | 1 => !eq
  | 2 => lt
  | 3 => lt || eq
  | 4 => !(un || lt || eq)
  | 5 => !(un || lt)
  | 6 => un
  | 7 => !un
  | _ => bits

-- What CMP finds of two values of a floating type.
theorem condHolds_flt (h : tyFmt t = some f) (k u v : Nat) : (condHolds k t u v).1 = condOf k
    (Val.lt false (f.decode u) (f.decode v)) (Val.eq (f.decode u) (f.decode v))
    ((f.decode u).isNan || (f.decode v).isNan) (Nat.land u v != 0) :=
  congrArg (fun o : Bool × Bool × Bool => condOf k o.1 o.2.1 o.2.2 (Nat.land u v != 0)) (eq_of_format h _ _)

-- What holds of each of the nine conditions.
theorem cond_cases {P : Nat → Prop} (hk : k ≤ 8) (h0 : P 0) (h1 : P 1) (h2 : P 2) (h3 : P 3) (h4 : P 4) (h5 : P 5)
    (h6 : P 6) (h7 : P 7) (h8 : P 8) : P k :=
  List.forall_iff_forall_mem.1 (show List.Forall P (List.range 9) from ⟨h0, h1, h2, h3, h4, h5, h6, h7, h8⟩) k
    (List.mem_range.2 (Nat.lt_succ_of_le hk))

-- An integer element modulo 2^width is its code.
theorem intVal_emod (hu : u < 2 ^ tyWidth t) : intVal t u % 2 ^ tyWidth t = u := by
  have hcode : (u : Int) % 2 ^ tyWidth t = u :=
    Int.emod_eq_of_lt (Int.natCast_nonneg u) (natCast_two_pow _ ▸ Int.ofNat_lt.2 hu)
  refine iteInduction (motive := fun z : Int => z % 2 ^ tyWidth t = u) (fun _h => ?_) fun _h => hcode
  rw [toSigned_eq]
  exact iteInduction (motive := fun z : Int => z % 2 ^ tyWidth t = u) (fun _h => (Int.sub_emod_right ..).trans hcode)
    fun _h => hcode

theorem condOf_int (hk : k ≤ 8) (x y : Int) (bits : Bool) :
    condOf k (decide (x < y)) (decide (x = y)) false bits = intCond k x y bits := by
  have hle : (decide (x < y) || decide (x = y)) = decide (x ≤ y) :=
    (Bool.decide_or _ _).symm.trans (decide_eq_decide.2 le_iff_lt_or_eq.symm)
  refine cond_cases (P := fun k => condOf k _ _ _ _ = intCond k x y bits) hk rfl decide_not.symm rfl hle
    ?_ ?_ rfl rfl rfl
  · exact (congrArg not hle).trans (decide_not.symm.trans (decide_eq_decide.2 not_le))
  · exact decide_not.symm.trans (decide_eq_decide.2 not_lt)

-- What CMP finds of two integers.
theorem condHolds_int (hk : k ≤ 8) (ht : tyFmt t = none) (hu : u < 2 ^ tyWidth t) (hv : v < 2 ^ tyWidth t) :
    (condHolds k t u v).1 = intCond k (intVal t u) (intVal t v) (Nat.land u v != 0) := by
  have heq : (u == v) = decide (intVal t u = intVal t v) :=
    (beq_eq_decide ..).trans (decide_eq_decide.2 ⟨congrArg _, fun h => Int.ofNat_inj.1
      ((intVal_emod hu).symm.trans ((congrArg (fun z => z % (2 : Int) ^ tyWidth t) h).trans (intVal_emod hv)))⟩)
  exact (congrArg (fun o : Bool × Bool × Bool => condOf k o.1 o.2.1 o.2.2 (Nat.land u v != 0))
    (eq_of_no_format ht _ _)).trans ((congrArg (fun z => condOf k _ z false _) heq).trans (condOf_int hk _ _ _))

theorem condOf_nan (hk : k ≤ 8) (h8 : k ≠ 8) (h : (x.isNan || y.isNan) = true) (bits : Bool) :
    condOf k (Val.lt false x y) (Val.eq x y) (x.isNan || y.isNan) bits = (k == 1 || k == 6) := by
  have heq : Val.eq x y = false := congrArg (fun z => z && _ && _) ((Bool.not_or ..).symm.trans (congrArg not h))
  rw [heq, Val.lt_nan h, h]
  exact (by decide : ∀ k < 8, ∀ bits, condOf k false false true bits = (k == 1 || k == 6)) k
    (Nat.lt_of_le_of_ne hk h8) _

theorem condOf_float (hk : k ≤ 8) (h8 : k ≠ 8) (h : (x.isNan || y.isNan) = false) (bits : Bool) :
    condOf k (Val.lt false x y) (Val.eq x y) (x.isNan || y.isNan) bits = true ↔ floatCond k x y := by
  have heq : Val.eq x y = (!Val.lt false x y && !Val.lt false y x) :=
    congrArg (fun z => z && _ && _) ((Bool.not_or ..).symm.trans (congrArg not h))
  have hp := Val.lt_iff_lies x y
  have hq := Val.lt_iff_lies y x
  have hone : ¬ (Val.lt false x y = true ∧ Val.lt false y x = true) := fun h => lies_asymm (hp.1 h.1) (hq.1 h.2)
  rw [h, heq]
  generalize Val.lt false x y = p, Val.lt false y x = q at *
  have hle : (p || (!p && !q)) = !q := (by decide : ∀ p q, ¬ (p = true ∧ q = true) → (p || (!p && !q)) = !q) p q hone
  have hnot (r : Bool) : (!r) = true ↔ ¬ r = true :=
    .of_eq ((Bool.not_eq_true' r).trans (Bool.not_eq_true r).symm)
  refine cond_cases (P := fun k => k ≠ 8 → (condOf k p (!p && !q) false bits = true ↔ floatCond k x y)) hk
    (fun _h => ?_) (fun _h => ?_) (fun _h => hp) (fun _h => ?_) (fun _h => ?_) (fun _h => ?_) (fun _h => ?_)
    (fun _h => ?_) (fun h => absurd rfl h) h8
  · exact (Bool.and_eq_true_iff).trans (and_congr ((hnot p).trans (not_congr hp)) ((hnot q).trans (not_congr hq)))
  · exact ((by decide : ∀ p q : Bool, (!(!p && !q)) = true ↔ p = true ∨ q = true) p q).trans (or_congr hp hq)
  · exact (Bool.eq_iff_iff.1 hle).trans ((hnot q).trans (not_congr hq))
  · exact (Bool.eq_iff_iff.1 ((congrArg not hle).trans (Bool.not_not q))).trans hq
  · exact (hnot p).trans (not_congr hp)
  · exact iff_of_false Bool.false_ne_true id
  · exact iff_of_true rfl trivial

end Sys2Proof.Machine
end

section
/-!
SUPPORT. CMP (R145): the predicate and the flag that it leaves.
-/

namespace Sys2Proof.Claims

open Sys2Proof.Machine

variable {s t : State} {c : Ctx} {sw : Bool} {cond : BitVec 4} {pd : BitVec 3} {a b : Operand}

-- The flags of a run of lanes, each of which may set NV.
theorem foldl_nv {g : Nat → Flags} {p : Nat → Bool} {x : Bool} (hg : ∀ l, g l = if p l && x then Flags.nv else 0)
    (ls : List Nat) (q : Bool) : ls.foldl (fun f l => f ||| g l) (if q && x then Flags.nv else 0)
      = if (q || ls.any p) && x then Flags.nv else 0 := by
  induction ls generalizing q with
  | nil => exact congrArg (fun z : Bool => if z && x then Flags.nv else 0) (Bool.or_false q).symm
  | cons l ls ih =>
    have hor : ∀ q r x : Bool, ((if q && x then Flags.nv else 0) ||| if r && x then Flags.nv else 0)
        = if (q || r) && x then Flags.nv else 0 := by decide
    exact (congrArg (fun z => List.foldl _ z ls) ((congrArg (fun z => _ ||| z) (hg l)).trans (hor q (p l) x))).trans
      ((ih _).trans (congrArg (fun z : Bool => if z && x then Flags.nv else 0) (Bool.or_assoc ..)))

/-- What CMP finds in a lane. -/
noncomputable def found (c : Ctx) (cond : BitVec 4) (a b : Operand) (l : Nat) : Bool × Flags :=
  condHolds cond.toNat (ty c) (c.val l a (regs c)) (c.val l b (regs c))

theorem unordered_eq (o : Option Fmt) (f : Fmt → Bool × Bool × Bool) (lt eq : Bool) :
    (match o with | some g => f g | none => (lt, eq, false)).2.2
      = match o with | some g => (f g).2.2 | none => false := by
  induction o <;> rfl

-- NV is raised where a lane compares a NaN for order.
theorem found_snd (c : Ctx) (cond : BitVec 4) (a b : Operand) (l : Nat) : (found c cond a b l).2
    = if nanIn c l a b && (decide (2 ≤ cond.toNat) && decide (cond.toNat ≤ 5)) then Flags.nv else 0 :=
  congrArg (fun un : Bool => if un then Flags.nv else 0) ((congrArg (fun z => z && _ && _)
    (unordered_eq (tyFmt (ty c)) _ _ _)).trans (Bool.and_assoc ..))

theorem found_flags (c : Ctx) (cond : BitVec 4) (a b : Operand) (st : Word) :
    statusOr st (c.lanes.foldl (fun f l => f ||| (found c cond a b l).2) 0) = st |||
      if (c.lanes.any fun l => nanIn c l a b) ∧ 2 ≤ cond.toNat ∧ cond.toNat ≤ 5 then 1 else 0 :=
  congrArg (fun z => st ||| z) ((congrArg (BitVec.setWidth 32) (foldl_nv (found_snd c cond a b) c.lanes false)).trans
    ((apply_ite (BitVec.setWidth 32) ..).trans (ite_congr (propext (Bool.and_eq_true_iff.trans (and_congr .rfl
      (Bool.and_eq_true_iff.trans (and_congr decide_eq_true_iff decide_eq_true_iff))))) (fun _h => rfl) fun _h => rfl)))

-- CMP writes its predicate, and raises the flags of the lanes of C.
theorem runWord_cmp (hs : s.Issues (compares sw cond pd a b) c) :
    runWord s (compares sw cond pd a b) (cmpEff cond pd a b)
      = ((s.writePred s.cur pd.toNat (c.lanes.map fun l => (l, (found c cond a b l).1))).updWarp s.cur
        fun w => w.orFlags (c.lanes.foldl (fun f l => f ||| (found c cond a b l).2) 0)).complete s.cur c.g
          (compares sw cond pd a b c.mode) c.w.ctl.pc none := by
  have hrun := (runWord_done (body := cmpEff cond pd a b) hs rfl).trans (hs.completes_eq ..)
  rwa [hs.s_eq, hs.r_eq] at hrun

-- Under a type of one element, that element is the whole value (R54).
theorem val_lt_width {c : Ctx} (ht : ty c < 6) (l : Nat) (o : Operand) : c.val l o (regs c) < 2 ^ wd c :=
  (c.val_lt l o (regs c)).trans_eq (congrArg (fun z => 2 ^ z) (if_pos ht).symm)

theorem intVal_val {c : Ctx} (ht : ty c < 6) (l : Nat) (o : Operand) :
    intVal (ty c) (c.val l o (regs c)) = num c l o 0 :=
  (congrArg (intVal (ty c)) ((congrArg (fun z => z % 2 ^ wd c) (Nat.div_one _)).trans
    (Nat.mod_eq_of_lt (val_lt_width ht l o)))).symm.trans (intVal_el c l o 0)

theorem cond_le (hs : s.Issues (compares sw cond pd a b) c) : cond.toNat ≤ 8 :=
  of_decide_eq_true (Entry.codes_modeOk hs.legal).1

-- What CMP finds of two integers.
theorem found_int (hs : s.Issues (compares sw cond pd a b) c) (ht : ty c ∈ tyInt) (l : Nat) : (found c cond a b l).1
    = intCond cond.toNat (num c l a 0) (num c l b 0) (Nat.land (c.val l a (regs c)) (c.val l b (regs c)) != 0) := by
  have hty : ty c < 6 := (by decide : ∀ t ∈ [0, 1, 2, 3, 4, 5], t < 6) _ (ty_mem_of_issues (fun _h => rfl) hs)
  exact (condHolds_int (cond_le hs) (tyFmt_of_int ht) (val_lt_width hty l a) (val_lt_width hty l b)).trans
    (congrArg₂ (fun z y => intCond _ z y _) (intVal_val hty l a) (intVal_val hty l b))

-- What CMP finds of a NaN.
theorem found_nan (hs : s.Issues (compares sw cond pd a b) c) (h8 : cond ≠ 8) {l : Nat} (hn : nanIn c l a b = true) :
    (found c cond a b l).1 = (cond == 1 || cond == 6) := by
  delta nanIn at hn
  induction hf : tyFmt (ty c) with
  | none => rw [hf] at hn; exact absurd hn Bool.false_ne_true
  | some f =>
    rw [hf] at hn
    exact (condHolds_flt hf ..).trans ((condOf_nan (cond_le hs) (fun he => h8 (BitVec.eq_of_toNat_eq he)) hn _).trans
      ((by decide : ∀ k : BitVec 4, (k.toNat == 1 || k.toNat == 6) = (k == 1 || k == 6)) cond))

-- What CMP finds of two floating values.
theorem found_float (hs : s.Issues (compares sw cond pd a b) c) (h8 : cond ≠ 8) {l : Nat} (hn : nanIn c l a b = false)
    {f : Fmt} (hf : tyFmt (ty c) = some f) : (found c cond a b l).1 = true
      ↔ floatCond cond.toNat (f.decode (c.val l a (regs c))) (f.decode (c.val l b (regs c))) := by
  delta nanIn at hn
  rw [hf] at hn
  exact (Bool.eq_iff_iff.1 (condHolds_flt hf ..)).trans (condOf_float (cond_le hs)
    (fun he => h8 (BitVec.eq_of_toNat_eq he)) hn _)

-- The predicates that CMP leaves.
theorem predOf_cmp (hs : s.Issues (compares sw cond pd a b) c) (l : Nat) {k : Nat} (hk : k < 8) :
    predOf (runWord s (compares sw cond pd a b) (cmpEff cond pd a b)) l k
      = if l ∈ c.lanes ∧ k = pd.toNat then (found c cond a b l).1 else predOf s l k := by
  have hp : pd.toNat ≠ 0 := fun h0 =>
    beq_eq_false_iff_ne.1 (Entry.p0_eq_false hs.legal : (pd == 0) = false) (BitVec.eq_of_toNat_eq h0)
  rw [hs.predOf_eq hk]
  exact State.Finds.predOf_writePred (.intro hs.warp hs.grid rfl)
    (P := fun w => (if l ∈ c.lanes ∧ k = pd.toNat then (found c cond a b l).1 else w.pred l k)
      = if l ∈ c.lanes ∧ k = pd.toNat then (found c cond a b l).1 else c.w.pred l k) (fun _w hw => hw)
    rfl hp hk (runWord_cmp hs)

theorem predOf_cmp_of_mem (hs : s.Issues (compares sw cond pd a b) c) {l : Nat} (hl : l ∈ c.lanes) :
    predOf (runWord s (compares sw cond pd a b) (cmpEff cond pd a b)) l pd.toNat = (found c cond a b l).1 :=
  (predOf_cmp hs l pd.isLt).trans (if_pos ⟨hl, rfl⟩)

/-- Settles O9: the predicate by the condition of each kind of values, and %status by its flag. -/
theorem compareWritesItsPredicate : Obligations.CompareWritesItsPredicate := by
  intro sw cond pd a b s c hs
  exact ⟨runWord s (compares sw cond pd a b) (cmpEff cond pd a b), rfl, State.cur_writePred (runWord_cmp hs),
    fun l k hk hn => (predOf_cmp hs l hk).trans (if_neg hn),
    fun l hl ht => (predOf_cmp_of_mem hs hl).trans (found_int hs ht l),
    fun l hl hn hc => (predOf_cmp_of_mem hs hl).trans (found_nan hs hc hn),
    fun l hl hn hc f hf => (Bool.eq_iff_iff.1 (predOf_cmp_of_mem hs hl)).trans (found_float hs hc hn hf),
    fun l hl hc => (predOf_cmp_of_mem hs hl).trans
      (congrArg (fun k => (condHolds k _ _ _).1) (congrArg BitVec.toNat hc)),
    fun hsw => (State.Finds.status_writePred (.intro (P := (fun z => z = c.w)) hs.warp hs.grid rfl)
      (fun w h => congrArg (fun z => z.ctl.status) h) hsw (runWord_cmp hs)).trans (found_flags ..)⟩

end Sys2Proof.Claims
end

section
/-!
SUPPORT. Counts of bits, reversed bits and bit fields (R143, R144).
-/

namespace Sys2Proof.Machine

variable {w x y k p q lo : Nat}

/-! ## Counts and reversal (R143) -/

theorem leadingZeros_le (w x : Nat) : leadingZeros w x ≤ w :=
  iteInduction (motive := (fun z => z ≤ w)) (fun _h => le_rfl) fun _h => (Nat.sub_le ..).trans (Nat.sub_le ..)

/-- The leading zeros of a value end at its highest 1 bit. -/
theorem leadingZeros_spec (hx : x < 2 ^ w) (hy : y = leadingZeros w x) : y ≤ w
    ∧ (∀ k, k < y → x.testBit (w - 1 - k) = false) ∧ (y < w → x.testBit (w - 1 - y) = true) := by
  refine ⟨hy.trans_le (leadingZeros_le w x), ?_⟩
  by_cases h0 : x = 0
  · refine ⟨fun k _h => h0 ▸ Nat.zero_testBit _, fun h => absurd h (hy.trans (if_pos (beq_iff_eq.2 h0))).not_lt⟩
  · obtain rfl : y = w - 1 - x.log2 := hy.trans (if_neg (mt eq_of_beq h0))
    refine ⟨fun k hk => Nat.testBit_lt_two_pow ((Nat.log2_lt h0).1 (lt_tsub_comm.1 hk)), fun _h => ?_⟩
    rw [Nat.sub_sub_self (Nat.le_sub_one_of_lt ((Nat.log2_lt h0).2 hx))]
    exact Nat.testBit_log2 h0

-- A bit put below a value, in a place from the top.
theorem add_bit (b : Bool) (m q : Nat) :
    (if b then 2 ^ (m + 1) * q + 2 ^ m else 2 ^ (m + 1) * q) = 2 ^ m * Nat.bit b q := by
  rw [Nat.pow_succ, Nat.mul_assoc]
  induction b <;> rfl

/-- The first `n` bits of a value, in reverse order, stand from the top down with 0 below them. -/
theorem foldl_reversed (x : Nat) {w n m : Nat} (h : n + m = w) :
    (List.range n).foldl (fun acc i => if x.testBit i then acc + 2 ^ (w - 1 - i) else acc) 0
      = 2 ^ m * (List.range n).foldl (fun q i => Nat.bit (x.testBit i) q) 0 := by
  induction n generalizing m with
  | zero => rfl
  | succ n ih =>
    have hstep : w - 1 - n = m :=
      (congrArg (fun z => z - 1 - n) (h.symm.trans (Nat.add_right_comm n 1 m))).trans (Nat.add_sub_cancel_left n m)
    rw [List.range_succ, List.foldl_append, List.foldl_append, ih ((Nat.succ_add_eq_add_succ n m).symm.trans h),
      List.foldl_cons, hstep]
    exact add_bit ..

-- Each stands in its place from the end.
theorem testBit_foldl_bit (x : Nat) {n k j : Nat} (h : k + j + 1 = n) :
    ((List.range n).foldl (fun q i => Nat.bit (x.testBit i) q) 0).testBit j = x.testBit k := by
  induction n generalizing j with
  | zero => exact absurd h (Nat.succ_ne_zero _)
  | succ n ih =>
    rw [List.range_succ, List.foldl_append]
    induction j with
    | zero => exact (Nat.testBit_bit_zero ..).trans (congrArg x.testBit (Nat.succ.inj h).symm)
    | succ j => exact (Nat.testBit_bit_succ ..).trans (ih (Nat.succ.inj h))

-- BREV puts each bit in its place from the other end.
theorem testBit_reverseBits (hk : k < w) : (reverseBits w x).testBit (w - 1 - k) = x.testBit k :=
  (congrArg (fun z => Nat.testBit z (w - 1 - k)) ((foldl_reversed x (Nat.add_zero w)).trans (Nat.one_mul _))).trans
    (testBit_foldl_bit x ((congrArg (fun z => z + 1) (Nat.add_sub_of_le (Nat.le_sub_one_of_lt hk))).trans
      (Nat.sub_add_cancel (Nat.zero_lt_of_lt hk))))

/-! ## Bit fields (R144) -/

theorem testBit_field (a p q k : Nat) : (a / 2 ^ p % 2 ^ q).testBit k = (decide (k < q) && a.testBit (p + k)) := by
  rw [Nat.testBit_mod_two_pow, Nat.testBit_div_two_pow, Nat.add_comm]

-- A field filled with 1 bits to the width.
theorem testBit_filled (hy : y < 2 ^ q) (hq : q ≤ w) (hk : k < w) :
    (y + 2 ^ w - 2 ^ q).testBit k = if k < q then y.testBit k else true := by
  obtain ⟨j, rfl⟩ := Nat.exists_eq_add_of_le hq
  rw [Nat.add_comm, Nat.sub_add_comm (Nat.pow_le_pow_right Nat.two_pos hq), Nat.pow_add, ← Nat.mul_sub_one,
    Nat.testBit_two_pow_mul_add _ hy, Nat.testBit_two_pow_sub_one]
  exact ite_congr rfl (fun _h => rfl) fun h => decide_eq_true (Nat.sub_lt_left_of_lt_add (not_lt.1 h) hk)

/-- A field of `q` bits from `p` on, filled with 0 or its sign. -/
theorem testBit_extract (signed : Bool) (a p : Nat) (h0 : q ≠ 0) (hq : q ≤ w) (hk : k < w) :
    (if signed && signBit q (a / 2 ^ p % 2 ^ q) then a / 2 ^ p % 2 ^ q + 2 ^ w - 2 ^ q else a / 2 ^ p % 2 ^ q).testBit k
    = if k < q then a.testBit (p + k) else signed && a.testBit (p + q - 1) := by
  have hsign : signBit q (a / 2 ^ p % 2 ^ q) = a.testBit (p + q - 1) := by
    rw [signBit_eq, testBit_field, decide_eq_true (Nat.sub_one_lt h0), Nat.add_sub_assoc (Nat.pos_of_ne_zero h0)]
    rfl
  rw [hsign]
  induction signed && a.testBit (p + q - 1)
  · exact (testBit_field ..).trans (Bool.if_false_right ..).symm
  · exact (testBit_filled (Nat.mod_lt _ (Nat.two_pow_pos q)) hq hk).trans (ite_congr rfl
      (fun h => (testBit_field ..).trans (congrArg (fun z => z && _) (decide_eq_true h))) fun _h => rfl)

-- BFX: a field beyond the width, or of no bits, is 0.
theorem testBit_bfxOp (signed : Bool) (a b : Nat) (hk : k < w) : (bfxOp signed w a b).testBit k
    = if w ≤ b % 256 ∨ min (b / 256 % 256) (w - b % 256) = 0 then false
      else if k < min (b / 256 % 256) (w - b % 256) then a.testBit (b % 256 + k)
      else signed && a.testBit (b % 256 + min (b / 256 % 256) (w - b % 256) - 1) :=
  (apply_ite (fun z => Nat.testBit z k) ..).trans (ite_congr
    (propext ((Bool.or_eq_true_iff).trans (or_congr decide_eq_true_iff beq_iff_eq))) (fun _h => Nat.zero_testBit k)
    fun h => testBit_extract signed a _ (mt .inr h) ((Nat.min_le_right ..).trans (Nat.sub_le ..)) hk)

theorem replace_field (P Q u y z lo : Nat) : P * (Q * u + y) + lo - y * P + z * P = P * (Q * u + z) + lo := by
  rw [Nat.mul_add, Nat.mul_comm y, Nat.add_right_comm, Nat.add_sub_cancel, Nat.mul_comm z, Nat.add_right_comm,
    ← Nat.mul_add]

-- The bits of a value that holds the field `y`.
theorem testBit_fields (hlo : lo < 2 ^ p) (hy : y < 2 ^ q) (u k : Nat) : (2 ^ p * (2 ^ q * u + y) + lo).testBit k
    = if k < p then lo.testBit k else if k - p < q then y.testBit (k - p) else u.testBit (k - p - q) := by
  rw [Nat.testBit_two_pow_mul_add _ hlo, Nat.testBit_two_pow_mul_add _ hy]

/-- A value with `q` bits from `p` on replaced by others. -/
theorem testBit_insert (d a p q k : Nat) : (d - d / 2 ^ p % 2 ^ q * 2 ^ p + a % 2 ^ q * 2 ^ p).testBit k
    = if p ≤ k ∧ k < p + q then a.testBit (k - p) else d.testBit k := by
  have hd : 2 ^ p * (2 ^ q * (d / 2 ^ p / 2 ^ q) + d / 2 ^ p % 2 ^ q) + d % 2 ^ p = d := by
    rw [Nat.div_add_mod, Nat.div_add_mod]
  have hlo := Nat.mod_lt d (Nat.two_pow_pos p)
  have hfield (z : Nat) : z % 2 ^ q < 2 ^ q := Nat.mod_lt _ (Nat.two_pow_pos q)
  refine (congrArg (fun z => Nat.testBit z k)
    ((congrArg (fun z => z - d / 2 ^ p % 2 ^ q * 2 ^ p + a % 2 ^ q * 2 ^ p) hd).symm.trans (replace_field ..))).trans
    (iteInduction (motive := Eq _) (fun hin => ?_) fun hout => ?_)
  · have hk := Nat.sub_lt_left_of_lt_add hin.1 hin.2
    exact (testBit_fields hlo (hfield a) _ k).trans ((if_neg hin.1.not_gt).trans ((if_pos hk).trans
      ((Nat.testBit_mod_two_pow ..).trans (congrArg (fun z => z && _) (decide_eq_true hk)))))
  · refine (testBit_fields hlo (hfield a) _ k).trans ((ite_congr rfl (fun _h => rfl) fun h => ?_).trans
      ((testBit_fields hlo (hfield _) _ k).symm.trans (congrArg (fun z => Nat.testBit z k) hd)))
    have hk : ¬ k - p < q := fun hk => hout ⟨not_lt.1 h, (Nat.sub_lt_iff_lt_add' (not_lt.1 h)).1 hk⟩
    exact (if_neg hk).trans (if_neg hk).symm

-- BFI: a field beyond the width, or of no bits, changes nothing.
theorem testBit_bfiOp (w d a b k : Nat) : (bfiOp w d a b).testBit k
    = if b % 256 ≤ k ∧ k < b % 256 + min (b / 256 % 256) (w - b % 256) then a.testBit (k - b % 256)
      else d.testBit k := by
  refine iteInduction (motive := fun z : Nat => z.testBit k = _) (fun h => (if_neg fun hin => ?_).symm) fun _h =>
    testBit_insert d a _ _ k
  have h0 : min (b / 256 % 256) (w - b % 256) = 0 := (Bool.or_eq_true_iff.1 h).elim (fun hw => Nat.le_zero.1
    ((Nat.min_le_right ..).trans_eq (Nat.sub_eq_zero_of_le (of_decide_eq_true hw)))) eq_of_beq
  exact (hin.2.trans_eq (congrArg (fun z => b % 256 + z) h0)).not_ge hin.1

end Sys2Proof.Machine

namespace Sys2Proof.Claims

open Sys2Proof.Machine

-- A count of at most 64 fits its register.
theorem count_fits {c : Ctx} {n : Nat} (h : n ≤ 32 * regs c) : n % 2 ^ (32 * 1) = n := by
  have hregs : regs c ≤ 2 := (regs_eq c).trans_le
    (iteInduction (motive := (fun z => z ≤ 2)) (fun _h => le_rfl) fun _h => one_le_two)
  exact Nat.mod_eq_of_lt (h.trans_lt ((Nat.mul_le_mul_left 32 hregs).trans_lt (by decide)))

/-- Settles O6: each word by its count or its bits. -/
theorem bitFieldWords : Obligations.BitFieldWords := by
  intro sw d a b
  refine ⟨gives_form rfl fun c l => count_fits ((List.length_filter_le ..).trans_eq List.length_range),
    gives_form rfl fun c l => leadingZeros_spec (c.val_lt l a (regs c)) (count_fits (leadingZeros_le ..)),
    gives_form rfl fun c l k hk => ?_,
    gives_bits rfl rfl fun c l k hk => testBit_bfxOp _ _ _ hk,
    gives_bits rfl rfl fun c l k _h => testBit_bfiOp _ _ _ _ _,
    List.forall_iff_forall_mem.1 (show _ ∧ _ ∧ _ ∧ _ ∧ _ from ⟨?_, ?_, ?_, ?_, ?_⟩), rfl, rfl, rfl, rfl, rfl⟩
  · exact (Nat.testBit_mod_two_pow ..).trans ((congrArg (fun z => z && _) (decide_eq_true ((Nat.sub_le ..).trans_lt
      (Nat.sub_one_lt_of_lt hk)))).trans (testBit_reverseBits hk))
  all_goals exact accepts_of_form rfl (fun _h => rfl) fun _h _h => rfl

end Sys2Proof.Claims
end
